-- ==== Sys2Proof/Word.lean ====
section
/-! DEFINITION. The word types and their plainest arithmetic (spec 00 R4: little-endian, bit 0 least significant). -/

namespace Sys2Proof

/-- A byte of memory. -/
abbrev Byte := BitVec 8

/-- The contents of one vector register (03 R71). -/
abbrev Word := BitVec 32

/-- A slot word, an address or a 64-bit value (02 R22, 00 R5). -/
abbrev DWord := BitVec 64

/-- The number held in bits [hi:lo] of `n` (00 R4). -/
def bits (n hi lo : Nat) : Nat := n / 2 ^ lo % 2 ^ (hi + 1 - lo)

/-- `q` rounded up to a multiple of `m`, as a count: ⌈q ÷ m⌉. -/
def ceilDiv (q m : Nat) : Nat := (q + m - 1) / m

end Sys2Proof
end

