-- ==== Sys2Proof/Syntax.lean ====
section
/-! DEFINITION. The instruction words of Strelrek version 1 (spec 02 R51) and the events of the package's other
agents, one constructor of `Instr` for each row of spec/opcode_table.json. -/

namespace Sys2Proof

/-! ## Names that fields of the words select -/

/-- Format tags, in the order of their codes (03 R71). -/
inductive Tag where
  | raw | i32 | f32 | h16x2 | i16x2 | i8x4 | t8x4 | t6p | w64 | stat
  deriving DecidableEq, Repr, Inhabited

/-- Special values, indices 64 to 77 of the constant level (02 R44). -/
inductive Special where
  | lane | strand | hank | braid | core | die | pkg | fp | depth | clk | nhank | nstrand | imask | nbpos
  deriving DecidableEq, Repr, Inhabited

/-- A 10-bit source field (02 R40). -/
inductive Src where
  | v (n : Nat)
  | o (n : Nat)
  | ll
  | const (i : Nat)
  | special (x : Special)
  deriving DecidableEq, Repr, Inhabited

/-- A source read as 64 bits: a main-level pair or a constant standing for one (02 R40, R43). -/
inductive PairSrc where
  | v (n : Nat)
  | const (i : Nat)
  deriving DecidableEq, Repr, Inhabited

/-- The predicate fields pi and pr (02 R32). -/
structure Pred where
  inv : Bool
  reg : Nat
  deriving DecidableEq, Repr, Inhabited

/-- Predicate, destination and capture of a format A word (02 R33, R41). -/
structure DstA where
  pred : Pred
  d : Nat
  cap : Option Nat
  deriving DecidableEq, Repr, Inhabited

/-- Predicate, completion slot and lookahead of a long-latency word (02 R35). Slot 15 names none; look 15 is unbounded. -/
structure Long where
  pred : Pred
  slot : Nat
  look : Nat
  deriving DecidableEq, Repr, Inhabited

/-- The four rounding directions (03 R54). -/
inductive Rm where
  | rne | rz | ru | rd
  deriving DecidableEq, Repr, Inhabited

/-- The rounding codes of conversions and drains (08 R164). -/
inductive Rnd where
  | rne | rz | ru | rd | ef | sr
  deriving DecidableEq, Repr, Inhabited

/-- Element width of the integer instructions (08 R147). -/
inductive IWidth where
  | w32 | w16 | w8
  deriving DecidableEq, Repr, Inhabited

/-- The fn layout of R147: saturation, reading and width. -/
structure IntForm where
  sat : Bool
  natural : Bool
  width : IWidth
  deriving DecidableEq, Repr, Inhabited

/-- Conditions of `cmp` (08 R153). -/
inductive Cond where
  | eq | ne | ltS | leS | gtS | geS | ltN | leN | gtN | geN
  deriving DecidableEq, Repr, Inhabited

/-- Conditions of `fcmp` and `hcmp` (08 R159). -/
inductive FCond where
  | eq | ne | lt | le | gt | ge | un | ord
  deriving DecidableEq, Repr, Inhabited

/-- Formats of `pack` and `unpack` (08 R167). -/
inductive PackFmt where
  | h16x2 | i16x2 | t8x4 | i8x4
  deriving DecidableEq, Repr, Inhabited

/-- Conversion formats (08 R164). -/
inductive CvtFmt where
  | s32 | n32 | f32 | h16 | s16 | n16 | s8 | n8 | t8 | t6
  deriving DecidableEq, Repr, Inhabited

/-- Modes of `shfl` (07 R138). -/
inductive ShflMode where
  | idx | up | down | xor
  deriving DecidableEq, Repr, Inhabited

/-- Modes of `vote` (07 R139). -/
inductive VoteMode where
  | all | any | uni
  deriving DecidableEq, Repr, Inhabited

/-- Op codes of scans and reductions (07 R140). -/
inductive FoldOp where
  | add | fadd | minS | maxS | minN | maxN | and | or
  deriving DecidableEq, Repr, Inhabited

/-- Scopes, in the order of their codes (10 R192, 00 R6). -/
inductive Scope where
  | b | c | cl | nb | d | p | dm | sy
  deriving DecidableEq, Repr, Inhabited

/-- Order of an atomic or exact-cell instruction (10 R192). -/
inductive AtomOrder where
  | plain
  | acq (x : Scope)
  | rel (x : Scope)
  | ar (x : Scope)
  deriving DecidableEq, Repr, Inhabited

/-- Cache hints (10 R187). -/
inductive Hint where
  | normal | ro | st | keep
  deriving DecidableEq, Repr, Inhabited

/-- An address with an offset: `[vA:vA+1+b]` or `[a+b]` (10 R180, R181). -/
inductive Addr where
  | g (pair : Nat) (off : Src)
  | s (base off : Src)
  deriving DecidableEq, Repr, Inhabited

/-- An address without an offset, as the atomics name it (10 R192). -/
inductive Place where
  | g (pair : Nat)
  | s (a : Src)
  deriving DecidableEq, Repr, Inhabited

/-- Kinds of `ld` (10 R193). -/
inductive LdKind where
  | s8 | z8 | s16 | z16 | b64
  | b32 (t : Tag)
  | b128 (t : Tag)
  deriving DecidableEq, Repr, Inhabited

/-- Kinds of `st` (10 R193). -/
inductive StKind where
  | b8 | b16 | b32 | b64 | b128
  deriving DecidableEq, Repr, Inhabited

/-- Bank modes, in the order of the codes that `bankset` reports (10 R182, R204). -/
inductive BankMode where
  | cache | scratch | fifo
  deriving DecidableEq, Repr, Inhabited

/-- Levels of `pref` (10 R202). -/
inductive PrefLevel where
  | cl | dc | keep
  deriving DecidableEq, Repr, Inhabited

/-- Operations of `atom` (10 R205). -/
inductive AtomOp where
  | add | sub | minS | minN | maxS | maxN | and | or | xor | exch | inc
  deriving DecidableEq, Repr, Inhabited

/-- Operand of `atom` and `cas`: 32 bits or 64 bits (10 R205). -/
inductive AtomArg where
  | b32 (b : Src)
  | b64 (b : PairSrc)
  deriving DecidableEq, Repr, Inhabited

/-- Kinds of fence (11 R225). -/
inductive FenceKind where
  | acq | rel | ar
  deriving DecidableEq, Repr, Inhabited

/-- Contraction formats, in the order of their fn codes (02 R50). -/
inductive TileFmt where
  | t6 | t8 | h16 | i8
  deriving DecidableEq, Repr, Inhabited

/-- A tile as a word names it: knot slot K and tile slot T (14 R262). -/
structure TileRef where
  k : Nat
  t : Nat
  deriving DecidableEq, Repr, Inhabited

/-- Drain formats (14 R270). -/
inductive DrainFmt where
  | f32 | h16 | t8 | t6 | s8 | n8 | s32 | n32
  deriving DecidableEq, Repr, Inhabited

/-- What a copy command's completion also reaches (15 R285). -/
inductive Attach where
  | nothing
  | barrier (b : Nat)
  | closure (k : Nat)
  deriving DecidableEq, Repr, Inhabited

/-- Formats of `aquant` (16 R304). -/
inductive QuantFmt where
  | h16 | t8 | t6 | s8 | n8
  deriving DecidableEq, Repr, Inhabited

/-- Forms of `aget` (16 R306). -/
inductive AgetForm where
  | c | e | lo | hi
  deriving DecidableEq, Repr, Inhabited

/-- Entry operand of `cap`: a pair, or the literal of an extension word (17 R318). -/
inductive CapEntry where
  | pair (n : Nat)
  | literal (x : DWord)
  deriving DecidableEq, Repr, Inhabited

/-- Forms of `kinfo` (17 R318). -/
inductive KinfoForm where
  | h | s | e
  deriving DecidableEq, Repr, Inhabited

/-- Operand of `movx`: a tagged 32-bit literal or a 64-bit pair (08 R146). The whole extension word is kept. -/
inductive MovxForm where
  | tagged (t : Tag)
  | pair
  deriving DecidableEq, Repr, Inhabited

/-- Forms of `movi` (08 R145). -/
inductive MoviForm where
  | s | n | f32
  deriving DecidableEq, Repr, Inhabited

/-- Deadline of `sleep` (18 R342). -/
inductive Deadline where
  | abs (a : PairSrc)
  | rel (a : Src)
  deriving DecidableEq, Repr, Inhabited

/-- Operand of `amode` (16 R306). -/
inductive AmodeForm where
  | get
  | set (a : Src)
  deriving DecidableEq, Repr, Inhabited

/-! ## Operands of events -/

/-- A place for one hank, as the dispatcher chose it (06 R102): the core, one braid slot (quarter × 16 + place) for
each braid of the hank, and the package numbers of its banks in ascending order. -/
structure Seat where
  core : Nat
  slots : List Nat
  banks : List Nat
  deriving DecidableEq, Repr, Inhabited

/-- What one die's sensors report in a telemetry sample (20 R361). `temp` is in units of 1/16 °C. -/
structure Sensors where
  power : Nat
  current : Nat
  volt : Nat
  temp : Int
  deriving DecidableEq, Repr, Inhabited

/-- An image at a location that boot reads (20 R366): its digest, its version, and whether its Ed25519 and its ML-DSA-65 signature
over the whole image are valid against the keys in ROM. -/
structure BootImage where
  /-- the queue engine firmware, rather than the Gladin firmware -/
  engine : Bool
  digest : Nat
  version : Nat
  ed25519 : Bool
  mlDsa : Bool
  deriving DecidableEq, Repr, Inhabited

/-- A host access to BAR 4 (19 R355): a read of `len` bytes, or a write of `data`. -/
inductive HbmAccess where
  | read (addr len : Nat)
  | write (addr : Nat) (data : List Byte)
  deriving DecidableEq, Repr, Inhabited

/-- What a walk is made for (09 R176): the core, the context, the address, SRC and STRAND of its records. -/
structure WalkReq where
  core : Nat
  ctx : Nat
  va : DWord
  src : Nat
  strand : Nat
  /-- the level of the last entry that this event reads: 0 ends the walk, a higher one leaves it at a pointer -/
  depth : Nat
  /-- what the cluster's TLB and the walker held for the address gave way before -/
  cold : Bool
  deriving DecidableEq, Repr, Inhabited

/-- The sequence number of a flit, and the port in whose sequence it stands: the one to which it was numbered, which after a move
is not the one that carries it (19 R348, R352). -/
structure FlitNum where
  origin : Nat
  num : Nat
  deriving DecidableEq, Repr, Inhabited

/-! ## Instructions and events -/

/-- One constructor for each row of the opcode table. Instruction words first, by op value, with the events of each
chapter beside the instructions they belong to. -/
inductive Instr where
  -- group 0x00 (08)
  | nop
  | mov (x : DstA) (a : Src)
  | movi (f : MoviForm) (p : Pred) (d imm : Nat)
  | movx (f : MovxForm) (p : Pred) (d : Nat) (lit : DWord)
  | add (f : IntForm) (x : DstA) (a b : Src)
  | sub (f : IntForm) (x : DstA) (a b : Src)
  | mul (f : IntForm) (x : DstA) (a b : Src)
  | mulh (natural : Bool) (x : DstA) (a b : Src)
  | mad (f : IntForm) (x : DstA) (a b c : Src)
  | neg (f : IntForm) (x : DstA) (a : Src)
  | abs (f : IntForm) (x : DstA) (a : Src)
  | min (f : IntForm) (x : DstA) (a b : Src)
  | max (f : IntForm) (x : DstA) (a b : Src)
  | sel (x : DstA) (a b c : Src)
  | lea (natural : Bool) (sh : Nat) (x : DstA) (a : PairSrc) (b : Src)
  | add64 (x : DstA) (a b : PairSrc)
  | sub64 (x : DstA) (a b : PairSrc)
  -- group 0x10 (08)
  | and (x : DstA) (a b : Src)
  | or (x : DstA) (a b : Src)
  | xor (x : DstA) (a b : Src)
  | not (x : DstA) (a : Src)
  | shl (x : DstA) (a b : Src)
  | shr (x : DstA) (a b : Src)
  | sar (x : DstA) (a b : Src)
  | rot (right : Bool) (x : DstA) (a b : Src)
  | clz (x : DstA) (a : Src)
  | popc (x : DstA) (a : Src)
  | brev (x : DstA) (a : Src)
  | bfe (signed : Bool) (x : DstA) (a b c : Src)
  | bfi (x : DstA) (a b c : Src)
  | cmp (cond : Cond) (x : DstA) (a b : Src)
  | vtag (t : Tag) (x : DstA) (a : Src)
  -- group 0x20 (08)
  | fadd (rm : Rm) (x : DstA) (a b : Src)
  | fsub (rm : Rm) (x : DstA) (a b : Src)
  | fmul (rm : Rm) (x : DstA) (a b : Src)
  | ffma (rm : Rm) (x : DstA) (a b c : Src)
  | fmin (nan : Bool) (x : DstA) (a b : Src)
  | fmax (nan : Bool) (x : DstA) (a b : Src)
  | fabs (x : DstA) (a : Src)
  | fneg (x : DstA) (a : Src)
  | fcmp (cond : FCond) (x : DstA) (a b : Src)
  | frnd (exact : Bool) (rm : Rm) (x : DstA) (a : Src)
  | fcsgn (x : DstA) (a b : Src)
  | fclass (x : DstA) (a : Src)
  | fdiv (rm : Rm) (x : DstA) (a b : Src)
  | fsqrt (rm : Rm) (x : DstA) (a : Src)
  | frcp (rm : Rm) (x : DstA) (a : Src)
  | frsq (rm : Rm) (x : DstA) (a : Src)
  -- group 0x30 (08)
  | fexp2 (rm : Rm) (x : DstA) (a : Src)
  | flog2 (rm : Rm) (x : DstA) (a : Src)
  | ffract (x : DstA) (a : Src)
  | hadd (rm : Rm) (x : DstA) (a b : Src)
  | hsub (rm : Rm) (x : DstA) (a b : Src)
  | hmul (rm : Rm) (x : DstA) (a b : Src)
  | hfma (rm : Rm) (x : DstA) (a b c : Src)
  | hmin (nan : Bool) (x : DstA) (a b : Src)
  | hmax (nan : Bool) (x : DstA) (a b : Src)
  | hcmp (cond : FCond) (x : DstA) (a b : Src)
  -- group 0x40 (08)
  | cvt (tf ff : CvtFmt) (rm : Rnd) (x : DstA) (a : Src) (q : Nat)
  | cvtb (tf : CvtFmt) (rm : Rnd) (residual : Bool) (x : DstA) (a n : Nat) (b : Src)
  | pack (f : PackFmt) (ah bh : Bool) (x : DstA) (a b : Src)
  | unpack (f : PackFmt) (x : DstA) (a b : Src)
  | rngx (x : DstA) (a b : Nat)
  -- group 0x50 (07)
  | shfl (m : ShflMode) (x : DstA) (a b c : Src)
  | vote (m : VoteMode) (x : DstA) (a : Src)
  | ballot (x : DstA) (a : Src)
  | scan (op : FoldOp) (ex : Bool) (x : DstA) (a : Src)
  | red (op : FoldOp) (x : DstA) (a : Src)
  | gatherPointRelease (braid : Nat)
  -- group 0x60 (10)
  | ld (k : LdKind) (os : Option Scope) (h : Hint) (l : Long) (d : Nat) (a : Addr)
  | st (k : StKind) (os : Option Scope) (h : Hint) (l : Long) (d : Nat) (a : Addr)
  | ldw (t : Tag) (os : Option Scope) (h : Hint) (l : Long) (d : Nat) (a : Addr)
  | stw (os : Option Scope) (h : Hint) (l : Long) (d : Nat) (a : Addr)
  | ldf (t : Tag) (os : Option Scope) (l : Long) (d : Nat) (a b : Src)
  | stf (os : Option Scope) (l : Long) (d : Nat) (a b : Src)
  | fset (full : Bool) (l : Long) (a b : Src)
  | fpush (os : Option Scope) (l : Long) (d : Nat) (a b : Src)
  | fpop (t : Tag) (os : Option Scope) (l : Long) (d : Nat) (a b : Src)
  | pref (lv : PrefLevel) (l : Long) (a : Nat) (b : Src)
  | lline (l : Long) (d a : Nat) (b : Src)
  | uline (l : Long) (d a : Nat) (b : Src)
  | bankset (m : BankMode) (l : Long) (d : Nat) (a : Src)
  -- group 0x70 (10)
  | atom (op : AtomOp) (o : AtomOrder) (l : Long) (d : Nat) (a : Place) (b : AtomArg)
  | cas (o : AtomOrder) (l : Long) (d : Nat) (a : Place) (b : AtomArg)
  | atomf (rm : Rm) (o : AtomOrder) (l : Long) (d : Nat) (a : Place) (b : Src)
  | xadd (half : Bool) (o : AtomOrder) (l : Long) (a : Place) (b : Src)
  | xget (half : Bool) (rm : Rm) (o : AtomOrder) (l : Long) (d : Nat) (a : Place)
  | xclr (o : AtomOrder) (l : Long) (a : Place)
  -- group 0x80 (11, 13, 12)
  | fence (k : FenceKind) (x : Scope) (l : Long)
  | fenceCompletion (pos id : Nat)
  | holdBufferLeave (pos id : Nat)
  | rollback (braid grp : Nat)
  | barInitArr (l : Long) (bar : Nat) (a : Src)
  | barInitRows (l : Long) (bar : Nat) (a b : Src)
  | barArrive (x : Bool) (l : Long) (bar d : Nat)
  | barWait (x : Bool) (l : Long) (bar : Nat) (a : Src)
  | barSync (x : Bool) (l : Long) (bar : Nat)
  | barDrop (l : Long) (bar : Nat) (a : Src)
  | barTest (l : Long) (bar d : Nat) (a : Src)
  | barStat (l : Long) (bar d : Nat)
  | barFree (l : Long) (bar : Nat)
  | jnew (l : Long) (k d : Nat)
  | join (l : Long) (k d : Nat) (a : Src)
  | leave (l : Long) (k : Nat)
  | jrank (l : Long) (k d : Nat)
  | jsize (count : Bool) (l : Long) (k d : Nat)
  | jbar (x : Bool) (l : Long) (k : Nat)
  | jscan (op : FoldOp) (ex x : Bool) (l : Long) (k d : Nat) (a : Src)
  | jred (op : FoldOp) (x : Bool) (l : Long) (k d : Nat) (a : Src)
  -- group 0x90 (14)
  | tall (f : TileFmt) (shape : Nat) (l : Long) (r : TileRef)
  | tfree (l : Long) (r : TileRef)
  | tzero (l : Long) (r : TileRef)
  | tload (l : Long) (r : TileRef) (a : Nat) (b : Src)
  | ctr (f : TileFmt) (shape : Nat) (an bn : Bool) (l : Long) (r : TileRef) (a b : Nat)
  | contractionStart (die : Nat)
  | tdrain (f : DrainFmt) (rm : Rnd) (keep : Bool) (l : Long) (r : TileRef) (d a q : Nat)
  -- group 0xA0 (15)
  | cpb (cls : Nat) (att : Attach) (l : Long) (d r c : Nat)
  | cpg (cls : Nat) (att : Attach) (l : Long) (d r c : Nat)
  | cps (cls : Nat) (att : Attach) (l : Long) (d r c : Nat)
  | cpf (cls : Nat) (att : Attach) (l : Long) (d r c : Nat)
  | cqf (cls mask : Nat) (l : Long) (d : Nat)
  | commandStart (core cls : Nat)
  | chunk (core : Nat)
  | copyCompletion (core cls : Nat)
  -- group 0xB0 (16)
  | aset (l : Long) (d : Nat) (a b : Src)
  | anoise (l : Long) (d : Nat) (a b : Src)
  | aadd (l : Long) (d x y : Nat)
  | asub (l : Long) (d x y : Nat)
  | aneg (l : Long) (d x : Nat)
  | ascl (l : Long) (d x : Nat) (a : Src)
  | aaddc (l : Long) (d x : Nat) (a : Src)
  | amul (l : Long) (d x y : Nat)
  | aquant (f : QuantFmt) (rm : Rm) (l : Long) (d x : Nat)
  | acond (l : Long) (d x : Nat) (a : Src)
  | aget (f : AgetForm) (l : Long) (d y : Nat)
  | ald (os : Option Scope) (l : Long) (d : Nat) (a : Addr)
  | ast (os : Option Scope) (l : Long) (y : Nat) (a : Addr)
  | asymn (ctr : Bool) (l : Long) (d : Nat)
  | amode (f : AmodeForm) (l : Long) (d : Nat)
  -- group 0xC0 (17)
  | cap (l : Long) (k : Nat) (e : CapEntry) (f n : Nat)
  | capr (l : Long) (k : Nat) (a b : Src)
  | kdup (l : Long) (kd ks : Nat)
  | kdrop (l : Long) (k : Nat)
  | kst (os : Option Scope) (l : Long) (k : Nat) (a : Addr)
  | kld (os : Option Scope) (l : Long) (k : Nat) (a : Addr)
  | apply (p : Pred) (k size : Nat)
  | spawn (l : Long) (d k : Nat) (a : PairSrc)
  | kinfo (f : KinfoForm) (l : Long) (d k : Nat)
  -- group 0xE0 (07)
  | bra (y : Bool) (p : Pred) (disp hint : Nat)
  | jmp (p : Pred) (t hint : Nat)
  | call (p : Pred) (size disp : Nat)
  | calli (p : Pred) (t size : Nat)
  | ret (p : Pred)
  | exit (p : Pred)
  | yield (p : Pred)
  | brk (p : Pred) (code : Nat)
  -- group 0xF0 (18)
  | trap (p : Pred) (code : Nat)
  | rte (w : Bool) (p : Pred)
  | csrr (l : Long) (d csr : Nat)
  | csrw (l : Long) (d csr : Nat) (a : Src)
  | tins (l : Long) (d sel : Nat)
  | tset (l : Long) (d sel : Nat) (a : Src)
  | tresGo (l : Long) (d : Nat)
  | tresHold (l : Long) (d : Nat)
  | tresKill (l : Long) (d : Nat)
  | tstep (l : Long) (d : Nat)
  | tswap (p : Pred)
  | gettime (l : Long) (d : Nat)
  | sleep (l : Long) (t : Deadline)
  | sleepWakeup (pos : Nat)
  -- the schedulers, the arbiter and trap delivery (07, 11, 18)
  | schedulerRound (quarter : Nat)
  | braidAged (braid : Nat)
  | longLatencyCompletion (pos id : Nat) (early : Bool)
  | slackReturn (braid : Nat)
  | eventApplication (core : Nat)
  | trapDelivery (braid : Nat)
  | swapIn (core : Nat)
  -- queues and launches (05, 06)
  | doorbell (page byte : Nat) (va : DWord)
  | wridxPoll (queue : Nat)
  | queueMap (die : Nat)
  | queueUnmap (die : Nat)
  | skipPacket (queue : Nat)
  | launchPacket (queue : Nat)
  | waitPacket (queue : Nat)
  | signalPacket (queue : Nat)
  | applyPacket (queue : Nat)
  | fencePacket (queue : Nat)
  | signalChange (queue : Nat)
  | timedLaunchStart (queue : Nat)
  | timeSliceExpiry (queue : Nat)
  | hankPlacement (launch : Nat) (seat : Seat)
  | neighbourhoodPlacement (launch : Nat) (seats : List Seat)
  | hankRetirement (hank : Nat)
  | launchCompletion (launch : Nat)
  -- translation (09)
  | tlbMissWalk (w : WalkReq)
  | faultRingSpaceFreed (ctx : Nat)
  | faultdone (ctx seq : Nat)
  | tlbinvPage (ctx : Nat) (va : Nat)
  | tlbinvContext (ctx : Nat)
  | tlbinvAll
  -- driver commands (04)
  | createContext
  | activate
  | suspend
  | resume
  | recover
  | destroy
  | createQueue
  | preEmptQueue
  | resumeQueue
  | acknowledgeQueueFault
  | destroyQueue
  | enterTestMode
  | enterServiceMode
  -- the host (04, 19)
  | featofferWrite (value : DWord)
  | pkgidWrite (value : DWord)
  | rangeRegisterWrite (cluster reg : Nat) (high : Bool) (value : DWord)
  | hostRegisterWrite (off width : Nat) (value : DWord)
  | unsupportedRequest (bar off width : Nat)
  | hostHbmAccess (a : HbmAccess)
  | pcieCompletionTimeout (ctx core strand : Nat) (va : DWord) (src : Nat)
  -- links (19)
  | linkEnable (port : Nat)
  | linkDisable (port : Nat)
  | flitReceived (port : Nat) (seq : FlitNum) (crcOk : Bool)
  | replayRequest (port : Nat) (seq : FlitNum)
  | replayLimit (port : Nat)
  | laneLoss (port lanes : Nat)
  | trainingEnds (port lanes peerPkg peerPort : Nat)
  | trainingTimeout (port : Nat)
  | linkTimeout (ctx core pkg : Nat)
  -- power, boot and management (20)
  | telemetrySample (die : Nat) (x : Sensors)
  | thermalTrip (die : Nat)
  | powerOn
  | reset
  | bootCompletes (locations : List (List BootImage)) (n : Nat)
  | noImageVerifies
  | heartbeatTimeout
  | ptpMessage (master : Nat)
  | attestationReport (nonce : Nat)
  | unknownOpCommand
  deriving DecidableEq, Repr, Inhabited

/-- What moves next: the next word of the issue set in progress on a quarter, the word of a `tstep` there, or an
event of another agent. -/
inductive Move where
  | word (quarter : Nat)
  | stepWord (quarter : Nat)
  | event (i : Instr)
  deriving DecidableEq, Repr, Inhabited

end Sys2Proof
end

