-- ==== Sys2Proof/WellFormed.lean ====
section
/-! DEFINITION. What each instruction word names (operands, registers written, slot) and the checks of spec 02 R52 that
depend on the word alone: fields in range, sources that fit their consumer (R40 to R44), register runs (R5), slots (R35). -/

namespace Sys2Proof

/-- The format a single source is read in (03 R73). `any` accepts every tag. -/
inductive Use where
  | any | i32 | f32 | h16 | i16 | i8 | t8
  deriving DecidableEq, Repr, Inhabited

/-- Operand numbers of the format-tag trap (18 R325): 0 d, 1 a, 2 b, 3 c. -/
structure SrcUse where
  opnd : Nat
  src : Src
  use : Use
  deriving DecidableEq, Repr, Inhabited

/-- A run of main-file registers read as an operand; `tag` none accepts every tag, else that tag or RAW (03 R73). -/
structure RunUse where
  opnd : Nat
  first : Nat
  n : Nat
  tag : Option Tag
  deriving DecidableEq, Repr, Inhabited

/-- What a word names. `word` is false for the events, which have no encoding. -/
structure Info where
  word : Bool := true
  pred : Pred := ⟨false, 0⟩
  srcs : List SrcUse := []
  runs : List RunUse := []
  /-- constants that stand for a pair (02 R43) -/
  pairConsts : List Nat := []
  writes : List (Nat × Nat) := []
  cap : Option Nat := none
  long : Option Long := none
  even : List Nat := []
  affs : List Nat := []
  /-- bounds and combinations that the entry itself gives -/
  ok : Bool := true
  deriving DecidableEq, Repr, Inhabited

/-! ## Constants -/

/-- Entries 0 to 31 of R43 as integers. -/
def constInt (i : Nat) : Int :=
  if i ≤ 16 then i
  else if i ≤ 24 then 16 - (i : Int)
  else [32, 64, 128, 255, 256, 1024, 65535].getD (i - 25) 0

/-- May constant entry i stand for a source read in this format? (02 R43) -/
def constFits (u : Use) (i : Nat) : Bool :=
  match u with
  | .any | .f32 | .h16 => decide (i < 64)
  | .t8 => decide (i < 63)
  | .i32 => decide (i < 32)
  | .i16 => decide (i < 32 ∧ -32768 ≤ constInt i ∧ constInt i ≤ 65535)
  | .i8 => decide (i < 32 ∧ -128 ≤ constInt i ∧ constInt i ≤ 255)

/-- A source field in range and fit for its consumer (02 R40, R43, R44). -/
def SrcUse.wf (s : SrcUse) : Bool :=
  match s.src with
  | .v n => decide (n < 256)
  | .o n => decide (n < 8)
  | .ll => true
  | .const i => constFits s.use i
  | .special _ => s.use == .any || s.use == .i32

def Pred.wf (p : Pred) : Bool := decide (p.reg < 256) && !(p.inv && p.reg == 0)

/-- Slot and lookahead (02 R35). -/
def Long.wf (l : Long) (writes : Bool) : Bool :=
  l.pred.wf && (decide (l.slot < 12 ∧ l.look < 16) || (l.slot == 15 && l.look == 15 && !writes))

def Info.wf (x : Info) : Bool :=
  x.word && x.ok && x.pred.wf &&
  x.srcs.all SrcUse.wf &&
  x.runs.all (fun r => decide (r.first + r.n ≤ 256)) &&
  x.pairConsts.all (fun i => decide (i < 32)) &&
  x.writes.all (fun r => decide (r.1 + r.2 ≤ 256)) &&
  x.even.all (fun r => r % 2 == 0) &&
  x.affs.all (fun r => decide (r < 16)) &&
  (match x.cap with | none => true | some o => decide (o < 8) && !x.writes.isEmpty) &&
  (match x.long with | none => true | some l => l.wf (!x.writes.isEmpty))

/-! ## Builders -/

/-- A format A word that writes `n` registers from d. -/
def infoA (x : DstA) (n : Nat) (srcs : List SrcUse) : Info :=
  { pred := x.pred, srcs := srcs, writes := [(x.d, n)], cap := x.cap }

/-- Sources a, b, c in one format. -/
def useAll (u : Use) (l : List Src) : List SrcUse := l.zipIdx.map fun (s, i) => ⟨i + 1, s, u⟩

def IWidth.use : IWidth → Use
  | .w32 => .i32
  | .w16 => .i16
  | .w8 => .i8

def FoldOp.use : FoldOp → Use
  | .fadd => .f32
  | _ => .i32

def infoL (l : Long) : Info := { pred := l.pred, long := some l }

/-- A 64-bit pair as operand `o` (03 R73). -/
def Info.pair (x : Info) (o n : Nat) : Info :=
  { x with runs := x.runs ++ [⟨o, n, 2, some .w64⟩], even := x.even ++ [n] }

def Info.pairSrc (x : Info) (o : Nat) : PairSrc → Info
  | .v n => x.pair o n
  | .const i => { x with pairConsts := x.pairConsts ++ [i] }

def Info.src (x : Info) (o : Nat) (s : Src) (u : Use) : Info := { x with srcs := x.srcs ++ [⟨o, s, u⟩] }

def Info.run (x : Info) (o first n : Nat) (t : Option Tag) : Info := { x with runs := x.runs ++ [⟨o, first, n, t⟩] }

def Info.dst (x : Info) (first n : Nat) : Info := { x with writes := x.writes ++ [(first, n)] }

def Info.evenReg (x : Info) (n : Nat) : Info := { x with even := x.even ++ [n] }

def Info.check (x : Info) (b : Bool) : Info := { x with ok := x.ok && b }

def Info.aff (x : Info) (l : List Nat) : Info := { x with affs := x.affs ++ l }

/-- A constant offset is an integer entry of R43, never a special value (10 R180). -/
def offsetOk : Src → Bool
  | .special _ => false
  | _ => true

/-- An address with an offset (10 R180, R181). -/
def Info.addr (x : Info) : Addr → Info
  | .g p b => ((x.pair 1 p).src 2 b .i32).check (offsetOk b)
  | .s a b => ((x.src 1 a .i32).src 2 b .i32).check (offsetOk b)

/-- The address of an atomic (10 R192). -/
def Info.place (x : Info) : Place → Info
  | .g p => x.pair 1 p
  | .s a => x.src 1 a .i32

/-- Scope .b is not available to OS fields (10 R192). -/
def osOk : Option Scope → Bool
  | some .b => false
  | _ => true

def LdKind.regs : LdKind → Nat
  | .b64 => 2
  | .b128 _ => 4
  | _ => 1

def LdKind.bytes : LdKind → Nat
  | .s8 | .z8 => 1
  | .s16 | .z16 => 2
  | .b32 _ => 4
  | .b64 => 8
  | .b128 _ => 16

def StKind.regs : StKind → Nat
  | .b64 => 2
  | .b128 => 4
  | _ => 1

def StKind.bytes : StKind → Nat
  | .b8 => 1
  | .b16 => 2
  | .b32 => 4
  | .b64 => 8
  | .b128 => 16

def AtomArg.is64 : AtomArg → Bool
  | .b64 _ => true
  | .b32 _ => false

def Info.atomArg (x : Info) : AtomArg → Info
  | .b32 b => x.src 2 b .i32
  | .b64 b => x.pairSrc 2 b

/-! ## Shapes (02 R50, 14 R260) -/

/-- M, N and K of a shape code. -/
def shapeMNK (s : Nat) : Nat × Nat × Nat :=
  match s with
  | 0 => (8, 8, 1)
  | 1 => (8, 8, 2)
  | 2 => (16, 16, 1)
  | 3 => (16, 16, 2)
  | 4 => (16, 16, 4)
  | 5 => (32, 32, 1)
  | 6 => (32, 32, 2)
  | 7 => (64, 64, 1)
  | 8 => (32, 16, 2)
  | 9 => (16, 32, 2)
  | _ => (0, 0, 0)

/-- The legal codes of R50. -/
def shapeOk (f : TileFmt) (s : Nat) : Bool :=
  match f with
  | .h16 => [0, 1, 2, 3, 5].contains s
  | .t8 | .i8 => [2, 3, 4, 5, 6, 7, 8, 9].contains s
  | .t6 => [2, 3, 4, 5, 6, 7].contains s

def TileFmt.tag : TileFmt → Tag
  | .t6 => .t6p
  | .t8 => .t8x4
  | .h16 => .h16x2
  | .i8 => .i8x4

/-- Registers of an operand run of `e` elements (14 R260). -/
def TileFmt.regs (f : TileFmt) (e : Nat) : Nat :=
  match f with
  | .t6 => 3 * (e / 16)
  | .h16 => e / 2
  | _ => e / 4

/-- Registers of the a-run and of the b-run (14 R260). -/
def ctrRegs (f : TileFmt) (shape : Nat) : Nat × Nat :=
  let (m, n, k) := shapeMNK shape
  (f.regs (k * m), f.regs (k * n))

def Info.tile (x : Info) (r : TileRef) : Info := x.check (decide (r.k < 4 ∧ r.t < 4))

/-! ## Conversions (08 R164 to R168) -/

def CvtFmt.elems : CvtFmt → Nat
  | .s32 | .n32 | .f32 => 1
  | .h16 | .s16 | .n16 => 2
  | .s8 | .n8 | .t8 => 4
  | .t6 => 16

def CvtFmt.tag : CvtFmt → Tag
  | .s32 | .n32 => .i32
  | .f32 => .f32
  | .h16 => .h16x2
  | .s16 | .n16 => .i16x2
  | .s8 | .n8 => .i8x4
  | .t8 => .t8x4
  | .t6 => .t6p

def CvtFmt.use : CvtFmt → Use
  | .s32 | .n32 => .i32
  | .f32 => .f32
  | .h16 => .h16
  | .s16 | .n16 => .i16
  | .s8 | .n8 => .i8
  | .t8 | .t6 => .t8

/-- Registers that n elements occupy. -/
def CvtFmt.regs (f : CvtFmt) (n : Nat) : Nat := if f = .t6 then 3 else ceilDiv n f.elems

/-- Formats that ef and sr may round to (03 R63, 08 R165). -/
def CvtFmt.narrow : CvtFmt → Bool
  | .h16 | .s16 | .n16 | .s8 | .n8 | .t8 => true
  | _ => false

def PackFmt.use : PackFmt → Use
  | .h16x2 => .h16
  | .i16x2 => .i16
  | .t8x4 => .t8
  | .i8x4 => .i8

/-- Do two register runs share a register? -/
def overlap (a n b m : Nat) : Bool := decide (a < b + m ∧ b < a + n)

/-- The source of `cvt`: one source where it occupies one register, else a run at main level (08 R165). -/
def Info.cvtSrc (x : Info) (f : CvtFmt) (n : Nat) (a : Src) : Info :=
  if f.regs n = 1 ∧ f ≠ .t6 then x.src 1 a f.use
  else match a with
    | .v r => x.run 1 r (f.regs n) (some f.tag)
    | _ => x.check false

/-! ## Every instruction -/

/-- What word i names. Operand numbers are those of the trap record. -/
def Instr.info : Instr → Info
  | .nop => {}
  | .mov x a => infoA x 1 (useAll .any [a])
  | .movi _ p d imm => ({ pred := p, writes := [(d, 1)] } : Info).check (decide (imm < 2 ^ 25))
  | .movx f p d _ =>
    match f with
    | .tagged _ => { pred := p, writes := [(d, 1)] }
    | .pair => { pred := p, writes := [(d, 2)], even := [d] }
  | .add f x a b => infoA x 1 (useAll f.width.use [a, b])
  | .sub f x a b => infoA x 1 (useAll f.width.use [a, b])
  | .mul f x a b => (infoA x 1 (useAll f.width.use [a, b])).check (!f.sat)
  | .mulh _ x a b => infoA x 1 (useAll .i32 [a, b])
  | .mad f x a b c => infoA x 1 (useAll f.width.use [a, b, c])
  | .neg f x a => (infoA x 1 (useAll f.width.use [a])).check (!f.natural)
  | .abs f x a => (infoA x 1 (useAll f.width.use [a])).check (!f.natural)
  | .min f x a b => (infoA x 1 (useAll f.width.use [a, b])).check (!f.sat)
  | .max f x a b => (infoA x 1 (useAll f.width.use [a, b])).check (!f.sat)
  | .sel x a b c => infoA x 1 (useAll .any [a, b, c])
  | .lea _ sh x a b => (((infoA x 2 []).evenReg x.d).pairSrc 1 a |>.src 2 b .i32).check (decide (sh < 8))
  | .add64 x a b => (((infoA x 2 []).evenReg x.d).pairSrc 1 a).pairSrc 2 b
  | .sub64 x a b => (((infoA x 2 []).evenReg x.d).pairSrc 1 a).pairSrc 2 b
  | .and x a b => infoA x 1 (useAll .any [a, b])
  | .or x a b => infoA x 1 (useAll .any [a, b])
  | .xor x a b => infoA x 1 (useAll .any [a, b])
  | .not x a => infoA x 1 (useAll .any [a])
  | .shl x a b => infoA x 1 (useAll .any [a, b])
  | .shr x a b => infoA x 1 (useAll .any [a, b])
  | .sar x a b => infoA x 1 (useAll .any [a, b])
  | .rot _ x a b => infoA x 1 (useAll .any [a, b])
  | .clz x a => infoA x 1 (useAll .any [a])
  | .popc x a => infoA x 1 (useAll .any [a])
  | .brev x a => infoA x 1 (useAll .any [a])
  | .bfe _ x a b c => infoA x 1 (useAll .any [a, b, c])
  | .bfi x a b c => infoA x 1 (useAll .any [a, b, c])
  | .cmp _ x a b => infoA x 1 (useAll .i32 [a, b])
  | .vtag _ x a => infoA x 1 (useAll .any [a])
  | .fadd _ x a b => infoA x 1 (useAll .f32 [a, b])
  | .fsub _ x a b => infoA x 1 (useAll .f32 [a, b])
  | .fmul _ x a b => infoA x 1 (useAll .f32 [a, b])
  | .ffma _ x a b c => infoA x 1 (useAll .f32 [a, b, c])
  | .fmin _ x a b => infoA x 1 (useAll .f32 [a, b])
  | .fmax _ x a b => infoA x 1 (useAll .f32 [a, b])
  | .fabs x a => infoA x 1 (useAll .f32 [a])
  | .fneg x a => infoA x 1 (useAll .f32 [a])
  | .fcmp _ x a b => infoA x 1 (useAll .f32 [a, b])
  | .frnd _ _ x a => infoA x 1 (useAll .f32 [a])
  | .fcsgn x a b => infoA x 1 (useAll .f32 [a, b])
  | .fclass x a => infoA x 1 (useAll .f32 [a])
  | .fdiv _ x a b => infoA x 1 (useAll .f32 [a, b])
  | .fsqrt _ x a => infoA x 1 (useAll .f32 [a])
  | .frcp _ x a => infoA x 1 (useAll .f32 [a])
  | .frsq _ x a => infoA x 1 (useAll .f32 [a])
  | .fexp2 _ x a => infoA x 1 (useAll .f32 [a])
  | .flog2 _ x a => infoA x 1 (useAll .f32 [a])
  | .ffract x a => infoA x 1 (useAll .f32 [a])
  | .hadd _ x a b => infoA x 1 (useAll .h16 [a, b])
  | .hsub _ x a b => infoA x 1 (useAll .h16 [a, b])
  | .hmul _ x a b => infoA x 1 (useAll .h16 [a, b])
  | .hfma _ x a b c => infoA x 1 (useAll .h16 [a, b, c])
  | .hmin _ x a b => infoA x 1 (useAll .h16 [a, b])
  | .hmax _ x a b => infoA x 1 (useAll .h16 [a, b])
  | .hcmp _ x a b => infoA x 1 (useAll .h16 [a, b])
  | .cvt tf ff rm x a q =>
    let e := Nat.max tf.elems ff.elems
    let i := (infoA x (tf.regs e) []).cvtSrc ff e a
    let i := i.check (decide (tf ≠ ff ∧ tf ≠ .t6))
    let i := i.check (!(rm == .ef || rm == .sr) || tf.narrow)
    if rm = .sr then i.run 2 q (ceilDiv e 2) (some .i32) else i.check (decide (q = 0))
  | .cvtb tf rm r x a n b =>
    let g := tf.regs n
    let i := (infoA x (if r then g + 1 else g) []).run 1 a n (some .f32)
    let i := i.check (decide (1 ≤ n ∧ n ≤ 16 ∧ tf ≠ .s32 ∧ tf ≠ .n32 ∧ tf ≠ .f32) && (!r || rm == .ef))
    match rm, b with
    | .ef, b => i.src 2 b .f32
    | .sr, .v q => i.run 2 q (ceilDiv n 2) (some .i32)
    | .sr, _ => i.check false
    | _, b => i.check (decide (b = .v 0))
  | .pack f _ _ x a b => infoA x 1 (useAll f.use [a, b])
  | .unpack f x a b => infoA x 1 [⟨1, a, f.use⟩, ⟨2, b, .i32⟩]
  | .rngx x a b =>
    (((infoA x 4 []).run 1 a 4 (some .i32)).pair 2 b |>.dst a 4).check (!overlap x.d 4 a 4)
  | .shfl _ x a b c => infoA x 1 [⟨1, a, .any⟩, ⟨2, b, .i32⟩, ⟨3, c, .any⟩]
  | .vote _ x a => infoA x 1 (useAll .any [a])
  | .ballot x a => infoA x 1 (useAll .any [a])
  | .scan op _ x a => infoA x 1 (useAll op.use [a])
  | .red op x a => infoA x 1 (useAll op.use [a])
  | .ld k os _ l d a =>
    let i := ((infoL l).addr a |>.dst d k.regs).check (osOk os)
    if k.regs = 1 then i else i.evenReg d
  | .st k os h l d a =>
    let i := ((infoL l).addr a |>.run 0 d k.regs none).check (osOk os && h != .ro)
    if k.regs = 1 then i else i.evenReg d
  | .ldw _ os _ l d a => ((infoL l).addr a |>.dst d 16).check (osOk os)
  | .stw os h l d a => ((infoL l).addr a |>.run 0 d 16 none).check (osOk os && h != .ro)
  | .ldf _ os l d a b => ((infoL l).addr (.s a b) |>.dst d 1).check (osOk os)
  | .stf os l d a b => ((infoL l).addr (.s a b) |>.run 0 d 1 none).check (osOk os)
  | .fset _ l a b => (infoL l).addr (.s a b)
  | .fpush os l d a b => ((infoL l).addr (.s a b) |>.run 0 d 1 none).check (osOk os)
  | .fpop _ os l d a b => ((infoL l).addr (.s a b) |>.dst d 1).check (osOk os)
  | .pref _ l a b => (infoL l).addr (.g a b)
  | .lline l d a b => (infoL l).addr (.g a b) |>.dst d 1
  | .uline l d a b => (infoL l).addr (.g a b) |>.dst d 1
  | .bankset _ l d a => (infoL l).src 1 a .i32 |>.dst d 1
  | .atom _ _ l d a b =>
    let i := ((infoL l).place a).atomArg b
    if b.is64 then (i.dst d 2).evenReg d else i.dst d 1
  | .cas _ l d a b =>
    let i := ((infoL l).place a).atomArg b
    if b.is64 then ((i.run 0 d 2 none).dst d 2).evenReg d else (i.run 0 d 1 none).dst d 1
  | .atomf _ _ l d a b => ((infoL l).place a).src 2 b .f32 |>.dst d 1
  | .xadd h _ l a b => ((infoL l).place a).src 2 b (if h then .h16 else .f32)
  | .xget _ _ _ l d a => (infoL l).place a |>.dst d 1
  | .xclr _ l a => (infoL l).place a
  | .fence _ _ l => infoL l
  | .barInitArr l b a => ((infoL l).src 1 a .i32).check (decide (b < 128))
  | .barInitRows l b a c => (((infoL l).src 1 a .i32).src 2 c .i32).check (decide (b < 128))
  | .barArrive _ l b d => ((infoL l).dst d 1).check (decide (b < 128))
  | .barWait _ l b a => ((infoL l).src 1 a .i32).check (decide (b < 128))
  | .barSync _ l b => (infoL l).check (decide (b < 128))
  | .barDrop l b a => ((infoL l).src 1 a .i32).check (decide (b < 128))
  | .barTest l b d a => (((infoL l).src 1 a .i32).dst d 1).check (decide (b < 128))
  | .barStat l b d => ((infoL l).dst d 4).check (decide (b < 128))
  | .barFree l b => (infoL l).check (decide (b < 128))
  | .jnew l k d => ((infoL l).dst d 1).check (decide (k < 4))
  | .join l k d a => (((infoL l).src 1 a .i32).dst d 1).check (decide (k < 4))
  | .leave l k => (infoL l).check (decide (k < 4))
  | .jrank l k d => ((infoL l).dst d 1).check (decide (k < 4))
  | .jsize _ l k d => ((infoL l).dst d 1).check (decide (k < 4))
  | .jbar _ l k => (infoL l).check (decide (k < 4))
  | .jscan op _ _ l k d a => (((infoL l).src 1 a op.use).dst d 1).check (decide (k < 4))
  | .jred op _ l k d a => (((infoL l).src 1 a op.use).dst d 1).check (decide (k < 4))
  | .tall f s l r => ((infoL l).tile r).check (shapeOk f s)
  | .tfree l r => (infoL l).tile r
  | .tzero l r => (infoL l).tile r
  | .tload l r a b => ((infoL l).tile r).pair 1 a |>.src 2 b .i32
  | .ctr f s an bn l r a b =>
    let (ra, rb) := ctrRegs f s
    ((((infoL l).tile r).run 1 a ra (some f.tag)).run 2 b rb (some f.tag)).check
      (shapeOk f s && (f == .i8 || !(an || bn)))
  | .tdrain _ rm _ l r d a q =>
    let i := ((infoL l).tile r).pair 1 a |>.run 1 (a + 2) 2 (some .i32) |>.dst d 1
    let i := i.check (!(decide (a ≤ d ∧ d ≤ a + 3)))
    if rm = .sr then (i.run 2 q 4 (some .i32)).pair 2 (q + 4) else i.check (decide (q = 0))
  | .cpb cls att l d r c => copyInfo cls att l d r c 6
  | .cpg cls att l d r c => copyInfo cls att l d r c 3
  | .cps cls att l d r c => copyInfo cls att l d r c 3
  | .cpf cls att l d r c => copyInfo cls att l d r c 6
  | .cqf cls mask l d => ((infoL l).dst d 1).check (decide (cls < 4 ∧ mask < 16))
  | .aset l d a b => (((infoL l).src 1 a .f32).src 2 b .f32).aff [d]
  | .anoise l d a b => (((infoL l).src 1 a .f32).src 2 b .f32).aff [d]
  | .aadd l d x y => (infoL l).aff [d, x, y]
  | .asub l d x y => (infoL l).aff [d, x, y]
  | .aneg l d x => (infoL l).aff [d, x]
  | .ascl l d x a => ((infoL l).src 1 a .f32).aff [d, x]
  | .aaddc l d x a => ((infoL l).src 1 a .f32).aff [d, x]
  | .amul l d x y => (infoL l).aff [d, x, y]
  | .aquant _ _ l d x => (infoL l).aff [d, x]
  | .acond l d x a => ((infoL l).src 1 a .i32).aff [d, x]
  | .aget _ l d y => ((infoL l).dst d 1).aff [y]
  | .ald os l d a => (((infoL l).addr a).aff [d]).check (osOk os)
  | .ast os l y a => (((infoL l).addr a).aff [y]).check (osOk os)
  | .asymn _ l d => (infoL l).dst d 1
  | .amode f l d =>
    match f with
    | .get => (infoL l).dst d 1
    | .set a => ((infoL l).src 1 a .i32).dst d 1
  | .cap l k e f n =>
    let i := ((infoL l).run 0 f n none).check (decide (k < 8 ∧ n ≤ 16 ∧ (n = 0 → f = 0)))
    match e with
    | .pair p => i.pair 1 p
    | .literal _ => i
  | .capr l k a b => (((infoL l).src 1 a .i32).src 2 b .i32).check (decide (k < 8))
  | .kdup l kd ks => (infoL l).check (decide (kd < 8 ∧ ks < 8))
  | .kdrop l k => (infoL l).check (decide (k < 8))
  | .kst os l k a => ((infoL l).addr a).check (decide (k < 8) && osOk os)
  | .kld os l k a => ((infoL l).addr a).check (decide (k < 8) && osOk os)
  | .apply p k size => ({ pred := p } : Info).check (decide (k < 8 ∧ size < 256))
  | .spawn l d k a => (((infoL l).pairSrc 1 a).dst d 1).check (decide (k < 8))
  | .kinfo f l d k =>
    match f with
    | .s => ((infoL l).dst d 1).check (decide (k < 8))
    | _ => (((infoL l).dst d 2).evenReg d).check (decide (k < 8))
  | .bra _ p disp hint => ({ pred := p } : Info).check (decide (disp < 2 ^ 32 ∧ hint < 4))
  | .jmp p t hint => (({ pred := p } : Info).pair 0 t).check (decide (hint < 4))
  | .call p size disp => ({ pred := p } : Info).check (decide (disp < 2 ^ 32 ∧ size < 256))
  | .calli p t size => (({ pred := p } : Info).pair 0 t).check (decide (size < 256))
  | .ret p => { pred := p }
  | .exit p => { pred := p }
  | .yield p => { pred := p }
  | .brk p code => ({ pred := p } : Info).check (decide (code < 65536))
  | .trap p code => ({ pred := p } : Info).check (decide (code < 65536))
  | .rte _ p => { pred := p }
  | .csrr l d csr => ((infoL l).dst d 1).check (decide (csr < 65536))
  | .csrw l d csr a => (((infoL l).src 1 a .i32).dst d 1).check (decide (csr < 65536))
  | .tins l d z => (((infoL l).dst d 2).evenReg d).check (decide (z < 65536))
  | .tset l d z a => (((infoL l).src 1 a .any).dst d 1).check (decide (z < 65536))
  | .tresGo l d => (infoL l).dst d 1
  | .tresHold l d => (infoL l).dst d 1
  | .tresKill l d => (infoL l).dst d 1
  | .tstep l d => (infoL l).dst d 1
  | .tswap p => { pred := p }
  | .gettime l d => ((infoL l).dst d 2).evenReg d
  | .sleep l t =>
    match t with
    | .abs a => (infoL l).pairSrc 1 a
    | .rel a => (infoL l).src 1 a .i32
  | .gatherPointRelease .. | .fenceCompletion .. | .holdBufferLeave .. | .rollback .. | .contractionStart ..
  | .commandStart .. | .chunk .. | .copyCompletion .. | .sleepWakeup .. | .schedulerRound .. | .braidAged ..
  | .longLatencyCompletion .. | .slackReturn .. | .eventApplication .. | .trapDelivery .. | .swapIn ..
  | .doorbell .. | .wridxPoll .. | .queueMap .. | .queueUnmap .. | .skipPacket .. | .launchPacket .. | .waitPacket ..
  | .signalPacket .. | .applyPacket .. | .fencePacket .. | .signalChange .. | .timedLaunchStart ..
  | .timeSliceExpiry .. | .hankPlacement .. | .neighbourhoodPlacement .. | .hankRetirement .. | .launchCompletion ..
  | .tlbMissWalk .. | .faultRingSpaceFreed .. | .faultdone .. | .tlbinvPage .. | .tlbinvContext .. | .tlbinvAll
  | .createContext | .activate | .suspend | .resume | .recover | .destroy | .createQueue | .preEmptQueue
  | .resumeQueue | .acknowledgeQueueFault | .destroyQueue | .enterTestMode | .enterServiceMode | .featofferWrite ..
  | .pkgidWrite .. | .rangeRegisterWrite .. | .hostRegisterWrite .. | .unsupportedRequest .. | .hostHbmAccess ..
  | .pcieCompletionTimeout .. | .linkEnable .. | .linkDisable .. | .flitReceived .. | .replayRequest ..
  | .replayLimit .. | .laneLoss .. | .trainingEnds .. | .trainingTimeout .. | .linkTimeout .. | .telemetrySample ..
  | .thermalTrip .. | .powerOn | .reset | .bootCompletes .. | .noImageVerifies | .heartbeatTimeout | .ptpMessage ..
  | .attestationReport .. | .unknownOpCommand => { word := false }
where
  /-- The operands of cpb, cpg, cps and cpf (15 R285): vS outside the vC range. -/
  copyInfo (cls : Nat) (att : Attach) (l : Long) (d r c n : Nat) : Info :=
    (((infoL l).pair 1 r).run 2 c n (some .i32) |>.dst d 1).check
      (decide (cls < 4 ∧ ¬ (c ≤ d ∧ d < c + n)) &&
        match att with
        | .nothing => true
        | .barrier b => decide (b < 128)
        | .closure k => decide (k < 8))

/-- The word passes every check of R52 that it alone decides. -/
def Instr.wf (i : Instr) : Bool := i.info.wf

end Sys2Proof
end

