-- ==== Sys2Proof/Decode.lean ====
section
/-! DEFINITION. Decoding and encoding of the instruction words (spec 02 R31 to R51 and the encoding tables of the
entries). A word is read field by field and refused by name; what an entry leaves unused is refused because the
encoding of the instruction read would differ (02 R52, 00 R9). -/

namespace Sys2Proof

/-! ## Codes of the enumerated fields, in the order of the spec's tables -/

/-- The place of an element in its table. -/
def codeIn {α : Type} [DecidableEq α] (l : List α) (x : α) : Nat := l.idxOf x

def tagCodes : List Tag := [.raw, .i32, .f32, .h16x2, .i16x2, .i8x4, .t8x4, .t6p, .w64, .stat]

def specialCodes : List Special := [.lane, .strand, .hank, .braid, .core, .die, .pkg, .fp, .depth, .clk, .nhank, .nstrand, .imask, .nbpos]

def rmCodes : List Rm := [.rne, .rz, .ru, .rd]

def rndCodes : List Rnd := [.rne, .rz, .ru, .rd, .ef, .sr]

def iWidthCodes : List IWidth := [.w32, .w16, .w8]

def condCodes : List Cond := [.eq, .ne, .ltS, .leS, .gtS, .geS, .ltN, .leN, .gtN, .geN]

def fCondCodes : List FCond := [.eq, .ne, .lt, .le, .gt, .ge, .un, .ord]

def packFmtCodes : List PackFmt := [.h16x2, .i16x2, .t8x4, .i8x4]

def cvtFmtCodes : List CvtFmt := [.s32, .n32, .f32, .h16, .s16, .n16, .s8, .n8, .t8, .t6]

def shflModeCodes : List ShflMode := [.idx, .up, .down, .xor]

def voteModeCodes : List VoteMode := [.all, .any, .uni]

def foldOpCodes : List FoldOp := [.add, .fadd, .minS, .maxS, .minN, .maxN, .and, .or]

def scopeCodes : List Scope := [.b, .c, .cl, .nb, .d, .p, .dm, .sy]

def hintCodes : List Hint := [.normal, .ro, .st, .keep]

def bankModeCodes : List BankMode := [.cache, .scratch, .fifo]

def prefLevelCodes : List PrefLevel := [.cl, .dc, .keep]

def atomOpCodes : List AtomOp := [.add, .sub, .minS, .minN, .maxS, .maxN, .and, .or, .xor, .exch, .inc]

def fenceKindCodes : List FenceKind := [.acq, .rel, .ar]

def tileFmtCodes : List TileFmt := [.t6, .t8, .h16, .i8]

def drainFmtCodes : List DrainFmt := [.f32, .h16, .t8, .t6, .s8, .n8, .s32, .n32]

def quantFmtCodes : List QuantFmt := [.h16, .t8, .t6, .s8, .n8]

def agetFormCodes : List AgetForm := [.c, .e, .lo, .hi]

def kinfoFormCodes : List KinfoForm := [.h, .s, .e]

def moviFormCodes : List MoviForm := [.s, .n, .f32]

/-! ## Words and their fields -/

/-- A word and the extension word that follows it (0 where it takes none). -/
structure Encoded where
  word : Nat
  ext : Nat
  deriving DecidableEq, Repr, Inhabited

/-- op, fn, predicate and bits [42:0] (02 R31). -/
def wordOf (op fn : Nat) (p : Pred) (low : Nat) : Nat :=
  op * 2 ^ 56 + fn * 2 ^ 52 + (if p.inv then 2 ^ 51 else 0) + p.reg * 2 ^ 43 + low

/-- Format A (02 R33). -/
def lowA (d a b c : Nat) (cap : Option Nat) : Nat :=
  d * 2 ^ 35 + a * 2 ^ 25 + b * 2 ^ 15 + c * 2 ^ 5 + (match cap with | none => 0 | some o => 16 + 2 * o)

/-- Format I (02 R34). -/
def lowI (d imm : Nat) : Nat := d * 2 ^ 35 + imm

/-- Format L (02 R35). -/
def lowL (d a b e : Nat) (l : Long) : Nat :=
  d * 2 ^ 35 + a * 2 ^ 25 + b * 2 ^ 15 + e * 2 ^ 8 + l.slot * 2 ^ 4 + l.look

/-- Format B (02 R36). -/
def lowB (r disp hint : Nat) : Nat := r * 2 ^ 35 + disp * 2 ^ 3 + hint

/-- Format S (02 R37). -/
def lowS (d a csr slot look : Nat) : Nat := d * 2 ^ 35 + a * 2 ^ 25 + csr * 2 ^ 9 + slot * 2 ^ 4 + look

/-- Every field of every format, as it stands in a word. -/
structure Fields where
  op : Nat
  fn : Nat
  pred : Pred
  d : Nat
  a : Nat
  b : Nat
  c : Nat
  cap : Option Nat
  e : Nat
  slot : Nat
  look : Nat
  imm : Nat
  disp : Nat
  hint : Nat
  csr : Nat
  deriving DecidableEq, Repr, Inhabited

def fieldsOf (w : Nat) : Fields :=
  { op := bits w 63 56, fn := bits w 55 52, pred := ⟨bits w 51 51 == 1, bits w 50 43⟩, d := bits w 42 35,
    a := bits w 34 25, b := bits w 24 15, c := bits w 14 5,
    cap := if bits w 4 4 = 1 then some (bits w 3 1) else none,
    e := bits w 14 8, slot := bits w 7 4, look := bits w 3 0, imm := bits w 24 0, disp := bits w 34 3,
    hint := bits w 2 0, csr := bits w 24 9 }

def Fields.dst (f : Fields) : DstA := ⟨f.pred, f.d, f.cap⟩
def Fields.long (f : Fields) : Long := ⟨f.pred, f.slot, f.look⟩

/-! ## Sources, orders and addresses -/

/-- A source as its 10-bit field (02 R40). -/
def encSrc : Src → Nat
  | .v n => n
  | .o n => 256 + n
  | .ll => 512
  | .const i => 768 + i
  | .special x => 832 + codeIn specialCodes x

def decSrc (n : Nat) : Option Src :=
  if n < 256 then some (.v n)
  else if n < 264 then some (.o (n - 256))
  else if n = 512 then some .ll
  else if 768 ≤ n ∧ n < 832 then some (.const (n - 768))
  else if 832 ≤ n then (specialCodes[n - 832]?).map .special
  else none

def encPair : PairSrc → Nat
  | .v n => n
  | .const i => 768 + i

def decPair (n : Nat) : Option PairSrc :=
  if n < 256 then some (.v n) else if 768 ≤ n ∧ n < 832 then some (.const (n - 768)) else none

/-- A main-level register named by a source field. -/
def decReg (n : Nat) : Option Nat := if n < 256 then some n else none

/-- The order field OS (10 R192). -/
def encOs : Option Scope → Nat
  | none => 0
  | some x => codeIn scopeCodes x

def decOs (n : Nat) : Option (Option Scope) := if n = 0 then some none else (scopeCodes[n]?).map some

/-- The order kind and scope of atomics (10 R192), as a number below 32. -/
def encOrder : AtomOrder → Nat
  | .plain => 0
  | .acq x => 8 + codeIn scopeCodes x
  | .rel x => 16 + codeIn scopeCodes x
  | .ar x => 24 + codeIn scopeCodes x

def decOrder (n : Nat) : Option AtomOrder :=
  match n / 8 with
  | 0 => if n = 0 then some .plain else none
  | 1 => (scopeCodes[n % 8]?).map .acq
  | 2 => (scopeCodes[n % 8]?).map .rel
  | 3 => (scopeCodes[n % 8]?).map .ar
  | _ => none

/-- fn[3] and fn[2:0] of a load or store (10 R196). -/
def encSpace (os : Option Scope) : Addr → Nat
  | .g .. => encOs os
  | .s .. => 8 + encOs os

def encAddrA : Addr → Nat
  | .g p _ => p
  | .s a _ => encSrc a

def encAddrB : Addr → Nat
  | .g _ b => encSrc b
  | .s _ b => encSrc b

def decAddr (fn a b : Nat) : Option Addr := do
  let y ← decSrc b
  if fn < 8 then some (.g (← decReg a) y) else some (.s (← decSrc a) y)

def encPlaceA : Place → Nat
  | .g p => p
  | .s a => encSrc a

/-- e[14:8] of an atomic or exact-cell instruction (10 R205). -/
def encPlaceE (wide : Bool) (o : AtomOrder) : Place → Nat
  | .g _ => (if wide then 64 else 0) + encOrder o
  | .s _ => (if wide then 64 else 0) + 32 + encOrder o

def decPlace (e a : Nat) : Option Place := do
  if e / 32 % 2 = 0 then some (.g (← decReg a)) else some (.s (← decSrc a))

def encArg : AtomArg → Nat
  | .b32 b => encSrc b
  | .b64 b => encPair b

def decArg (e b : Nat) : Option AtomArg := do
  if e / 64 = 0 then some (.b32 (← decSrc b)) else some (.b64 (← decPair b))

def encLdKind : LdKind → Nat
  | .s8 => 0
  | .z8 => 1
  | .s16 => 2
  | .z16 => 3
  | .b64 => 4
  | .b32 t => 8 + codeIn tagCodes t
  | .b128 t => 20 + codeIn tagCodes t

/-- The kind code (10 R193). -/
def decLdKind (n : Nat) : Option LdKind :=
  match n with
  | 0 => some .s8
  | 1 => some .z8
  | 2 => some .s16
  | 3 => some .z16
  | 4 => some .b64
  | _ => if 8 ≤ n ∧ n < 18 then (tagCodes[n - 8]?).map .b32
         else if 20 ≤ n then (tagCodes[n - 20]?).map .b128 else none

def encStKind : StKind → Nat
  | .b8 => 1
  | .b16 => 3
  | .b64 => 4
  | .b32 => 8
  | .b128 => 20

def decStKind (n : Nat) : Option StKind :=
  match n with
  | 1 => some .b8
  | 3 => some .b16
  | 4 => some .b64
  | 8 => some .b32
  | 20 => some .b128
  | _ => none

/-- The fn layout of R147. -/
def encInt (f : IntForm) : Nat :=
  (if f.sat then 8 else 0) + (if f.natural then 4 else 0) + codeIn iWidthCodes f.width

def decInt (fn : Nat) : Option IntForm :=
  (iWidthCodes[fn % 4]?).map fun w => ⟨decide (8 ≤ fn), decide (fn / 4 % 2 = 1), w⟩

def encBool (b : Bool) : Nat := if b then 1 else 0
def decBool (n : Nat) : Option Bool := if n = 0 then some false else if n = 1 then some true else none

def encAttach : Attach → Nat × Nat
  | .nothing => (0, 0)
  | .barrier b => (1, b)
  | .closure k => (2, k)

def decAttach (n e : Nat) : Option Attach :=
  match n with
  | 0 => some .nothing
  | 1 => some (.barrier e)
  | 2 => some (.closure e)
  | _ => none

/-! ## Encoding -/

/-- The word of a format A instruction. -/
def encA (op fn : Nat) (x : DstA) (a b c : Nat) : Option Encoded :=
  some ⟨wordOf op fn x.pred (lowA x.d a b c x.cap), 0⟩

def encL (op fn : Nat) (l : Long) (d a b e : Nat) : Option Encoded :=
  some ⟨wordOf op fn l.pred (lowL d a b e l), 0⟩

def encB (op fn : Nat) (p : Pred) (r disp hint : Nat) : Option Encoded :=
  some ⟨wordOf op fn p (lowB r disp hint), 0⟩

def encS (op fn : Nat) (l : Long) (d a csr : Nat) : Option Encoded :=
  some ⟨wordOf op fn l.pred (lowS d a csr l.slot l.look), 0⟩

def TileRef.code (r : TileRef) : Nat := 4 * r.k + r.t

/-- A system word without slot: slot 15, look 15 (18 R334). -/
def bare (p : Pred) : Long := ⟨p, 15, 15⟩

/-- The encoding of an instruction word; an event has none. -/
def encode : Instr → Option Encoded
  | .nop => some ⟨0, 0⟩
  | .mov x a => encA 0x01 0 x (encSrc a) 0 0
  | .movi f p d imm => some ⟨wordOf 0x02 (codeIn moviFormCodes f) p (lowI d imm), 0⟩
  | .movx f p d lit =>
    match f with
    | .tagged t => some ⟨wordOf 0x03 0 p (lowI d (codeIn tagCodes t)), lit.toNat⟩
    | .pair => some ⟨wordOf 0x03 1 p (lowI d 0), lit.toNat⟩
  | .add f x a b => encA 0x04 (encInt f) x (encSrc a) (encSrc b) 0
  | .sub f x a b => encA 0x05 (encInt f) x (encSrc a) (encSrc b) 0
  | .mul f x a b => encA 0x06 (encInt f) x (encSrc a) (encSrc b) 0
  | .mulh n x a b => encA 0x07 (encBool n) x (encSrc a) (encSrc b) 0
  | .mad f x a b c => encA 0x08 (encInt f) x (encSrc a) (encSrc b) (encSrc c)
  | .neg f x a => encA 0x09 (encInt f) x (encSrc a) 0 0
  | .abs f x a => encA 0x0A (encInt f) x (encSrc a) 0 0
  | .min f x a b => encA 0x0B (encInt f) x (encSrc a) (encSrc b) 0
  | .max f x a b => encA 0x0C (encInt f) x (encSrc a) (encSrc b) 0
  | .sel x a b c => encA 0x0D 0 x (encSrc a) (encSrc b) (encSrc c)
  | .lea n sh x a b => encA 0x0E (8 * encBool n + sh) x (encPair a) (encSrc b) 0
  | .add64 x a b => encA 0x0F 0 x (encPair a) (encPair b) 0
  | .and x a b => encA 0x10 0 x (encSrc a) (encSrc b) 0
  | .or x a b => encA 0x11 0 x (encSrc a) (encSrc b) 0
  | .xor x a b => encA 0x12 0 x (encSrc a) (encSrc b) 0
  | .not x a => encA 0x13 0 x (encSrc a) 0 0
  | .shl x a b => encA 0x14 0 x (encSrc a) (encSrc b) 0
  | .shr x a b => encA 0x15 0 x (encSrc a) (encSrc b) 0
  | .sar x a b => encA 0x16 0 x (encSrc a) (encSrc b) 0
  | .rot r x a b => encA 0x17 (encBool r) x (encSrc a) (encSrc b) 0
  | .clz x a => encA 0x18 0 x (encSrc a) 0 0
  | .popc x a => encA 0x19 0 x (encSrc a) 0 0
  | .brev x a => encA 0x1A 0 x (encSrc a) 0 0
  | .bfe s x a b c => encA 0x1B (encBool s) x (encSrc a) (encSrc b) (encSrc c)
  | .bfi x a b c => encA 0x1C 0 x (encSrc a) (encSrc b) (encSrc c)
  | .cmp k x a b => encA 0x1D (codeIn condCodes k) x (encSrc a) (encSrc b) 0
  | .vtag t x a => encA 0x1E (codeIn tagCodes t) x (encSrc a) 0 0
  | .sub64 x a b => encA 0x1F 0 x (encPair a) (encPair b) 0
  | .fadd rm x a b => encA 0x20 (codeIn rmCodes rm) x (encSrc a) (encSrc b) 0
  | .fsub rm x a b => encA 0x21 (codeIn rmCodes rm) x (encSrc a) (encSrc b) 0
  | .fmul rm x a b => encA 0x22 (codeIn rmCodes rm) x (encSrc a) (encSrc b) 0
  | .ffma rm x a b c => encA 0x23 (codeIn rmCodes rm) x (encSrc a) (encSrc b) (encSrc c)
  | .fmin n x a b => encA 0x24 (encBool n) x (encSrc a) (encSrc b) 0
  | .fmax n x a b => encA 0x25 (encBool n) x (encSrc a) (encSrc b) 0
  | .fabs x a => encA 0x26 0 x (encSrc a) 0 0
  | .fneg x a => encA 0x27 0 x (encSrc a) 0 0
  | .fcmp k x a b => encA 0x28 (codeIn fCondCodes k) x (encSrc a) (encSrc b) 0
  | .frnd e rm x a => encA 0x29 (4 * encBool e + codeIn rmCodes rm) x (encSrc a) 0 0
  | .fcsgn x a b => encA 0x2A 0 x (encSrc a) (encSrc b) 0
  | .fclass x a => encA 0x2B 0 x (encSrc a) 0 0
  | .fdiv rm x a b => encA 0x2C (codeIn rmCodes rm) x (encSrc a) (encSrc b) 0
  | .fsqrt rm x a => encA 0x2D (codeIn rmCodes rm) x (encSrc a) 0 0
  | .frcp rm x a => encA 0x2E (codeIn rmCodes rm) x (encSrc a) 0 0
  | .frsq rm x a => encA 0x2F (codeIn rmCodes rm) x (encSrc a) 0 0
  | .fexp2 rm x a => encA 0x30 (codeIn rmCodes rm) x (encSrc a) 0 0
  | .flog2 rm x a => encA 0x31 (codeIn rmCodes rm) x (encSrc a) 0 0
  | .ffract x a => encA 0x32 0 x (encSrc a) 0 0
  | .hadd rm x a b => encA 0x33 (codeIn rmCodes rm) x (encSrc a) (encSrc b) 0
  | .hsub rm x a b => encA 0x34 (codeIn rmCodes rm) x (encSrc a) (encSrc b) 0
  | .hmul rm x a b => encA 0x35 (codeIn rmCodes rm) x (encSrc a) (encSrc b) 0
  | .hfma rm x a b c => encA 0x36 (codeIn rmCodes rm) x (encSrc a) (encSrc b) (encSrc c)
  | .hmin n x a b => encA 0x37 (encBool n) x (encSrc a) (encSrc b) 0
  | .hmax n x a b => encA 0x38 (encBool n) x (encSrc a) (encSrc b) 0
  | .hcmp k x a b => encA 0x39 (codeIn fCondCodes k) x (encSrc a) (encSrc b) 0
  | .cvt tf ff rm x a q =>
    encA 0x40 (codeIn rndCodes rm) x (encSrc a) q (codeIn cvtFmtCodes tf * 32 + codeIn cvtFmtCodes ff)
  | .cvtb tf rm r x a n b =>
    encA 0x41 (8 * encBool r + codeIn rndCodes rm) x a (encSrc b) (codeIn cvtFmtCodes tf * 32 + (n - 1))
  | .pack f ah bh x a b =>
    encA 0x42 (8 * encBool bh + 4 * encBool ah + codeIn packFmtCodes f) x (encSrc a) (encSrc b) 0
  | .unpack f x a b => encA 0x43 (codeIn packFmtCodes f) x (encSrc a) (encSrc b) 0
  | .rngx x a b => encA 0x44 0 x a b 0
  | .shfl m x a b c => encA 0x50 (codeIn shflModeCodes m) x (encSrc a) (encSrc b) (encSrc c)
  | .vote m x a => encA 0x51 (codeIn voteModeCodes m) x (encSrc a) 0 0
  | .ballot x a => encA 0x52 0 x (encSrc a) 0 0
  | .scan op ex x a => encA 0x53 (8 * encBool ex + codeIn foldOpCodes op) x (encSrc a) 0 0
  | .red op x a => encA 0x54 (codeIn foldOpCodes op) x (encSrc a) 0 0
  | .ld k os h l d a => encL 0x60 (encSpace os a) l d (encAddrA a) (encAddrB a) (4 * encLdKind k + codeIn hintCodes h)
  | .st k os h l d a => encL 0x61 (encSpace os a) l d (encAddrA a) (encAddrB a) (4 * encStKind k + codeIn hintCodes h)
  | .ldw t os h l d a =>
    encL 0x62 (encSpace os a) l d (encAddrA a) (encAddrB a) (4 * codeIn tagCodes t + codeIn hintCodes h)
  | .stw os h l d a => encL 0x63 (encSpace os a) l d (encAddrA a) (encAddrB a) (codeIn hintCodes h)
  | .ldf t os l d a b => encL 0x64 (encOs os) l d (encSrc a) (encSrc b) (4 * codeIn tagCodes t)
  | .stf os l d a b => encL 0x65 (encOs os) l d (encSrc a) (encSrc b) 0
  | .fset full l a b => encL 0x66 (encBool full) l 0 (encSrc a) (encSrc b) 0
  | .fpush os l d a b => encL 0x67 (encOs os) l d (encSrc a) (encSrc b) 0
  | .fpop t os l d a b => encL 0x68 (encOs os) l d (encSrc a) (encSrc b) (4 * codeIn tagCodes t)
  | .pref lv l a b => encL 0x69 (codeIn prefLevelCodes lv) l 0 a (encSrc b) 0
  | .lline l d a b => encL 0x6A 0 l d a (encSrc b) 0
  | .uline l d a b => encL 0x6B 0 l d a (encSrc b) 0
  | .bankset m l d a => encL 0x6C (codeIn bankModeCodes m) l d (encSrc a) 0 0
  | .atom op o l d a b => encL 0x70 (codeIn atomOpCodes op) l d (encPlaceA a) (encArg b) (encPlaceE b.is64 o a)
  | .cas o l d a b => encL 0x71 0 l d (encPlaceA a) (encArg b) (encPlaceE b.is64 o a)
  | .atomf rm o l d a b => encL 0x72 (codeIn rmCodes rm) l d (encPlaceA a) (encSrc b) (encPlaceE false o a)
  | .xadd h o l a b => encL 0x73 (encBool h) l 0 (encPlaceA a) (encSrc b) (encPlaceE false o a)
  | .xget h rm o l d a =>
    encL 0x74 (4 * encBool h + codeIn rmCodes rm) l d (encPlaceA a) 0 (encPlaceE false o a)
  | .xclr o l a => encL 0x75 0 l 0 (encPlaceA a) 0 (encPlaceE false o a)
  | .fence k x l => encL 0x80 (codeIn fenceKindCodes k) l 0 0 0 (codeIn scopeCodes x)
  | .barInitArr l b a => encL 0x81 0 l 0 (encSrc a) 0 b
  | .barInitRows l b a c => encL 0x81 1 l 0 (encSrc a) (encSrc c) b
  | .barArrive x l b d => encL 0x81 (2 + encBool x) l d 0 0 b
  | .barWait x l b a => encL 0x81 (4 + encBool x) l 0 (encSrc a) 0 b
  | .barSync x l b => encL 0x81 (6 + encBool x) l 0 0 0 b
  | .barDrop l b a => encL 0x81 8 l 0 (encSrc a) 0 b
  | .barTest l b d a => encL 0x81 9 l d (encSrc a) 0 b
  | .barStat l b d => encL 0x81 10 l d 0 0 b
  | .barFree l b => encL 0x81 11 l 0 0 0 b
  | .jnew l k d => encL 0x82 0 l d 0 0 k
  | .join l k d a => encL 0x83 0 l d (encSrc a) 0 k
  | .leave l k => encL 0x84 0 l 0 0 0 k
  | .jrank l k d => encL 0x85 0 l d 0 0 k
  | .jsize g l k d => encL 0x86 (encBool g) l d 0 0 k
  | .jbar x l k => encL 0x87 0 l 0 0 0 (k + 4 * encBool x)
  | .jscan op ex x l k d a => encL 0x88 (8 * encBool ex + codeIn foldOpCodes op) l d (encSrc a) 0 (k + 4 * encBool x)
  | .jred op x l k d a => encL 0x89 (codeIn foldOpCodes op) l d (encSrc a) 0 (k + 4 * encBool x)
  | .tall f s l r => encL 0x90 (codeIn tileFmtCodes f) l r.code 0 0 s
  | .tfree l r => encL 0x91 0 l r.code 0 0 0
  | .tzero l r => encL 0x92 0 l r.code 0 0 0
  | .tload l r a b => encL 0x93 0 l r.code a (encSrc b) 0
  | .ctr f s an bn l r a b => encL 0x94 (codeIn tileFmtCodes f) l (r.code + 16 * encBool an + 32 * encBool bn) a b s
  | .tdrain f rm keep l r d a q =>
    encL 0x95 (8 * encBool keep + codeIn rndCodes rm) l d a q (16 * codeIn drainFmtCodes f + r.code)
  | .cpb cls at' l d r c => encL 0xA0 (cls + 4 * (encAttach at').1) l d r c (encAttach at').2
  | .cpg cls at' l d r c => encL 0xA1 (cls + 4 * (encAttach at').1) l d r c (encAttach at').2
  | .cps cls at' l d r c => encL 0xA2 (cls + 4 * (encAttach at').1) l d r c (encAttach at').2
  | .cpf cls at' l d r c => encL 0xA3 (cls + 4 * (encAttach at').1) l d r c (encAttach at').2
  | .cqf cls mask l d => encL 0xA4 cls l d 0 0 mask
  | .aset l d a b => encL 0xB0 0 l d (encSrc a) (encSrc b) 0
  | .anoise l d a b => encL 0xB1 0 l d (encSrc a) (encSrc b) 0
  | .aadd l d x y => encL 0xB2 0 l (16 * x + d) 0 0 (8 * y)
  | .asub l d x y => encL 0xB3 0 l (16 * x + d) 0 0 (8 * y)
  | .aneg l d x => encL 0xB4 0 l (16 * x + d) 0 0 0
  | .ascl l d x a => encL 0xB5 0 l (16 * x + d) (encSrc a) 0 0
  | .aaddc l d x a => encL 0xB6 0 l (16 * x + d) (encSrc a) 0 0
  | .amul l d x y => encL 0xB7 0 l (16 * x + d) 0 0 (8 * y)
  | .aquant f rm l d x => encL 0xB8 (codeIn rmCodes rm) l (16 * x + d) 0 0 (codeIn quantFmtCodes f)
  | .acond l d x a => encL 0xB9 0 l (16 * x + d) (encSrc a) 0 0
  | .aget f l d y => encL 0xBA (codeIn agetFormCodes f) l d 0 0 (8 * y)
  | .ald os l d a => encL 0xBB (encSpace os a) l d (encAddrA a) (encAddrB a) 0
  | .ast os l y a => encL 0xBC (encSpace os a) l 0 (encAddrA a) (encAddrB a) (8 * y)
  | .asymn c l d => encL 0xBD (encBool c) l d 0 0 0
  | .amode f l d =>
    match f with
    | .get => encL 0xBE 0 l d 0 0 0
    | .set a => encL 0xBE 1 l d (encSrc a) 0 0
  | .cap l k e f n =>
    match e with
    | .pair p => encL 0xC0 k l f p 0 n
    | .literal x => some ⟨wordOf 0xC0 (8 + k) l.pred (lowL f 0 0 n l), x.toNat⟩
  | .capr l k a b => encL 0xC1 k l 0 (encSrc a) (encSrc b) 0
  | .kdup l kd ks => encL 0xC2 kd l 0 0 0 ks
  | .kdrop l k => encL 0xC3 k l 0 0 0 0
  | .kst os l k a => encL 0xC4 (encSpace os a) l 0 (encAddrA a) (encAddrB a) k
  | .kld os l k a => encL 0xC5 (encSpace os a) l 0 (encAddrA a) (encAddrB a) k
  | .apply p k size => encL 0xC6 0 (bare p) size 0 0 k
  | .spawn l d k a => encL 0xC7 0 l d (encPair a) 0 k
  | .kinfo f l d k => encL 0xC8 (codeIn kinfoFormCodes f) l d 0 0 k
  | .bra y p disp hint => encB 0xE0 (encBool y) p 0 disp hint
  | .jmp p t hint => encB 0xE1 0 p t 0 hint
  | .call p size disp => encB 0xE2 0 p size disp 0
  | .calli p t size => encB 0xE3 0 p t size 0
  | .ret p => encB 0xE4 0 p 0 0 0
  | .exit p => encB 0xE5 0 p 0 0 0
  | .yield p => encB 0xE6 0 p 0 0 0
  | .brk p code => encB 0xE7 0 p 0 code 0
  | .trap p code => encS 0xF0 0 (bare p) 0 0 code
  | .rte w p => encS 0xF1 (encBool w) (bare p) 0 0 0
  | .csrr l d csr => encS 0xF2 0 l d 0 csr
  | .csrw l d csr a => encS 0xF3 0 l d (encSrc a) csr
  | .tins l d s => encS 0xF4 0 l d 0 s
  | .tset l d s a => encS 0xF5 0 l d (encSrc a) s
  | .tresGo l d => encS 0xF6 0 l d 0 0
  | .tresHold l d => encS 0xF6 1 l d 0 0
  | .tresKill l d => encS 0xF6 2 l d 0 0
  | .tstep l d => encS 0xF7 0 l d 0 0
  | .tswap p => encS 0xF8 0 (bare p) 0 0 0
  | .gettime l d => encS 0xF9 0 l d 0 0
  | .sleep l t =>
    match t with
    | .abs a => encS 0xFA 0 l 0 (encPair a) 0
    | .rel a => encS 0xFA 1 l 0 (encSrc a) 0
  | .gatherPointRelease .. | .fenceCompletion .. | .holdBufferLeave .. | .rollback .. | .contractionStart ..
  | .commandStart .. | .chunk .. | .copyCompletion .. | .sleepWakeup .. | .schedulerRound .. | .braidAged ..
  | .longLatencyCompletion .. | .slackReturn .. | .eventApplication .. | .trapDelivery .. | .swapIn ..
  | .doorbell .. | .wridxPoll .. | .queueMap .. | .queueUnmap .. | .skipPacket .. | .launchPacket .. | .waitPacket ..
  | .signalPacket .. | .applyPacket .. | .fencePacket .. | .signalChange .. | .timedLaunchStart ..
  | .timeSliceExpiry .. | .hankPlacement .. | .neighbourhoodPlacement .. | .hankRetirement .. | .launchCompletion ..
  | .tlbMissWalk .. | .faultRingSpaceFreed .. | .faultdone .. | .tlbinvPage .. | .tlbinvContext .. | .tlbinvAll
  | .createContext | .activate | .suspend | .resume | .recover | .destroy | .createQueue | .preEmptQueue
  | .resumeQueue | .acknowledgeQueueFault | .destroyQueue | .enterTestMode | .enterServiceMode | .featofferWrite ..
  | .pkgidWrite .. | .rangeRegisterWrite .. | .hostRegisterWrite .. | .unsupportedRequest .. | .hostHbmAccess ..
  | .pcieCompletionTimeout .. | .linkEnable .. | .linkDisable .. | .flitReceived .. | .replayRequest ..
  | .replayLimit .. | .laneLoss .. | .trainingEnds .. | .trainingTimeout .. | .linkTimeout .. | .telemetrySample ..
  | .thermalTrip .. | .powerOn | .reset | .bootCompletes .. | .noImageVerifies | .heartbeatTimeout | .ptpMessage ..
  | .attestationReport .. | .unknownOpCommand => none

/-! ## Decoding -/

/-- Why a word is refused. Every reason is an illegal-instruction trap (02 R52). -/
inductive DecodeError where
  /-- an unassigned op value -/
  | unassignedOp
  /-- op 0xD0 to 0xDF in an instruction position -/
  | headerSpace
  /-- an fn value, source, format, scope or kind code that no table assigns -/
  | unassignedField
  /-- a check of R52 on the fields taken together -/
  | illFormed
  /-- a nonzero reserved bit or unused field -/
  | reservedBit
  deriving DecidableEq, Repr, Inhabited

/-- The value of a code that must be zero. -/
def zeroFn {α : Type} (fn : Nat) (x : α) : Option α := if fn = 0 then some x else none

def readA1 (f : Fields) (k : Src → Instr) : Option Instr := do some (k (← decSrc f.a))
def readA2 (f : Fields) (k : Src → Src → Instr) : Option Instr := do some (k (← decSrc f.a) (← decSrc f.b))
def readA3 (f : Fields) (k : Src → Src → Src → Instr) : Option Instr := do
  some (k (← decSrc f.a) (← decSrc f.b) (← decSrc f.c))

/-- Group 0x00 (08 R144 to R151). -/
def read00 (f : Fields) (x : Nat) : Option Instr :=
  match f.op % 16 with
  | 0 => some .nop
  | 1 => do zeroFn f.fn (← readA1 f (.mov f.dst))
  | 2 => do some (.movi (← moviFormCodes[f.fn]?) f.pred f.d f.imm)
  | 3 => match f.fn with
    | 0 => do some (.movx (.tagged (← tagCodes[f.imm]?)) f.pred f.d (BitVec.ofNat 64 x))
    | 1 => some (.movx .pair f.pred f.d (BitVec.ofNat 64 x))
    | _ => none
  | 4 => do readA2 f (.add (← decInt f.fn) f.dst)
  | 5 => do readA2 f (.sub (← decInt f.fn) f.dst)
  | 6 => do readA2 f (.mul (← decInt f.fn) f.dst)
  | 7 => do readA2 f (.mulh (← decBool f.fn) f.dst)
  | 8 => do readA3 f (.mad (← decInt f.fn) f.dst)
  | 9 => do readA1 f (.neg (← decInt f.fn) f.dst)
  | 10 => do readA1 f (.abs (← decInt f.fn) f.dst)
  | 11 => do readA2 f (.min (← decInt f.fn) f.dst)
  | 12 => do readA2 f (.max (← decInt f.fn) f.dst)
  | 13 => do zeroFn f.fn (← readA3 f (.sel f.dst))
  | 14 => do some (.lea (decide (8 ≤ f.fn)) (f.fn % 8) f.dst (← decPair f.a) (← decSrc f.b))
  | 15 => do zeroFn f.fn (.add64 f.dst (← decPair f.a) (← decPair f.b))
  | _ => none

/-- Group 0x10 (08 R151 to R154). -/
def read10 (f : Fields) : Option Instr :=
  match f.op % 16 with
  | 0 => do zeroFn f.fn (← readA2 f (.and f.dst))
  | 1 => do zeroFn f.fn (← readA2 f (.or f.dst))
  | 2 => do zeroFn f.fn (← readA2 f (.xor f.dst))
  | 3 => do zeroFn f.fn (← readA1 f (.not f.dst))
  | 4 => do zeroFn f.fn (← readA2 f (.shl f.dst))
  | 5 => do zeroFn f.fn (← readA2 f (.shr f.dst))
  | 6 => do zeroFn f.fn (← readA2 f (.sar f.dst))
  | 7 => do readA2 f (.rot (← decBool f.fn) f.dst)
  | 8 => do zeroFn f.fn (← readA1 f (.clz f.dst))
  | 9 => do zeroFn f.fn (← readA1 f (.popc f.dst))
  | 10 => do zeroFn f.fn (← readA1 f (.brev f.dst))
  | 11 => do readA3 f (.bfe (← decBool f.fn) f.dst)
  | 12 => do zeroFn f.fn (← readA3 f (.bfi f.dst))
  | 13 => do readA2 f (.cmp (← condCodes[f.fn]?) f.dst)
  | 14 => do readA1 f (.vtag (← tagCodes[f.fn]?) f.dst)
  | 15 => do zeroFn f.fn (.sub64 f.dst (← decPair f.a) (← decPair f.b))
  | _ => none

/-- Group 0x20 (08 R156 to R162). -/
def read20 (f : Fields) : Option Instr :=
  match f.op % 16 with
  | 0 => do readA2 f (.fadd (← rmCodes[f.fn]?) f.dst)
  | 1 => do readA2 f (.fsub (← rmCodes[f.fn]?) f.dst)
  | 2 => do readA2 f (.fmul (← rmCodes[f.fn]?) f.dst)
  | 3 => do readA3 f (.ffma (← rmCodes[f.fn]?) f.dst)
  | 4 => do readA2 f (.fmin (← decBool f.fn) f.dst)
  | 5 => do readA2 f (.fmax (← decBool f.fn) f.dst)
  | 6 => do zeroFn f.fn (← readA1 f (.fabs f.dst))
  | 7 => do zeroFn f.fn (← readA1 f (.fneg f.dst))
  | 8 => do readA2 f (.fcmp (← fCondCodes[f.fn]?) f.dst)
  | 9 => do readA1 f (.frnd (← decBool (f.fn / 4)) (← rmCodes[f.fn % 4]?) f.dst)
  | 10 => do zeroFn f.fn (← readA2 f (.fcsgn f.dst))
  | 11 => do zeroFn f.fn (← readA1 f (.fclass f.dst))
  | 12 => do readA2 f (.fdiv (← rmCodes[f.fn]?) f.dst)
  | 13 => do readA1 f (.fsqrt (← rmCodes[f.fn]?) f.dst)
  | 14 => do readA1 f (.frcp (← rmCodes[f.fn]?) f.dst)
  | 15 => do readA1 f (.frsq (← rmCodes[f.fn]?) f.dst)
  | _ => none

/-- Group 0x30 (08 R156, R161, R163). -/
def read30 (f : Fields) : Option Instr :=
  match f.op % 16 with
  | 0 => do readA1 f (.fexp2 (← rmCodes[f.fn]?) f.dst)
  | 1 => do readA1 f (.flog2 (← rmCodes[f.fn]?) f.dst)
  | 2 => do zeroFn f.fn (← readA1 f (.ffract f.dst))
  | 3 => do readA2 f (.hadd (← rmCodes[f.fn]?) f.dst)
  | 4 => do readA2 f (.hsub (← rmCodes[f.fn]?) f.dst)
  | 5 => do readA2 f (.hmul (← rmCodes[f.fn]?) f.dst)
  | 6 => do readA3 f (.hfma (← rmCodes[f.fn]?) f.dst)
  | 7 => do readA2 f (.hmin (← decBool f.fn) f.dst)
  | 8 => do readA2 f (.hmax (← decBool f.fn) f.dst)
  | 9 => do readA2 f (.hcmp (← fCondCodes[f.fn]?) f.dst)
  | _ => none

/-- Group 0x40 (08 R165 to R169). -/
def read40 (f : Fields) : Option Instr :=
  match f.op % 16 with
  | 0 => do some (.cvt (← cvtFmtCodes[f.c / 32]?) (← cvtFmtCodes[f.c % 32]?) (← rndCodes[f.fn]?) f.dst (← decSrc f.a)
      (← decReg f.b))
  | 1 => do some (.cvtb (← cvtFmtCodes[f.c / 32]?) (← rndCodes[f.fn % 8]?) (decide (8 ≤ f.fn)) f.dst (← decReg f.a)
      (f.c % 32 + 1) (← decSrc f.b))
  | 2 => do readA2 f (.pack (← packFmtCodes[f.fn % 4]?) (decide (f.fn / 4 % 2 = 1)) (decide (8 ≤ f.fn)) f.dst)
  | 3 => do readA2 f (.unpack (← packFmtCodes[f.fn]?) f.dst)
  | 4 => do zeroFn f.fn (.rngx f.dst (← decReg f.a) (← decReg f.b))
  | _ => none

/-- Group 0x50 (07 R138 to R140). -/
def read50 (f : Fields) : Option Instr :=
  match f.op % 16 with
  | 0 => do readA3 f (.shfl (← shflModeCodes[f.fn]?) f.dst)
  | 1 => do readA1 f (.vote (← voteModeCodes[f.fn]?) f.dst)
  | 2 => do zeroFn f.fn (← readA1 f (.ballot f.dst))
  | 3 => do readA1 f (.scan (← foldOpCodes[f.fn % 8]?) (decide (8 ≤ f.fn)) f.dst)
  | 4 => do readA1 f (.red (← foldOpCodes[f.fn]?) f.dst)
  | _ => none

/-- Group 0x60 (10 R196 to R204). -/
def read60 (f : Fields) : Option Instr :=
  match f.op % 16 with
  | 0 => do some (.ld (← decLdKind (f.e / 4)) (← decOs (f.fn % 8)) (← hintCodes[f.e % 4]?) f.long f.d (← decAddr f.fn f.a f.b))
  | 1 => do some (.st (← decStKind (f.e / 4)) (← decOs (f.fn % 8)) (← hintCodes[f.e % 4]?) f.long f.d (← decAddr f.fn f.a f.b))
  | 2 => do some (.ldw (← tagCodes[f.e / 4]?) (← decOs (f.fn % 8)) (← hintCodes[f.e % 4]?) f.long f.d (← decAddr f.fn f.a f.b))
  | 3 => do some (.stw (← decOs (f.fn % 8)) (← hintCodes[f.e % 4]?) f.long f.d (← decAddr f.fn f.a f.b))
  | 4 => do some (.ldf (← tagCodes[f.e / 4]?) (← decOs f.fn) f.long f.d (← decSrc f.a) (← decSrc f.b))
  | 5 => do some (.stf (← decOs f.fn) f.long f.d (← decSrc f.a) (← decSrc f.b))
  | 6 => do some (.fset (← decBool f.fn) f.long (← decSrc f.a) (← decSrc f.b))
  | 7 => do some (.fpush (← decOs f.fn) f.long f.d (← decSrc f.a) (← decSrc f.b))
  | 8 => do some (.fpop (← tagCodes[f.e / 4]?) (← decOs f.fn) f.long f.d (← decSrc f.a) (← decSrc f.b))
  | 9 => do some (.pref (← prefLevelCodes[f.fn]?) f.long (← decReg f.a) (← decSrc f.b))
  | 10 => do zeroFn f.fn (.lline f.long f.d (← decReg f.a) (← decSrc f.b))
  | 11 => do zeroFn f.fn (.uline f.long f.d (← decReg f.a) (← decSrc f.b))
  | 12 => do some (.bankset (← bankModeCodes[f.fn]?) f.long f.d (← decSrc f.a))
  | _ => none

/-- Group 0x70 (10 R205 to R210). -/
def read70 (f : Fields) : Option Instr :=
  match f.op % 16 with
  | 0 => do some (.atom (← atomOpCodes[f.fn]?) (← decOrder (f.e % 32)) f.long f.d (← decPlace f.e f.a) (← decArg f.e f.b))
  | 1 => do zeroFn f.fn (.cas (← decOrder (f.e % 32)) f.long f.d (← decPlace f.e f.a) (← decArg f.e f.b))
  | 2 => do some (.atomf (← rmCodes[f.fn]?) (← decOrder (f.e % 32)) f.long f.d (← decPlace f.e f.a) (← decSrc f.b))
  | 3 => do some (.xadd (← decBool f.fn) (← decOrder (f.e % 32)) f.long (← decPlace f.e f.a) (← decSrc f.b))
  | 4 => do some (.xget (← decBool (f.fn / 4)) (← rmCodes[f.fn % 4]?) (← decOrder (f.e % 32)) f.long f.d (← decPlace f.e f.a))
  | 5 => do zeroFn f.fn (.xclr (← decOrder (f.e % 32)) f.long (← decPlace f.e f.a))
  | _ => none

/-- The bar forms (13 R254). -/
def readBar (f : Fields) : Option Instr :=
  match f.fn with
  | 0 => do some (.barInitArr f.long f.e (← decSrc f.a))
  | 1 => do some (.barInitRows f.long f.e (← decSrc f.a) (← decSrc f.b))
  | 2 => some (.barArrive false f.long f.e f.d)
  | 3 => some (.barArrive true f.long f.e f.d)
  | 4 => do some (.barWait false f.long f.e (← decSrc f.a))
  | 5 => do some (.barWait true f.long f.e (← decSrc f.a))
  | 6 => some (.barSync false f.long f.e)
  | 7 => some (.barSync true f.long f.e)
  | 8 => do some (.barDrop f.long f.e (← decSrc f.a))
  | 9 => do some (.barTest f.long f.e f.d (← decSrc f.a))
  | 10 => some (.barStat f.long f.e f.d)
  | 11 => some (.barFree f.long f.e)
  | _ => none

/-- Group 0x80 (11 R225, 13 R254, 12 R244). -/
def read80 (f : Fields) : Option Instr :=
  match f.op % 16 with
  | 0 => do some (.fence (← fenceKindCodes[f.fn]?) (← scopeCodes[f.e]?) f.long)
  | 1 => readBar f
  | 2 => zeroFn f.fn (.jnew f.long f.e f.d)
  | 3 => do zeroFn f.fn (.join f.long f.e f.d (← decSrc f.a))
  | 4 => zeroFn f.fn (.leave f.long f.e)
  | 5 => zeroFn f.fn (.jrank f.long f.e f.d)
  | 6 => do some (.jsize (← decBool f.fn) f.long f.e f.d)
  | 7 => do zeroFn f.fn (.jbar (← decBool (f.e / 4)) f.long (f.e % 4))
  | 8 => do some (.jscan (← foldOpCodes[f.fn % 8]?) (decide (8 ≤ f.fn)) (← decBool (f.e / 4)) f.long (f.e % 4) f.d (← decSrc f.a))
  | 9 => do some (.jred (← foldOpCodes[f.fn]?) (← decBool (f.e / 4)) f.long (f.e % 4) f.d (← decSrc f.a))
  | _ => none

/-- The knot slot and tile slot in four bits (14 R262). -/
def tileOf (n : Nat) : TileRef := ⟨n / 4 % 4, n % 4⟩

/-- Group 0x90 (14 R262). -/
def read90 (f : Fields) : Option Instr :=
  match f.op % 16 with
  | 0 => do some (.tall (← tileFmtCodes[f.fn]?) f.e f.long (tileOf f.d))
  | 1 => zeroFn f.fn (.tfree f.long (tileOf f.d))
  | 2 => zeroFn f.fn (.tzero f.long (tileOf f.d))
  | 3 => do zeroFn f.fn (.tload f.long (tileOf f.d) (← decReg f.a) (← decSrc f.b))
  | 4 => do some (.ctr (← tileFmtCodes[f.fn]?) f.e (decide (f.d / 16 % 2 = 1)) (decide (f.d / 32 % 2 = 1)) f.long
      (tileOf f.d) (← decReg f.a) (← decReg f.b))
  | 5 => do some (.tdrain (← drainFmtCodes[f.e / 16]?) (← rndCodes[f.fn % 8]?) (decide (8 ≤ f.fn)) f.long (tileOf f.e)
      f.d (← decReg f.a) (← decReg f.b))
  | _ => none

/-- Group 0xA0 (15 R285). -/
def readA0 (f : Fields) : Option Instr :=
  match f.op % 16 with
  | 0 => do some (.cpb (f.fn % 4) (← decAttach (f.fn / 4) f.e) f.long f.d (← decReg f.a) (← decReg f.b))
  | 1 => do some (.cpg (f.fn % 4) (← decAttach (f.fn / 4) f.e) f.long f.d (← decReg f.a) (← decReg f.b))
  | 2 => do some (.cps (f.fn % 4) (← decAttach (f.fn / 4) f.e) f.long f.d (← decReg f.a) (← decReg f.b))
  | 3 => do some (.cpf (f.fn % 4) (← decAttach (f.fn / 4) f.e) f.long f.d (← decReg f.a) (← decReg f.b))
  | 4 => some (.cqf f.fn f.e f.long f.d)
  | _ => none

/-- Group 0xB0 (16 R300). -/
def readB0 (f : Fields) : Option Instr :=
  match f.op % 16 with
  | 0 => do zeroFn f.fn (.aset f.long f.d (← decSrc f.a) (← decSrc f.b))
  | 1 => do zeroFn f.fn (.anoise f.long f.d (← decSrc f.a) (← decSrc f.b))
  | 2 => zeroFn f.fn (.aadd f.long (f.d % 16) (f.d / 16) (f.e / 8))
  | 3 => zeroFn f.fn (.asub f.long (f.d % 16) (f.d / 16) (f.e / 8))
  | 4 => zeroFn f.fn (.aneg f.long (f.d % 16) (f.d / 16))
  | 5 => do zeroFn f.fn (.ascl f.long (f.d % 16) (f.d / 16) (← decSrc f.a))
  | 6 => do zeroFn f.fn (.aaddc f.long (f.d % 16) (f.d / 16) (← decSrc f.a))
  | 7 => zeroFn f.fn (.amul f.long (f.d % 16) (f.d / 16) (f.e / 8))
  | 8 => do some (.aquant (← quantFmtCodes[f.e]?) (← rmCodes[f.fn]?) f.long (f.d % 16) (f.d / 16))
  | 9 => do zeroFn f.fn (.acond f.long (f.d % 16) (f.d / 16) (← decSrc f.a))
  | 10 => do some (.aget (← agetFormCodes[f.fn]?) f.long f.d (f.e / 8))
  | 11 => do some (.ald (← decOs (f.fn % 8)) f.long f.d (← decAddr f.fn f.a f.b))
  | 12 => do some (.ast (← decOs (f.fn % 8)) f.long (f.e / 8) (← decAddr f.fn f.a f.b))
  | 13 => do some (.asymn (← decBool f.fn) f.long f.d)
  | 14 => match f.fn with
    | 0 => some (.amode .get f.long f.d)
    | 1 => do some (.amode (.set (← decSrc f.a)) f.long f.d)
    | _ => none
  | _ => none

/-- Group 0xC0 (17 R318). -/
def readC0 (f : Fields) (x : Nat) : Option Instr :=
  match f.op % 16 with
  | 0 => if f.fn < 8 then do some (.cap f.long f.fn (.pair (← decReg f.a)) f.d f.e)
         else some (.cap f.long (f.fn - 8) (.literal (BitVec.ofNat 64 x)) f.d f.e)
  | 1 => do some (.capr f.long f.fn (← decSrc f.a) (← decSrc f.b))
  | 2 => some (.kdup f.long f.fn f.e)
  | 3 => some (.kdrop f.long f.fn)
  | 4 => do some (.kst (← decOs (f.fn % 8)) f.long f.e (← decAddr f.fn f.a f.b))
  | 5 => do some (.kld (← decOs (f.fn % 8)) f.long f.e (← decAddr f.fn f.a f.b))
  | 6 => zeroFn f.fn (.apply f.pred f.e f.d)
  | 7 => do zeroFn f.fn (.spawn f.long f.d f.e (← decPair f.a))
  | 8 => do some (.kinfo (← kinfoFormCodes[f.fn]?) f.long f.d f.e)
  | _ => none

/-- Group 0xE0 (07 R128). -/
def readE0 (f : Fields) : Option Instr :=
  match f.op % 16 with
  | 0 => do some (.bra (← decBool f.fn) f.pred f.disp f.hint)
  | 1 => zeroFn f.fn (.jmp f.pred f.d f.hint)
  | 2 => zeroFn f.fn (.call f.pred f.d f.disp)
  | 3 => zeroFn f.fn (.calli f.pred f.d f.disp)
  | 4 => zeroFn f.fn (.ret f.pred)
  | 5 => zeroFn f.fn (.exit f.pred)
  | 6 => zeroFn f.fn (.yield f.pred)
  | 7 => zeroFn f.fn (.brk f.pred f.disp)
  | _ => none

/-- Group 0xF0 (18 R334). -/
def readF0 (f : Fields) : Option Instr :=
  match f.op % 16 with
  | 0 => zeroFn f.fn (.trap f.pred f.csr)
  | 1 => do some (.rte (← decBool f.fn) f.pred)
  | 2 => zeroFn f.fn (.csrr f.long f.d f.csr)
  | 3 => do zeroFn f.fn (.csrw f.long f.d f.csr (← decSrc f.a))
  | 4 => zeroFn f.fn (.tins f.long f.d f.csr)
  | 5 => do zeroFn f.fn (.tset f.long f.d f.csr (← decSrc f.a))
  | 6 => match f.fn with
    | 0 => some (.tresGo f.long f.d)
    | 1 => some (.tresHold f.long f.d)
    | 2 => some (.tresKill f.long f.d)
    | _ => none
  | 7 => zeroFn f.fn (.tstep f.long f.d)
  | 8 => zeroFn f.fn (.tswap f.pred)
  | 9 => zeroFn f.fn (.gettime f.long f.d)
  | 10 => match f.fn with
    | 0 => do some (.sleep f.long (.abs (← decPair f.a)))
    | 1 => do some (.sleep f.long (.rel (← decSrc f.a)))
    | _ => none
  | _ => none

/-- Is op value n assigned? (02 R51) -/
def opAssigned (n : Nat) : Bool :=
  match n / 16 with
  | 0 | 1 | 2 => true
  | 3 => decide (n % 16 < 10)
  | 4 | 5 => decide (n % 16 < 5)
  | 6 => decide (n % 16 < 13)
  | 7 => decide (n % 16 < 6)
  | 8 => decide (n % 16 < 10)
  | 9 => decide (n % 16 < 6)
  | 10 => decide (n % 16 < 5)
  | 11 => decide (n % 16 < 15)
  | 12 => decide (n % 16 < 9)
  | 14 => decide (n % 16 < 8)
  | 15 => decide (n % 16 < 11)
  | _ => false

/-- The instruction that the fields spell, whatever their unused bits hold. -/
def readFields (f : Fields) (x : Nat) : Option Instr :=
  match f.op / 16 with
  | 0 => read00 f x
  | 1 => read10 f
  | 2 => read20 f
  | 3 => read30 f
  | 4 => read40 f
  | 5 => read50 f
  | 6 => read60 f
  | 7 => read70 f
  | 8 => read80 f
  | 9 => read90 f
  | 10 => readA0 f
  | 11 => readB0 f
  | 12 => readC0 f x
  | 14 => readE0 f
  | 15 => readF0 f
  | _ => none

/-- Does a word with these op and fn values take an extension word? (02 R38, 08 R146, 17 R318) -/
def takesExt (op fn : Nat) : Bool := op == 0x03 || (op == 0xC0 && decide (8 ≤ fn))

/-- The instruction in slot word `w`, with `x` the slot word after it. -/
def decode (w x : Nat) : Except DecodeError Instr :=
  let f := fieldsOf w
  if f.op / 16 = 13 then .error .headerSpace
  else if !opAssigned f.op then .error .unassignedOp
  else match readFields f x with
    | none => .error .unassignedField
    | some i =>
      if !i.wf then .error .illFormed
      else if encode i = some ⟨w, if takesExt f.op f.fn then x else 0⟩ then .ok i
      else .error .reservedBit

/-- Numbered as the opcode table numbers them: the slot word in bits [63:0], its extension word in [127:64]. -/
def decodeTableWord (_nbits w : Nat) : Option Instr :=
  match decode (w % 2 ^ 64) (w / 2 ^ 64 % 2 ^ 64) with
  | .ok i => some i
  | .error _ => none

end Sys2Proof
end

