-- ==== Sys2Proof/Config.lean ====
section
/-! DEFINITION. What the spec leaves open: constants without a body, which no proof can evaluate. Each is named in the
assumption log. -/

namespace Sys2Proof.Config

/-- Words of memory that hold an uncorrectable error when a move begins (01 R19; log 39). -/
opaque upsets : Nat → List Nat

/-- Words of host memory whose access ends with an error status (19 R355; log 39). -/
opaque busErrors : Nat → List Nat

/-- How many flits of each numbering port an accepted flit acknowledges, and the write to this package's HBM that it carries, by
the number of moves (19 R348; log 40). -/
opaque flitAcks : Nat → Nat → Nat
opaque remoteWrite : Nat → Option (Nat × List Byte)

/-- The move taken where the agenda is empty, by the number of moves taken (log 1). -/
opaque move : Nat → Move

/-- Arithmetic-clock cycles and nanoseconds that pass before a move (log 2). -/
opaque cycles : Nat → Nat
opaque ns : Nat → Nat

/-- Does a heartbeat of die 0 reach the mirror before a move (20 R363; log 2)? -/
opaque heartbeat : Nat → Bool

/-- Offset of a core's cycle counter, and of a die's copy of device time (18 R406, 01 R18; log 2). -/
opaque coreSkew : Nat → Nat
opaque dieSkew : Nat → Nat

/-- Which of several candidates is taken, where the spec leaves it open: the piece of an access performed next (10 R196,
11 R216), the entry of a new knot (12 R237), the pin released (10 R189), the block that starts (14 R264). Log 7. -/
opaque pick : Nat → Nat

/-- Words that a private layout holds: trap frames and save images (18 R329, 14 R277; log 9). -/
opaque privateByte : Nat → Byte

/-- The images that stand at the locations of R366 at a move, and the work that a boot step takes (20 R363, R366; log 66). -/
opaque bootLocations : Nat → List (List BootImage)
opaque bootNeeds : Nat → Nat

/-- Bytes that the saved state of a hank or a frozen tile takes, and whether an image fails its checks at a resume, by
core and number of moves (04 R84, 14 R277; log 9). -/
opaque saveSize : Nat → Nat
opaque imageFails : Nat → Nat → Bool

/-- Does the predicted current step of a contraction, started now, stay within a slew limit? By limit and number of moves
(20 R359; log 17). -/
opaque slewAllows : Nat → Nat → Bool

/-- The greatest gap of `aquant` to h16 where no pair of adjacent finite values meets the interval, in units of 2^−24,
by centre and radius of the operand (16 R304; log 21). -/
opaque emptyGap : Word → Word → Nat

/-- Signature of a report under identity key 0 or 1 (20 R367; log 16). -/
opaque signature : Nat → Nat → Nat

end Sys2Proof.Config
end

