-- ==== Sys2Proof/Machine/Flags.lean ====
section
/-! DEFINITION. The floating status flags of a strand (spec 03 R55, R56). The rounding functions of Numbers.lean and the
arithmetic there return them; registers and flags are written together (Ops.lean). -/

namespace Sys2Proof.Machine

/-- FSTAT bits [5:0]. -/
abbrev FFlags := BitVec 6

def fNX : FFlags := 1
def fUF : FFlags := 2
def fOF : FFlags := 4
def fDZ : FFlags := 8
def fNV : FFlags := 16
def fIS : FFlags := 32

/-- The flag when the condition holds. -/
def flagIf (b : Bool) (f : FFlags) : FFlags := if b then f else 0

/-- The OR of a list of flag sets (08 R143). -/
def flagsOr (l : List FFlags) : FFlags := l.foldl (· ||| ·) 0

/-- A write of one to a flag clears it (03 R55, 18 R338). -/
def flagsClear (fl : FFlags) (a : Word) : FFlags := fl &&& ~~~(BitVec.ofNat 6 a.toNat)

/-- FSTAT as a CSR reads it: reserved bits 0. -/
def flagsWord (fl : FFlags) : Word := BitVec.ofNat 32 fl.toNat

end Sys2Proof.Machine
end

