-- ==== Sys2Proof/Machine/Numbers.lean ====
section
/-! DEFINITION. The number formats of spec 03: exact values, the rounding functions of R63 to R65, the tapered formats
of R57 to R60, the exact functions of R156. A finite exact value is ± m × 2^e. -/

namespace Sys2Proof.Machine

/-! ## Values -/

/-- What a floating or tapered code or an integer element stands for: a NaN (signalling or not), ±∞, or ± m × 2^e. -/
inductive FVal where
  | nan (signalling : Bool)
  | inf (neg : Bool)
  | fin (neg : Bool) (m : Nat) (e : Int)
  deriving DecidableEq, Repr, Inhabited

namespace FVal

def isNan : FVal → Bool
  | .nan _ => true
  | _ => false

def isSnan : FVal → Bool
  | .nan s => s
  | _ => false

def isFin : FVal → Bool
  | .fin .. => true
  | _ => false

/-- Zero of either sign. -/
def isZero : FVal → Bool
  | .fin _ m _ => m == 0
  | _ => false

/-- The sign bit; a NaN has none. -/
def isNeg : FVal → Bool
  | .nan _ => false
  | .inf n => n
  | .fin n _ _ => n

/-- −x. -/
def negate : FVal → FVal
  | .nan s => .nan s
  | .inf n => .inf (!n)
  | .fin n m e => .fin (!n) m e

/-- An integer, exactly. -/
def ofInt (z : Int) : FVal := .fin (decide (z < 0)) z.natAbs 0

end FVal

/-- ± m × 2^e as an integer multiple of 2^q, for q ≤ e. -/
def scaled (neg : Bool) (m : Nat) (e q : Int) : Int :=
  let v : Int := (m * 2 ^ (e - q).toNat : Nat)
  if neg then -v else v

/-- Order of two finite values: the sign of x − y. -/
def cmpFin (n1 : Bool) (m1 : Nat) (e1 : Int) (n2 : Bool) (m2 : Nat) (e2 : Int) : Int :=
  let q := min e1 e2
  scaled n1 m1 e1 q - scaled n2 m2 e2 q

/-- The exact sum of two finite values; a zero sum of nonzero operands, or of zeros of different sign, takes the sign
`zneg`. -/
def addFin (zneg n1 : Bool) (m1 : Nat) (e1 : Int) (n2 : Bool) (m2 : Nat) (e2 : Int) : FVal :=
  let q := min e1 e2
  let s := scaled n1 m1 e1 q + scaled n2 m2 e2 q
  if s = 0 then .fin (if m1 = 0 ∧ m2 = 0 ∧ n1 = n2 then n1 else zneg) 0 0
  else .fin (decide (s < 0)) s.natAbs q

/-! ## Rounding -/

/-- A rounding of one value: a direction of IEEE 754, or sr with its random 16 bits (03 R65). -/
inductive RMode where
  | rm (r : Rm)
  | sr (u : Nat)
  deriving DecidableEq, Repr, Inhabited

/-- Does a magnitude k + r/d (0 < r < d) round away from zero to k + 1? (03 R54, R65) -/
def RMode.up (m : RMode) (neg : Bool) (k r d : Nat) : Bool :=
  match m with
  | .rm .rne => decide (d < 2 * r ∨ (2 * r = d ∧ k % 2 = 1))
  | .rm .rz => false
  | .rm .ru => !neg
  | .rm .rd => neg
  | .sr u => if neg then decide (¬ u * d < (d - r) * 65536) else decide (u * d < r * 65536)

/-- The direction that stands for the mode where it rounds a value beyond the format (03 R65). -/
def RMode.base : RMode → Rm
  | .rm r => r
  | .sr _ => .rne

/-- m × 2^e rounded to a multiple of 2^q: the multiple, and whether that was inexact. -/
def roundQ (md : RMode) (neg : Bool) (m : Nat) (e q : Int) : Nat × Bool :=
  if q ≤ e then (m * 2 ^ (e - q).toNat, false)
  else
    let d := 2 ^ (q - e).toNat
    let k := m / d
    let r := m % d
    if r = 0 then (k, false) else (if md.up neg k r d then k + 1 else k, true)

/-- A binary format of IEEE 754: exponent bits and fraction bits. -/
structure FFmt where
  eb : Nat
  fb : Nat
  deriving DecidableEq, Repr, Inhabited

def f32 : FFmt := ⟨8, 23⟩
def h16 : FFmt := ⟨5, 10⟩

namespace FFmt

def bias (f : FFmt) : Nat := 2 ^ (f.eb - 1) - 1
def width (f : FFmt) : Nat := f.eb + f.fb + 1
/-- Exponent of the smallest subnormal. -/
def qmin (f : FFmt) : Int := 1 - (f.bias : Int) - f.fb
/-- The canonical quiet NaN (03 R54). -/
def nan (f : FFmt) : Nat := (2 ^ (f.eb + 1) - 1) * 2 ^ (f.fb - 1)
def infinity (f : FFmt) (neg : Bool) : Nat :=
  (2 ^ f.eb - 1) * 2 ^ f.fb + if neg then 2 ^ (f.eb + f.fb) else 0
def zero (f : FFmt) (neg : Bool) : Nat := if neg then 2 ^ (f.eb + f.fb) else 0
def largest (f : FFmt) (neg : Bool) : Nat := f.infinity neg - 1

/-- The value of a code. -/
def decode (f : FFmt) (c : Nat) : FVal :=
  let neg := c.testBit (f.eb + f.fb)
  let ex := c / 2 ^ f.fb % 2 ^ f.eb
  let fr := c % 2 ^ f.fb
  if ex = 2 ^ f.eb - 1 then
    if fr = 0 then .inf neg else .nan (!fr.testBit (f.fb - 1))
  else if ex = 0 then .fin neg fr f.qmin
  else .fin neg (2 ^ f.fb + fr) (f.qmin + ((ex : Int) - 1))

/-- Does ± m × 2^e lie beyond the largest finite value? -/
def beyond (f : FFmt) (m : Nat) (e : Int) : Bool :=
  let top := f.decode (f.largest false)
  match top with
  | .fin _ tm te => decide (0 < cmpFin false m e false tm te)
  | _ => false

/-- The code of ± k × 2^q, for a k below 2^(fb + 1) × 2 and q at least qmin; `none` past the largest finite value. -/
def code (f : FFmt) (neg : Bool) (k : Nat) (q : Int) : Option Nat :=
  -- a significand that rounded up to 2^(fb+1) moves to the next binade, which is the same integer encoding
  let ex : Nat := (q - f.qmin).toNat
  let body := if k < 2 ^ f.fb then k else (ex + 1) * 2 ^ f.fb + (k - 2 ^ f.fb)
  if body < (2 ^ f.eb - 1) * 2 ^ f.fb then some (body + f.zero neg) else none

/-- round_m of a finite value to an IEEE format, with its flags (03 R54, R63, R65). Tininess is judged after rounding with an
unbounded exponent, under sr with the same draw (log 51). -/
def roundFin (f : FFmt) (md0 : RMode) (neg : Bool) (m : Nat) (e : Int) : Nat × FFlags :=
  if m = 0 then (f.zero neg, 0)
  else
    let md := if f.beyond m e then .rm md0.base else md0
    let top : Int := e + Nat.log2 m
    let emin : Int := f.qmin + f.fb
    let q := max (top - f.fb) f.qmin
    let (k, inexact) := roundQ md neg m e q
    match f.code neg k q with
    | some c =>
      let (k', _) := roundQ md neg m e (top - f.fb)
      let tiny := decide (top < emin) && !(decide (top = emin - 1) && k' == 2 ^ (f.fb + 1))
      (c, flagIf inexact fNX ||| flagIf (inexact && tiny) fUF)
    | none =>
      let toInf := match md.base with
        | .rne => true | .rz => false | .ru => !neg | .rd => neg
      (if toInf then f.infinity neg else f.largest neg, fOF ||| fNX)

/-- round_m(x, f) (03 R63). A signalling NaN sets NV. -/
def round (f : FFmt) (md : RMode) (x : FVal) : Nat × FFlags :=
  match x with
  | .nan s => (f.nan, flagIf s fNV)
  | .inf n => (f.infinity n, 0)
  | .fin n m e => f.roundFin md n m e

end FFmt

/-! ## Tapered formats (03 R57 to R60) -/

/-- A tapered format: magnitude bits n and exponent bits es. -/
structure Tap where
  n : Nat
  es : Nat
  deriving DecidableEq, Repr, Inhabited

def t8 : Tap := ⟨7, 2⟩
def t6 : Tap := ⟨5, 1⟩

/-- Length of the run of bits equal to `b` at the top of an n-bit magnitude (03 R57). -/
def runLen (b : Bool) (mag : Nat) : Nat → Nat
  | 0 => 0
  | n + 1 => if mag.testBit n = b then runLen b mag n + 1 else 0

namespace Tap

/-- L is 2^unit and P is 2^−unit (03 R60). -/
def unit (f : Tap) : Nat := (f.n - 1) * 2 ^ f.es

/-- The value of a nonzero magnitude as (significand, exponent) (03 R57). -/
def value (f : Tap) (mag : Nat) : Nat × Int :=
  let b := mag.testBit (f.n - 1)
  let m := runLen b mag f.n
  let k : Int := if b then (m : Int) - 1 else -(m : Int)
  let left := f.n - m - 1
  let rest := mag % 2 ^ left
  let fb := left - f.es
  let ebits := left - fb
  let e := rest / 2 ^ fb * 2 ^ (f.es - ebits)
  (2 ^ fb + rest % 2 ^ fb, k * (2 ^ f.es : Nat) + e - fb)

/-- The value of a magnitude in units of P: a whole number. -/
def units (f : Tap) (mag : Nat) : Nat :=
  if mag = 0 then 0 else let v := f.value mag; v.1 * 2 ^ (v.2 + f.unit).toNat

def nan (f : Tap) : Nat := 2 ^ f.n

/-- The value of a code: sign above the magnitude, one zero, one quiet NaN (03 R57). -/
def decode (f : Tap) (c : Nat) : FVal :=
  let mag := c % 2 ^ f.n
  if mag = 0 then (if c.testBit f.n then .nan false else .fin false 0 0)
  else .fin (c.testBit f.n) (f.units mag) (-(f.unit : Int))

/-- The largest magnitude whose value is at most num ÷ s (in units of P). -/
def below (f : Tap) (num s : Nat) : Nat :=
  (List.range (2 ^ f.n)).foldl (fun best c => if f.units c * s ≤ num then c else best) 0

def code (f : Tap) (neg : Bool) (mag : Nat) : Nat := if mag = 0 then 0 else mag + if neg then 2 ^ f.n else 0

/-- round_m(x, f) of an exact value, by value (03 R60, R65). -/
def roundFin (f : Tap) (md : RMode) (neg : Bool) (m : Nat) (e : Int) : Nat × FFlags :=
  if m = 0 then (0, 0)
  else
    let t := e + f.unit
    let num := m * 2 ^ t.toNat
    let s := 2 ^ (-t).toNat
    if 2 ^ (2 * f.unit) * s < num then (f.code neg (2 ^ f.n - 1), fOF ||| fNX)
    else
      let c := f.below num s
      let r := num - f.units c * s
      if r = 0 then (f.code neg c, 0)
      else
        let d := (f.units (c + 1) - f.units c) * s
        let up := if c = 0 ∧ md = .rm .rne then decide (d ≤ 2 * r) else md.up neg c r d
        (f.code neg (if up then c + 1 else c), fNX ||| flagIf (c == 0) fUF)

def round (f : Tap) (md : RMode) (x : FVal) : Nat × FFlags :=
  match x with
  | .nan s => (f.nan, flagIf s fNV)
  | .inf n => (f.code n (2 ^ f.n - 1), fOF ||| fNX)
  | .fin n m e => f.roundFin md n m e

end Tap

/-! ## Integers (03 R53, R63) -/

/-- The number that a w-bit element stands for. -/
def readInt (signed : Bool) (w c : Nat) : Int :=
  let c := c % 2 ^ w
  if signed ∧ 2 ^ (w - 1) ≤ c then (c : Int) - (2 ^ w : Nat) else c

def intMin (signed : Bool) (w : Nat) : Int := if signed then -(2 ^ (w - 1) : Nat) else 0
def intMax (signed : Bool) (w : Nat) : Int := if signed then (2 ^ (w - 1) : Nat) - 1 else (2 ^ w : Nat) - 1

/-- sat(r, I<w>) (08 R147). -/
def satInt (signed : Bool) (w : Nat) (r : Int) : Int := max (intMin signed w) (min (intMax signed w) r)

/-- r mod 2^w as an element. -/
def wrapInt (w : Nat) (r : Int) : Nat := (r % (2 ^ w : Nat)).toNat

/-- round_m(x, I<w>): rounded, then saturated; NX for the rounding, IS for the saturation (03 R63). Under sr a negative value above
the lowest value of a natural format is rounded as under rne, with no draw (log 51). -/
def roundInt (signed : Bool) (w : Nat) (md0 : RMode) (x : FVal) : Nat × FFlags :=
  match x with
  | .nan _ => (0, fNV ||| fIS)
  | .inf n => (wrapInt w (if n then intMin signed w else intMax signed w), fIS)
  | .fin n m e =>
    let out := decide (0 < cmpFin n m e (decide (intMax signed w < 0)) (intMax signed w).natAbs 0) ||
      decide (cmpFin n m e (decide (intMin signed w < 0)) (intMin signed w).natAbs 0 < 0)
    let md := if out then .rm md0.base else md0
    let (k, inexact) := roundQ md n m e 0
    let z : Int := if n then -(k : Int) else k
    let s := satInt signed w z
    (wrapInt w s, flagIf inexact fNX ||| flagIf (s != z) fIS)

/-! ## Arithmetic in an IEEE format (08 R156) -/

/-- The flag of a signalling NaN among the operands. -/
def snanFlag (l : List FVal) : FFlags := flagIf (l.any FVal.isSnan) fNV

/-- a + b, rounded once. -/
def fAdd (f : FFmt) (rm : Rm) (a b : FVal) : Nat × FFlags :=
  match a, b with
  | .nan _, _ | _, .nan _ => (f.nan, snanFlag [a, b])
  | .inf x, .inf y => if x = y then (f.infinity x, 0) else (f.nan, fNV)
  | .inf x, _ | _, .inf x => (f.infinity x, 0)
  | .fin n1 m1 e1, .fin n2 m2 e2 => f.round (.rm rm) (addFin (rm = .rd) n1 m1 e1 n2 m2 e2)

/-- a × b, rounded once. -/
def fMul (f : FFmt) (rm : Rm) (a b : FVal) : Nat × FFlags :=
  match a, b with
  | .nan _, _ | _, .nan _ => (f.nan, snanFlag [a, b])
  | .inf x, y | y, .inf x => if y.isZero then (f.nan, fNV) else (f.infinity (x != y.isNeg), 0)
  | .fin n1 m1 e1, .fin n2 m2 e2 => f.round (.rm rm) (.fin (n1 != n2) (m1 * m2) (e1 + e2))

/-- a × b + c, rounded once; 0 × ∞ sets NV whatever c is (08 R156). -/
def fFma (f : FFmt) (rm : Rm) (a b c : FVal) : Nat × FFlags :=
  let zi := match a, b with
    | .inf _, .fin _ m _ | .fin _ m _, .inf _ => m == 0
    | _, _ => false
  if zi then (f.nan, fNV)
  else match a, b with
    | .nan _, _ | _, .nan _ => (f.nan, snanFlag [a, b, c])
    | .inf x, y | y, .inf x =>
      match c with
      | .nan s => (f.nan, flagIf s fNV)
      | .inf z => if z = (x != y.isNeg) then (f.infinity z, 0) else (f.nan, fNV)
      | .fin .. => (f.infinity (x != y.isNeg), 0)
    | .fin n1 m1 e1, .fin n2 m2 e2 =>
      match c with
      | .nan s => (f.nan, flagIf s fNV)
      | .inf z => (f.infinity z, 0)
      | .fin n3 m3 e3 => f.round (.rm rm) (addFin (rm = .rd) (n1 != n2) (m1 * m2) (e1 + e2) n3 m3 e3)

/-- The quotient of two nonzero magnitudes to 63 bits or more, with one further bit that says it was inexact. -/
def quotient (m1 m2 : Nat) : Nat × Int :=
  let s := 64 + Nat.log2 m2
  let q := m1 * 2 ^ s / m2
  (2 * q + (if m1 * 2 ^ s % m2 = 0 then 0 else 1), -(s : Int) - 1)

/-- a ÷ b, rounded once. -/
def fDiv (f : FFmt) (rm : Rm) (a b : FVal) : Nat × FFlags :=
  match a, b with
  | .nan _, _ | _, .nan _ => (f.nan, snanFlag [a, b])
  | .inf _, .inf _ => (f.nan, fNV)
  | .inf x, .fin y _ _ => (f.infinity (x != y), 0)
  | .fin x _ _, .inf y => (f.zero (x != y), 0)
  | .fin n1 m1 e1, .fin n2 m2 e2 =>
    if m2 = 0 then (if m1 = 0 then (f.nan, fNV) else (f.infinity (n1 != n2), fDZ))
    else if m1 = 0 then (f.zero (n1 != n2), 0)
    else let (q, s) := quotient m1 m2; f.round (.rm rm) (.fin (n1 != n2) q (e1 - e2 + s))

/-- ⌊√n⌋ for n below 2^(2 × bits), one bit at a time from the top. -/
def isqrtAux (n : Nat) : Nat → Nat → Nat
  | 0, r => r
  | k + 1, r => isqrtAux n k (if (r + 2 ^ k) * (r + 2 ^ k) ≤ n then r + 2 ^ k else r)

def isqrt (n : Nat) : Nat := isqrtAux n (Nat.log2 n / 2 + 1) 0

/-- √(m × 2^e) for nonzero m, to 64 bits or more and a bit that says it was inexact. -/
def rootOf (m : Nat) (e : Int) : Nat × Int :=
  let s : Nat := if e % 2 = 0 then 128 else 129
  let n := m * 2 ^ s
  let r := isqrt n
  (2 * r + (if r * r = n then 0 else 1), (e - s) / 2 - 1)

/-- 1 ÷ √(m × 2^e) for nonzero m. -/
def recipRoot (m : Nat) (e : Int) : Nat × Int :=
  -- ⌊√(2^s ÷ m)⌋ with s + e even and s large enough for 64 bits
  let s0 : Nat := 130 + Nat.log2 m
  let s : Nat := if ((s0 : Int) + e) % 2 = 0 then s0 else s0 + 1
  let n := 2 ^ s / m
  let r := isqrt n
  (2 * r + (if r * r * m = 2 ^ s then 0 else 1), -((e + s) / 2) - 1)

def fSqrt (f : FFmt) (rm : Rm) (a : FVal) : Nat × FFlags :=
  match a with
  | .nan s => (f.nan, flagIf s fNV)
  | .inf n => if n then (f.nan, fNV) else (f.infinity false, 0)
  | .fin n m e =>
    if m = 0 then (f.zero n, 0)
    else if n then (f.nan, fNV)
    else let (r, q) := rootOf m e; f.round (.rm rm) (.fin false r q)

def fRcp (f : FFmt) (rm : Rm) (a : FVal) : Nat × FFlags := fDiv f rm (.fin false 1 0) a

def fRsq (f : FFmt) (rm : Rm) (a : FVal) : Nat × FFlags :=
  match a with
  | .nan s => (f.nan, flagIf s fNV)
  | .inf n => if n then (f.nan, fNV) else (f.zero false, 0)
  | .fin n m e =>
    if m = 0 then (f.infinity n, fDZ)
    else if n then (f.nan, fNV)
    else let (r, q) := recipRoot m e; f.round (.rm rm) (.fin false r q)

/-! ### 2^x and log₂ x (08 R156), in fixed point with 320 fraction bits -/

/-- Fraction bits of the series below. Their error stays below 2^20 units in the last place. -/
def serP : Nat := 320

/-- Σ 2^(320 − k) ÷ k for k = 1 … n: ln 2 from below. -/
def ln2Sum : Nat → Nat
  | 0 => 0
  | k + 1 => ln2Sum k + 2 ^ serP / ((k + 1) * 2 ^ (k + 1))

def ln2Fix : Nat := ln2Sum 320

/-- Σ y^i ÷ i! from term i on, for a fixed-point y below 1. -/
def expSum (y : Nat) : Nat → Nat → Nat → Nat
  | 0, _, _ => 0
  | fuel + 1, i, term => term + expSum y fuel (i + 1) (term * y / 2 ^ serP / (i + 1))

/-- 2^f for a fraction f = num ÷ 2^t below 1, with 320 fraction bits, from below. -/
def exp2Frac (num t : Nat) : Nat := expSum (ln2Fix * num / 2 ^ t) 90 0 (2 ^ serP) - 2 ^ 20

/-- Σ z^(2i+1) ÷ (2i+1), with `w` = z² and `pw` the running power. -/
def atanhSum (w : Nat) : Nat → Nat → Nat → Nat
  | 0, _, _ => 0
  | fuel + 1, i, pw => pw / (2 * i + 1) + atanhSum w fuel (i + 1) (pw * w / 2 ^ serP)

/-- log₂ of num ÷ den in [1, 2), with 320 fraction bits. -/
def log2Frac (num den : Nat) : Nat :=
  let z := (num - den) * 2 ^ serP / (num + den)
  2 * atanhSum (z * z / 2 ^ serP) 110 0 z * 2 ^ serP / ln2Fix

/-- fexp2. An integer operand gives an exact power of two; any other result lies strictly between two values that
the 320-bit bounds separate (log 19). -/
def fExp2 (f : FFmt) (rm : Rm) (a : FVal) : Nat × FFlags :=
  match a with
  | .nan s => (f.nan, flagIf s fNV)
  | .inf n => (if n then f.zero false else f.infinity false, 0)
  | .fin n m e =>
    if m = 0 then f.round (.rm rm) (.fin false 1 0)
    else
      let t := (-e).toNat
      let z := scaled n m (max e (-(t : Int))) (-(t : Int))  -- the operand in units of 2^−t
      let k : Int := z / (2 ^ t : Nat)
      let fr := (z % (2 ^ t : Nat)).toNat
      let k := max (-1000) (min 1000 k)
      if fr = 0 then f.round (.rm rm) (.fin false 1 k)
      else f.round (.rm rm) (.fin false (2 * exp2Frac fr t + 1) (k - serP - 1))

def fLog2 (f : FFmt) (rm : Rm) (a : FVal) : Nat × FFlags :=
  match a with
  | .nan s => (f.nan, flagIf s fNV)
  | .inf n => if n then (f.nan, fNV) else (f.infinity false, 0)
  | .fin n m e =>
    if m = 0 then (f.infinity true, fDZ)
    else if n then (f.nan, fNV)
    else
      let l := Nat.log2 m
      let k : Int := e + l
      if m = 2 ^ l then f.round (.rm rm) (FVal.ofInt k)
      else
        let z : Int := k * (2 ^ serP : Nat) + log2Frac m (2 ^ l)
        f.round (.rm rm) (.fin (decide (z < 0)) (2 * (z.natAbs - 2 ^ 20) + 1) (-(serP : Int) - 1))

/-! ## Comparison, minimum and maximum, classes (08 R157 to R162) -/

/-- x < y, = or > as −1, 0, 1 for operands that are not NaN; ±0 equal. -/
def fOrder (a b : FVal) : Int :=
  match a, b with
  | .inf x, .inf y => if x = y then 0 else if x then -1 else 1
  | .inf x, _ => if x then -1 else 1
  | _, .inf y => if y then 1 else -1
  | .fin n1 m1 e1, .fin n2 m2 e2 => (cmpFin n1 m1 e1 n2 m2 e2).sign
  | _, _ => 0

/-- Is a below b, with −0 below +0? -/
def fBelow (a b : FVal) : Bool :=
  let o := fOrder a b
  decide (o < 0) || (o == 0 && a.isNeg && !b.isNeg)

/-- fmin and fmax on codes (08 R157). -/
def fMinMax (f : FFmt) (isMax nanForm : Bool) (ca cb : Nat) : Nat × FFlags :=
  let a := f.decode ca
  let b := f.decode cb
  let fl := snanFlag [a, b]
  if a.isNan && b.isNan || nanForm && (a.isNan || b.isNan) then (f.nan, fl)
  else if a.isNan then (cb, fl)
  else if b.isNan then (ca, fl)
  else if isMax then (if fBelow a b then cb else ca, fl) else (if fBelow b a then cb else ca, fl)

/-- fcmp: the condition and its flags (08 R159). -/
def fCompare (c : FCond) (a b : FVal) : Bool × FFlags :=
  let un := a.isNan || b.isNan
  let o := fOrder a b
  let sn := a.isSnan || b.isSnan
  let quietNv := match c with | .lt | .le | .gt | .ge => true | _ => false
  let r := match c with
    | .eq => !un && o == 0
    | .ne => un || o != 0
    | .lt => !un && decide (o < 0)
    | .le => !un && decide (o ≤ 0)
    | .gt => !un && decide (0 < o)
    | .ge => !un && decide (0 ≤ o)
    | .un => un
    | .ord => !un
  (r, flagIf (sn || (quietNv && un)) fNV)

/-- fabs, fneg and fcsgn: the code with sign `neg`; a NaN gives the canonical NaN (08 R158). -/
def fSetSign (f : FFmt) (neg : Bool) (c : Nat) : Nat :=
  if (f.decode c).isNan then f.nan else c % 2 ^ (f.eb + f.fb) + f.zero neg

/-- frnd (08 R160). -/
def fRnd (f : FFmt) (exact : Bool) (rm : Rm) (c : Nat) : Nat × FFlags :=
  match f.decode c with
  | .nan s => (f.nan, flagIf s fNV)
  | .inf n => (f.infinity n, 0)
  | .fin n m e =>
    let (k, inexact) := roundQ (.rm rm) n m e 0
    ((f.round (.rm .rne) (.fin n k 0)).1, flagIf (exact && inexact) fNX)

/-- ffract (08 R161). -/
def fFract (f : FFmt) (c : Nat) : Nat × FFlags :=
  match f.decode c with
  | .nan s => (f.nan, flagIf s fNV)
  | .inf _ => (f.nan, fNV)
  | .fin n m e =>
    let t := (-e).toNat
    let z := scaled n m (max e (-(t : Int))) (-(t : Int))
    f.round (.rm .rd) (.fin false (z % (2 ^ t : Nat)).toNat (-(t : Int)))

/-- fclass (08 R162). -/
def fClass (f : FFmt) (c : Nat) : Nat :=
  match f.decode c with
  | .nan true => 2 ^ 0
  | .nan false => 2 ^ 1
  | .inf true => 2 ^ 2
  | .inf false => 2 ^ 9
  | .fin n m _ =>
    if m = 0 then (if n then 2 ^ 5 else 2 ^ 6)
    else if m < 2 ^ f.fb then (if n then 2 ^ 4 else 2 ^ 7)
    else (if n then 2 ^ 3 else 2 ^ 8)

/-! ## Conversion formats (08 R164) -/


/-- Bits of an element. -/
def cvtWidth : CvtFmt → Nat
  | .s32 | .n32 | .f32 => 32
  | .h16 | .s16 | .n16 => 16
  | .s8 | .n8 | .t8 => 8
  | .t6 => 6

def cvtSigned : CvtFmt → Bool
  | .s32 | .s16 | .s8 => true
  | _ => false

/-- The value of an element. -/
def cvtRead (f : CvtFmt) (c : Nat) : FVal :=
  match f with
  | .f32 => Machine.f32.decode c
  | .h16 => Machine.h16.decode c
  | .t8 => Machine.t8.decode c
  | .t6 => Machine.t6.decode c
  | _ => FVal.ofInt (readInt (cvtSigned f) (cvtWidth f) c)

/-- round_m(x, f) for any format (03 R63). -/
def cvtRound (f : CvtFmt) (md : RMode) (x : FVal) : Nat × FFlags :=
  match f with
  | .f32 => Machine.f32.round md x
  | .h16 => Machine.h16.round md x
  | .t8 => Machine.t8.round md x
  | .t6 => Machine.t6.round md x
  | _ => roundInt (cvtSigned f) (cvtWidth f) md x

/-- Element i of a run of registers, read as one little-endian number. T6 elements lie 6 bits apart (03 R62). -/
def elemOf (w : Nat) (run i : Nat) : Nat := run / 2 ^ (w * i) % 2 ^ w

/-- Elements packed from the lowest bits up. -/
def packElems (w : Nat) : List Nat → Nat
  | [] => 0
  | c :: l => c % 2 ^ w + 2 ^ w * packElems w l

/-- x + d with d = 0 leaving x as it is (03 R64; a zero keeps its sign, log 19). -/
def efSum (x d : FVal) : FVal :=
  match x, d with
  | .fin n1 m1 e1, .fin n2 m2 e2 => if m2 = 0 then x else addFin false n1 m1 e1 n2 m2 e2
  | _, _ => x

/-- The residual x' − y of one element (03 R64). -/
def efRest (x y : FVal) (fl : FFlags) : FVal :=
  match x, y with
  | .fin n1 m1 e1, .fin n2 m2 e2 =>
    if fl &&& (fOF ||| fIS) = 0 then addFin false n1 m1 e1 (!n2) m2 e2 else .fin false 0 0
  | _, _ => .fin false 0 0

/-- The block loop of R64: codes, flags and the residual left. -/
def efLoop (f : CvtFmt) : FVal → List FVal → List Nat × FFlags × FVal
  | d, [] => ([], 0, d)
  | d, x :: l =>
    let x' := efSum x d
    let (y, fl) := cvtRound f (.rm .rne) x'
    let (ys, fls, r) := efLoop f (efRest x' (cvtRead f y) fl) l
    (y :: ys, fl ||| fls, r)

/-- The rounding of element i under a code that is not ef; `us` gives sr its random value (03 R65). -/
def rndMode (r : Rnd) (u : Nat) : RMode :=
  match r with
  | .rne | .ef => .rm .rne
  | .rz => .rm .rz
  | .ru => .rm .ru
  | .rd => .rm .rd
  | .sr => .sr u

/-- A block of values rounded to a format: element codes, the OR of the flags, and the residual (03 R63 to R65). -/
def roundBlock (f : CvtFmt) (r : Rnd) (d : FVal) (xs : List FVal) (us : List Nat) : List Nat × FFlags × FVal :=
  if r = .ef then efLoop f d xs
  else
    let rs := (xs.zipIdx).map fun (x, i) => cvtRound f (rndMode r (us.getD i 0)) x
    (rs.map Prod.fst, flagsOr (rs.map Prod.snd), .fin false 0 0)

/-- u_i of R65 from the registers of the random operand. -/
def srDraw (regs : List Word) (i : Nat) : Nat :=
  (regs.getD (i / 2) 0).toNat / 2 ^ (16 * (i % 2)) % 65536

end Sys2Proof.Machine
end

