-- ==== Sys2Proof/Machine/Values.lean ====
section
/-! DEFINITION. Register contents, constants (spec 02 R43) and the integer and bit functions of spec 08. -/

namespace Sys2Proof.Machine

/-- A vector register, operand-file slot or latch: 32 bits and a tag (03 R71). -/
structure Reg where
  val : Word
  tag : Tag
  deriving DecidableEq, Repr, Inhabited

/-- 0 with tag RAW: every register at strand start (06 R107). -/
def Reg.zero : Reg := ⟨0, .raw⟩

/-- A register from a number, mod 2^32. -/
def Reg.ofNat (n : Nat) (t : Tag) : Reg := ⟨BitVec.ofNat 32 n, t⟩

/-- A status word (18 R333 and others). -/
def Reg.stat (n : Nat) : Reg := Reg.ofNat n .stat

/-- The two halves of a 64-bit value (00 R5). -/
def pairRegs (x : DWord) (t : Tag) : List Reg :=
  [⟨BitVec.ofNat 32 x.toNat, t⟩, ⟨BitVec.ofNat 32 (x.toNat / 2 ^ 32), t⟩]

/-- The 64-bit value of two registers. -/
def pairOf (lo hi : Word) : DWord := BitVec.ofNat 64 (lo.toNat + 2 ^ 32 * hi.toNat)

/-! ## Constants (02 R43) -/

/-- Entry i as an exact value, or as 101 bits of it with a last bit that marks what was cut off. -/
def constReal (i : Nat) : FVal :=
  if i < 32 then FVal.ofInt (constInt i)
  else if i < 48 then .fin false 1 (-((i : Int) - 31))
  else
    let recip (d : Nat) : FVal := let (q, e) := quotient 1 d; .fin false q e
    match i with
    | 48 => recip 3
    | 49 => recip 5
    | 50 => recip 6
    | 51 => recip 7
    | 52 => recip 9
    | 53 => recip 10
    | 54 => recip 12
    | 55 => recip 255
    | 56 => recip 1000
    | 57 => .fin false 0x162e42fefa39ef35793c767301 (-101)
    | 58 => .fin false 0x2e2a8eca5705fc2eefa1ffb41b (-101)
    | 59 => .fin false 0x6487ed5110b4611a62633145c1 (-101)
    | 60 => .fin false 0xa2f9836e4e441529fc2757d1f (-101)
    | 61 => .fin false 0x2d413cccfe779921165f626cdd (-101)
    | 62 => .fin false 0x16a09e667f3bcc908b2fb1366f (-101)
    | _ => .inf false

/-- k copies of a w-bit element. -/
def replicateElem (w k c : Nat) : Nat := packElems w (List.replicate k c)

/-- The 32 bits that constant entry i gives a consumer of a format, and their tag (02 R43). -/
def constReg (u : Use) (i : Nat) : Reg :=
  match u with
  | .f32 => Reg.ofNat (f32.round (.rm .rne) (constReal i)).1 .f32
  | .h16 => Reg.ofNat (replicateElem 16 2 (h16.round (.rm .rne) (constReal i)).1) .h16x2
  | .t8 => Reg.ofNat (replicateElem 8 4 (t8.round (.rm .rne) (constReal i)).1) .t8x4
  | .i32 => Reg.ofNat (wrapInt 32 (constInt i)) .i32
  | .i16 => Reg.ofNat (replicateElem 16 2 (wrapInt 16 (constInt i))) .i16x2
  | .i8 => Reg.ofNat (replicateElem 8 4 (wrapInt 8 (constInt i))) .i8x4
  | .any =>
    if i < 32 then Reg.ofNat (wrapInt 32 (constInt i)) .i32
    else Reg.ofNat (f32.round (.rm .rne) (constReal i)).1 .f32

/-- A constant that stands for a pair (02 R43). -/
def constPair (i : Nat) : DWord := BitVec.ofNat 64 (wrapInt 64 (constInt i))

/-! ## Integer elements (08 R147, R148) -/

def iBits : IWidth → Nat
  | .w32 => 32
  | .w16 => 16
  | .w8 => 8

def iTag : IWidth → Tag
  | .w32 => .i32
  | .w16 => .i16x2
  | .w8 => .i8x4

/-- One element of R147: read, computed exactly, saturated where asked, wrapped. -/
def intElem (sat natural : Bool) (w : Nat) (op : Int → Int → Int → Int) (a b c : Nat) : Nat :=
  let rd := fun x => readInt (!natural) w x
  let r := op (rd a) (rd b) (rd c)
  wrapInt w (if sat then satInt (!natural) w r else r)

/-- The loop over the elements of a register (08 R147). -/
def intOp (f : IntForm) (op : Int → Int → Int → Int) (a b c : Word) : Reg :=
  let w := iBits f.width
  let es := (List.range (32 / w)).map fun i =>
    intElem f.sat f.natural w op (elemOf w a.toNat i) (elemOf w b.toNat i) (elemOf w c.toNat i)
  Reg.ofNat (packElems w es) (iTag f.width)

/-- mulh (08 R148). -/
def mulHigh (natural : Bool) (a b : Word) : Reg :=
  Reg.ofNat (wrapInt 32 (readInt (!natural) 32 a.toNat * readInt (!natural) 32 b.toNat / 2 ^ 32)) .i32

/-- lea (08 R150). -/
def leaVal (natural : Bool) (sh : Nat) (a : DWord) (b : Word) : DWord :=
  BitVec.ofInt 64 ((a.toNat : Int) + readInt (!natural) 32 b.toNat * 2 ^ sh)

/-! ## Bits (08 R152) -/

def shlVal (a b : Word) : Word := if 32 ≤ b.toNat then 0 else BitVec.ofNat 32 (a.toNat * 2 ^ b.toNat)
def shrVal (a b : Word) : Word := if 32 ≤ b.toNat then 0 else BitVec.ofNat 32 (a.toNat / 2 ^ b.toNat)
def sarVal (a b : Word) : Word :=
  BitVec.ofInt 32 (readInt true 32 a.toNat / (2 ^ Nat.min b.toNat 32 : Nat))

/-- Rotation left by k. -/
def rotVal (right : Bool) (a b : Word) : Word :=
  let k := b.toNat % 32
  let k := if right then (32 - k) % 32 else k
  BitVec.ofNat 32 (a.toNat * 2 ^ k + a.toNat / 2 ^ (32 - k))

def clzVal (a : Word) : Nat := if a = 0 then 32 else 31 - Nat.log2 a.toNat
def popcVal (a : Word) : Nat := ((List.range 32).filter fun i => a.getLsbD i).length
def brevVal (a : Word) : Word :=
  BitVec.ofNat 32 (packElems 1 ((List.range 32).map fun i => if a.getLsbD (31 - i) then 1 else 0))

def bfeVal (signed : Bool) (a b c : Word) : Word :=
  if 32 ≤ b.toNat ∨ c = 0 then 0
  else
    let l := Nat.min c.toNat (32 - b.toNat)
    let f := a.toNat / 2 ^ b.toNat % 2 ^ l
    if signed then BitVec.ofInt 32 (readInt true l f) else BitVec.ofNat 32 f

def bfiVal (a b c : Word) : Word :=
  let p := c.toNat % 256
  let l := c.toNat / 256 % 256
  if l = 0 ∨ 32 ≤ p then a
  else
    let l := Nat.min l (32 - p)
    BitVec.ofNat 32 (a.toNat % 2 ^ p + b.toNat % 2 ^ l * 2 ^ p + a.toNat / 2 ^ (p + l) * 2 ^ (p + l))

/-- cmp (08 R153). -/
def cmpVal (k : Cond) (a b : Word) : Bool :=
  let sa := a.toInt
  let sb := b.toInt
  match k with
  | .eq => a == b
  | .ne => a != b
  | .ltS => decide (sa < sb)
  | .leS => decide (sa ≤ sb)
  | .gtS => decide (sb < sa)
  | .geS => decide (sb ≤ sa)
  | .ltN => decide (a.toNat < b.toNat)
  | .leN => decide (a.toNat ≤ b.toNat)
  | .gtN => decide (b.toNat < a.toNat)
  | .geN => decide (b.toNat ≤ a.toNat)

/-! ## Packs (08 R167, R168) -/

def packTag : PackFmt → Tag
  | .h16x2 => .h16x2
  | .i16x2 => .i16x2
  | .t8x4 => .t8x4
  | .i8x4 => .i8x4

def packVal (ah bh : Bool) (a b : Word) : Word :=
  let ha := if ah then a.toNat / 65536 else a.toNat % 65536
  let hb := if bh then b.toNat / 65536 else b.toNat % 65536
  BitVec.ofNat 32 (ha + hb * 65536)

def unpackVal (f : PackFmt) (a b : Word) : Word :=
  match f with
  | .h16x2 | .i16x2 => BitVec.ofNat 32 (elemOf 16 a.toNat (b.toNat % 2))
  | .t8x4 | .i8x4 => BitVec.ofNat 32 (elemOf 8 a.toNat (b.toNat % 4))

/-! ## The counter-based generator (08 R169) -/

/-- One round: state (x0, x1, x2, x3), keys z0 and z1. -/
def rngRound (z0 z1 : Nat) (x : Nat × Nat × Nat × Nat) : Nat × Nat × Nat × Nat :=
  let (x0, x1, x2, x3) := x
  let p0 := 0xB5AD4ECF * x0
  let p1 := 0xD7C31E95 * x2
  ((p1 / 2 ^ 32).xor (x1.xor z0), p1 % 2 ^ 32, (p0 / 2 ^ 32).xor (x3.xor z1), p0 % 2 ^ 32)

def rngRounds (g0 g1 : Nat) : List Nat → Nat × Nat × Nat × Nat → Nat × Nat × Nat × Nat
  | [], x => x
  | n :: l, x =>
    rngRounds g0 g1 l (rngRound ((g0 + n * 0x9E3779B9) % 2 ^ 32) ((g1 + n * 0xBB67AE85) % 2 ^ 32) x)

/-- The 128-bit output at a 128-bit counter under a 64-bit key. -/
def rngOut (ctr key : Nat) : Nat :=
  let w := fun i => ctr / 2 ^ (32 * i) % 2 ^ 32
  let (x0, x1, x2, x3) := rngRounds (key % 2 ^ 32) (key / 2 ^ 32) (List.range 10) (w 0, w 1, w 2, w 3)
  x0 + 2 ^ 32 * x1 + 2 ^ 64 * x2 + 2 ^ 96 * x3

/-- The registers of a number, low word first. -/
def wordsOf (n : Nat) (k : Nat) : List Word := (List.range k).map fun i => BitVec.ofNat 32 (n / 2 ^ (32 * i))

/-- The number in a run of registers, low word first. -/
def runNat (l : List Word) : Nat := l.foldr (fun w acc => w.toNat + 2 ^ 32 * acc) 0

/-! ## Folds of the braid and knot instructions (07 R140) -/

def foldIdentity : FoldOp → Word
  | .add | .maxN | .or => 0
  | .fadd => 0x80000000
  | .minS => 0x7FFFFFFF
  | .maxS => 0x80000000
  | .minN | .and => 0xFFFFFFFF

def foldTag : FoldOp → Tag
  | .fadd => .f32
  | _ => .i32

def foldCombine (op : FoldOp) (x y : Word) : Word × FFlags :=
  match op with
  | .add => (x + y, 0)
  | .fadd => let r := fAdd f32 .rne (f32.decode x.toNat) (f32.decode y.toNat); (BitVec.ofNat 32 r.1, r.2)
  | .minS => (if x.toInt ≤ y.toInt then x else y, 0)
  | .maxS => (if y.toInt ≤ x.toInt then x else y, 0)
  | .minN => (if x.toNat ≤ y.toNat then x else y, 0)
  | .maxN => (if y.toNat ≤ x.toNat then x else y, 0)
  | .and => (x &&& y, 0)
  | .or => (x ||| y, 0)

/-- The fold of a list in order, with the OR of the flags of its steps (07 R140). -/
def foldVals (op : FoldOp) (l : List Word) : Word × FFlags :=
  l.foldl (fun acc y => let r := foldCombine op acc.1 y; (r.1, acc.2 ||| r.2)) (foldIdentity op, 0)

/-- The result at place `j` of an ordered set of (place, value): inclusive, exclusive, or over all (07 R140, 12 R245). -/
inductive FoldKind where
  | incl | excl | all
  deriving DecidableEq, Repr, Inhabited

def foldAt (op : FoldOp) (k : FoldKind) (vals : List (Nat × Word)) (j : Nat) : Word × FFlags :=
  foldVals op ((vals.filter fun p => match k with
    | .incl => decide (p.1 ≤ j)
    | .excl => decide (p.1 < j)
    | .all => true).map Prod.snd)

end Sys2Proof.Machine
end

