-- ==== Sys2Proof/Machine/AffineVals.lean ====
section
/-! DEFINITION. Affine values (spec 16 R294 to R307): exact arithmetic on dyadic numbers, normalisation, the operations
as functions of their operands and of the symbol they may mint, and the 64-byte image. -/

namespace Sys2Proof.Machine

/-! ## Dyadic numbers -/

/-- n × 2^e. -/
structure Dy where
  n : Int
  e : Int
  deriving DecidableEq, Repr, Inhabited

namespace Dy

def zero : Dy := ⟨0, 0⟩
def atExp (x : Dy) (e : Int) : Int := x.n * (2 ^ (x.e - e).toNat : Nat)
def add (x y : Dy) : Dy := let e := min x.e y.e; ⟨x.atExp e + y.atExp e, e⟩
def neg (x : Dy) : Dy := ⟨-x.n, x.e⟩
def sub (x y : Dy) : Dy := x.add y.neg
def mul (x y : Dy) : Dy := ⟨x.n * y.n, x.e + y.e⟩
def abs (x : Dy) : Dy := ⟨x.n.natAbs, x.e⟩
def isZero (x : Dy) : Bool := x.n == 0
def le (x y : Dy) : Bool := decide ((x.sub y).n ≤ 0)
def lt (x y : Dy) : Bool := decide ((x.sub y).n < 0)
def max (x y : Dy) : Dy := if x.le y then y else x
def sum (l : List Dy) : Dy := l.foldl add zero
def toF (x : Dy) : FVal := .fin (decide (x.n < 0)) x.n.natAbs x.e

/-- The finite value of an F32 code; 0 for the others, which the callers exclude. -/
def ofCode (w : Word) : Dy :=
  match f32.decode w.toNat with
  | .fin n m e => ⟨if n then -(m : Int) else m, e⟩
  | _ => zero

end Dy

/-- round_m(x, F32) as a word. -/
def f32Word (rm : Rm) (x : Dy) : Word := BitVec.ofNat 32 (f32.round (.rm rm) x.toF).1

def f32Finite (w : Word) : Bool := (f32.decode w.toNat).isFin

/-! ## Affine values -/

/-- An affine register (16 R295). Terms are (symbol, coefficient) in ascending symbol order. -/
structure AReg where
  whole : Bool
  centre : Word
  radius : Word
  terms : List (Nat × Word)
  deriving DecidableEq, Repr, Inhabited

namespace AReg

/-- The exact point 0, an empty register (16 R293). -/
def point0 : AReg := ⟨false, 0, 0, []⟩
/-- The whole real line (16 R295). -/
def wholeLine : AReg := ⟨true, 0, 0x7F800000, []⟩

def c (x : AReg) : Dy := Dy.ofCode x.centre
def r (x : AReg) : Dy := Dy.ofCode x.radius
/-- The coefficient of symbol s, 0 where the value lacks it. -/
def k (x : AReg) (s : Nat) : Dy :=
  match x.terms.find? (·.1 == s) with
  | some t => Dy.ofCode t.2
  | none => Dy.zero
def spread (x : AReg) : Dy := Dy.sum (x.terms.map fun t => (Dy.ofCode t.2).abs)
/-- Σ|k| + e. -/
def dev (x : AReg) : Dy := x.spread.add x.r
def lo (x : AReg) : Dy := x.c.sub x.dev
def hi (x : AReg) : Dy := x.c.add x.dev
def symbols (x : AReg) : List Nat := x.terms.map Prod.fst

end AReg

/-- Insertion in ascending symbol order. -/
def insertTerm {α : Type} (t : Nat × α) : List (Nat × α) → List (Nat × α)
  | [] => [t]
  | u :: l => if t.1 ≤ u.1 then t :: u :: l else u :: insertTerm t l

def sortTerms {α : Type} (l : List (Nat × α)) : List (Nat × α) := l.foldr insertTerm []

/-- The magnitude of a coefficient, in units of 2^−149. -/
def coefMag (w : Word) : Nat := ((Dy.ofCode w).abs.atExp (-149)).natAbs

/-- The term that folds first: smallest |k|, among equals the higher symbol (16 R298). -/
def smallestTerm : List (Nat × Word) → Option (Nat × Word)
  | [] => none
  | t :: l =>
    match smallestTerm l with
    | none => some t
    | some u => if coefMag t.2 < coefMag u.2 ∨ (coefMag t.2 = coefMag u.2 ∧ u.1 < t.1) then some t else some u

/-- Folds terms until 8 are left, adding what is folded to err. -/
def foldTerms : Nat → List (Nat × Word) → Dy → List (Nat × Word) × Dy
  | 0, l, err => (l, err)
  | fuel + 1, l, err =>
    if l.length ≤ 8 then (l, err)
    else match smallestTerm l with
      | none => (l, err)
      | some t => foldTerms fuel (l.erase t) (err.add (Dy.ofCode t.2).abs)

/-- normalise(cx, T, ex) (16 R298). -/
def normalise (cx : Dy) (T : List (Nat × Dy)) (ex : Dy) : AReg :=
  let c := f32Word .rne cx
  let rounded := (T.filter fun t => !t.2.isZero).map fun t => (t.1, t.2, f32Word .rne t.2)
  if !f32Finite c || rounded.any (fun t => !f32Finite t.2.2) then .wholeLine
  else
    let err := Dy.sum ((cx.sub (Dy.ofCode c)).abs :: rounded.map fun t => (t.2.1.sub (Dy.ofCode t.2.2)).abs)
    let kept := (rounded.filter fun t => !(Dy.ofCode t.2.2).isZero).map fun t => (t.1, t.2.2)
    let (ts, err) := foldTerms kept.length kept err
    let e := f32Word .ru (ex.add err)
    if !f32Finite e then .wholeLine else ⟨false, c, e, sortTerms ts⟩

/-- The symbols of two operands, each once. -/
def unionSyms (a b : List Nat) : List Nat := a ++ b.filter fun s => !a.contains s

/-- The new quantity q goes onto symbol `sym`, or onto the radius in no-mint mode (16 R297). -/
def withFresh (cx : Dy) (T : List (Nat × Dy)) (ex q : Dy) (sym : Option Nat) : AReg :=
  match sym with
  | some s => normalise cx (T ++ [(s, q)]) ex
  | none => normalise cx T (ex.add q)

/-! ## Operations: the value, given the symbol to mint (none in no-mint mode) -/

def absCode (w : Word) : Word := w &&& 0x7FFFFFFF

def asetVal (a b : Word) : AReg :=
  if f32Finite a && f32Finite b then ⟨false, a, absCode b, []⟩ else .wholeLine

/-- Does anoise mint? (16 R301) -/
def anoiseMints (a b : Word) : Bool := f32Finite a && f32Finite b && absCode b != 0

def anoiseVal (a b : Word) (sym : Option Nat) : AReg :=
  if !(f32Finite a && f32Finite b) then .wholeLine
  else if absCode b = 0 then ⟨false, a, 0, []⟩
  else match sym with
    | some s => ⟨false, a, 0, [(s, absCode b)]⟩
    | none => ⟨false, a, absCode b, []⟩

/-- aadd and asub (16 R302). -/
def alinear (sub : Bool) (x y : AReg) : AReg :=
  if x.whole || y.whole then .wholeLine
  else
    let op := fun (p q : Dy) => if sub then p.sub q else p.add q
    normalise (op x.c y.c) ((unionSyms x.symbols y.symbols).map fun s => (s, op (x.k s) (y.k s))) (x.r.add y.r)

def anegVal (x : AReg) : AReg :=
  if x.whole then .wholeLine else normalise x.c.neg (x.symbols.map fun s => (s, (x.k s).neg)) x.r

def asclVal (x : AReg) (a : Word) : AReg :=
  if !f32Finite a then .wholeLine
  else if x.whole then (if absCode a = 0 then .point0 else .wholeLine)
  else
    let a := Dy.ofCode a
    normalise (a.mul x.c) (x.symbols.map fun s => (s, a.mul (x.k s))) (a.abs.mul x.r)

def aaddcVal (x : AReg) (a : Word) : AReg :=
  if x.whole || !f32Finite a then .wholeLine
  else normalise (x.c.add (Dy.ofCode a)) (x.symbols.map fun s => (s, x.k s)) x.r

/-- Q of R303. -/
def amulQ (x y : AReg) : Dy := x.dev.mul y.dev

def amulMints (x y : AReg) : Bool := !x.whole && !y.whole && !(amulQ x y).isZero

def amulVal (x y : AReg) (sym : Option Nat) : AReg :=
  if x.whole || y.whole then .wholeLine
  else
    let T := (unionSyms x.symbols y.symbols).map fun s => (s, (x.c.mul (y.k s)).add (y.c.mul (x.k s)))
    let ex := (x.c.abs.mul y.r).add (y.c.abs.mul x.r)
    let q := amulQ x y
    if q.isZero then normalise (x.c.mul y.c) T ex else withFresh (x.c.mul y.c) T ex q sym

/-! ### aquant (16 R304) -/

/-- The finite values of a format in order: value number i, for first ≤ i ≤ last, in units of 2^−shift. -/
structure Ladder where
  first : Int
  last : Int
  shift : Nat
  deriving DecidableEq, Repr, Inhabited

def quantLadder : QuantFmt → Ladder
  | .h16 => ⟨-0x7BFF, 0x7BFF, 24⟩
  | .t8 => ⟨-127, 127, 24⟩
  | .t6 => ⟨-31, 31, 8⟩
  | .s8 => ⟨-128, 127, 0⟩
  | .n8 => ⟨0, 255, 0⟩

/-- Value number i in units of 2^−shift. -/
def quantRung (f : QuantFmt) (i : Int) : Int :=
  let sgn := fun (v : Nat) => if i < 0 then -(v : Int) else v
  match f with
  | .h16 => match h16.decode i.natAbs with
    | .fin _ m e => sgn (m * 2 ^ (e + 24).toNat)
    | _ => 0
  | .t8 => sgn (t8.units i.natAbs)
  | .t6 => sgn (t6.units i.natAbs)
  | .s8 | .n8 => i

def quantRungDy (f : QuantFmt) (i : Int) : Dy := ⟨quantRung f i, -((quantLadder f).shift : Int)⟩

/-- The highest i in [lo, hi] whose value is at most x; lo − 1 where none is. -/
def findRung (f : QuantFmt) (x : Dy) : Nat → Int → Int → Int
  | 0, lo, _ => lo - 1
  | fuel + 1, lo, hi =>
    if hi < lo then lo - 1
    else
      let mid := (lo + hi) / 2
      if (quantRungDy f mid).le x then findRung f x fuel (mid + 1) hi else findRung f x fuel lo (mid - 1)

/-- G of R304: the gaps of the pairs that lie at the two ends of the interval; gaps grow away from zero. -/
def greatestGap (f : QuantFmt) (lo hi : Dy) : Option Dy :=
  let l := quantLadder f
  let gap := fun (i : Int) => (quantRungDy f (i + 1)).sub (quantRungDy f i)       -- the pair (i, i + 1)
  let ok := fun (i : Int) => decide (l.first ≤ i ∧ i < l.last) && (quantRungDy f i).le hi && lo.le (quantRungDy f (i + 1))
  let up := min (findRung f hi 20 l.first l.last) (l.last - 1)
  let belowLo := findRung f lo 20 l.first l.last
  -- the lowest pair whose upper value reaches lo
  let dn := if decide (l.first ≤ belowLo) && lo.le (quantRungDy f belowLo) then belowLo - 1 else belowLo
  let dn := max dn l.first
  match [up, dn].filter ok with
  | [] => none
  | i :: rest => some (rest.foldl (fun g j => g.max (gap j)) (gap i))

def quantCvt : QuantFmt → CvtFmt
  | .h16 => .h16
  | .t8 => .t8
  | .t6 => .t6
  | .s8 => .s8
  | .n8 => .n8

def half (x : Dy) : Dy := ⟨x.n, x.e - 1⟩

/-- The rounded centre q, or none where it is infinite. -/
def quantCentre (f : QuantFmt) (rm : Rm) (c : Dy) : Option Dy :=
  match cvtRead (quantCvt f) (cvtRound (quantCvt f) (.rm rm) c.toF).1 with
  | .fin n m e => some ⟨if n then -(m : Int) else m, e⟩
  | _ => none

/-- The point q for a point: a zero keeps the sign that rounding gives it (03 R63). -/
def quantPoint (f : QuantFmt) (rm : Rm) (centre : Word) (q : Dy) : Word :=
  match cvtRead (quantCvt f) (cvtRound (quantCvt f) (.rm rm) (f32.decode centre.toNat)).1 with
  | .fin true 0 _ => 0x80000000
  | _ => f32Word .rne q

/-- h of R304, where the operand is not a point. -/
def quantH (f : QuantFmt) (rm : Rm) (x : AReg) (q : Dy) : Dy :=
  let g := match greatestGap f x.lo x.hi with
    | some g => g
    | none => if f = .h16 then ⟨Config.emptyGap x.centre x.radius, -24⟩ else Dy.zero
  let u := if rm = .rne then half g else g
  let u := if f = .h16 then u
    else (u.max (x.hi.sub (quantRungDy f (quantLadder f).last))).max ((quantRungDy f (quantLadder f).first).sub x.lo)
  (x.c.sub q).abs.add u

/-- Does an end round to ±∞ in h16? -/
def quantOverflows (f : QuantFmt) (rm : Rm) (x : AReg) : Bool :=
  f = .h16 && ((quantCentre f rm x.lo).isNone || (quantCentre f rm x.hi).isNone)

def isPoint (x : AReg) : Bool := x.terms.isEmpty && x.r.isZero

def aquantMints (f : QuantFmt) (rm : Rm) (x : AReg) : Bool :=
  !x.whole && !isPoint x && !quantOverflows f rm x &&
    match quantCentre f rm x.c with
    | some q => !(quantH f rm x q).isZero
    | none => false

def aquantVal (f : QuantFmt) (rm : Rm) (x : AReg) (sym : Option Nat) : AReg :=
  if x.whole then .wholeLine
  else match quantCentre f rm x.c with
    | none => .wholeLine
    | some q =>
      if isPoint x then ⟨false, quantPoint f rm x.centre q, 0, []⟩
      else if quantOverflows f rm x then .wholeLine
      else
        let h := quantH f rm x q
        let T := x.symbols.map fun s => (s, x.k s)
        if h.isZero then normalise q T x.r else withFresh q T x.r h sym

/-! ### acond (16 R305) -/

/-- The n terms of greatest |k|, among equals the lower symbols: what is left when the others fold. -/
def dropSmallest : Nat → List (Nat × Word) → List (Nat × Word)
  | 0, l => l
  | k + 1, l => match smallestTerm l with
    | none => l
    | some t => dropSmallest k (l.erase t)

def acondMints (x : AReg) (n : Nat) : Bool := decide (n < x.terms.length)

def acondVal (x : AReg) (n : Nat) (sym : Option Nat) : AReg :=
  if x.terms.length ≤ n then x
  else
    let kept := dropSmallest (x.terms.length - n) x.terms
    let F := Dy.sum ((x.terms.filter fun t => !kept.contains t).map fun t => (Dy.ofCode t.2).abs)
    match sym with
    | none =>
      let e := f32Word .ru (x.r.add F)
      if f32Finite e then ⟨false, x.centre, e, kept⟩ else .wholeLine
    | some s =>
      let k := f32Word .ru F
      if f32Finite k then ⟨false, x.centre, x.radius, sortTerms (kept ++ [(s, k)])⟩ else .wholeLine

/-- aget (16 R306). -/
def agetVal (f : AgetForm) (y : AReg) : Word :=
  match f with
  | .c => if y.whole then 0 else y.centre
  | .e => if y.whole then 0x7F800000 else y.radius
  | .lo => if y.whole then 0xFF800000 else f32Word .rd y.lo
  | .hi => if y.whole then 0x7F800000 else f32Word .ru y.hi

/-! ## The 64-byte image (16 R294) -/

/-- The image as a 512-bit number. -/
def AReg.image (x : AReg) : Nat :=
  let coefs := (x.terms.map fun t => t.2.toNat)
  let syms := x.symbols
  x.centre.toNat + 2 ^ 32 * x.radius.toNat + 2 ^ 64 * packElems 32 coefs + 2 ^ 320 * packElems 16 syms
    + 2 ^ 448 * (x.terms.length + if x.whole then 16 else 0)

/-- The value with these fields, whatever they are. -/
def AReg.fieldsOf (n : Nat) : AReg :=
  let cnt := n / 2 ^ 448 % 16
  ⟨(n / 2 ^ 452 % 2) == 1, BitVec.ofNat 32 n, BitVec.ofNat 32 (n / 2 ^ 32),
    (List.range (Nat.min cnt 8)).map fun i => (n / 2 ^ (320 + 16 * i) % 65536, BitVec.ofNat 32 (n / 2 ^ (64 + 32 * i)))⟩

def ascending : List Nat → Bool
  | a :: b :: l => decide (a < b) && ascending (b :: l)
  | _ => true

/-- Canonical values (16 R295). -/
def AReg.canonical (x : AReg) : Bool :=
  if x.whole then decide (x = .wholeLine)
  else f32Finite x.centre && f32Finite x.radius && !x.radius.getLsbD 31 &&
    x.symbols.all (fun s => s != 0 && decide (s < 65536)) && ascending x.symbols && decide (x.terms.length ≤ 8) &&
    x.terms.all (fun t => f32Finite t.2 && absCode t.2 != 0)

/-- What `ald` loads: the image as it stands if it is canonical, else the whole line (16 R307). -/
def AReg.ofImage (n : Nat) : AReg :=
  let x := AReg.fieldsOf n
  if x.canonical ∧ x.image = n % 2 ^ 512 then x else .wholeLine

end Sys2Proof.Machine
end

