-- ==== Sys2Proof/Machine/TileVals.lean ====
section
/-! DEFINITION. Exact accumulation: tile elements and contraction blocks (spec 03 R66 to R68, 14 R259 to R264), the
rounding of a drain (14 R271), and the exact cell (03 R69, R70). -/

namespace Sys2Proof.Machine

/-! ## Tile elements -/

/-- An accumulator element: A as a number of 2^−64 units, and whether it is pinned (03 R66, R67). -/
structure TileEl where
  a : Int
  pinned : Bool
  deriving DecidableEq, Repr, Inhabited

def TileEl.zero : TileEl := ⟨0, false⟩

/-- +(2^159 − 1) or −(2^159 − 1), pinned (03 R67). -/
def TileEl.pin (neg : Bool) : TileEl := ⟨if neg then -(2 ^ 159 - 1) else 2 ^ 159 - 1, true⟩

/-- A true sum as an element: pinned where it passes the range −2^159 to 2^159 − 1 (03 R67). The flag says whether it
was pinned. -/
def TileEl.ofSum (z : Int) : TileEl × Bool :=
  if 2 ^ 159 ≤ z then (.pin false, true) else if z < -(2 ^ 159) then (.pin true, true) else (⟨z, false⟩, false)

/-- What one block adds to one element (14 R264). `f` is the finite sum in units of 2^−64. -/
structure BlockEl where
  f : Int
  pos : Bool
  neg : Bool
  bad : Bool
  deriving DecidableEq, Repr, Inhabited

/-- One element of the a-run or the b-run (14 R260). -/
def tileOperand (f : TileFmt) (natural : Bool) (run i : Nat) : FVal :=
  match f with
  | .h16 => h16.decode (elemOf 16 run i)
  | .t8 => t8.decode (elemOf 8 run i)
  | .t6 => t6.decode (run / 2 ^ (96 * (i / 16)) / 2 ^ (6 * (i % 16)) % 64)
  | .i8 => FVal.ofInt (readInt (!natural) 8 (elemOf 8 run i))

/-- x × y added to a block element (14 R259). -/
def BlockEl.addProduct (b : BlockEl) (x y : FVal) : BlockEl :=
  match x, y with
  | .nan _, _ | _, .nan _ => { b with bad := true }
  | .inf s, z | z, .inf s =>
    if z.isZero then { b with bad := true }
    else if s != z.isNeg then { b with neg := true } else { b with pos := true }
  | .fin n1 m1 e1, .fin n2 m2 e2 =>
    let v : Int := (m1 * m2 * 2 ^ (e1 + e2 + 64).toNat : Nat)
    { b with f := b.f + if n1 != n2 then -v else v }

/-- One strand's operands of a `ctr`. -/
structure CtrOps where
  a : Nat
  b : Nat
  deriving DecidableEq, Repr, Inhabited

/-- The block of a set of strands: element i × N + j (14 R264). -/
def ctrBlock (f : TileFmt) (shape : Nat) (an bn : Bool) (ops : List CtrOps) : List BlockEl :=
  let (m, n, k) := shapeMNK shape
  let vals := ops.map fun o =>
    ((List.range (k * m)).map (tileOperand f an o.a), (List.range (k * n)).map (tileOperand f bn o.b))
  (List.range m).flatMap fun i => (List.range n).map fun j =>
    vals.foldl (fun acc (as, bs) => (List.range k).foldl (fun acc kk =>
      acc.addProduct (as.getD (kk * m + i) default) (bs.getD (kk * n + j) default)) acc) ⟨0, false, false, false⟩

/-- A block element applied to a tile element; the flag is its share of OVF (14 R264). -/
def TileEl.apply (x : TileEl) (b : BlockEl) : TileEl × Bool :=
  let special := b.pos || b.neg || b.bad
  if x.pinned then (x, special)
  else if b.pos && !b.neg then (.pin false, true)
  else if b.neg && !b.pos then (.pin true, true)
  else let (y, o) := TileEl.ofSum (x.a + b.f); (y, o || special)

/-- The element that `tload` makes of an F32 code; the flag is its share of OVF (03 R68). -/
def TileEl.ofF32 (c : Nat) : TileEl × Bool :=
  match f32.decode c with
  | .nan _ => (.zero, true)
  | .inf n => (.pin n, true)
  | .fin n m e =>
    let k := (roundQ (.rm .rne) n m e (-64)).1
    TileEl.ofSum (if n then -(k : Int) else k)

/-! ## Draining (14 R270, R271) -/

def drainCvt : DrainFmt → CvtFmt
  | .f32 => .f32
  | .h16 => .h16
  | .t8 => .t8
  | .t6 => .t6
  | .s8 => .s8
  | .n8 => .n8
  | .s32 => .s32
  | .n32 => .n32

/-- Bytes of a row of n elements. -/
def drainRowBytes (f : DrainFmt) (n : Nat) : Nat :=
  match f with
  | .f32 | .s32 | .n32 => 4 * n
  | .h16 => 2 * n
  | .t8 | .s8 | .n8 => n
  | .t6 => 12 * ceilDiv n 16

def drainAlign : DrainFmt → Nat
  | .f32 | .s32 | .n32 | .t6 => 4
  | .h16 => 2
  | .t8 | .s8 | .n8 => 1

/-- The product of two exact values with the flags of forming it. -/
def mulExact (x y : FVal) : FVal × FFlags :=
  match x, y with
  | .nan _, _ | _, .nan _ => (.nan false, snanFlag [x, y])
  | .inf s, z | z, .inf s => if z.isZero then (.nan false, fNV) else (.inf (s != z.isNeg), 0)
  | .fin n1 m1 e1, .fin n2 m2 e2 => (.fin (n1 != n2) (m1 * m2) (e1 + e2), 0)

/-- x of R271: A × 2^−64 × r × c. An exact zero has no sign (log 19). -/
def drainValue (a : Int) (r c : Nat) : FVal × FFlags :=
  let (x, f1) := mulExact (.fin (decide (a < 0)) a.natAbs (-64)) (f32.decode r)
  let (y, f2) := mulExact x (f32.decode c)
  (match y with | .fin n m e => .fin (n && m != 0) m e | z => z, f1 ||| f2)

/-- A drained row: its bytes as one little-endian number, and its flags. -/
def drainRow (f : DrainFmt) (rm : Rnd) (as : List Int) (r : Nat) (cs us : List Nat) : Nat × FFlags :=
  let xs := (as.zip cs).map fun (a, c) => drainValue a r c
  let (ys, fl, _) := roundBlock (drainCvt f) rm (.fin false 0 0) (xs.map Prod.fst) us
  let w := cvtWidth (drainCvt f)
  let bits := if f = .t6 then
      ((List.range (ceilDiv ys.length 16)).map fun g => packElems 6 (ys.drop (16 * g) |>.take 16) * 2 ^ (96 * g)).sum
    else packElems w ys
  (bits, fl ||| flagsOr (xs.map Prod.snd))

/-- u of element p under sr, from the generator at the drain's counter and key (14 R271). -/
def drainDraw (ctr key p : Nat) : Nat :=
  rngOut ((ctr + p / 8) % 2 ^ 128) key / 2 ^ (16 * (p % 8)) % 65536

/-! ## The exact cell (03 R69, R70) -/

/-- VALUE of a 512-bit cell. -/
def cellValue (c : Nat) : Int := readInt true 504 c

/-- The cell with V and the four flags; reserved bits zero. -/
def cellOf (v : Int) (ovf nan pinf ninf : Bool) : Nat :=
  wrapInt 504 v + (if ovf then 2 ^ 504 else 0) + (if nan then 2 ^ 505 else 0) + (if pinf then 2 ^ 506 else 0) +
    (if ninf then 2 ^ 507 else 0)

/-- xadd of one value (03 R70). -/
def cellAdd (c : Nat) (x : FVal) : Nat :=
  let v := cellValue c
  let ovf := c.testBit 504
  let nan := c.testBit 505
  let pinf := c.testBit 506
  let ninf := c.testBit 507
  match x with
  | .nan _ => cellOf v ovf true pinf ninf
  | .inf false => cellOf v ovf nan true ninf
  | .inf true => cellOf v ovf nan pinf true
  | .fin n m e =>
    if ovf then cellOf v ovf nan pinf ninf
    else
      let k : Int := (m * 2 ^ (e + 160).toNat : Nat)
      let s := v + if n then -k else k
      if 2 ^ 503 - 1 < s then cellOf (2 ^ 503 - 1) true nan pinf ninf
      else if s < -(2 ^ 503 - 1) then cellOf (-(2 ^ 503 - 1)) true nan pinf ninf
      else cellOf s ovf nan pinf ninf

/-- xget: the code and its flags (03 R70). -/
def cellGet (f : FFmt) (rm : Rm) (c : Nat) : Nat × FFlags :=
  let pinf := c.testBit 506
  let ninf := c.testBit 507
  if c.testBit 505 || (pinf && ninf) then (f.nan, fNV)
  else if pinf then (f.infinity false, 0)
  else if ninf then (f.infinity true, 0)
  else let v := cellValue c; f.round (.rm rm) (.fin (decide (v < 0)) v.natAbs (-160))

end Sys2Proof.Machine
end

