-- ==== Sys2Proof/Machine/State.lean ====
section
/-! DEFINITION. The state of the package as plain data: strands and their registers, braids, cores, banks and memory,
contexts, queues and launches, links, power and boot; and the state after power-on. Numbers that key a map are said
beside the map. -/

namespace Sys2Proof.Machine

/-! ## Memory -/

/-- Bytes by key (see `State.mem`), in canonical form: keys strictly rising, no byte equal to what an unlisted key
reads as. -/
abbrev Memory := List Host.Cell

/-- What an unlisted byte reads as (log 3). -/
def Memory.unlisted : Byte := 0

/-- The canonical form. -/
def Memory.wf : Memory → Bool
  | [] => true
  | [c] => c.2 != Memory.unlisted
  | c :: d :: m => c.2 != Memory.unlisted && decide (c.1 < d.1) && Memory.wf (d :: m)

/-- A finite map by number. -/
abbrev AMap (α : Type) := List (Nat × α)

/-! ## Strands -/

/-- A program counter or resume point: word 0 is the clause start (02 R27, R28). -/
structure Point where
  clause : DWord
  word : Nat
  deriving DecidableEq, Repr, Inhabited

/-- A linkage entry of the hardware call stack (07 R123). -/
structure Call where
  link : DWord
  fp : DWord
  size : Nat
  serial : Word
  deriving DecidableEq, Repr, Inhabited

/-- The state of a strand that a trap frame saves, `rte` restores and a rollback returns to (18 R329, 11 R229). -/
structure Regs where
  v : List Reg
  o : List Reg
  ll : Reg
  fstat : FFlags
  slots : BitVec 12
  a : List AReg
  noMint : Bool
  k : List DWord
  n : List (Option Nat)
  depth : Nat
  fp : DWord
  size : Nat
  serial : Word
  fs : Word
  calls : List Call
  pc : Point
  deriving DecidableEq, Repr, Inhabited

/-- The trap record (18 R326); `fault` is FAULTREC. -/
structure TrapRec where
  clause : DWord
  word : Nat
  cause : Nat
  detail : Nat
  fault : Nat
  deriving DecidableEq, Repr, Inhabited

/-- Ordering attribute of a page; scratchpad space is ordered as RC (11 R215). -/
inductive Ord where
  | rc | so | un
  deriving DecidableEq, Repr, Inhabited

/-- One part of an access: bytes from a memory key, on one page. `va` is the virtual address or the scratchpad offset;
`cached` says whether the caches of a cluster may hold the line (10 R190); `sent` is a request to another package that has
left (19 R352); `level` that of the page's leaf, for a fault record (09 R176). -/
structure Part where
  key : Nat
  len : Nat
  ord : Ord
  va : Nat
  cached : Bool := false
  sent : Bool := false
  level : Nat := 0
  deriving DecidableEq, Repr, Inhabited

/-- Order that an access carries (10 R192). -/
structure Order where
  acq : Option Scope
  rel : Option Scope
  deriving DecidableEq, Repr, Inhabited

/-- What a memory access does with the bytes of its parts, read as one little-endian number. -/
inductive MemOp where
  | load (k : LdKind) (d : Nat)
  | loadW (t : Tag) (d : Nat)
  | loadA (d : Nat)
  | loadK (k : Nat)
  | store (val : Nat)
  /-- an affine image, or a handle, read once the strand's earlier words of that unit are done (16 R299, 17 R319) -/
  | storeA (y : Nat)
  | storeK (k : Nat)
  /-- a full/empty bit (10 R200) -/
  | fset (full : Bool)
  | atom (op : AtomOp) (w64 : Bool) (b : Nat) (d : Nat)
  | cas (w64 : Bool) (expect new : Nat) (d : Nat)
  | atomf (rm : Rm) (b : Nat) (d : Nat)
  | xadd (half : Bool) (b : Nat)
  | xget (half : Bool) (rm : Rm) (d : Nat)
  | xclr
  | line (pin : Bool) (d : Nat)
  /-- with its address and stride, and the M and N of the tile that it is to load (14 R269) -/
  | tload (knot tslot addr stride m n : Nat)
  deriving DecidableEq, Repr, Inhabited

/-- Kinds of knot collective with their parameters (12 R241, 14 R270). -/
inductive CollKind where
  | bar
  | scan (op : FoldOp) (ex : Bool)
  | red (op : FoldOp)
  | drain (f : DrainFmt) (rm : Rnd) (keep : Bool) (t : Nat)
  deriving DecidableEq, Repr, Inhabited

/-- Operands of a drain as its strand gave them (14 R270). -/
structure DrainArgs where
  addr : DWord
  stride : Nat
  scales : Nat
  ctr : Nat
  key : Nat
  deriving DecidableEq, Repr, Inhabited

/-- A copy command or a cqf entry (15 R285 to R291). -/
inductive CopyKind where
  | box | gather | scatter | fill | fence
  deriving DecidableEq, Repr, Inhabited

structure CopyCmd where
  uid : Nat
  kind : CopyKind
  ctx : Nat
  hank : Nat
  launch : Nat
  /-- the launch that its strand works for (17 R324), and the neighbourhood of its hank (00 R6) -/
  opener : Option Nat
  nb : Option Nat
  pos : Nat
  /-- STRAND of its fault records -/
  index : Nat
  pend : Nat
  /-- the register of its status word -/
  dst : Nat
  recAddr : DWord
  c : List Nat
  att : Attach
  /-- attach 1: the barrier was counted as attached; attach 2: the handle referenced, 0 where none -/
  attached : Bool
  handle : DWord
  /-- cqf: the commands it waits for -/
  joins : List Nat
  /-- the layout record once read, elements done, bytes written, whole rows counted -/
  record : Option Nat
  done : Nat
  bytes : Nat
  rows : Nat
  /-- the row in progress of a gather or scatter, and its index word, read once (15 R288) -/
  row : Option (Nat × Nat)
  code : Nat
  svc : Option Nat
  finished : Bool
  prio : Nat
  /-- the record as it stood when the command was accepted: a later write to it may be too late (15 R292) -/
  old : Option Nat := none
  deriving DecidableEq, Repr, Inhabited

/-- A contraction block on its way to its knot (14 R264). -/
structure CtrBlock where
  knot : Nat
  tslot : Nat
  fmt : TileFmt
  shape : Nat
  els : List BlockEl
  /-- the strands whose `ctr` it is: position and the number of the instruction -/
  from_ : List (Nat × Nat)
  clause : DWord
  word : Nat
  deriving DecidableEq, Repr, Inhabited

/-- A failed translation: cause and level of R176. -/
structure XFault where
  va : Nat
  cause : Nat
  level : Nat
  /-- first address and size of the page, for cause 2 -/
  page : Nat := 0
  size : Nat := 0
  /-- refused by the links (19 R353) -/
  link : Bool := false
  deriving DecidableEq, Repr, Inhabited

/-- What an outstanding long-latency instruction has still to do when it completes. -/
inductive Act where
  /-- results known at issue: registers and flags -/
  | regs (w : List (Nat × Reg)) (fl : FFlags)
  /-- the pieces not yet performed, each with its byte offset in the access, and the value read so far -/
  | mem (pieces : List (Nat × Part)) (got : Nat) (o : Order) (op : MemOp)
  /-- `only` is the one earlier access of an acquire read's fence (11 R221); the slack-set membership, as a rollback
  restores it, is `watch`; `reads` are the words (key / 4) read past it (R229); `hand` the fences of other strands that it
  follows, each by position and number (R219) -/
  | fence (k : FenceKind) (x : Scope) (only : Option Nat) (ckpt : Regs) (watch : Option (BitVec 32)) (reads : List Nat)
      (hand : List (Nat × Nat))
  /-- held commands (11 R227) -/
  | copy (cls : Nat) (c : CopyCmd)
  | ctr (f : TileFmt) (shape : Nat) (an bn : Bool) (knot tslot : Nat) (ops : CtrOps) (grp : Nat)
  | apply
  /-- an affine word behind a pending one, with the vector operands read at issue (16 R299) -/
  | affine (i : Instr) (a b : Word)
  /-- a closure word behind a pending one, with its vector operands, or a `spawn` in the hold buffer (17 R319); `h` is the
  handle read at issue, where no earlier word may change it -/
  | closure (i : Instr) (vals : List Reg) (h : Option DWord) (prio : Nat)
  /-- a change of a bank's mode, after the accesses that reached the bank earlier (10 R204) -/
  | bankset (bank : Nat) (m : BankMode) (d : Nat) (after : List (Nat × Nat))
  /-- an arrival at a barrier, after the accesses that it releases (13 R255) -/
  | barArrive (bar d : Nat) (after : List Nat)
  /-- the home rejected it: the trap raised at completion, with SRC and the failed translation (14 R263) -/
  | refused (cause detail : Nat) (fault : Option (Nat × XFault))
  /-- sent: waits for the home or the engine; completed by that unit's own event -/
  | waiting
  /-- the strand is blocked at its word and its unit serves it: destination register and tag, or none, the point at which the
  strand goes on, and, where that acquires, at what (see `Release`) and at which scope (11 R221, R224) -/
  | served (dst : Option (Nat × Tag)) (next : Point) (acq : Option (Nat × Scope))
  deriving DecidableEq, Repr, Inhabited

/-- The engine queue an outstanding instruction belongs to, where later words of the strand look at it (12 R243,
16 R299, 17 R319, 18 R336). -/
inductive PendKind where
  | plain
  | knotSlot (k : Nat)
  | contribution (home : Nat)
  | affine
  | closure
  | system
  deriving DecidableEq, Repr, Inhabited

/-- An outstanding long-latency instruction (02 R45 to R48). `slot` 15 names none; `look` 15 is unbounded. -/
structure Pend where
  id : Nat
  slot : Nat
  look : Nat
  at_ : Point
  /-- it waits in the hold buffer (11 R228); for device replay on a fault record (09 R177) -/
  held : Bool
  svc : Option Nat
  /-- the issue set that issued it -/
  group : Nat
  kind : PendKind
  /-- its register writes are discarded: a handler issued it before `rte` (18 R329) -/
  mute : Bool
  act : Act
  /-- registers that show the value to come, with the value before (02 R48) -/
  shown : List (Nat × Reg) := []
  deriving DecidableEq, Repr, Inhabited

/-- Why a strand is stalled (07 R113). -/
inductive Stall where
  /-- until these outstanding instructions have completed -/
  | ops (ids : List Nat)
  /-- until these instructions of other strands have completed: position and number (10 R195, R204) -/
  | others (l : List (Nat × Nat))
  | gather
  /-- until a `bankset` has switched this bank (10 R204) -/
  | bank (b : Nat)
  /-- `rte.w`: until the held fault record is served (18 R336) -/
  | service (seq : Nat)
  /-- `tswap`: until the hank has been swapped (18 R343) -/
  | swap
  deriving DecidableEq, Repr, Inhabited

/-- What a blocked strand waits at (07 R113). -/
inductive Block where
  | word | fifo | barrier | knot | copyQueue (cls : Nat) | holdBuffer | sleep (deadline : Nat)
  deriving DecidableEq, Repr, Inhabited

/-- Run states (07 R113). A parked strand keeps its watch set (07 R120). -/
inductive Run where
  | candidate
  | stalled (r : Stall)
  | blocked (b : Block)
  | parked (watch : BitVec 32)
  | trapped
  | exited
  deriving DecidableEq, Repr, Inhabited

structure Strand where
  hank : Nat
  index : Nat
  ctx : Nat
  launch : Nat
  /-- placements of its position when it was placed (17 R310) -/
  inc : Nat
  /-- the neighbourhood of its hank, and the hank's position in it (06 R105) -/
  nb : Option (Nat × Nat)
  /-- the launch that it works for: its hank's, or that of the strand that spawned it (17 R324) -/
  opener : Option Nat
  regs : Regs
  run : Run
  /-- held by a handler (18 R340) -/
  held : Bool
  handler : Bool
  frame : Option Regs
  /-- instructions with lower numbers were issued before the trap -/
  frameId : Nat
  trap : TrapRec
  /-- the issue set of the word that its trap is of (18 R328) -/
  trapSet : Nat
  /-- the record on which the operation of its trap is held (18 R336) -/
  heldOn : Option Nat
  /-- a trap past an incomplete fence (11 R230), and the number of the instruction that it waits with: fences of lower numbers
  come before it -/
  deferred : Option TrapRec
  deferNum : Nat
  /-- release fences of the lanes whose values it received, not complete then: position and number (11 R219) -/
  handed : List (Nat × Nat)
  /-- fences that complete before any further word issues (11 R231) -/
  awaits : List Nat
  /-- knots that an exited strand leaves once its contributions to their homes are applied (14 R265) -/
  leaving : List Nat
  ttarget : Word
  cychi : Word
  outs : List Pend
  nextId : Nat
  /-- registers that an uncovered later word wrote, whose value outlasts the completion of earlier instructions, a free choice
  (02 R48): the number of the strand's next instruction then, and the register -/
  outlasts : List (Nat × Nat)
  /-- the registers of a handler that has returned, or those at the strand's exit, as what was issued then still reads them (16
  R299, 17 R319) -/
  past : Option Regs
  /-- the linkage entries that stand in its stack region, oldest first, as they were spilled (07 R124; 17 R313) -/
  spilled : List Call
  stackB : DWord
  stackE : DWord
  deriving DecidableEq, Repr, Inhabited

/-- A trap group (18 R328): its lanes, the depth and clause of its key, its cause, and the issue set and the cycle that make
strands one group. -/
structure TrapGroup where
  mask : BitVec 32
  depth : Nat
  clause : DWord
  cause : Nat
  set : Nat
  cycle : Nat
  deriving DecidableEq, Repr, Inhabited

structure Braid where
  hank : Nat
  index : Nat
  prio : Nat
  lanes : BitVec 32
  unchosen : Nat
  pending : List TrapGroup
  deriving DecidableEq, Repr, Inhabited

/-- The issue set in progress: the lanes left in it, its clause and the slot position it executes next (02 R27). -/
structure Issue where
  braid : Nat
  mask : BitVec 32
  clause : DWord
  words : List DWord
  word : Nat
  deriving DecidableEq, Repr, Inhabited

/-- A step in progress (18 R341): who asked for it, and the lanes that take part. -/
structure StepReq where
  issue : Issue
  lanes : BitVec 32
  by_ : List (Nat × Nat × Nat)
  cause : Nat
  deriving DecidableEq, Repr, Inhabited

structure Quarter where
  cur : Option Issue
  step : Option StepReq
  /-- round-robin pointers of classes 0 to 3, and of the handlers (07 R118) -/
  rr : List Nat
  rrHandler : Nat
  aged : List Nat
  deriving DecidableEq, Repr, Inhabited

/-! ## The units of a core -/

/-- A knot collective arrival (12 R240). -/
structure Arrival where
  pos : Nat
  id : Nat
  x : Bool
  val : Word
  dst : Nat
  args : DrainArgs
  at_ : Point
  deriving DecidableEq, Repr, Inhabited

structure Member where
  pos : Nat
  rank : Nat
  deriving DecidableEq, Repr, Inhabited

/-- A knot table entry (12 R236); `live` false is free. `place` is the neighbourhood or, outside one, the hank. -/
structure Knot where
  live : Bool
  serial : Nat
  ctx : Nat
  place : Nat
  members : List Member
  g : Word
  kind : Option CollKind
  arrivals : List Arrival
  /-- a closed drain held for device replay (14 R273), and the blocks that have come after it -/
  svc : Option Nat
  queue : List CtrBlock
  deriving DecidableEq, Repr, Inhabited

structure Tile where
  entry : Nat
  serial : Nat
  tslot : Nat
  fmt : TileFmt
  shape : Nat
  ovf : Bool
  els : List TileEl
  frozen : Bool
  ctx : Nat
  deriving DecidableEq, Repr, Inhabited

/-- A named barrier owned by a hank (13 R249). `waits` are the strands blocked on the current phase. -/
structure Barrier where
  owner : Nat
  mode : Nat
  phase : Nat
  exp : Nat
  arr : Nat
  rowx : Nat
  rows : Nat
  flt : Bool
  ovr : Bool
  att : Nat
  waits : List (Nat × Nat)
  /-- the arrival of a failed copy command satisfies the row condition of the phase (13 R252) -/
  rowsMet : Bool
  deriving DecidableEq, Repr, Inhabited

inductive EnvState where
  | free | live | held
  deriving DecidableEq, Repr, Inhabited

/-- An environment (17 R310). Spans are (offset, length). -/
structure Env where
  st : EnvState
  entry : DWord
  fbase : DWord
  fserial : Word
  refs : Nat
  check : Nat
  ctx : Nat
  vals : List Reg
  spans : List (Nat × Nat)
  ownerCore : Nat
  ownerPos : Nat
  ownerInc : Nat
  deriving DecidableEq, Repr, Inhabited

/-- Sets of observers (11 R212): all those of core c, bit c of `far`; the engines of die d, bit 384 + d; agents of other packages,
bit 392; the host, bit 393. In `near` single ones of a core: the strand at position p, as p, and the engines of core c, as
786,432 + c. -/
structure Observers where
  far : BitVec 394
  near : List Nat
  deriving DecidableEq, Repr, Inhabited

/-- A request waiting in a bank (10 R185, R186); `first` are those who read what a store writes before others may (11 R223). -/
structure Waiter where
  pos : Nat
  id : Nat
  store : Bool
  val : Word
  first : Observers
  deriving DecidableEq, Repr, Inhabited

/-- A cluster SRAM bank (10 R182): FIFO entries oldest first, push and pop lists, and lists of waiting words by offset. -/
structure Bank where
  mode : BankMode
  hank : Option Nat
  fifo : List Word
  pushes : List Waiter
  pops : List Waiter
  words : AMap (List Waiter)
  deriving DecidableEq, Repr, Inhabited

/-- What the closure of a collective gives one member (12 R241, R242). -/
structure KnotResult where
  pos : Nat
  id : Nat
  regs : List (Nat × Reg)
  fl : FFlags
  trap : Option (Nat × Nat)
  deriving DecidableEq, Repr, Inhabited

/-- Events of a core's arbiter (11 R235). A closure reaches a core as one event for all its members there (12 R242). Each
resumes instructions of strands, or swaps a hank out. -/
inductive CoreEvent where
  | barrier (l : List (Nat × Nat))
  | knot (l : List KnotResult)
  | copy (cls : Nat) (cmd : CopyCmd)
  | service (pos id : Nat) (val : Option Word) (trap : Bool)
  | swap (hank : Nat)
  | wake (pos id : Nat)
  deriving DecidableEq, Repr, Inhabited

structure CopyEngine where
  queues : List (List CopyCmd)
  deficits : List Nat
  /-- the class being visited, and whether it has received its quantum in this visit -/
  visit : Nat
  credited : Bool
  deriving DecidableEq, Repr, Inhabited

/-- A line pinned in a way of its cluster's cache, a bank, by a context on a core (10 R189). -/
structure Pin where
  ctx : Nat
  core : Nat
  line : Nat
  way : Nat
  deriving DecidableEq, Repr, Inhabited

/-- A translation held by a TLB (09 R174), a core's or a cluster's, with the number of that. `page` is the first address,
`size` the page size. -/
structure TlbEntry where
  core : Nat
  ctx : Nat
  page : Nat
  size : Nat
  leaf : Nat
  deriving DecidableEq, Repr, Inhabited

/-- A pointer entry held by a die's walker (09 R174): the table of a level for the addresses with a prefix. -/
structure PtrEntry where
  die : Nat
  ctx : Nat
  level : Nat
  pre : Nat
  table : Nat
  deriving DecidableEq, Repr, Inhabited

/-- Who writes: a strand at its position, a core's copy engine, a die's engines, agents of other packages, the host. -/
inductive Writer where
  | strand (pos : Nat)
  | copy (core : Nat)
  | engine (die : Nat)
  | remote
  | host
  deriving DecidableEq, Repr, Inhabited

/-- A release that carries a write (11 R224): where it is to be observed, who releases (an observer by its number) and for whom.
Places: a word, by its key / 4; from 2^80 on marks that are no place of memory: what a strand writes past a release fence,
what it has read before an acquire fence, a collective of a knot, a phase of a barrier, a copy command's completion. -/
structure Release where
  place : Nat
  by_ : Nat
  dest : Observers
  deriving DecidableEq, Repr, Inhabited

/-- A write readable to some observers before it is performed for all (11 R223): the context and the launch it is of, who wrote
it, with the number of the instruction or command, its bytes, who has observed it, strands by position and classes of a copy
engine, and the releases that carry it (R224). -/
structure EarlyWrite where
  reach : Observers
  ctx : Nat
  launch : Option Nat
  by_ : Writer
  id : Nat
  parts : List Part
  val : Nat
  known : List Nat := []
  rels : List Release := []
  deriving DecidableEq, Repr, Inhabited

/-! ## Contexts, queues, launches -/

inductive CtxState where
  | created | active | suspended | faulted
  deriving DecidableEq, Repr, Inhabited

/-- What a fault record holds for device replay (09 R176): an outstanding instruction by its number, a copy command, a
queue's access, a doorbell, or a closed drain; and what waits for a link besides: a core's or die's engine (19 R352). -/
inductive Holder where
  | op (id : Nat)
  | engine (core : Nat)
  | copy (uid : Nat)
  | queue (q : Nat)
  | bell (q : Nat)
  | drain (knot : Nat)
  deriving DecidableEq, Repr, Inhabited

/-- A page in service: its first address and size, the number and the whole of its record, and what it holds, in the order
held. -/
structure InService where
  page : Nat
  size : Nat
  seq : Nat
  image : Nat
  held : List Holder
  deriving DecidableEq, Repr, Inhabited

/-- What an image in a save area is of: a hank by its number, a tile store entry, an environment. -/
inductive ImageOwner where
  | hank (uid : Nat)
  | tile (e : Nat)
  | env (key : Nat)
  deriving DecidableEq, Repr, Inhabited

/-- An image in a context's save area: where it stands, and the draw that its private bytes came from (log 9). -/
structure SaveImage where
  owner : ImageOwner
  off : Nat
  len : Nat
  draw : Nat
  deriving DecidableEq, Repr, Inhabited

/-- A context (04 R75 to R85). -/
structure Ctx where
  st : CtxState
  firmware : Bool
  root : Nat
  feat : Nat
  symlim : Nat
  pinq : Nat
  trapBase : DWord
  frBase : DWord
  frLog : Nat
  tfBase : DWord
  saveBase : DWord
  saveSize : Nat
  faultAddr : DWord
  spBase : DWord
  spSize : Nat
  symC : Nat
  seq : Word
  inService : List InService
  /-- records waiting for ring space or for a link, in order: number and record; whether the bytes of the first stand in the ring
  already, so that only FRWR has to follow (09 R178; 19 R354) -/
  pendingRecs : List (Nat × Nat)
  ringSent : Bool
  images : List SaveImage
  /-- while it is suspended, the copy commands of retired hanks: core, class and command -/
  copies : List (Nat × Nat × CopyCmd)
  faultCode : Nat
  recorded : Bool
  /-- the record of its fault, while it waits for a link (19 R352, R354) -/
  faultRec : Option Nat
  /-- issue stops: a suspend, a pre-emption or a fault waits for clause boundaries -/
  stopping : Bool
  deriving DecidableEq, Repr, Inhabited

inductive QState where
  | created | mapped | running | blocked | unmapped | faulted (code : Nat) | preempted
  deriving DecidableEq, Repr, Inhabited

/-- A packet started and not yet complete: its index, and the launch it placed. -/
structure Started where
  index : Nat
  launch : Option Nat
  deriving DecidableEq, Repr, Inhabited

/-- A wait in progress (05 R94): the packet's index, signal address, compare value and condition. -/
structure Waiting where
  index : Nat
  addr : Nat
  cmp : Nat
  cond : Nat
  deriving DecidableEq, Repr, Inhabited

/-- A hardware queue (05 R89, R97). `wridx` is the write index last seen. -/
structure Queue where
  ctx : Nat
  die : Nat
  desc : DWord
  base : DWord
  log : Nat
  pri : Nat
  tslice : Nat
  tsdepth : Nat
  st : QState
  before : QState
  thread : Bool
  rdidx : DWord
  wridx : DWord
  doorval : DWord
  blockedAt : Nat
  /-- a wait packet that was started and whose condition has not held yet -/
  waiting : Option Waiting
  slice : Nat
  svc : Option Nat
  started : List Started
  /-- a pre-empt that waits for resident hanks: its depth -/
  preempting : Option Nat
  /-- pre-empted by a suspend: it returns to `before` -/
  susp : Bool
  /-- the record that holds a doorbell's access (R96) -/
  bell : Option Nat
  deriving DecidableEq, Repr, Inhabited

/-- A launch in progress (06 R100, R110). -/
structure Launch where
  queue : Nat
  ctx : Nat
  packet : Nat
  kaddr : DWord
  kobj : Nat
  arg : DWord
  count : Nat
  next : Nat
  retired : Nat
  nbsize : Nat
  prio : Nat
  timed : Bool
  stopped : Bool
  /-- its neighbourhoods, each with its cores (06 R105) -/
  nbs : List (Nat × List Nat)
  deriving DecidableEq, Repr, Inhabited

/-- A resident hank (06 R102 to R107). `nb` numbers its neighbourhood; a spawn braid is a hank with `spawn` set. -/
structure Hank where
  ctx : Nat
  launch : Nat
  index : Nat
  core : Nat
  braids : List Nat
  strands : Nat
  regs : Nat
  affs : Nat
  scrkb : Nat
  banks : List Nat
  nb : Option Nat
  nbpos : Nat
  nhank : Nat
  prio : Nat
  spawn : Option Nat
  stopping : Bool
  deriving DecidableEq, Repr, Inhabited

/-- A hank saved by a swap, a pre-emption or a suspend (04 R79, 18 R344, R346): its number, and what it held. After a
swap its barriers and banks stay where they are. -/
structure SavedHank where
  uid : Nat
  hank : Hank
  swap : Bool
  braids : AMap Braid
  strands : AMap Strand
  barriers : AMap Barrier
  banks : AMap Bank
  bytes : Memory
  fulls : List Nat
  copies : List (Nat × CopyCmd)
  events : List (Nat × CoreEvent)
  deriving DecidableEq, Repr, Inhabited

/-! ## Links, power, boot -/

inductive PortState where
  | down | training | active | degraded | retraining | failed
  deriving DecidableEq, Repr, Inhabited

/-- A flit on its way (19 R348): the port that numbered it and its sequence number there, the package it goes to, and the
instruction whose request it carries: position and number; for its fault records, the context and the core. -/
structure Flit where
  port : Nat
  seq : Nat
  pkg : Nat
  pos : Nat
  id : Nat
  ctx : Nat
  core : Nat
  deriving DecidableEq, Repr, Inhabited

/-- A Byelaust port (19 R348 to R351): replay buffer of unacknowledged flits; the next sequence numbers to send and to accept;
the flit replayed last, by the port that numbered it and its number, and its consecutive replays; the device time at which
training began. -/
structure Port where
  en : Bool
  st : PortState
  lanes : Nat
  peerPkg : Nat
  peerPort : Nat
  replays : Nat
  crcErr : Nat
  buffer : List Flit
  txSeq : Nat
  rxSeq : Nat
  counted : Option (Nat × Nat)
  consecutive : Nat
  since : Nat
  deriving DecidableEq, Repr, Inhabited

/-- A request that waits for a usable port (19 R352): what it belongs to, its context, its core, the package, and since
when. -/
structure LinkWait where
  owner : Holder
  ctx : Nat
  core : Nat
  pkg : Nat
  since : Nat
  deriving DecidableEq, Repr, Inhabited

/-- A block in a governor's list: when it came, and the core it comes from (20 R359). -/
structure Start where
  cycle : Nat
  core : Nat
  block : CtrBlock
  deriving DecidableEq, Repr, Inhabited

/-- A die's governor (20 R358 to R361). `tripped`: four hot samples came in a row (R360). -/
structure Governor where
  spacing : Nat
  slew : Nat
  last : Option Nat
  starts : List Start
  hot : Nat
  tripped : Bool
  stall : Nat
  throt : Bool
  /-- the lowest SEQ that the die's next sample may have -/
  samples : Nat
  deriving DecidableEq, Repr, Inhabited

inductive Mode where
  | startUp | service | test | recovery
  deriving DecidableEq, Repr, Inhabited

/-- The command in the command block (04 R86). -/
structure Cmd where
  buf : Nat
  busy : Bool
  /-- given by the Gladin firmware over its internal path (20 R365) -/
  firmware : Bool
  /-- a command that takes several steps is under way -/
  started : Bool
  seq : Nat
  status : Nat
  result : Nat
  deriving DecidableEq, Repr, Inhabited

/-- A range register with the low half held aside (10 R188, 19 R356). -/
structure RangeReg where
  val : Nat
  low : Nat
  deriving DecidableEq, Repr, Inhabited

/-- The package. Keys: strand position core × 2,048 + quarter × 512 + place × 32 + lane (an exited strand of a retired hank,
while instructions of it are outstanding, stands at its position + 786,432 × a fresh number); braid core × 64 + quarter × 16 +
place; quarter core × 4 + quarter; bank cluster × 64 + bank; knot core × 64 + entry; tile core × 8 + entry; barrier
core × 128 + number; environment core × 2,048 + index; symbol block core × 256 + context. -/
structure State where
  -- memory: HBM at its physical address, host memory from 2^47, package p's HBM from (p + 1) × 2^48, scratchpad byte
  -- b of bank n at 2^64 + n × 2^18 + b
  mem : Memory
  full : List Nat
  early : List EarlyWrite
  /-- words (key / 4) that hold an uncorrectable error now (01 R19), and words of host memory whose access ends with an error
  status now (19 R355) -/
  upsets : List Nat
  busErrors : List Nat
  /-- fences past which a word was read that another observer has written since (11 R229): position and number -/
  spoiled : List (Nat × Nat)
  -- strands and issue
  strands : AMap Strand
  braids : AMap Braid
  quarters : AMap Quarter
  incs : AMap Nat
  -- units of cores and clusters
  banks : AMap Bank
  knots : AMap Knot
  tiles : AMap Tile
  barriers : AMap Barrier
  envs : AMap Env
  symBlocks : AMap (Nat × Nat)
  copyEngines : AMap CopyEngine
  events : AMap (List CoreEvent)
  lastSource : AMap Nat
  rollbacks : AMap Word
  swapIn : AMap (List Nat)
  tlb : List TlbEntry
  clusterTlb : List TlbEntry
  pointers : List PtrEntry
  pins : List Pin
  -- contexts, queues, launches, hanks
  ctxs : AMap Ctx
  queues : AMap Queue
  mapLists : AMap (List Nat)
  launches : AMap Launch
  /-- the queue served last, by die × 4 + QPRI (05 R97) -/
  dispatched : AMap Nat
  hanks : AMap Hank
  saved : List SavedHank
  /-- records served while their context was not active (18 R347): context and number -/
  replays : List (Nat × Nat)
  uid : Nat
  -- host registers
  featOffer : DWord
  featAgreed : DWord
  pkgid : Nat
  linkTmo : Nat
  telctl : DWord
  copyq : AMap DWord
  cmd : Cmd
  tlbinv : Option Nat
  ranges : AMap RangeReg
  routes : AMap Nat
  ports : AMap Port
  linkWaits : List LinkWait
  msix : List Nat
  unsupported : Nat
  -- power, time, boot
  governors : AMap Governor
  /-- SEQ of the package's last telemetry sample (20 R361) -/
  samples : Nat
  mode : Mode
  clocksStopped : Bool
  cycles : Nat
  devTime : Nat
  fuse : Nat
  images : List Nat
  /-- the boot step of R366 in progress, 0 where none is, and the work done in it (20 R363; log 66) -/
  boot : Nat
  bootWork : Nat
  engines : Bool
  regsOpen : Bool
  manager : Nat
  /-- nanoseconds since the last heartbeat of die 0 (20 R363) -/
  silence : Nat
  reports : List Nat
  -- the model's own
  agenda : List Move
  moves : Nat
  focus : Nat
  stepping : Bool
  draws : Nat
  deriving DecidableEq, Repr, Inhabited

/-- Why the machine stops. -/
inductive Fault where
  /-- Raised by `step` for a move that names a quarter the package does not have (01 R14 gives 384 × 4). Safe: no
  quarter of the hardware has such a number. -/
  | noSuchQuarter
  deriving DecidableEq, Repr, Inhabited

/-- Why a step has no meaning. -/
inductive Refusal where
  /-- Raised by `exec` for a row of the opcode table without a meaning yet. Safe: nothing is claimed of it. -/
  | notModelled (mnemonic : String)
  deriving DecidableEq, Repr, Inhabited

/-- The package at power-on: start-up mode, nothing placed (20 R364). Values the spec does not give: log 4. -/
def State.reset : State :=
  { mem := [], full := [], early := [], upsets := [], busErrors := [], spoiled := [], strands := [], braids := [],
    quarters := [], incs := [], banks := [], knots := [], tiles := [], barriers := [], envs := [], symBlocks := [],
    copyEngines := [], events := [], lastSource := [], rollbacks := [], swapIn := [], tlb := [], clusterTlb := [],
    pointers := [], pins := [], ctxs := [], queues := [], mapLists := [], launches := [], dispatched := [], hanks := [], saved := [], replays := [], uid := 0,
    featOffer := 0x017F, featAgreed := 0x017F, pkgid := 0, linkTmo := 10000, telctl := 0, copyq := [],
    cmd := ⟨0, false, false, false, 0, 0, 0⟩, tlbinv := none, ranges := [], routes := [], ports := [], linkWaits := [],
    msix := [], unsupported := 0,
    governors := [], samples := 0, mode := .startUp, clocksStopped := false, cycles := 0, devTime := 0, fuse := 0,
    images := [], boot := 1, bootWork := 0, engines := false, regsOpen := false, manager := 0, silence := 0, reports := [],
    agenda := [], moves := 0, focus := 0, stepping := false, draws := 0 }

end Sys2Proof.Machine
end

