-- ==== Sys2Proof/Machine/Mem.lean ====
section
/-! DEFINITION. Finite maps, bytes of memory, where things stand in the package (spec 01), the table walk (09 R170 to
R173), fault records and the fault ring (09 R176 to R178, R407), and context faults (04 R85). -/

namespace Sys2Proof.Machine

/-! ## Finite maps, keys rising -/

def AMap.get? {α : Type} : AMap α → Nat → Option α
  | [], _ => none
  | p :: m, k => if p.1 = k then some p.2 else AMap.get? m k

def AMap.set {α : Type} (k : Nat) (v : α) : AMap α → AMap α
  | [] => [(k, v)]
  | p :: m => if p.1 = k then (k, v) :: m else if k < p.1 then (k, v) :: p :: m else p :: AMap.set k v m

def AMap.erase {α : Type} (k : Nat) (m : AMap α) : AMap α := m.filter fun p => p.1 != k

def AMap.getD {α : Type} (m : AMap α) (k : Nat) (d : α) : α := (m.get? k).getD d

/-- The entry at k changed, if there is one. -/
def AMap.modify {α : Type} (k : Nat) (f : α → α) (m : AMap α) : AMap α :=
  m.map fun p => if p.1 = k then (p.1, f p.2) else p

/-- Every entry changed, each knowing its key. -/
def AMap.mapVals {α : Type} (f : Nat → α → α) (m : AMap α) : AMap α := m.map fun p => (p.1, f p.1 p.2)

def AMap.putAll {α : Type} (m l : AMap α) : AMap α := l.foldl (fun m p => m.set p.1 p.2) m

/-- A list indexed from 0, with one element replaced; it grows with `d` where it is too short. -/
def setAt {α : Type} (d : α) (n : Nat) (v : α) (l : List α) : List α :=
  if n < l.length then l.set n v else l ++ List.replicate (n - l.length) d ++ [v]

/-! ## Bytes -/

/-- The byte at a key. -/
def Memory.read (m : Memory) (k : Nat) : Byte :=
  match m with
  | [] => Memory.unlisted
  | c :: m' => if c.1 = k then c.2 else Memory.read m' k

/-- The byte at key k replaced, in canonical form. -/
def Memory.write (k : Nat) (b : Byte) : Memory → Memory
  | [] => if b = Memory.unlisted then [] else [(k, b)]
  | c :: m =>
    if c.1 < k then c :: Memory.write k b m
    else if c.1 = k then (if b = Memory.unlisted then m else (k, b) :: m)
    else if b = Memory.unlisted then c :: m else (k, b) :: c :: m

/-- n bytes from key k, little-endian (00 R4). -/
def Memory.readN (m : Memory) (k : Nat) : Nat → Nat
  | 0 => 0
  | n + 1 => (m.read k).toNat + 256 * Memory.readN m (k + 1) n

/-- n bytes of v from key k, little-endian. -/
def Memory.writeN (k v : Nat) : Nat → Memory → Memory
  | 0, m => m
  | n + 1, m => Memory.writeN (k + 1) (v / 256) n (m.write k (BitVec.ofNat 8 v))

/-- Every byte with a key in [lo, hi) forgotten. -/
def Memory.clear (lo hi : Nat) (m : Memory) : Memory := m.filter fun c => !(decide (lo ≤ c.1 ∧ c.1 < hi))

/-- Bytes of a value laid over a list of parts. -/
def Memory.writeParts (v : Nat) : List Part → Memory → Memory
  | [], m => m
  | p :: l, m => Memory.writeParts (v / 2 ^ (8 * p.len)) l (m.writeN p.key v p.len)

/-- End of the package's HBM (01 R10). -/
def hbmEnd : Nat := 1280 * 10 ^ 9

/-- Key of byte `off` of a bank. -/
def bankKey (bank off : Nat) : Nat := 2 ^ 64 + bank * 2 ^ 18 + off

/-! ## Places (01 R12, R13) -/

/-- Positions of a package. -/
def places : Nat := 384 * 2048

def coreOf (pos : Nat) : Nat := pos % places / 2048
def braidOf (pos : Nat) : Nat := pos / 32
def laneOf (pos : Nat) : Nat := pos % 32
def quarterOf (pos : Nat) : Nat := pos / 512
def dieOf (core : Nat) : Nat := core / 48

def clusterOf (core : Nat) : Nat :=
  let i := core % 48
  core / 48 * 12 + i / 8 / 2 * 4 + i % 8 / 2

def coreInCluster (core : Nat) : Nat :=
  let i := core % 48
  i / 8 % 2 * 2 + i % 2

/-- The banks that a core owns, ascending (01 R13). -/
def ownedBanks (core : Nat) : List Nat := (List.range 16).map fun i => clusterOf core * 64 + 16 * coreInCluster core + i

/-! ## Writes that some observers see before others (11 R223) -/

/-- Do two parts touch a common word? -/
def Part.meets (p q : Part) : Bool :=
  decide (p.key / 4 ≤ (q.key + q.len - 1) / 4 ∧ q.key / 4 ≤ (p.key + p.len - 1) / 4)

def meetAny (ps qs : List Part) : Bool := ps.any fun p => qs.any p.meets

/-- The byte at key k of a value laid over parts, if they cover it. -/
def partsByte (k : Nat) : List Part → Nat → Option Byte
  | [], _ => none
  | p :: l, v =>
    if p.key ≤ k ∧ k < p.key + p.len then some (BitVec.ofNat 8 (v / 2 ^ (8 * (k - p.key))))
    else partsByte k l (v / 2 ^ (8 * p.len))

/-! ## Observers by number (see `Observers`; 11 R212) -/

/-- The strand at a position. -/
def strandAgent (pos : Nat) : Nat := pos % places

/-- What else reads and writes for a core: its copy engine, its fetch, and it as a home. -/
def coreAgent (core : Nat) : Nat := places + core

def dieAgent (die : Nat) : Nat := places + 384 + die
abbrev remoteAgent : Nat := places + 392
abbrev hostAgent : Nat := places + 393

/-- The bit of `far` that takes an observer in. -/
def unitOf (n : Nat) : Nat := if n < places then n / 2048 else n - places

/-- Observers by the bits of `far`. -/
def units (l : List Nat) : Observers := ⟨l.foldl (fun m k => m ||| BitVec.twoPow 394 k) 0, []⟩

def allObservers : Observers := ⟨BitVec.allOnes 394, []⟩

/-- One observer. -/
def Observers.one (n : Nat) : Observers := if n < places + 384 then ⟨0, [n]⟩ else units [n - places]

def Observers.has (o : Observers) (n : Nat) : Bool := o.far.getLsbD (unitOf n) || o.near.contains n

def Observers.join (a b : Observers) : Observers :=
  let far := a.far ||| b.far
  ⟨far, (a.near ++ b.near.filter fun n => !a.near.contains n).filter fun n => !far.getLsbD (unitOf n)⟩

def Observers.within (a b : Observers) : Bool := (a.far &&& ~~~b.far) == 0 && a.near.all b.has

/-- Every observer is in it. -/
def Observers.full (o : Observers) : Bool := o.far == BitVec.allOnes 394

/-- The observer that a writer is. -/
def Writer.agent : Writer → Nat
  | .strand pos => strandAgent pos
  | .copy core => coreAgent core
  | .engine die => dieAgent die
  | .remote => remoteAgent
  | .host => hostAgent

/-- The number by which an event names a writer: a strand's is its position. -/
def Writer.key : Writer → Nat
  | .strand pos => pos
  | .copy core => 2 ^ 64 + core
  | .engine die => 2 ^ 64 + 384 + die
  | .remote => 2 ^ 64 + 392
  | .host => 2 ^ 64 + 393

/-! ## Places of a release that are no place of memory (see `Release`) -/

/-- What the strand at a position writes past a release fence. -/
def strandMark (pos : Nat) : Nat := 2 ^ 80 + pos
/-- What it has read, to be observed at its next acquire fence. -/
def readMark (pos : Nat) : Nat := 2 ^ 81 + pos
/-- The collective of number `g` of a knot. -/
def knotMark (key g : Nat) : Nat := 2 ^ 84 + key * 2 ^ 32 + g
/-- A phase of a barrier. -/
def barMark (key phase : Nat) : Nat := 2 ^ 85 + key * 2 ^ 32 + phase
/-- The completion of a copy command. -/
def copyMark (uid : Nat) : Nat := 2 ^ 86 + uid
/-- Who observes for a class of a copy engine. -/
def copyKey (core cls : Nat) : Nat := 2 ^ 70 + core * 4 + cls

/-! ## Early writes -/

/-- One bit of a free choice of the move (log 7), apart from those that `State.pick` makes. -/
def State.freeBit (s : State) (n : Nat) : Bool := (Config.pick s.moves / 2 ^ 64).testBit n

/-- The byte at key k as an observer reads it. -/
def State.seen (s : State) (g k : Nat) : Byte :=
  match (s.early.filter fun w => w.reach.has g).reverse.findSome? fun w => partsByte k w.parts w.val with
  | some b => b
  | none => s.mem.read k

/-- n bytes from key k as an observer reads them. -/
def State.seenN (s : State) (g k : Nat) : Nat → Nat
  | 0 => 0
  | n + 1 => (s.seen g k).toNat + 256 * s.seenN g (k + 1) n

/-- The bytes of parts as an observer reads them, as one number. -/
def State.seenParts (s : State) (g : Nat) : List Part → Nat
  | [] => 0
  | p :: l => s.seenN g p.key p.len + 2 ^ (8 * p.len) * s.seenParts g l

/-- Early writes that satisfy `p` become readable to further observers, after the earlier ones to words that they touch: the
writes after it, and the parts of those widened. -/
def widenList (gs : Observers) (p : EarlyWrite → Bool) : List EarlyWrite → List EarlyWrite × List Part
  | [] => ([], [])
  | w :: l =>
    let r := widenList gs p l
    if p w || meetAny w.parts r.2 then ({ w with reach := w.reach.join gs } :: r.1, w.parts ++ r.2) else (w :: r.1, r.2)

/-- The words of a part. -/
def Part.words (q : Part) : List Nat := (List.range ((q.key + q.len - 1) / 4 - q.key / 4 + 1)).map (q.key / 4 + ·)

/-- Has a word of these parts been read past an acquire fence that is not complete? -/
def Pend.readPast (p : Pend) (ps : List Part) : Bool :=
  match p.act with
  | .fence _ _ _ _ _ rd _ => rd.any fun w => ps.any fun q => decide (q.key / 4 ≤ w ∧ w ≤ (q.key + q.len - 1) / 4)
  | _ => false

/-- The cores of a neighbourhood: those of its hanks, resident, saved and, while its launch runs, retired. -/
def State.nbCores (s : State) (n : Nat) : List Nat :=
  (s.hanks.filter fun p => p.2.nb == some n).map (fun p => p.2.core) ++
    (s.saved.filter fun v => v.hank.nb == some n).map (fun v => v.hank.core) ++
    (s.launches.flatMap fun l => (l.2.nbs.filter fun p => p.1 == n).flatMap Prod.snd)

/-- The observers of a scope around an observer of a core, for the neighbourhood there (00 R6). -/
def State.scopeObservers (s : State) (n : Nat) (nb : Option Nat) (sc : Scope) : Observers :=
  let core := unitOf n
  match sc with
  | .b => if n < places then ⟨0, (List.range 32).map (braidOf n * 32 + ·)⟩ else .one n
  | .c => units [core]
  | .cl => units ((List.range 384).filter fun c => clusterOf c == clusterOf core)
  | .nb => units (core :: (nb.map s.nbCores).getD [])
  | .d => units ((384 + dieOf core) :: (List.range 48).map (dieOf core * 48 + ·))
  | .p => units (List.range 392)
  | .dm => units (List.range 393)
  | .sy => allObservers

/-- The observers of a scope around a strand. -/
def State.scopeOf (s : State) (pos : Nat) (x : Strand) (sc : Scope) : Observers :=
  s.scopeObservers (strandAgent pos) (x.nb.map Prod.fst) sc

/-- A write has become visible to new observers: the fences past which others have read its words (11 R229). -/
def State.spoil (s : State) (w : Writer) (new : Nat → Bool) (ps : List Part) : State :=
  { s with spoiled := s.spoiled ++ s.strands.flatMap fun y =>
      if new (strandAgent y.1) && w != .strand y.1 then (y.2.outs.filter fun p => p.readPast ps).map fun p => (y.1, p.id)
      else [] }

/-- Early writes become readable to further observers; those that all observers read are in memory. -/
def State.widen (s : State) (p : EarlyWrite → Bool) (gs : Observers) : State :=
  let l := (widenList gs p s.early).1
  let s := (s.early.zip l).foldl (fun s q =>
    if q.1.reach = q.2.reach then s else s.spoil q.1.by_ (fun n => q.2.reach.has n && !q.1.reach.has n) q.1.parts) s
  { s with
    mem := (l.filter fun w => w.reach.full).foldl (fun m w => Memory.writeParts w.val w.parts m) s.mem
    early := l.filter fun w => !w.reach.full }

/-- Early writes to words of these parts are performed at every scope. -/
def State.land (s : State) (ps : List Part) : State := s.widen (fun w => meetAny w.parts ps) allObservers

/-- Every early write is performed at every scope. -/
def State.settleAll (s : State) : State := s.widen (fun _ => true) allObservers

/-- Bytes are written for all observers, after the writes to the same words. -/
def State.putParts (s : State) (w : Writer) (v : Nat) (ps : List Part) : State :=
  let s := s.land ps
  ({ s with mem := Memory.writeParts v ps s.mem }).spoil w (fun _ => true) ps

/-- May a write become readable to some observers before others (11 R223)? One to local memory or scratchpad space; those to
lines of other packages and of the host are performed at their home (10 R190), and those of SO pages in one order that all
observers agree with (R215). -/
def Part.mayBeEarly (q : Part) : Bool := decide (q.key < 2 ^ 47 ∨ 2 ^ 64 ≤ q.key) && q.ord != .so

/-- Bytes are written for some observers first (11 R223), after the writes to the same words that one of them has not seen. -/
def State.putEarly (s : State) (e : EarlyWrite) : State :=
  let s := s.widen (fun w => meetAny w.parts e.parts && !e.reach.within w.reach) allObservers
  ({ s with early := s.early ++ [e] }).spoil e.by_ e.reach.has e.parts

/-- Bytes are written for some observers first, where the parts allow it, or for all. -/
def State.putFirst (s : State) (e : EarlyWrite) : State :=
  if e.parts.all Part.mayBeEarly && !e.reach.full then s.putEarly e else s.putParts e.by_ e.val e.parts

/-! ## What releases carry and acquires observe (11 R214, R220 to R224) -/

/-- Has the strand at a position, or a class of a copy engine, written this, or observed it? -/
def EarlyWrite.knownTo (w : EarlyWrite) (pos : Nat) : Bool := w.by_ == .strand pos || w.known.contains pos

/-- The early writes that satisfy `p` have been observed by `who` (11 R224). -/
def State.learn (s : State) (who : Nat) (p : EarlyWrite → Bool) : State :=
  { s with early := s.early.map fun w => if p w && !w.known.contains who then { w with known := w.known ++ [who] } else w }

/-- Releases that carry it join those of an early write. -/
def EarlyWrite.carried (w : EarlyWrite) (l : List Release) : EarlyWrite :=
  { w with rels := w.rels ++ l.filter fun r => !w.rels.contains r }

/-- An observer's release for others, at places: it carries the early writes that satisfy `p`. -/
def State.bring (s : State) (p : EarlyWrite → Bool) (by_ : Nat) (dest : Observers) (l : List Nat) :
    State :=
  { s with early := s.early.map fun w => if p w then w.carried (l.map (⟨·, by_, dest⟩)) else w }

/-- Does a release at one of these places carry the write to an observer, whose own scope `own` contains who released (R214)? -/
def EarlyWrite.broughtTo (w : EarlyWrite) (n : Nat) (own : Observers) (l : List Nat) : Bool :=
  w.rels.any fun r => l.contains r.place && r.dest.has n && own.has r.by_

/-- A release by the strand at a position, to be observed at places: what it has written and observed is performed at the scope
first (R220, R224). -/
def State.settleFor (s : State) (pos : Nat) (x : Strand) (sc : Option Scope) (l : List Nat) : State :=
  match sc with
  | some sc => (s.widen (fun w => w.knownTo pos) (s.scopeOf pos x sc)).bring (fun w => w.knownTo pos) (strandAgent pos) (s.scopeOf pos x sc) l
  | none => s

/-- An acquire by the strand at a position, which observes releases at places: what those carry is performed in its instance
of the scope, and it has observed it (R222). -/
def State.acquire (s : State) (pos : Nat) (x : Strand) (sc : Scope) (l : List Nat) : State :=
  let p := fun (w : EarlyWrite) => w.broughtTo (strandAgent pos) (s.scopeOf pos x sc) l
  (s.widen p (s.scopeOf pos x sc)).learn pos p

/-- A release by a strand that is to be observed at a meeting of strands: what it has written and observed is performed where an
acquire there asks for it (12 R246, 13 R255). -/
def State.meet (s : State) (pos : Nat) (x : Strand) (sc : Scope) (mark : Nat) : State :=
  s.bring (fun w => w.knownTo pos) (strandAgent pos) (s.scopeOf pos x sc) [mark]

/-- What an instruction of the strand at a position has written is performed at .c, as its completion says (10 R195). -/
def State.writeDone (s : State) (pos id : Nat) : State :=
  s.widen (fun w => w.by_ == .strand pos && w.id == id) (units [coreOf pos])

/-- What the releases at some places carry is carried at others too, by whom and for whom it was. -/
def State.passOn (s : State) (l : List Nat) (at_ : List Nat) : State :=
  { s with early := s.early.map fun w =>
      w.carried ((w.rels.filter fun r => l.contains r.place).flatMap fun r => at_.map fun n => { r with place := n }) }

/-- A write of the strand at a position, by its instruction `id`, with those who read it first; what the strand's release fences carry,
the write carries. -/
def State.strandWrite (s : State) (pos : Nat) (x : Strand) (id v : Nat) (ps : List Part) (first : Observers) : State :=
  (s.passOn [strandMark pos] (ps.flatMap Part.words)).putFirst
    { reach := first, ctx := x.ctx, launch := x.opener, by_ := .strand pos, id := id, parts := ps, val := v }

/-- The strand at a position has read from parts: it has observed the writes whose values it read, and may observe at an acquire
fence what the releases there carry. -/
def State.learnRead (s : State) (pos : Nat) (ps : List Part) : State :=
  (s.learn pos fun w => w.reach.has (strandAgent pos) && meetAny w.parts ps).passOn (ps.flatMap Part.words) [readMark pos]

/-! ## Parts of the state -/

def State.strand? (s : State) (pos : Nat) : Option Strand := s.strands.get? pos
def State.setStrand (s : State) (pos : Nat) (x : Strand) : State := { s with strands := s.strands.set pos x }
def State.modStrand (s : State) (pos : Nat) (f : Strand → Strand) : State :=
  { s with strands := s.strands.modify pos f }

/-- Do two positions name one place of the package? That of a strand of a retired hank keeps its place (see `State`). -/
def samePlace (p q : Nat) : Bool := p % places == q % places

/-- The strand, resident or saved, that has the outstanding instruction number `id` at a position. -/
def State.strandWith (s : State) (pos id : Nat) : Option Strand :=
  let has := fun (x : Strand) => x.outs.any fun p => p.id == id
  match s.strands.find? fun y => samePlace y.1 pos && has y.2 with
  | some y => some y.2
  | none => s.saved.findSome? fun v => (v.strands.get? pos).filter has

/-- Is the instruction number `id` of a position no longer outstanding? -/
def State.gone (s : State) (pos id : Nat) : Bool := (s.strandWith pos id).isNone

def State.modBraid (s : State) (b : Nat) (f : Braid → Braid) : State := { s with braids := s.braids.modify b f }

/-- A quarter at rest. -/
def Quarter.idle : Quarter := ⟨none, none, [0, 0, 0, 0], 0, []⟩

def State.quarter (s : State) (q : Nat) : Quarter := s.quarters.getD q .idle
def State.setQuarter (s : State) (q : Nat) (x : Quarter) : State := { s with quarters := s.quarters.set q x }

def State.modCtx (s : State) (c : Nat) (f : Ctx → Ctx) : State := { s with ctxs := s.ctxs.modify c f }

/-- A bank at rest: cache mode, in no allocation (01 R13). -/
def Bank.idle : Bank := ⟨.cache, none, [], [], [], []⟩

def State.bank (s : State) (b : Nat) : Bank := s.banks.getD b .idle

/-- A fresh number for a new object. -/
def State.fresh (s : State) : Nat × State := (s.uid, { s with uid := s.uid + 1 })

/-- A fresh argument for a free value of Config (log 9). -/
def State.draw (s : State) : Nat × State := (s.draws, { s with draws := s.draws + 1 })

/-- One of n candidates: the only one, or a free choice (log 7). -/
def State.pick (s : State) (n : Nat) : Nat := if n ≤ 1 then 0 else Config.pick s.moves % n

/-- The hank of a strand, resident or saved. -/
def State.hankOf (s : State) (x : Strand) : Option Hank :=
  match s.hanks.get? x.hank with
  | some h => some h
  | none => (s.saved.find? fun v => v.uid == x.hank).map SavedHank.hank

/-- The neighbourhood of a strand, if it is in one. -/
def State.nbOf (_ : State) (x : Strand) : Option Nat := x.nb.map Prod.fst

/-- The context a strand belongs to. -/
def State.ctxNum (_ : State) (x : Strand) : Nat := x.ctx

/-- A core's cycle counter (18 R406). -/
def State.clock (s : State) (core : Nat) : Nat := (s.cycles + Config.coreSkew core) % 2 ^ 64

/-- Device time on a die: a copy within 10 ns of die 0's, ahead of it or behind (20 R368; log 2). -/
def State.time (s : State) (die : Nat) : Nat :=
  (if die = 0 then s.devTime else s.devTime + Config.dieSkew die % 21 - 10) % 2 ^ 64

def governorIdle : Governor := ⟨0, 400, none, [], 0, false, 0, false, 0⟩
def portDown : Port := ⟨false, .down, 0, 0, 0, 0, 0, [], 0, 0, none, 0, 0⟩

/-! ## The walk (09 R170 to R173) -/

/-- A translation: the leaf, the first address of its page and the page's size. -/
structure Xlat where
  leaf : Nat
  page : Nat
  size : Nat
  deriving DecidableEq, Repr, Inhabited

inductive WalkRes where
  | ok (x : Xlat)
  | fail (f : XFault)
  deriving DecidableEq, Repr, Inhabited

/-- Bits [63:55] equal bit [54] (09 R170). -/
def canonicalVa (va : Nat) : Bool := bits va 63 54 == 0 || bits va 63 54 == 1023

def leafSz (e : Nat) : Nat := bits e 62 61
def leafSize (e : Nat) : Nat := match leafSz e with | 0 => 2 ^ 16 | 1 => 2 ^ 21 | _ => 2 ^ 30
def leafOrd (e : Nat) : Ord := match bits e 59 58 with | 0 => .rc | 1 => .so | _ => .un
def leafCacheable (e : Nat) : Bool := e.testBit 57
def leafRem (e : Nat) : Bool := e.testBit 49
def leafFrame (e : Nat) : Nat := bits e 47 16 * 2 ^ 16
def leafPkg (e : Nat) : Nat := bits e 15 2

/-- A malformed leaf at a level (09 R172). -/
def leafBad (level e : Nat) : Bool :=
  leafSz e == 3 || bits e 59 58 == 3 ||
  (match leafSz e with
    | 0 | 1 => level != 0
    | _ => level != 1) ||
  leafFrame e % leafSize e != 0 ||
  (leafRem e && e.testBit 47) ||
  (!leafRem e && leafPkg e != 0) ||
  (!leafRem e && !e.testBit 47 && decide (hbmEnd < leafFrame e + leafSize e)) ||
  bits e 51 50 != 0 || e.testBit 48 || bits e 1 0 != 0

/-- The level at which a walk stops at a leaf. -/
def leafLevel (e : Nat) : Nat := if leafSz e = 2 then 1 else 0

/-- Does any word of these bytes hold an uncorrectable error? (01 R19) -/
def State.upset (s : State) (k len : Nat) : Bool :=
  s.upsets.any fun w => decide (k / 4 ≤ w ∧ w ≤ (k + len - 1) / 4)

/-- A page-table entry as a die's walker reads it, whole; none where it meets an uncorrectable error. A table whose FRAME lies in
neither HBM nor host memory reads as zeros, so that its entries are not valid: the model's choice (log 68). -/
def State.entryAt (s : State) (die k : Nat) : Option Nat := if s.upset k 8 then none else some (s.seenN (dieAgent die) k 8)

/-- Is an entry a valid leaf of a page larger than what one entry of its level covers? -/
def bigLeaf (level e : Nat) : Bool := e.testBit 63 && e.testBit 60 && leafSz e == (if level = 0 then 1 else 2)

/-- The entry that an index of a table takes: its own, but where its group has one of a larger page and its members differ, one
entry of the group, a free choice (09 R170; software keeps them equal). -/
def State.tableEntry (s : State) (die level base i : Nat) : Option Nat :=
  let at_ := fun (n : Nat) => s.entryAt die (base + 8 * n)
  let g := match level with | 0 => 32 | 1 => 2 | _ => 1
  let group := (List.range g).map fun n => at_ (i / g * g + n)
  if group.any (fun e => e.any (bigLeaf level)) ∧ group.any (fun e => e != at_ i) then group.getD (s.pick g) none else at_ i

def tableIndex (level va : Nat) : Nat := va / 2 ^ (16 + 13 * level) % 8192

/-- Tables below a pointer: level n is entered with the base of its table. -/
def State.walkLevel (s : State) (die va : Nat) : Nat → Nat → WalkRes
  | level, base =>
    match s.tableEntry die level base (tableIndex level va) with
    | none => .fail { va := va, cause := 7, level := level }
    | some e =>
      if !e.testBit 63 then .fail { va := va, cause := 1, level := level }
      else if e.testBit 60 then
        if leafBad level e then .fail { va := va, cause := 6, level := level }
        else
          let page := va / leafSize e * leafSize e
          if !e.testBit 52 then .fail { va := va, cause := 2, level := level, page := page, size := leafSize e }
          else .ok ⟨e, page, leafSize e⟩
      else match level with
        | 0 => .fail { va := va, cause := 6, level := 0 }
        | l + 1 => s.walkLevel die va l (leafFrame e)

/-- The table of a level that a die's walker holds for an address. -/
def State.heldTable (s : State) (die ctx va level : Nat) : Option Nat :=
  (s.pointers.find? fun p => p.die == die && p.ctx == ctx && p.level == level &&
    p.pre == va / 2 ^ (16 + 13 * (level + 1))).map PtrEntry.table

/-- The walk of a die's walker from a context's root entry, past the pointers that it holds (09 R174). Of an address that is not
canonical there is no walk; LEVEL 3 of its record is the model's choice (log 68). -/
def State.walk (s : State) (die ctx root va : Nat) : WalkRes :=
  if !canonicalVa va then .fail { va := va, cause := 1, level := 3 }
  else if !root.testBit 63 then .fail { va := va, cause := 1, level := 3 }
  else if root.testBit 60 then .fail { va := va, cause := 6, level := 3 }
  else match s.heldTable die ctx va 0 with
    | some t => s.walkLevel die va 0 t
    | none => match s.heldTable die ctx va 1 with
      | some t => s.walkLevel die va 1 t
      | none => s.walkLevel die va 2 (leafFrame root)

/-- What an access needs of a page. -/
inductive Need where
  | read | write | both | exec
  deriving DecidableEq, Repr, Inhabited

/-- The permission cause, if the leaf denies what is needed (09 R176). -/
def denied (n : Need) (e : Nat) : Option Nat :=
  let rd := e.testBit 56
  let wr := e.testBit 55
  match n with
  | .read => if rd then none else some 3
  | .write => if wr then none else some 4
  | .both => if !rd then some 3 else if !wr then some 4 else none
  | .exec => if e.testBit 54 then none else some 5

/-- Does a TLB entry translate an address? -/
def TlbEntry.hits (t : TlbEntry) (holder ctx va : Nat) : Bool :=
  t.core == holder && t.ctx == ctx && decide (t.page ≤ va ∧ va < t.page + t.size)

/-- The entry that the TLB of a core, or else of its cluster, holds for an address. -/
def State.tlbEntry (s : State) (core ctx va : Nat) : Option TlbEntry :=
  match s.tlb.find? fun t => t.hits core ctx va with
  | some t => some t
  | none => s.clusterTlb.find? fun t => t.hits (clusterOf core) ctx va

/-- The translation of an address for a core: an entry of its TLBs, else the walk (log 13). -/
def State.translate (s : State) (core ctx va : Nat) : WalkRes :=
  match s.tlbEntry core ctx va with
  | some t => .ok ⟨t.leaf, t.page, t.size⟩
  | none =>
    match s.ctxs.get? ctx with
    | some c => s.walk (dieOf core) ctx c.root va
    | none => .fail { va := va, cause := 1, level := 3 }

/-- Is a remote package reachable at all? (19 R353) -/
def State.routed (s : State) (pkg : Nat) : Bool := decide (pkg ≤ 9215) && s.routes.getD pkg 0 % 2 ^ 18 != 0

/-- Key of an address under a leaf, and the refusal of R353, which meets every access to the page, a `lline` or `uline` too (log
68). A page with REM = 1 that names this package is local (log 64). -/
def State.place (s : State) (x : Xlat) (va len : Nat) : Except Nat Nat :=
  let pa := leafFrame x.leaf + (va - x.page)
  if leafRem x.leaf then
    if !s.routed (leafPkg x.leaf) || decide (hbmEnd < pa + len) then .error 6
    else .ok (if leafPkg x.leaf = s.pkgid then pa else (leafPkg x.leaf + 1) * 2 ^ 48 + pa)
  else .ok pa

/-- The page in service that holds an address (R179). -/
def State.inServiceAt (s : State) (ctx va : Nat) : Option InService :=
  (s.ctxs.get? ctx).bind fun c => c.inService.find? fun p => decide (p.page ≤ va ∧ va < p.page + p.size)

/-- One page's share of an access. A page in service holds every access until FAULTDONE (R179). -/
def State.part (s : State) (core ctx va len : Nat) : Except XFault (Xlat × Part) :=
  match s.inServiceAt ctx va with
  | some p => .error { va := va, cause := 2, level := p.image / 4 % 4, page := p.page, size := p.size }
  | none => match s.translate core ctx va with
    | .fail f => .error f
    | .ok x => match s.place x va len with
      | .error c => .error { va := va, cause := c, level := leafLevel x.leaf, link := true }
      | .ok k => .ok (x, { key := k, len := len, ord := leafOrd x.leaf, va := va, level := leafLevel x.leaf,
                           cached := leafCacheable x.leaf && decide (k < 2 ^ 47) })

/-- The parts of an access of at most a page's length: translation of both pages, then permission (10 R194). Where both fail, the
fault is that of the lower one (log 68). -/
def State.parts (s : State) (core ctx : Nat) (n : Need) (va len : Nat) : Except XFault (List Part) :=
  let first := 2 ^ 16 - va % 2 ^ 16
  let spans := if len ≤ first then [(va, len)] else [(va, first), ((va + first) % 2 ^ 64, len - first)]
  let xs := spans.map fun p => s.part core ctx p.1 p.2
  let rec go (l : List (Except XFault (Xlat × Part))) : Except XFault (List (Xlat × Part)) :=
    match l with
    | [] => .ok []
    | .error f :: _ => .error f
    | .ok p :: l => match go l with
      | .ok ps => .ok (p :: ps)
      | .error f => .error f
  match go xs with
  | .error f => .error f
  | .ok ps =>
    match ps.find? fun p => (denied n p.1.leaf).isSome with
    | some p => .error { va := p.2.va, cause := (denied n p.1.leaf).getD 3, level := leafLevel p.1.leaf }
    | none =>
      -- two spans of one larger page are one part
      match ps with
      | [p, q] => if p.1.page = q.1.page then .ok [{ p.2 with len := len }] else .ok [p.2, q.2]
      | ps => .ok (ps.map Prod.snd)

/-- A device access to a context's own structures: the bytes, where every page allows it. Splits at 64 KiB. -/
def State.devParts (s : State) (core ctx : Nat) (n : Need) : Nat → Nat → Nat → Except XFault (List Part)
  | 0, _, _ => .ok []
  | fuel + 1, va, len =>
    if len = 0 then .ok []
    else
      let k := Nat.min len (2 ^ 16 - va % 2 ^ 16)
      match s.parts core ctx n va k with
      | .error f => .error f
      | .ok ps => match s.devParts core ctx n fuel ((va + k) % 2 ^ 64) (len - k) with
        | .error f => .error f
        | .ok qs => .ok (ps ++ qs)

/-- What the memory answers an access to these parts with, where not with data: an uncorrectable error (01 R19), or the error
status of the host (19 R355). -/
def State.busFault (s : State) (write : Bool) (ps : List Part) : Option XFault :=
  let failed := fun (p : Part) => decide (2 ^ 47 ≤ p.key ∧ p.key < 2 ^ 48) && s.busErrors.any fun w =>
    decide (p.key / 4 ≤ w ∧ w ≤ (p.key + p.len - 1) / 4)
  ps.findSome? fun p =>
    if s.upset p.key p.len then some { va := p.va, cause := 7, level := p.level }
    else if failed p then some { va := p.va, cause := if write then 4 else 3, level := p.level }
    else none

/-! ## Requests to other packages (19 R348, R352) -/

/-- The package that a key lies in, if it is another one. -/
def keyPackage (key : Nat) : Option Nat := if 2 ^ 48 ≤ key ∧ key < 2 ^ 64 then some (key / 2 ^ 48 - 1) else none

/-- Does a port carry requests? (19 R351) -/
def Port.usable (p : Port) : Bool := p.st == .active || p.st == .degraded

def State.port (s : State) (p : Nat) : Port := s.ports.getD p portDown

/-- The usable ports of the route to a package. -/
def State.routePorts (s : State) (pkg : Nat) : List Nat :=
  (List.range 18).filter fun p => (s.routes.getD pkg 0).testBit p && (s.port p).usable

/-- Is there a port that carries a request to the package? (19 R352) -/
def State.linked (s : State) (pkg : Nat) : Bool := !(s.routePorts pkg).isEmpty

/-- The same, with room in its replay buffer. -/
def State.openPorts (s : State) (pkg : Nat) : List Nat :=
  (s.routePorts pkg).filter fun p => decide ((s.port p).buffer.length < 512)

/-- How many requests to the package the replay buffers take now. -/
def State.portRoom (s : State) (pkg : Nat) : Nat := ((s.routePorts pkg).map fun p => 512 - (s.port p).buffer.length).sum

/-- A flit joins the replay buffer of a port. -/
def State.bufferFlit (s : State) (p : Nat) (pkg pos id ctx core : Nat) : State :=
  let x := s.port p
  let f : Flit := ⟨p, x.txSeq, pkg, pos, id, ctx, core⟩
  { s with ports := s.ports.set p { x with buffer := x.buffer ++ [f], txSeq := x.txSeq + 1 } }

/-- A request leaves on an open port of its route, a free choice; it stays in the replay buffer until it is acknowledged. -/
def State.sendFlit (s : State) (pkg pos id ctx core : Nat) : State :=
  let l := s.openPorts pkg
  match l[s.pick l.length]? with
  | some p => s.bufferFlit p pkg pos id ctx core
  | none => s

/-- Is a request of an instruction still unacknowledged? -/
def State.unacked (s : State) (pos id : Nat) : Bool := s.ports.any fun p => p.2.buffer.any fun f => f.pos == pos && f.id == id

/-- What the flits of a copy command, and of an engine of the device, name in place of a strand and its instruction. -/
def copyFlit : Nat := 2 ^ 64
def engineFlit : Nat := 2 ^ 64 + 1

/-- The requests of an engine's access to parts in other packages leave. -/
def State.sendParts (s : State) (pos id ctx core : Nat) (ps : List Part) : State :=
  ps.foldl (fun s p => match keyPackage p.key with
    | some g => s.sendFlit g pos id ctx core
    | none => s) s

/-- Are the writes that the device's engines have sent to other packages acknowledged, as a release at .dm or .sy waits for
them (19 R354)? -/
def State.farReady (s : State) (sc : Option Scope) : Bool :=
  match sc with
  | some .dm | some .sy => !s.ports.any fun p => p.2.buffer.any fun f => f.pos == engineFlit
  | _ => true

/-- The same, and "cause 0": parts in another package wait for ports that take their requests. Its `page` is that package. -/
def State.reachFault (s : State) (write : Bool) (ps : List Part) : Option XFault :=
  match s.busFault write ps with
  | some f => some f
  | none => ps.findSome? fun p => (keyPackage p.key).bind fun g =>
      if s.portRoom g < (ps.filter fun q => keyPackage q.key == some g).length then
        some { va := p.va, cause := 0, level := 0, page := g }
      else none

/-- An operation waits for a port to a package (19 R352). -/
def State.awaitLink (s : State) (o : Holder) (ctx core pkg : Nat) : State :=
  if s.linked pkg || s.linkWaits.any (fun w => w.owner == o && w.pkg == pkg) then s
  else { s with linkWaits := s.linkWaits ++ [⟨o, ctx, core, pkg, s.devTime⟩] }

def State.devRead (s : State) (core ctx va len : Nat) : Except XFault Nat :=
  match s.devParts core ctx .read (len / 2 ^ 16 + 2) va len with
  | .error f => .error f
  | .ok ps => match s.reachFault false ps with
    | some f => .error f
    | none => .ok (s.seenParts (dieAgent (dieOf core)) ps)

def State.devWrite (s : State) (core ctx va len v : Nat) : Except XFault State :=
  match s.devParts core ctx .write (len / 2 ^ 16 + 2) va len with
  | .error f => .error f
  | .ok ps => match s.reachFault true ps with
    | some f => .error f
    | none => .ok ((s.sendParts engineFlit 0 ctx core ps).putParts (.engine (dieOf core)) v ps)

/-! ## Context faults (04 R85) and fault records (09 R176 to R178, R407) -/

/-- What the engines of a die read is performed at every scope, as a release of theirs at .sy asks. -/
def State.dieRelease (s : State) (die : Nat) : State := s.widen (fun w => w.reach.has (dieAgent die)) allObservers

/-- The fault record of a context is written, with a release at .sy (04 R85), once what the release waits for is acknowledged and
its own request finds a port (19 R352, R354); one that cannot be written is given up. -/
def State.writeFaultRec (s : State) (ctx : Nat) : State :=
  match (s.ctxs.get? ctx).bind fun c => c.faultRec.map fun r => (c, r) with
  | none => s
  | some (c, r) =>
    let die := r / 2 ^ 29 % 8
    if !s.farReady (some .sy) then s
    else match (s.dieRelease die).devWrite (48 * die) ctx c.faultAddr.toNat 64 r with
      | .ok s' => s'.modCtx ctx fun c => { c with faultRec := none, recorded := true }
      | .error f =>
        if f.cause = 0 then s.awaitLink (.engine (48 * die)) ctx (48 * die) f.page
        else s.modCtx ctx fun c => { c with faultRec := none }

/-- An active context faults: the record is written (04 R85) and the state entered; its hanks stop at clause boundaries. Where the
record waits for a link the state is entered before (log 44). A context in another state keeps it (04 R77). -/
def State.ctxFault (s : State) (ctx code die faultRec trapRec : Nat) : State :=
  match s.ctxs.get? ctx with
  | none => s
  | some c =>
    if c.st = .active then
      let r := code * 2 ^ 32 + die * 2 ^ 29 + s.time die * 2 ^ 64 + faultRec * 2 ^ 128 + trapRec * 2 ^ 256
      (s.modCtx ctx fun c =>
        { c with st := .faulted, faultCode := code, recorded := false, faultRec := some r, stopping := true }).writeFaultRec ctx
    else s

/-- SRC of R176. -/
abbrev srcLoad : Nat := 0
abbrev srcStore : Nat := 1
abbrev srcAtomic : Nat := 2
abbrev srcFetch : Nat := 3
abbrev srcSpill : Nat := 4
abbrev srcCopy : Nat := 5
abbrev srcQueue : Nat := 6
abbrev srcLink : Nat := 7
abbrev srcDrain : Nat := 8

/-- A fault record (09 R176). -/
def faultRecord (va seq core strand src cause level : Nat) (held : Bool) : Nat :=
  va * 2 ^ 64 + seq * 2 ^ 32 + core * 2 ^ 23 + strand * 2 ^ 12 + src * 2 ^ 8 + cause * 2 ^ 4 + level * 2 ^ 2 +
    if held then 2 else 0

/-- The fault ring of a context as read: FRWR, FRRD and OVERRUN as one number. -/
def State.ringHeader (s : State) (core ctx : Nat) (c : Ctx) : Except XFault Nat := s.devRead core ctx c.frBase.toNat 24

/-- FRWR − FRRD = N (R178). -/
def ringFullAt (c : Ctx) (h : Nat) : Bool := (h % 2 ^ 64 + 2 ^ 64 - h / 2 ^ 64 % 2 ^ 64) % 2 ^ 64 == 2 ^ c.frLog

/-- A ring area that does not take a write faults the context with code 9, and the record is kept there (R407); so does one
whose header cannot be read (log 62). -/
def State.ringFail (s : State) (core ctx r : Nat) : State := s.ctxFault ctx 9 (dieOf core) r 0

/-- What one write to the ring area comes to. -/
inductive RingWrite where
  | done (s : State)
  /-- it waits for room, for a port or for acknowledgements -/
  | wait (s : State)
  | failed

/-- A write to the ring area, which may wait for a port (19 R352). -/
def State.ringArea (s : State) (core ctx a len v : Nat) : RingWrite :=
  match s.devWrite core ctx (a % 2 ^ 64) len v with
  | .ok s => .done s
  | .error f => if f.cause = 0 then .wait (s.awaitLink (.engine core) ctx core f.page) else .failed

/-- The bytes of a record at index FRWR; FRWR advanced, with a release at .sy, once what that waits for is acknowledged (R178;
19 R354); or, of a record that finds the ring full and holds nothing, an overrun. -/
def State.ringStep (s : State) (core ctx : Nat) (c : Ctx) (h r : Nat) : RingWrite :=
  let wr := h % 2 ^ 64
  if c.ringSent then
    if s.farReady (some .sy) then (s.dieRelease (dieOf core)).ringArea core ctx c.frBase.toNat 8 (wr + 1) else .wait s
  else if !ringFullAt c h then s.ringArea core ctx (c.frBase.toNat + 64 + 16 * (wr % 2 ^ c.frLog)) 16 r
  else if r.testBit 1 then .wait s
  else s.ringArea core ctx (c.frBase.toNat + 16) 8 (h / 2 ^ 128 + 1)

/-- Pending records are written in order as far as that goes. One that the ring area does not take is pending no more, and where
the context has left the active state nothing keeps it (log 62). -/
def State.writePending (s : State) (ctx : Nat) : Nat → State
  | 0 => s
  | n + 1 => match s.ctxs.get? ctx with
    | none => s
    | some c => match c.pendingRecs with
      | [] => s
      | (_, r) :: rest =>
        let core := r / 2 ^ 23 % 512
        let drop := fun (s : State) => s.modCtx ctx fun c => { c with pendingRecs := rest, ringSent := false }
        match s.ringHeader core ctx c with
        | .error f => if f.cause = 0 then s.awaitLink (.engine core) ctx core f.page else (drop s).ringFail core ctx r
        | .ok h => match s.ringStep core ctx c h r with
          | .failed => (drop s).ringFail core ctx r
          | .wait s => s
          | .done s =>
            if c.ringSent || ringFullAt c h then (drop s).writePending ctx n
            else (s.modCtx ctx fun c => { c with ringSent := true }).writePending ctx n

/-- FRRD is read again, and what was pending is written as far as that goes: two writes for each record. -/
def State.rereadRing (s : State) (ctx : Nat) : State :=
  s.writePending ctx (((s.ctxs.get? ctx).map fun c => 2 * c.pendingRecs.length).getD 0)

/-- A new record goes into the ring behind those pending. One without a held operation that finds the ring full counts an
overrun at once, whatever is pending (R178). FRRD is read anew at every record, where the device may read it up to 100 microseconds
before (log 68). -/
def State.ringWrite (s : State) (core ctx seq rec_ : Nat) (cause2 : Bool) : State :=
  let s := s.rereadRing ctx
  let pend := (s.modCtx ctx fun c => { c with pendingRecs := c.pendingRecs ++ [(seq, rec_)] }).rereadRing ctx
  match s.ctxs.get? ctx with
  | none => s
  | some c => match s.ringHeader core ctx c with
    | .error _ => pend
    | .ok h =>
      if cause2 || !ringFullAt c h then pend
      else match s.ringStep core ctx { c with ringSent := false } h rec_ with
        | .done s => s
        | .wait _ => pend
        | .failed => s.ringFail core ctx rec_

/-- A failed translation is recorded: the state, the record and, for cause 2, the number that holds the operation. An
access to a page in service makes no new record (09 R179): what the strand's trap carries is composed of its own fields and the
SEQ in service (log 61). Cause 7 faults the context (09 R176). -/
def State.recordFault (s : State) (ctx core strand src : Nat) (f : XFault) : State × Nat × Option Nat :=
  let src := if f.link then srcLink else src
  match if f.cause = 0 then none else s.ctxs.get? ctx with
  | none => (s, 0, none)
  | some c =>
    match if f.cause = 2 then c.inService.find? (·.page == f.page) else none with
    | some p => (s, faultRecord f.va p.seq core strand src f.cause f.level true, some p.seq)
    | none =>
      let seq := c.seq.toNat
      let r := faultRecord f.va seq core strand src f.cause f.level (f.cause == 2)
      let s := s.modCtx ctx fun c =>
        { c with
          seq := c.seq + 1
          inService := if f.cause = 2 then c.inService ++ [⟨f.page, f.size, seq, r, []⟩] else c.inService }
      let s := s.ringWrite core ctx seq r (f.cause == 2)
      let s := if f.cause = 7 then s.ctxFault ctx 1 (dieOf core) r 0 else s
      (s, r, if f.cause = 2 then some seq else none)

/-- An access that met an uncorrectable error faults its context, once (09 R176): it is not performed. -/
def State.upsetFault (s : State) (ctx core strand src : Nat) (f : XFault) : State :=
  if (s.ctxs.get? ctx).any fun c => c.st == .active then (s.recordFault ctx core strand src f).1 else s

/-- An operation joins those that a record holds. -/
def State.holdOn (s : State) (ctx seq : Nat) (h : Holder) : State :=
  s.modCtx ctx fun c => { c with
    inService := c.inService.map fun p => if p.seq = seq then { p with held := p.held ++ [h] } else p }

/-- The same, where a record holds it at all. -/
def State.holdIf (s : State) (ctx : Nat) (seq : Option Nat) (h : Holder) : State :=
  match seq with
  | some q => s.holdOn ctx q h
  | none => s

end Sys2Proof.Machine
end

