-- ==== Sys2Proof/Machine/Ops.lean ====
section
/-! DEFINITION. The operations that instructions share: the issue set, register writes, outstanding instructions,
raising a trap (18 R326, R328), delivering it (R327, R329) and returning (R336), and the two ways a word executes: lane by
lane at once, or in ascending lanes over the whole state. -/

namespace Sys2Proof.Machine

/-! ## Issue sets -/

/-- The lanes of a mask, ascending. -/
def lanesOf (m : BitVec 32) : List Nat := (List.range 32).filter fun l => m.getLsbD l

def maskOf (l : List Nat) : BitVec 32 := l.foldl (fun m k => m ||| BitVec.twoPow 32 k) 0

/-- The issue set whose word executes: the quarter's, or the one of a `tstep` there (18 R341). -/
def State.cur (s : State) : Option Issue :=
  if s.stepping then (s.quarter s.focus).step.map StepReq.issue else (s.quarter s.focus).cur

def State.setCur (s : State) (x : Issue) : State :=
  let q := s.quarter s.focus
  s.setQuarter s.focus
    (if s.stepping then { q with step := q.step.map fun r => { r with issue := x } } else { q with cur := some x })

/-- Position of a lane of a braid. -/
def posOf (braid lane : Nat) : Nat := braid * 32 + lane

/-- The positions of a braid's existing strands. -/
def State.braidStrands (s : State) (b : Nat) : AMap Strand := s.strands.filter fun p => braidOf p.1 == b

/-- Every strand of a braid changed, each knowing its position. -/
def State.mapBraid (s : State) (b : Nat) (f : Nat → Strand → Strand) : State :=
  { s with strands := s.strands.mapVals fun pos x => if braidOf pos = b then f pos x else x }

/-- The candidate strands of a braid (07 R113): not held by a handler. -/
def Strand.isCand (x : Strand) : Bool := x.run == .candidate && !x.held

def State.candMask (s : State) (b : Nat) : BitVec 32 :=
  maskOf (((s.braidStrands b).filter fun p => p.2.isCand).map fun p => laneOf p.1)

/-- The address of the clause after one of `n` slot words (02 R22). -/
def nextClause (clause : DWord) (n : Nat) : DWord := clause + BitVec.ofNat 64 (8 * (n + 1))

def Issue.next (x : Issue) : DWord := nextClause x.clause x.words.length

/-- The slot positions of the instruction words of a clause, with each word and the word after it (02 R25, R28). -/
def instrWords : Nat → List DWord → List (Nat × Nat × Nat)
  | _, [] => []
  | n, [w] => [(n, w.toNat, 0)]
  | n, w :: x :: l =>
    if takesExt (bits w.toNat 63 56) (bits w.toNat 55 52) then (n, w.toNat, x.toNat) :: instrWords (n + 2) l
    else (n, w.toNat, x.toNat) :: instrWords (n + 1) (x :: l)

/-- The instruction word before slot position n in the clause, if there is one (02 R42). -/
def prevWord (words : List DWord) (n : Nat) : Option (Nat × Nat) :=
  (((instrWords 1 words).filter fun p => decide (p.1 < n)).getLast?).map Prod.snd

/-! ## Registers -/

def Regs.reg (r : Regs) (n : Nat) : Reg := r.v.getD n .zero
def Regs.pair (r : Regs) (n : Nat) : DWord := pairOf (r.reg n).val (r.reg (n + 1)).val
def Regs.run (r : Regs) (first n : Nat) : List Reg := (List.range n).map fun i => r.reg (first + i)

/-- Registers written in one step, and flags ORed (08 R141, 03 R55). -/
def Regs.write (r : Regs) (w : List (Nat × Reg)) (fl : FFlags) : Regs :=
  { r with v := w.foldl (fun v p => v.set p.1 p.2) r.v, fstat := r.fstat ||| fl }

/-- A run of registers from `first`. -/
def regsFrom (first : Nat) (l : List Reg) : List (Nat × Reg) := l.zipIdx.map fun p => (first + p.2, p.1)

/-- Does the strand's predicate hold? (02 R32) -/
def predHolds (r : Regs) (p : Pred) : Bool := p.reg == 0 || ((r.reg p.reg).val != 0) != p.inv

/-- A strand's registers at the start state of R107 of spec 06. -/
def Regs.start (nregs naffs : Nat) (arg : DWord) (entry fp : DWord) (n0 : Option Nat) : Regs :=
  { v := (pairRegs arg .w64 ++ List.replicate (nregs - 2) Reg.zero).take nregs, o := List.replicate 8 Reg.zero,
    ll := Reg.zero, fstat := 0, slots := 0, a := List.replicate naffs .point0, noMint := false,
    k := List.replicate 8 0, n := [n0, none, none, none], depth := 0, fp := fp, size := 0, serial := 0, fs := 0,
    calls := [], pc := ⟨entry, 0⟩ }

/-! ## Outstanding instructions (02 R45 to R48) -/

def slotBit (i : Nat) : BitVec 12 := if i < 12 then BitVec.twoPow 12 i else 0

/-- A long-latency word issued: its slot is set and it joins the strand's outstanding instructions. -/
def Strand.issue (x : Strand) (l : Long) (pt : Point) (grp : Nat) (kind : PendKind) (held : Bool) (a : Act) : Strand :=
  { x with
    regs := { x.regs with slots := x.regs.slots ||| slotBit l.slot }
    outs := x.outs ++ [⟨x.nextId, l.slot, l.look, pt, held, none, grp, kind, false, a, []⟩]
    nextId := x.nextId + 1 }

def Pend.isFence (p : Pend) : Bool := match p.act with | .fence .. => true | _ => false

/-- A fence whose later reads are speculative (11 R227). -/
def Pend.isAcqFence (p : Pend) : Bool := match p.act with | .fence k .. => k != .rel | _ => false

def Strand.fences (x : Strand) : List Pend := x.outs.filter Pend.isFence

/-- Is a word of the strand past an incomplete fence? -/
def Strand.pastFence (x : Strand) : Bool := x.outs.any Pend.isFence

/-- Does a contribution or a copy command of the strand go into the hold buffer: past an incomplete fence, or behind such an
entry that has not left yet (11 R228, R232)? -/
def Strand.mustHold (x : Strand) : Bool := x.outs.any fun p => p.isFence || p.held && (match p.act with
  | .ctr .. | .copy .. => true
  | _ => false)

/-- Is the instruction with number n past one? -/
def Strand.fencedBefore (x : Strand) (n : Nat) : Bool := x.outs.any fun p => p.isFence && decide (p.id < n)

/-- Registers `n` that a completion makes of `r`, but those of `keep` as they are (02 R48). -/
def Regs.keeping (r : Regs) (keep : List Nat) (n : Regs) : Regs :=
  { n with v := keep.foldl (fun v i => v.set i (r.reg i)) n.v }

/-- The registers whose value outlasts the completion of the instruction numbered `id`, as seen where the words up to `last`
have been executed. -/
def Strand.outlasting (x : Strand) (id last : Nat) : List Nat :=
  (x.outlasts.filter fun e => decide (id < e.1 ∧ e.1 ≤ last)).map Prod.snd

/-- Register writes and slot of a completing instruction, in the live registers, in the trap frame where the trap came
after it, and in the checkpoints of later fences; a register that a later word wrote keeps that value or takes this one
(02 R48). What a handler issued before its `rte` writes to the registers that the handler had, and what an exited strand issued
to those that it had; the handles of the latter are still to be released. -/
def Strand.finish (x : Strand) (p : Pend) (f : Regs → Regs) : Strand :=
  let outs := x.outs.filter fun q => q.id != p.id
  let g := fun (last : Nat) (r : Regs) =>
    let n := r.keeping (x.outlasting p.id last) (f r)
    { n with slots := n.slots &&& ~~~(slotBit p.slot) }
  let left := x.outlasts.filter fun e => outs.any fun q => decide (q.id < e.1)
  if x.run = .exited then
    { x with outs := outs, past := x.past.map (g 0), regs := { x.regs with k := (f x.regs).k }, outlasts := left }
  else if p.mute then { x with outs := outs, past := x.past.map (g 0), outlasts := left }
  else
    { x with
      regs := g x.nextId x.regs
      frame := if p.id < x.frameId then x.frame.map (g (x.frameId - 1)) else x.frame
      outlasts := left
      outs := outs.map fun q => if q.id < p.id then q else
        match q.act with
        | .fence k sc n ck w rd h => { q with act := .fence k sc n (g q.id ck) w rd h }
        | _ => q }

/-- A word has written registers while earlier instructions are outstanding, which may write them too: its value outlasts those
where `keep` says so, and what they showed of theirs is gone (02 R48). -/
def Strand.overwrite (x : Strand) (rs : List Nat) (keep : Nat → Bool) : Strand :=
  if x.outs.isEmpty then x
  else { x with
    outlasts := x.outlasts ++ (rs.filter keep).map fun r => (x.nextId, r)
    outs := x.outs.map fun p => { p with shown := p.shown.filter fun e => !rs.contains e.1 } }

/-- The instruction with number `id` of the strand at `pos` completes, writing registers and flags. -/
def State.complete (s : State) (pos id : Nat) (w : List (Nat × Reg)) (fl : FFlags) : State :=
  s.modStrand pos fun x => match x.outs.find? (·.id == id) with
    | some p => x.finish p fun r => r.write w fl
    | none => x

def State.pend? (s : State) (pos id : Nat) : Option Pend :=
  match s.strand? pos with
  | some x => x.outs.find? (·.id == id)
  | none => none

def State.modPend (s : State) (pos id : Nat) (f : Pend → Pend) : State :=
  s.modStrand pos fun x => { x with outs := x.outs.map fun p => if p.id = id then f p else p }

/-- The same, where the strand may be saved with its hank, or its hank have retired. -/
def State.modPendAny (s : State) (pos id : Nat) (f : Pend → Pend) : State :=
  let g := fun (x : Strand) => { x with outs := x.outs.map fun p => if p.id = id then f p else p }
  { s with
    strands := s.strands.mapVals fun k x => if samePlace k pos then g x else x
    saved := s.saved.map fun v => { v with strands := v.strands.modify pos g } }

/-- A blocked strand resumes (07 R113): a candidate again. -/
def Strand.unblock (x : Strand) : Strand := match x.run with | .blocked _ => { x with run := .candidate } | _ => x

/-- Entries of a braid's hold buffer (11 R228). -/
def State.holdCount (s : State) (b : Nat) : Nat :=
  ((s.braidStrands b).map fun p => (p.2.outs.filter Pend.held).length).sum

/-! ## The slack set (07 R120, R121) -/

/-- Watch sets keep only strands that are still candidates. -/
def State.pruneWatch (s : State) (b : Nat) : State :=
  let c := s.candMask b
  { s with strands := s.strands.mapVals fun pos x =>
      if braidOf pos = b then match x.run with
        | .parked w => { x with run := .parked (w &&& c) }
        | _ => x
      else x }

/-- Parked strands return: those with nothing left to watch, or all of them where the braid has no other candidate. -/
def State.slackReturn (s : State) (b : Nat) : State :=
  let s := s.pruneWatch b
  let none_ := s.candMask b == 0
  { s with strands := s.strands.mapVals fun pos x =>
      if braidOf pos = b then match x.run with
        | .parked w => if w = 0 ∨ none_ then { x with run := .candidate } else x
        | _ => x
      else x }

/-! ## Raising a trap -/

abbrev cIllegal : Nat := 1
abbrev cClause : Nat := 2
abbrev cTag : Nat := 3
abbrev cMisaligned : Nat := 4
abbrev cTranslation : Nat := 5
abbrev cPermission : Nat := 6

/-- A trap that a strand is to raise. `fault` gives SRC and the failed translation, `vaddr` SRC and the address of a
misaligned access; `hold` the instruction that a cause-2 record holds; `point` the clause and word recorded; `resume` the
resume point, none for the word itself; `set` the issue set, none for the one that executes. -/
structure TrapReq where
  cause : Nat
  detail : Nat := 0
  fault : Option (Nat × XFault) := none
  vaddr : Option (Nat × Nat) := none
  hold : Option Nat := none
  point : Option Point := none
  resume : Option Point := none
  set : Option Nat := none
  deriving DecidableEq, Repr, Inhabited

/-- The trap for a failed translation (09 R176). -/
def xTrap (src : Nat) (f : XFault) (hold : Option Nat) (next : Point) : TrapReq :=
  if f.cause = 1 ∨ f.cause = 6 then { cause := cTranslation, detail := f.cause, fault := some (src, f) }
  else if f.cause = 2 then
    { cause := cTranslation, detail := 2 + 16, fault := some (src, f), hold := hold, resume := some next }
  else { cause := cPermission, detail := f.cause, fault := some (src, f) }

/-- The trap record as 256 bits (18 R326). -/
def TrapRec.toNat (r : TrapRec) : Nat :=
  r.detail + r.word * 2 ^ 16 + r.cause * 2 ^ 26 + r.clause.toNat * 2 ^ 32 + r.fault * 2 ^ 128

/-- The fault record that a trap carries: FAULTREC, and the number that holds an operation (09 R176). -/
def State.recordTrap (s : State) (pos : Nat) (x : Strand) (t : TrapReq) : State × Nat × Option Nat :=
  match t.fault with
  | some (src, f) => s.recordFault (s.ctxNum x) (coreOf pos) x.index src f
  | none => match t.vaddr with
    | some (src, va) => (s, va * 2 ^ 64 + src * 2 ^ 8, none)
    | none => (s, 0, none)

/-- The instruction that a cause-2 record holds. -/
def State.holdPend (s : State) (pos ctx : Nat) (hold seq : Option Nat) : State :=
  match hold, seq with
  | some id, some q => (s.modPend pos id fun p => { p with svc := some q }).holdOn ctx q (.op id)
  | _, _ => s

/-- Stalled until the fences before the instruction with number `num` are complete. -/
def Strand.awaitFenced (x : Strand) (num : Nat) : Run := .stalled (.ops ((x.fences.map Pend.id).filter (· < num)))

/-- The strand with its trap, of an instruction with number `num`: trapped, or past an incomplete fence with the trap deferred
(11 R230). -/
def Strand.trapAt (x : Strand) (num : Nat) (resume : Point) (r : TrapRec) : Strand :=
  let x := { x with regs := { x.regs with pc := resume } }
  if x.fencedBefore num then { x with run := x.awaitFenced num, deferred := some r, deferNum := num }
  else { x with run := .trapped, trap := r }

/-- A trap of a strand in handler mode faults the context, which keeps its record (18 R330). -/
def State.handlerTrap (s : State) (pos ctx : Nat) (r : TrapRec) : State :=
  (s.modStrand pos fun x => { x with run := .trapped, trap := r }).ctxFault ctx 3 (dieOf (coreOf pos)) 0 r.toNat

/-- Does the access find an uncorrectable error, which faults the context and traps no strand (09 R176), or wait for a port
(19 R352)? -/
def TrapReq.upset (t : TrapReq) : Bool := t.fault.any fun f => f.2.cause == 7 || f.2.cause == 0

/-- One strand raises a trap at word `pt`: its record is written and it is trapped; in handler mode the context
faults (18 R330); past an incomplete fence the trap is deferred (11 R230). An uncorrectable error leaves the strand at its
word. -/
def State.raiseOne (s : State) (pos : Nat) (pt : Point) (t : TrapReq) : State :=
  match s.strand? pos with
  | none => s
  | some x =>
    let rt := s.recordTrap pos x t
    let p := t.point.getD pt
    let r : TrapRec := ⟨p.clause, p.word, t.cause, t.detail, rt.2.1⟩
    let num := t.hold.getD x.nextId
    let s' := rt.1.holdPend pos (s.ctxNum x) t.hold rt.2.2
    if t.upset then
      let s' := s'.modStrand pos fun x => { x with run := .stalled (.ops []) }
      match t.fault with
      | some (_, f) => if f.cause = 0 then s'.awaitLink (.op x.nextId) (s.ctxNum x) (coreOf pos) f.page else s'
      | none => s'
    else if x.handler && !x.fencedBefore num then s'.handlerTrap pos (s.ctxNum x) r
    else s'.modStrand pos fun x =>
      { x.trapAt num (t.resume.getD pt) r with
        trapSet := t.set.getD s.moves, heldOn := if x.handler then x.heldOn else rt.2.2 }

/-- Order of trap groups: by issue key, then by lowest lane (18 R328). -/
def TrapGroup.before (a b : TrapGroup) : Bool :=
  decide (a.depth > b.depth) || (a.depth == b.depth && (decide (a.clause.toNat < b.clause.toNat) ||
    (a.clause == b.clause && decide ((lanesOf a.mask).headD 32 < (lanesOf b.mask).headD 32))))

def insertGroup (g : TrapGroup) : List TrapGroup → List TrapGroup
  | [] => [g]
  | h :: l => if g.before h then g :: h :: l else h :: insertGroup g l

/-- Strands of one issue set that trap at one word, with one cause, in one cycle are one group. -/
def TrapGroup.joins (a b : TrapGroup) : Bool :=
  a.depth == b.depth && a.clause == b.clause && a.cause == b.cause && a.set == b.set && a.cycle == b.cycle

/-- A group joins the pending ones. -/
def joinGroup (g : TrapGroup) (l : List TrapGroup) : List TrapGroup :=
  match l.find? g.joins with
  | some h => insertGroup { g with mask := g.mask ||| h.mask } (l.erase h)
  | none => insertGroup g l

/-- Lanes of a braid that are trapped now, not in handler mode and not held become one pending group for each cause and issue
set, at the clause of their record or, where it trapped elsewhere, of `at_` (R328). -/
def State.addGroups (s : State) (b : Nat) (lanes : List Nat) (at_ : Option DWord := none) : State :=
  let tr := lanes.filterMap fun l => match s.strand? (posOf b l) with
    | some x => if x.run = .trapped ∧ ¬ x.handler ∧ ¬ x.held then some (l, x) else none
    | none => none
  let keys := (tr.map fun p => (p.2.trap.cause, p.2.trapSet)).dedup
  keys.foldl (fun s c =>
    let g := tr.filter fun p => p.2.trap.cause == c.1 && p.2.trapSet == c.2
    match g with
    | [] => s
    | p :: _ => s.modBraid b fun br => { br with
        pending := joinGroup ⟨maskOf (g.map Prod.fst), p.2.regs.depth, at_.getD p.2.trap.clause, c.1, c.2, s.cycles⟩
          br.pending }) s

/-- Taking an exception: the lanes of the issue set that trap at its word. They leave the set; those that a `tstep`
steps are held, not pending (18 R341). -/
def State.raise (s : State) (traps : List (Nat × TrapReq)) : State :=
  match s.cur with
  | none => s
  | some x =>
    let s := traps.foldl (fun s p => s.raiseOne (posOf x.braid p.1) ⟨x.clause, x.word⟩ p.2) s
    if s.stepping then s else s.addGroups x.braid (traps.map Prod.fst)

/-- A trap raised outside any word of the strand: rejections (14 R263) and requests refused later. The record names the place of
`p`; the strand goes on from `resume`; `key` is the clause where it traps (18 R328): that of its next word boundary, or of the
word at which it was blocked. -/
def State.raiseLate (s : State) (pos : Nat) (p : Pend) (resume : Point) (key : DWord) (t : TrapReq) : State :=
  let s := s.raiseOne pos resume { t with point := some p.at_, resume := some resume, set := some p.group }
  (s.addGroups (braidOf pos) [laneOf pos] (some key)).slackReturn (braidOf pos)

/-! ## Delivering a trap and returning -/

/-- A block whose contents are private to the device: free bytes (log 9). -/
def Memory.scribble (m : Memory) (key draw : Nat) : Nat → Memory
  | 0 => m
  | n + 1 => Memory.write (key + n) (Config.privateByte (draw + n)) (Memory.scribble m key draw n)

/-- A device writes such bytes at parts, which other packages are sent. -/
def State.scribbleParts (s : State) (core ctx draw : Nat) (ps : List Part) : State :=
  let s := (s.sendParts engineFlit 0 ctx core ps).land ps
  let m := (ps.foldl (fun acc p => (Memory.scribble acc.1 p.key (draw + acc.2) p.len, acc.2 + p.len)) (s.mem, 0)).1
  ({ s with mem := m }).spoil (.engine (dieOf core)) (fun _ => true) ps

/-- The trap frame of a strand is written; its bytes are private. -/
def State.writeFrame (s : State) (ctx : Nat) (c : Ctx) (pos : Nat) : Except XFault State :=
  match s.devParts (coreOf pos) ctx .write 2 ((c.tfBase.toNat + pos * 4096) % 2 ^ 64) 4096 with
  | .error f => .error f
  | .ok ps => match s.reachFault true ps with
    | some f => .error f
    | none => .ok { s.scribbleParts (coreOf pos) ctx (4096 * s.draws) ps with draws := s.draws + 1 }

/-- A strand enters handler mode at an address (18 R329). Its instructions from now on are numbered above those before. -/
def Strand.enterHandler (x : Strand) (h : DWord) : Strand :=
  { x with frame := some x.regs, frameId := x.nextId + 1, nextId := x.nextId + 1, handler := true, run := .candidate,
           regs := { x.regs with pc := ⟨h, 0⟩ } }

/-- The fields of a clause header (02 R23). -/
def headerOk (h : Nat) : Bool := bits h 63 60 == 13 && bits h 39 0 == 0
def headerCount (h : Nat) : Nat := bits h 59 56 + 1
def headerWait (h : Nat) : Nat := bits h 52 41

/-- Eight bytes of code, as the core reads them. -/
def State.fetch8 (s : State) (core ctx : Nat) (a : DWord) : Except XFault Nat :=
  match s.parts core ctx .exec a.toNat 8 with
  | .error f => .error f
  | .ok ps => match s.reachFault false ps with
    | some f => .error f
    | none => .ok (s.seenParts (coreAgent core) ps)

def State.fetchWords (s : State) (core ctx : Nat) (a : DWord) : Nat → Except XFault (List DWord)
  | 0 => .ok []
  | n + 1 =>
    match s.fetch8 core ctx a with
    | .error f => .error f
    | .ok w => match s.fetchWords core ctx (a + 8) n with
      | .error f => .error f
      | .ok l => .ok (BitVec.ofNat 64 w :: l)

/-- The fault that the fetch of the clause at an address meets, if any. -/
def State.fetchStop (s : State) (core ctx : Nat) (a : DWord) : Option XFault :=
  match s.fetch8 core ctx a with
  | .error f => some f
  | .ok h => if !headerOk h then none else match s.fetchWords core ctx (a + 8) (headerCount h) with
    | .error f => some f
    | .ok _ => none

/-- What the trap table gives for a cause (18 R327): the handler's address; a context fault, where the entry is invalid or the
read or the fetch faulted, with SRC and that fault; or a wait for a port (19 R352). -/
inductive HandlerAt where
  | ok (h : DWord)
  | bad (f : Option (Nat × XFault))
  | wait (pkg : Nat)
  deriving DecidableEq, Repr, Inhabited

def HandlerAt.stopped (src : Nat) (f : XFault) : HandlerAt := if f.cause = 0 then .wait f.page else .bad (some (src, f))

def State.handlerFor (s : State) (core ctx : Nat) (c : Ctx) (cause : Nat) : HandlerAt :=
  match s.devRead core ctx ((c.trapBase.toNat + 8 * cause) % 2 ^ 64) 8 with
  | .error f => .stopped srcLoad f
  | .ok e =>
    let h : DWord := BitVec.ofNat 64 (e - 1)
    if e % 8 ≠ 1 then .bad none
    else match s.fetchStop core ctx h with
      | some f => .stopped srcFetch f
      | none => .ok h

/-- Delivery of a braid's first pending group, once none of its strands is in handler mode (18 R328, R329). The records of a trap
table that cannot be read and of a frame that cannot be written have SRC 0 and 1: the model's choice (log 68). -/
def State.deliver (s : State) (b : Nat) : State :=
  match s.braids.get? b with
  | none => s
  | some br =>
    match br.pending with
    | [] => s
    | g :: rest =>
      if (s.braidStrands b).any fun p => p.2.handler && p.2.run != .exited then s
      else
        let members := (lanesOf g.mask).filterMap fun l => (s.strand? (posOf b l)).map fun x => (posOf b l, x)
        match members with
        | [] => s.modBraid b fun br => { br with pending := rest }
        | (pos0, x0) :: _ =>
          let ctx := s.ctxNum x0
          match s.ctxs.get? ctx with
          | none => s
          | some c =>
            if c.st ≠ .active ∨ c.stopping then s
            else
              -- a group whose delivery faults the context stays pending; a failed translation has its record (09 R176)
              let fail := fun (f : Option (Nat × XFault)) =>
                let s := match f with
                  | some (src, f) => (s.recordFault ctx (coreOf pos0) x0.index src f).1
                  | none => s
                s.ctxFault ctx 2 (dieOf (coreOf pos0)) 0 0
              match s.handlerFor (coreOf pos0) ctx c x0.trap.cause with
              | .bad f => fail f
              | .wait pkg => s.awaitLink (.op x0.nextId) ctx (coreOf pos0) pkg
              | .ok h =>
                let framed := members.foldl (fun (acc : Except XFault State) p => match acc with
                  | .ok s => s.writeFrame ctx c p.1
                  | .error f => .error f) (.ok s)
                match framed with
                | .error f => if f.cause = 0 then s.awaitLink (.op x0.nextId) ctx (coreOf pos0) f.page else fail (some (srcStore, f))
                | .ok s => members.foldl (fun s p => s.modStrand p.1 fun x => x.enterHandler h)
                    (s.modBraid b fun br => { br with pending := rest })

/-- Return from a handler: the frame is restored and the strand is a candidate at its resume point (18 R336). What the
handler issued and has not completed no longer writes the strand's registers, but those that the handler had. -/
def Strand.leaveHandler (x : Strand) : Strand :=
  { x with
    regs := x.frame.getD x.regs
    frame := none
    handler := false
    run := .candidate
    past := some x.regs
    outlasts := x.outlasts.filter fun e => decide (e.1 < x.frameId)
    outs := x.outs.map fun p => if x.frameId ≤ p.id then { p with mute := true } else p }

/-! ## How a word executes -/

/-- Features by bit of FEATAGREED (04 R80). -/
def featAff : Nat := 3
def featClos : Nat := 4
def featXcell : Nat := 5
def featT6 : Nat := 2

/-- The feature that an instruction belongs to. -/
def needsFeature : Instr → Option Nat
  | .xadd .. | .xget .. | .xclr .. => some featXcell
  | .cap .. | .capr .. | .kdup .. | .kdrop .. | .kst .. | .kld .. | .apply .. | .spawn .. | .kinfo .. => some featClos
  | .tall .t6 .. | .ctr .t6 .. => some featT6
  | _ => none

def isAffine : Instr → Bool
  | .aset .. | .anoise .. | .aadd .. | .asub .. | .aneg .. | .ascl .. | .aaddc .. | .amul .. | .aquant .. | .acond ..
  | .aget .. | .ald .. | .ast .. | .asymn .. | .amode .. => true
  | _ => false

/-- Words that only a handler may execute, and `sleep`, which a handler may not (18 R330). -/
def handlerRule : Instr → Option Bool
  | .rte .. | .tins .. | .tset .. | .tresGo .. | .tresHold .. | .tresKill .. | .tstep .. | .tswap .. => some true
  | .sleep .. => some false
  | _ => none

/-- A CSR access that is illegal (18 R337, R338). -/
def csrIllegal (handler : Bool) : Instr → Bool
  | .csrr _ _ c =>
    !([0x001, 0x002, 0x010, 0x011, 0x012, 0x020, 0x021, 0x022, 0x030, 0x032].contains c || (handler && c == 0x031))
  | .csrw _ _ c _ => !([0x001, 0x002].contains c || (handler && [0x010, 0x031].contains c))
  | _ => false

def usesLl (i : Instr) : Bool := i.info.srcs.any fun u => u.src == .ll

/-- May a word at slot position n read `ll`? The word before it must be fixed-latency and write a register (02 R42). -/
def llReadable (words : List DWord) (n : Nat) : Bool :=
  match prevWord words n with
  | none => false
  | some (w, e) => match decode w e with
    | .ok i => i.info.long.isNone && !i.info.writes.isEmpty && decide (bits w 63 56 < 0x60)
    | .error _ => false

/-- The registers that a word names lie within the allocation (08 R142, 16 R293). -/
def withinAlloc (x : Strand) (i : Instr) : Bool :=
  let n := x.regs.v.length
  let f := i.info
  decide (f.pred.reg < n ∨ f.pred.reg = 0) &&
  f.srcs.all (fun u => match u.src with | .v r => decide (r < n) | _ => true) &&
  f.runs.all (fun r => decide (r.first + r.n ≤ n ∨ r.n = 0)) &&
  f.writes.all (fun r => decide (r.1 + r.2 ≤ n)) &&
  f.affs.all (fun r => decide (r < x.regs.a.length))

/-- The checks of R52 of spec 02 that need the strand: allocation, `ll`, features, handler mode, CSRs. -/
def State.wordIllegal (s : State) (x : Issue) (st : Strand) (i : Instr) : Bool :=
  let feat := ((s.ctxs.get? (s.ctxNum st)).map Ctx.feat).getD 0
  !withinAlloc st i || csrIllegal st.handler i ||
  (usesLl i && !llReadable x.words x.word) ||
  (match needsFeature i with | some b => !feat.testBit b | none => false) ||
  (isAffine i && (st.regs.a.isEmpty || !feat.testBit featAff)) ||
  (match handlerRule i with | some h => st.handler != h | none => false)

/-- The lowest operand that fails the format-tag check (03 R73, R74; log 12), predicate excepted. -/
def useAccepts : Use → Tag → Bool
  | .any, _ => true
  | .i32, t => t == .i32 || t == .raw
  | .f32, t => t == .f32 || t == .raw
  | .h16, t => t == .h16x2 || t == .raw
  | .i16, t => t == .i16x2 || t == .raw
  | .i8, t => t == .i8x4 || t == .raw
  | .t8, t => t == .t8x4 || t == .raw

def srcTag (r : Regs) : Src → Option Tag
  | .v n => some (r.reg n).tag
  | .o n => some (r.o.getD n .zero).tag
  | .ll => some r.ll.tag
  | .const _ | .special _ => none

def tagFailure (r : Regs) (f : Info) : Option Nat :=
  let a := f.srcs.filterMap fun u => match srcTag r u.src with
    | some t => if useAccepts u.use t then none else some u.opnd
    | none => none
  let b := f.runs.filterMap fun u => match u.tag with
    | none => none
    | some t => if (r.run u.first u.n).all (fun x => x.tag == t || x.tag == .raw) then none else some u.opnd
  (a ++ b).min?

/-- What a word does in one lane: the strand after it, and the trap it raises. -/
structure LaneOut where
  st : Strand
  trap : Option TrapReq := none
  deriving DecidableEq, Repr, Inhabited

/-- The lanes of the issue set whose strand's predicate holds, with their strands. -/
def State.active (s : State) (x : Issue) (p : Pred) : List (Nat × Strand) :=
  (lanesOf x.mask).filterMap fun l => match s.strand? (posOf x.braid l) with
    | some st => if predHolds st.regs p then some (l, st) else none
    | none => none

/-- The lanes raise the illegal-instruction trap (02 R52). -/
def State.allIllegal (s : State) (lanes : List Nat) : State :=
  s.raise (lanes.map fun l => (l, { cause := cIllegal }))

/-- Words checked by each strand whose predicate holds, for that strand alone (14 R263, 15 R286). -/
def strandWords : Instr → Bool
  | .tall .. | .tfree .. | .tzero .. | .tload .. | .ctr .. | .tdrain .. => true
  | .cpb .. | .cpg .. | .cps .. | .cpf .. | .cqf .. => true
  | _ => false

/-- The lanes of the issue set that an illegal word with this predicate traps, where it is checked by each strand whose predicate
holds; one that the strand does not have stops none (08 R142). -/
def State.checkedLanes (s : State) (x : Issue) (p : Pred) : List Nat :=
  (lanesOf x.mask).filter fun l => (s.strand? (posOf x.braid l)).any fun st =>
    predHolds st.regs p || decide (p.reg ≠ 0 ∧ st.regs.v.length ≤ p.reg)

/-- The lanes that an illegal word traps: every lane of the set, but for the tile and copy words. -/
def State.illegalLanes (s : State) (x : Issue) (i : Instr) : List Nat :=
  if strandWords i then s.checkedLanes x i.info.pred else lanesOf x.mask

/-- Is word i illegal for the issue set? The checks that need a strand agree for all strands of a set. -/
def State.illegalHere (s : State) (x : Issue) (i : Instr) : Bool :=
  (lanesOf x.mask).any fun l => match s.strand? (posOf x.braid l) with
    | some st => s.wordIllegal x st i
    | none => false

/-- The lanes that execute a word: predicate holding, and past the format-tag check. -/
def State.passing (s : State) (x : Issue) (i : Instr) : List (Nat × Strand) :=
  (s.active x i.info.pred).filter fun p => (tagFailure p.2.regs i.info).isNone

def State.tagTraps (s : State) (x : Issue) (i : Instr) : List (Nat × TrapReq) :=
  (s.active x i.info.pred).filterMap fun p =>
    (tagFailure p.2.regs i.info).map fun o => (p.1, { cause := cTag, detail := o })

/-- The strand at `pos` after the word: a lane's result, or as it was. -/
def laneResult (braid : Nat) (outs : List (Nat × LaneOut)) (pos : Nat) (st : Strand) : Strand :=
  match outs.find? fun o => posOf braid o.1 == pos with
  | some o => o.2.st
  | none => st

/-- A word that acts lane by lane: every lane reads the state before the word. -/
def State.pointwise (s : State) (i : Instr) (f : Issue → Nat → Strand → LaneOut) : State :=
  match s.cur with
  | none => s
  | some x =>
    if s.illegalHere x i then s.allIllegal (s.illegalLanes x i)
    else
      let outs := (s.passing x i).map fun p => (p.1, f x p.1 p.2)
      let s' := { s with strands := s.strands.mapVals (laneResult x.braid outs) }
      s'.raise (s.tagTraps x i ++ outs.filterMap fun o => o.2.trap.map fun t => (o.1, t))

/-- One lane acts on the state that the lanes before it left; its trap joins theirs. -/
def laneThen (f : State → Nat → State × Option TrapReq) (acc : State × List (Nat × TrapReq)) (p : Nat × Strand) :
    State × List (Nat × TrapReq) :=
  let r := f acc.1 p.1
  (r.1, acc.2 ++ (r.2.map fun t => (p.1, t)).toList)

/-- A word whose lanes act one after another in ascending order on the whole state (10 R191, 12 R239). -/
def State.inLaneOrder (s : State) (i : Instr) (f : Issue → State → Nat → State × Option TrapReq) : State :=
  match s.cur with
  | none => s
  | some x =>
    if s.illegalHere x i then s.allIllegal (s.illegalLanes x i)
    else
      let r := (s.passing x i).foldl (laneThen (f x)) (s, [])
      r.1.raise (s.tagTraps x i ++ r.2)

/-- The word's own point, and the point after it: the next slot word, or the next clause (02 R28). -/
def Issue.here (x : Issue) : Point := ⟨x.clause, x.word⟩
def Issue.after (x : Issue) (i : Instr) : Point :=
  let n := x.word + (match i with | .movx .. => 2 | .cap _ _ (.literal _) _ _ => 2 | _ => 1)
  if x.words.length < n then ⟨x.next, 0⟩ else ⟨x.clause, n⟩

end Sys2Proof.Machine
end

