-- ==== Sys2Proof/Machine/Operands.lean ====
section
/-! DEFINITION. Operand sources (spec 02 R40 to R44): what a source field, a pair and a run of registers read in one
lane; and the fixed-latency words as functions of what they read (08 R141). -/

namespace Sys2Proof.Machine

/-- Special values (02 R44, 17 R315). -/
def State.special (s : State) (x : Issue) (pos : Nat) (st : Strand) (v : Special) : Word :=
  let core := coreOf pos
  let n : Nat := match v with
    | .lane => st.index % 32
    | .strand => st.index
    | .hank => match s.hankOf st with
      | some h => if h.spawn.isSome then 0xFFFFFFFF else h.index
      | none => 0
    | .braid => st.index / 32
    | .core => core
    | .die => dieOf core
    | .pkg => s.pkgid
    | .fp => st.regs.fp.toNat
    | .depth => st.regs.depth
    | .clk => s.clock core
    | .nhank => match s.hankOf st with
      | some h => h.nhank
      | none => 0
    | .nstrand => match s.hankOf st with
      | some h => if h.spawn.isSome then 32 else h.strands
      | none => 0
    | .imask => x.mask.toNat
    | .nbpos => match s.hankOf st with
      | some h => h.nbpos
      | none => 0
  BitVec.ofNat 32 n

/-- What a lane reads: its registers and its special values. -/
structure Lane where
  regs : Regs
  sp : Special → Word

def State.lane (s : State) (x : Issue) (l : Nat) (st : Strand) : Lane := ⟨st.regs, s.special x (posOf x.braid l) st⟩

/-- A source in the format its consumer reads (02 R40, R43, R44). -/
def Lane.src (e : Lane) (u : Use) : Src → Reg
  | .v n => e.regs.reg n
  | .o n => e.regs.o.getD n .zero
  | .ll => e.regs.ll
  | .const i => constReg u i
  | .special v => ⟨e.sp v, .i32⟩

def Lane.val (e : Lane) (u : Use) (x : Src) : Word := (e.src u x).val
def Lane.nat (e : Lane) (u : Use) (x : Src) : Nat := (e.val u x).toNat

/-- A source read as F32. -/
def Lane.f32 (e : Lane) (x : Src) : FVal := Machine.f32.decode (e.nat .f32 x)

/-- A pair, or the constant that stands for it. -/
def Lane.pair (e : Lane) : PairSrc → DWord
  | .v n => e.regs.pair n
  | .const i => constPair i

/-- The words of a run of registers. -/
def Lane.words (e : Lane) (first n : Nat) : List Word := (e.regs.run first n).map Reg.val

/-- What a word writes: registers and flags. -/
structure Writes where
  regs : List (Nat × Reg)
  fl : FFlags := 0
  deriving DecidableEq, Repr, Inhabited

def Writes.one (d : Nat) (r : Reg) (fl : FFlags := 0) : Writes := ⟨[(d, r)], fl⟩
def Writes.pair (d : Nat) (x : DWord) : Writes := ⟨regsFrom d (pairRegs x .w64), 0⟩

/-- The capture of a format A word: the value and tag written to vD (02 R41). -/
def Regs.capture (r : Regs) (cap : Option Nat) (w : List (Nat × Reg)) : Regs :=
  match cap, w with
  | some o, p :: _ => { r with o := r.o.set o p.2 }
  | _, _ => r

/-- The strand after a fixed-latency word that writes `w`: one step (08 R141). -/
def Strand.put (x : Strand) (cap : Option Nat) (w : Writes) : Strand :=
  { x with regs := (x.regs.write w.regs w.fl).capture cap w.regs }

/-- A fixed-latency word: each lane reads, then writes. -/
def State.fixed (s : State) (i : Instr) (f : Lane → Writes) : Host.Outcome State Fault Refusal :=
  .next (s.pointwise i fun x l st => { st := st.put i.info.cap (f (s.lane x l st)) })

end Sys2Proof.Machine
end

