-- ==== Sys2Proof/Machine/Alu.lean ====
section
/-! DEFINITION. Moves, integer arithmetic and bit operations (spec 08 R144 to R154). -/

namespace Sys2Proof.Machine

abbrev Res := Host.Outcome State Fault Refusal

/-- `nop` changes nothing (02 R39). -/
def execNop (s : State) : Res := s.fixed .nop fun _ => ⟨[], 0⟩

/-- mov (08 R144). -/
def execMov (x : DstA) (a : Src) (s : State) : Res := s.fixed (.mov x a) fun e => .one x.d (e.src .any a)

/-- movi (08 R145). -/
def execMovi (f : MoviForm) (p : Pred) (d imm : Nat) (s : State) : Res :=
  s.fixed (.movi f p d imm) fun _ => .one d <| match f with
    | .s => Reg.ofNat (wrapInt 32 (readInt true 25 imm)) .i32
    | .n => Reg.ofNat imm .i32
    | .f32 => Reg.ofNat (imm * 2 ^ 7) .f32

/-- movx (08 R146). -/
def execMovx (f : MovxForm) (p : Pred) (d : Nat) (lit : DWord) (s : State) : Res :=
  s.fixed (.movx f p d lit) fun _ => match f with
    | .tagged t => .one d (Reg.ofNat lit.toNat t)
    | .pair => .pair d lit

/-- An integer word of R147 on one, two or three sources. -/
def intWord (f : IntForm) (d : Nat) (op : Int → Int → Int → Int) (a b c : Src) (e : Lane) : Writes :=
  .one d (intOp f op (e.val f.width.use a) (e.val f.width.use b) (e.val f.width.use c))

/-- add (08 R147). -/
def execAdd (f : IntForm) (x : DstA) (a b : Src) (s : State) : Res :=
  s.fixed (.add f x a b) (intWord f x.d (fun p q _ => p + q) a b a)

/-- sub (08 R147). -/
def execSub (f : IntForm) (x : DstA) (a b : Src) (s : State) : Res :=
  s.fixed (.sub f x a b) (intWord f x.d (fun p q _ => p - q) a b a)

/-- mul (08 R147). -/
def execMul (f : IntForm) (x : DstA) (a b : Src) (s : State) : Res :=
  s.fixed (.mul f x a b) (intWord f x.d (fun p q _ => p * q) a b a)

/-- mad (08 R147). -/
def execMad (f : IntForm) (x : DstA) (a b c : Src) (s : State) : Res :=
  s.fixed (.mad f x a b c) (intWord f x.d (fun p q r => p * q + r) a b c)

/-- neg (08 R147). -/
def execNeg (f : IntForm) (x : DstA) (a : Src) (s : State) : Res :=
  s.fixed (.neg f x a) (intWord f x.d (fun p _ _ => -p) a a a)

/-- abs (08 R147). -/
def execAbs (f : IntForm) (x : DstA) (a : Src) (s : State) : Res :=
  s.fixed (.abs f x a) (intWord f x.d (fun p _ _ => (p.natAbs : Int)) a a a)

/-- min (08 R147). -/
def execMin (f : IntForm) (x : DstA) (a b : Src) (s : State) : Res :=
  s.fixed (.min f x a b) (intWord f x.d (fun p q _ => if p ≤ q then p else q) a b a)

/-- max (08 R147). -/
def execMax (f : IntForm) (x : DstA) (a b : Src) (s : State) : Res :=
  s.fixed (.max f x a b) (intWord f x.d (fun p q _ => if p ≤ q then q else p) a b a)

/-- mulh (08 R148). -/
def execMulh (natural : Bool) (x : DstA) (a b : Src) (s : State) : Res :=
  s.fixed (.mulh natural x a b) fun e => .one x.d (mulHigh natural (e.val .i32 a) (e.val .i32 b))

/-- sel (08 R149). -/
def execSel (x : DstA) (a b c : Src) (s : State) : Res :=
  s.fixed (.sel x a b c) fun e => .one x.d (if e.val .any c ≠ 0 then e.src .any a else e.src .any b)

/-- lea (08 R150). -/
def execLea (natural : Bool) (sh : Nat) (x : DstA) (a : PairSrc) (b : Src) (s : State) : Res :=
  s.fixed (.lea natural sh x a b) fun e => .pair x.d (leaVal natural sh (e.pair a) (e.val .i32 b))

/-- add64 (08 R151). -/
def execAdd64 (x : DstA) (a b : PairSrc) (s : State) : Res :=
  s.fixed (.add64 x a b) fun e => .pair x.d (e.pair a + e.pair b)

/-- sub64 (08 R151). -/
def execSub64 (x : DstA) (a b : PairSrc) (s : State) : Res :=
  s.fixed (.sub64 x a b) fun e => .pair x.d (e.pair a - e.pair b)

/-- A bit operation of R152 whose result keeps the tag of a. -/
def bitWord (d : Nat) (op : Word → Word → Word) (a b : Src) (e : Lane) : Writes :=
  let ra := e.src .any a
  .one d ⟨op ra.val (e.val .any b), ra.tag⟩

/-- and (08 R152). -/
def execAnd (x : DstA) (a b : Src) (s : State) : Res :=
  s.fixed (.and x a b) (bitWord x.d (fun p q => p &&& q) a b)

/-- or (08 R152). -/
def execOr (x : DstA) (a b : Src) (s : State) : Res :=
  s.fixed (.or x a b) (bitWord x.d (fun p q => p ||| q) a b)

/-- xor (08 R152). -/
def execXor (x : DstA) (a b : Src) (s : State) : Res :=
  s.fixed (.xor x a b) (bitWord x.d (fun p q => p ^^^ q) a b)

/-- not (08 R152). -/
def execNot (x : DstA) (a : Src) (s : State) : Res :=
  s.fixed (.not x a) (bitWord x.d (fun p _ => ~~~p) a a)

/-- shl (08 R152). -/
def execShl (x : DstA) (a b : Src) (s : State) : Res :=
  s.fixed (.shl x a b) (bitWord x.d (shlVal) a b)

/-- shr (08 R152). -/
def execShr (x : DstA) (a b : Src) (s : State) : Res :=
  s.fixed (.shr x a b) (bitWord x.d (shrVal) a b)

/-- sar (08 R152). -/
def execSar (x : DstA) (a b : Src) (s : State) : Res :=
  s.fixed (.sar x a b) (bitWord x.d (sarVal) a b)

/-- brev (08 R152). -/
def execBrev (x : DstA) (a : Src) (s : State) : Res :=
  s.fixed (.brev x a) (bitWord x.d (fun p _ => brevVal p) a a)

/-- rot (08 R152). -/
def execRot (right : Bool) (x : DstA) (a b : Src) (s : State) : Res :=
  s.fixed (.rot right x a b) (bitWord x.d (rotVal right) a b)

/-- clz (08 R152). -/
def execClz (x : DstA) (a : Src) (s : State) : Res :=
  s.fixed (.clz x a) fun e => .one x.d (Reg.ofNat (clzVal (e.val .any a)) .i32)

/-- popc (08 R152). -/
def execPopc (x : DstA) (a : Src) (s : State) : Res :=
  s.fixed (.popc x a) fun e => .one x.d (Reg.ofNat (popcVal (e.val .any a)) .i32)

/-- bfe (08 R152). -/
def execBfe (signed : Bool) (x : DstA) (a b c : Src) (s : State) : Res :=
  s.fixed (.bfe signed x a b c) fun e =>
    .one x.d ⟨bfeVal signed (e.val .any a) (e.val .any b) (e.val .any c), .i32⟩

/-- bfi (08 R152). -/
def execBfi (x : DstA) (a b c : Src) (s : State) : Res :=
  s.fixed (.bfi x a b c) fun e =>
    let ra := e.src .any a
    .one x.d ⟨bfiVal ra.val (e.val .any b) (e.val .any c), ra.tag⟩

/-- cmp (08 R153). -/
def execCmp (k : Cond) (x : DstA) (a b : Src) (s : State) : Res :=
  s.fixed (.cmp k x a b) fun e =>
    .one x.d ⟨if cmpVal k (e.val .i32 a) (e.val .i32 b) then 1 else 0, .i32⟩

/-- vtag (08 R154). -/
def execVtag (t : Tag) (x : DstA) (a : Src) (s : State) : Res :=
  s.fixed (.vtag t x a) fun e => .one x.d ⟨e.val .any a, t⟩

end Sys2Proof.Machine
end

