-- ==== Sys2Proof/Machine/Long.lean ====
section
/-! DEFINITION. Long-latency words whose results are known when they issue (spec 02 R45): the home, the affine unit or the
register they read acts in the step that issues them (log 6), and LONG_LATENCY_COMPLETION writes their registers. -/

namespace Sys2Proof.Machine

/-- Issued with its results: `w` is written, and the slot cleared, at completion. -/
def Strand.issueRegs (x : Strand) (l : Long) (at_ : Point) (grp : Nat) (kind : PendKind) (w : List (Nat × Reg)) :
    Strand :=
  x.issue l at_ grp kind false (.regs w 0)

/-- A long-latency word that acts on each strand alone. -/
def State.longWord (s : State) (i : Instr) (l : Long) (kind : PendKind)
    (f : Lane → Strand → Strand × List (Nat × Reg)) : Res :=
  .next (s.pointwise i fun x k st =>
    let r := f (s.lane x k st) st
    { st := r.1.issueRegs l x.here s.moves kind r.2 })

/-- A long-latency word whose lanes act in ascending order on the whole state; a lane answers its results or a trap. -/
def State.longInOrder (s : State) (i : Instr) (l : Long) (kind : PendKind)
    (f : State → Nat → Strand → Lane → Except TrapReq (State × List (Nat × Reg))) : Res :=
  .next (s.inLaneOrder i fun x s k =>
    let pos := posOf x.braid k
    match s.strand? pos with
    | none => (s, none)
    | some st => match f s pos st (s.lane x k st) with
      | .error t => (s, some t)
      | .ok (s, w) => (s.modStrand pos fun st => st.issueRegs l x.here s.moves kind w, none))

/-- A long-latency word that is complete as soon as its request is applied (13 R254): its lanes act in ascending order, and none
has it outstanding after the word. -/
def State.doneInOrder (s : State) (i : Instr) (f : State → Nat → Strand → Lane → Except TrapReq State) : Res :=
  .next (s.inLaneOrder i fun x s k =>
    let pos := posOf x.braid k
    match s.strand? pos with
    | none => (s, none)
    | some st => match f s pos st (s.lane x k st) with
      | .error t => (s, some t)
      | .ok s => (s, none))

/-- One lane of a word issued and, as its request is applied, complete, with its registers. -/
def State.doneAt (s : State) (x : Issue) (pos : Nat) (l : Long) (w : List (Nat × Reg)) : State :=
  match s.strand? pos with
  | none => s
  | some st => (s.modStrand pos fun st => st.issueRegs l x.here s.moves .plain w).complete pos st.nextId w 0

end Sys2Proof.Machine
end

