-- ==== Sys2Proof/Machine/Affine.lean ====
section
/-! DEFINITION. The affine words (spec 16 R299 to R306) and the minting of noise symbols (04 R83). The affine unit performs
a word in the step that issues it, or, behind a pending `ald`, when its turn comes (R299). -/

namespace Sys2Proof.Machine

/-! ## Symbols -/

/-- The block of a context on a core: next unused symbol and end. It stays with the core until the context is destroyed
(log 52). -/
def State.symBlock (s : State) (core ctx : Nat) : Nat × Nat := s.symBlocks.getD (core * 256 + ctx) (0, 0)

/-- The next symbol of the context's block on the core, a new block being granted where it holds none (04 R83). -/
def State.mint (s : State) (core ctx : Nat) : Option (Nat × State) :=
  match s.ctxs.get? ctx with
  | none => none
  | some c =>
    let b := s.symBlock core ctx
    let key := core * 256 + ctx
    if b.1 < b.2 ∧ b.1 < c.symlim then some (b.1, { s with symBlocks := s.symBlocks.set key (b.1 + 1, b.2) })
    else if c.symC < c.symlim then
      let s := s.modCtx ctx fun c => { c with symC := c.symC + 64 }
      some (c.symC, { s with symBlocks := s.symBlocks.set key (c.symC + 1, c.symC + 64) })
    else none

/-- What `asymn.left` counts (16 R306). -/
def State.symsLeft (s : State) (core ctx : Nat) : Nat :=
  match s.ctxs.get? ctx with
  | none => 0
  | some c => let b := s.symBlock core ctx; (Nat.min b.2 c.symlim - b.1) + (c.symlim - c.symC)

/-! ## What a word makes of its operands -/

def Regs.affine (r : Regs) (n : Nat) : AReg := r.a.getD n .point0
def Lane.affine (e : Lane) (n : Nat) : AReg := e.regs.affine n

/-- The vector operands of an affine word, read at issue (16 R299). -/
def affineArgs (e : Lane) : Instr → Word × Word
  | .aset _ _ a b | .anoise _ _ a b => (e.val .f32 a, e.val .f32 b)
  | .ascl _ _ _ a | .aaddc _ _ _ a => (e.val .f32 a, 0)
  | .acond _ _ _ a | .amode (.set a) _ _ => (e.val .i32 a, 0)
  | _ => (0, 0)

/-- What the word writes to its affine register; `sym` is the symbol that it mints. `asub` of one register with itself is
the exact point 0 (log 41). -/
def affineResult (r : Regs) (a b : Word) (sym : Option Nat) : Instr → AReg
  | .aset .. => asetVal a b
  | .anoise .. => anoiseVal a b sym
  | .aadd _ _ x y => alinear false (r.affine x) (r.affine y)
  | .asub _ _ x y => if x = y ∧ (r.affine x).whole = false then .point0 else alinear true (r.affine x) (r.affine y)
  | .aneg _ _ x => anegVal (r.affine x)
  | .ascl _ _ x _ => asclVal (r.affine x) a
  | .aaddc _ _ x _ => aaddcVal (r.affine x) a
  | .amul _ _ x y => amulVal (r.affine x) (r.affine y) sym
  | .aquant f rm _ _ x => aquantVal f rm (r.affine x) sym
  | .acond _ _ x _ => acondVal (r.affine x) a.toNat sym
  | _ => .point0

/-- Does an affine word need a symbol, outside no-mint mode? (16 R301, R303 to R305) -/
def needsSymbol (r : Regs) (a b : Word) : Instr → Bool
  | .anoise .. => anoiseMints a b
  | .amul _ _ x y => amulMints (r.affine x) (r.affine y)
  | .aquant f rm _ _ x => aquantMints f rm (r.affine x)
  | .acond _ _ x _ => acondMints (r.affine x) a.toNat
  | _ => false

def mintsNow (r : Regs) (a b : Word) (i : Instr) : Bool := !r.noMint && needsSymbol r a b i

/-- Does an earlier affine word of the strand still stand in its queue? -/
def Strand.affPending (x : Strand) (before : Nat) : Bool := x.outs.any fun p => p.kind == .affine && decide (p.id < before)

/-- Words that mint for some operands. -/
def mayMint : Instr → Bool
  | .anoise .. | .amul .. | .aquant .. | .acond .. => true
  | _ => false

/-- Would the word mint for this strand, as far as is known? Past a fence it stalls then (11 R227). -/
def wouldMint (x : Strand) (e : Lane) (i : Instr) : Bool :=
  let w := affineArgs e i
  if x.affPending x.nextId then mayMint i else mintsNow x.regs w.1 w.2 i

/-- Symbol exhaustion (16 R297). -/
abbrev cSymbols : Nat := 9

/-! ## The words -/

def Regs.putAff (r : Regs) (d : Nat) (v : AReg) : Regs := { r with a := r.a.set d v }
def Strand.putAff (x : Strand) (d : Nat) (v : AReg) : Strand := { x with regs := x.regs.putAff d v }

/-- The word joins the queue behind a pending `ald`. -/
def Strand.queueAffine (x : Strand) (e : Lane) (l : Long) (at_ : Point) (grp : Nat) (i : Instr) : Strand :=
  let w := affineArgs e i
  x.issue l at_ grp .affine false (.affine i w.1 w.2)

/-- A word that writes an affine register and never mints. -/
def State.affineWord (s : State) (i : Instr) (l : Long) (d : Nat) : Res :=
  .next (s.pointwise i fun x k st =>
    let e := s.lane x k st
    let w := affineArgs e i
    { st := if st.affPending st.nextId then st.queueAffine e l x.here s.moves i
        else (st.putAff d (affineResult st.regs w.1 w.2 none i)).issueRegs l x.here s.moves .plain [] })

def State.stallOn (s : State) (pos : Nat) (r : Stall) : State :=
  s.modStrand pos fun x => { x with run := .stalled r }

/-- What lower lanes of the issue set still wait for at its word, where lanes act in ascending order (10 R186, 16 R296). -/
def State.lowerStalls (s : State) (x : Issue) (k : Nat) : List (Nat × Nat) :=
  ((lanesOf x.mask).filter (· < k)).flatMap fun j =>
    let pos := posOf x.braid j
    match s.strand? pos with
    | none => []
    | some y => match y.run with
      | .stalled (.ops l) => if y.regs.pc = x.here then l.map fun id => (pos, id) else []
      | .stalled (.others l) => if y.regs.pc = x.here then l else []
      | _ => []

/-- The words that stand in a strand's affine queue. -/
def Strand.affQueue (x : Strand) : List Nat := (x.outs.filter fun p => p.kind == .affine).map Pend.id

/-- A word that may mint: lanes in ascending order; a lane that finds no symbol traps alone at the word, which is executed again
(16 R296, R297). So it stalls behind earlier affine words of its strand, and behind lower lanes that do (log 70). -/
def State.mintWord (s : State) (i : Instr) (l : Long) (d : Nat) : Res :=
  .next (s.inLaneOrder i fun x s k =>
    let pos := posOf x.braid k
    match s.strand? pos with
    | none => (s, none)
    | some st =>
      let e := s.lane x k st
      let w := affineArgs e i
      let put := fun (s : State) (sym : Option Nat) => s.modStrand pos fun st =>
        (st.putAff d (affineResult st.regs w.1 w.2 sym i)).issueRegs l x.here s.moves .plain []
      let lower := s.lowerStalls x k
      if st.affPending st.nextId then (s.stallOn pos (.ops st.affQueue), none)
      else if !lower.isEmpty then (s.stallOn pos (.others lower), none)
      else if mintsNow st.regs w.1 w.2 i then
        match s.mint (coreOf pos) (s.ctxNum st) with
        | none => (s, some { cause := cSymbols })
        | some (sym, s) => (put s (some sym), none)
      else (put s none, none))

/-- The vector register that `aget`, `asymn` or `amode` writes. -/
def State.affineRead (s : State) (pos : Nat) (x : Strand) : Instr → List (Nat × Reg)
  | .aget f _ d y => [(d, ⟨agetVal f (x.regs.affine y), .f32⟩)]
  | .asymn ctr _ d =>
    let n := if ctr then ((s.ctxs.get? (s.ctxNum x)).map Ctx.symC).getD 0 else s.symsLeft (coreOf pos) (s.ctxNum x)
    [(d, Reg.ofNat n .i32)]
  | .amode _ _ d => [(d, Reg.ofNat (if x.regs.noMint then 1 else 0) .i32)]
  | _ => []

/-- The no-mint bit after the word. -/
def Regs.setMode (r : Regs) (a : Word) : Instr → Regs
  | .amode (.set _) .. => { r with noMint := a.getLsbD 0 }
  | _ => r

/-- A word that reads an affine register, symbols or the mode. -/
def State.affineGet (s : State) (i : Instr) (l : Long) : Res :=
  .next (s.pointwise i fun x k st =>
    let e := s.lane x k st
    { st := if st.affPending st.nextId then st.queueAffine e l x.here s.moves i
        else { st with regs := st.regs.setMode (affineArgs e i).1 i }.issueRegs l x.here s.moves .plain
          (s.affineRead (posOf x.braid k) st i) })

/-- aset (16 R301). -/
def execAset (l : Long) (d : Nat) (a b : Src) (s : State) : Res := s.affineWord (.aset l d a b) l d

/-- anoise (16 R301). -/
def execAnoise (l : Long) (d : Nat) (a b : Src) (s : State) : Res := s.mintWord (.anoise l d a b) l d

/-- aadd (16 R302). -/
def execAadd (l : Long) (d x y : Nat) (s : State) : Res := s.affineWord (.aadd l d x y) l d

/-- asub (16 R302). -/
def execAsub (l : Long) (d x y : Nat) (s : State) : Res := s.affineWord (.asub l d x y) l d

/-- aneg (16 R302). -/
def execAneg (l : Long) (d x : Nat) (s : State) : Res := s.affineWord (.aneg l d x) l d

/-- ascl (16 R302). -/
def execAscl (l : Long) (d x : Nat) (a : Src) (s : State) : Res := s.affineWord (.ascl l d x a) l d

/-- aaddc (16 R302). -/
def execAaddc (l : Long) (d x : Nat) (a : Src) (s : State) : Res := s.affineWord (.aaddc l d x a) l d

/-- amul (16 R303). -/
def execAmul (l : Long) (d x y : Nat) (s : State) : Res := s.mintWord (.amul l d x y) l d

/-- aquant (16 R304). -/
def execAquant (f : QuantFmt) (rm : Rm) (l : Long) (d x : Nat) (s : State) : Res := s.mintWord (.aquant f rm l d x) l d

/-- acond (16 R305). -/
def execAcond (l : Long) (d x : Nat) (a : Src) (s : State) : Res := s.mintWord (.acond l d x a) l d

/-- aget (16 R306). -/
def execAget (f : AgetForm) (l : Long) (d y : Nat) (s : State) : Res := s.affineGet (.aget f l d y) l

/-- asymn (16 R306). -/
def execAsymn (ctr : Bool) (l : Long) (d : Nat) (s : State) : Res := s.affineGet (.asymn ctr l d) l

/-- amode (16 R306). -/
def execAmode (f : AmodeForm) (l : Long) (d : Nat) (s : State) : Res := s.affineGet (.amode f l d) l

/-! ## A queued word whose turn has come -/

/-- The affine register that a word writes. -/
def affineDst : Instr → Option Nat
  | .aset _ d .. | .anoise _ d .. | .aadd _ d .. | .asub _ d .. | .aneg _ d .. | .ascl _ d .. | .aaddc _ d .. | .amul _ d ..
  | .aquant _ _ _ d .. | .acond _ d .. => some d
  | _ => none

/-- The registers that an outstanding instruction reads: those of the trap frame, where it issued before the trap (18 R329);
those of its handler, where that has returned; those that the strand had at its exit. -/
def Strand.view (x : Strand) (p : Pend) : Regs :=
  if p.mute ∨ x.run = .exited then x.past.getD x.regs else if p.id < x.frameId then x.frame.getD x.regs else x.regs

/-- A queued affine word, which mints nothing, is performed. -/
def State.runAffine (s : State) (pos : Nat) (x : Strand) (p : Pend) (i : Instr) (a b : Word) : State :=
  let old := x.view p
  s.modStrand pos fun y => y.finish p fun r => match affineDst i with
    | none => (r.setMode a i).write (s.affineRead pos { x with regs := old } i) 0
    | some d => r.putAff d (affineResult old a b none i)

end Sys2Proof.Machine
end

