-- ==== Sys2Proof/Machine/Access.lean ====
section
/-! DEFINITION. Memory accesses (spec 10 R180 to R195, 11 R213 to R224): the address that a lane names and its checks at
issue, the pieces of an access, when a piece may be performed, and what performing the last one does. -/

namespace Sys2Proof.Machine

/-! ## Addresses -/

/-- Offset b, sign-extended to 64 bits. -/
def Lane.offset64 (e : Lane) (b : Src) : DWord := (e.val .i32 b).signExtend 64

/-- The global address or the scratchpad offset that a lane names (10 R180, R181). -/
def Lane.ea (e : Lane) : Addr → Nat
  | .g p b => (e.regs.pair p + e.offset64 b).toNat
  | .s a b => (e.val .i32 a + e.val .i32 b).toNat

/-- An address without an offset, as one with offset 0 (10 R192). -/
def placeAddr : Place → Addr
  | .g p => .g p (.const 0)
  | .s a => .s a (.const 0)

/-- The resident hank at a position of a strand's neighbourhood (06 R105). -/
def State.hankAt (s : State) (h : Hank) (q : Nat) : Option Hank :=
  match h.nb with
  | none => if q = 0 then some h else none
  | some n => if q = h.nbpos then some h else (s.hanks.find? fun p => p.2.nb == some n && p.2.nbpos == q).map Prod.snd

/-- The byte of a hank's allocation at an offset of it. -/
def Hank.window (g : Hank) (o : Nat) : Option (Nat × Nat) :=
  if o < g.scrkb * 1024 then (g.banks[o / 2 ^ 18]?).map fun b => (b, o % 2 ^ 18) else none

/-- The bank and the byte in it of a scratchpad offset of a hank, where R105 allows it. -/
def State.window (s : State) (h : Hank) (off : Nat) : Option (Nat × Nat) :=
  match s.hankAt h (off / 2 ^ 22) with
  | none => none
  | some g => g.window (off % 2 ^ 22)

/-- The same for a strand; where its own hank has retired, the resident hanks of its neighbourhood are still there for what it
issued (02 R49, 10 R184). -/
def State.scratch (s : State) (st : Strand) (off : Nat) : Option (Nat × Nat) :=
  match s.hankOf st with
  | some h => s.window h off
  | none => st.nb.bind fun n => (s.hanks.find? fun p => p.2.nb == some n.1 && p.2.nbpos == off / 2 ^ 22).bind fun p =>
      p.2.window (off % 2 ^ 22)

/-- A permission fault in scratchpad space (18 R325: DETAIL 0). -/
def scratchDenied : TrapReq := { cause := cPermission }

/-- What a word needs of the address that it names. `galign` is the alignment asked of a global address. -/
structure Wants where
  addr : Addr
  len : Nat
  galign : Nat
  need : Need
  src : Nat
  mode : BankMode := .scratch
  deriving DecidableEq, Repr, Inhabited

/-- The checks of R194 in one lane, past the format tag: the parts of the access, or the trap. -/
def State.reach (s : State) (pos : Nat) (st : Strand) (e : Lane) (w : Wants) : Except (TrapReq ⊕ XFault) (List Part) :=
  let ea := e.ea w.addr
  let misaligned : TrapReq := { cause := cMisaligned, vaddr := some (w.src, ea) }
  match w.addr with
  | .g .. =>
    if ea % w.galign ≠ 0 then .error (.inl misaligned)
    else match s.parts (coreOf pos) (s.ctxNum st) w.need ea w.len with
      | .error f => .error (.inr f)
      | .ok ps => .ok ps
  | .s .. =>
    if ea % w.len ≠ 0 then .error (.inl misaligned)
    else match s.scratch st ea with
      | none => .error (.inl scratchDenied)
      | some (b, o) =>
        if (s.bank b).mode = w.mode then .ok [{ key := bankKey b o, len := w.len, ord := .rc, va := ea }] else .error (.inl scratchDenied)

/-! ## Pieces (10 R196, R198; 11 R216) -/

/-- A part, from its byte n on, cut into aligned words; `off` is the place of that byte in the access. -/
def wordPieces (p : Part) : Nat → Nat → Nat → List (Nat × Part)
  | 0, _, _ => []
  | fuel + 1, off, n =>
    if p.len ≤ n then []
    else
      let m := Nat.min (p.len - n) (4 - (p.key + n) % 4)
      (off, { p with key := p.key + n, len := m, va := p.va + n }) :: wordPieces p fuel (off + m) (n + m)

/-- The pieces of an access: one where it is naturally aligned on one page, else its words. -/
def pieces (len : Nat) : List Part → List (Nat × Part)
  | [p] => if p.key % len = 0 then [(0, p)] else wordPieces p p.len 0 0
  | ps => go 0 ps
where
  go (off : Nat) : List Part → List (Nat × Part)
    | [] => []
    | p :: l => wordPieces p p.len off 0 ++ go (off + p.len) l

/-- The order that annotations give: none where every part lies on SO and UN pages; on the RC part of an access that
straddles two pages, for that part alone (11 R215, R216). -/
def orderOn (o : Order) (ps : List Part) : Order := if ps.any fun p => p.ord == .rc then o else ⟨none, none⟩

/-- Is a part released or acquired at all? -/
def Part.annotated (p : Part) : Bool := p.ord == .rc

/-! ## Issuing an access -/

/-- The fence that an acquire read stands for (11 R221); a rollback resumes at `next`, the word after the read. -/
def Strand.acquireFence (x : Strand) (o : Order) (at_ next : Point) (grp id : Nat) : Strand :=
  match o.acq with
  | none => x
  | some sc =>
    x.issue ⟨⟨false, 0⟩, 15, 15⟩ at_ grp .plain false (.fence .acq sc (some id) { x.regs with pc := next } none [] [])

/-- Words that wait in the hold buffer past a fence (11 R227): those that write. -/
def MemOp.writes : MemOp → Bool
  | .store _ | .storeA _ | .storeK _ | .atom .. | .cas .. | .atomf .. | .xadd .. | .xclr => true
  | _ => false

/-- The access issues with the parts found. -/
def Strand.issueAccess (x : Strand) (l : Long) (at_ next : Point) (grp : Nat) (kind : PendKind) (len : Nat) (ps : List Part)
    (o : Order) (op : MemOp) : Strand :=
  let o := orderOn o ps
  let id := x.nextId
  (x.issue l at_ grp kind (op.writes && x.pastFence) (.mem (pieces len ps) 0 o op)).acquireFence o at_ next grp id

/-- The access of one lane: issued, or the trap; a page not resident holds the operation (09 R176). -/
def State.accessLane (s : State) (x : Issue) (i : Instr) (k : Nat) (st : Strand) (l : Long) (kind : PendKind)
    (w : Wants) (o : Order) (op : MemOp) : LaneOut :=
  let pos := posOf x.braid k
  match s.reach pos st (s.lane x k st) w with
  | .ok ps => { st := st.issueAccess l x.here (x.after i) s.moves kind w.len ps o op }
  | .error (.inl t) => { st := st, trap := some t }
  | .error (.inr f) =>
    let t := xTrap w.src f (some st.nextId) (x.after i)
    if f.cause = 2 then
      let ps : List Part := [{ key := 0, len := w.len, ord := .rc, va := (s.lane x k st).ea w.addr }]
      { st := st.issueAccess l x.here (x.after i) s.moves kind w.len ps o op, trap := some t }
    else { st := st, trap := some t }

/-- A word that makes one access in each lane. -/
def State.access (s : State) (i : Instr) (l : Long) (w : Wants) (o : Order) (op : Lane → Strand → MemOp) : Res :=
  .next (s.pointwise i fun x k st => s.accessLane x i k st l .plain w o (op (s.lane x k st) st))

/-- SRC and need of an access. -/
def MemOp.reach (op : MemOp) : Nat × Need :=
  match op with
  | .store _ | .storeA _ | .storeK _ | .fset _ => (srcStore, .write)
  | .xclr => (srcAtomic, .write)
  | .load .. | .loadW .. | .loadA _ | .loadK _ | .xget .. | .line .. | .tload .. => (srcLoad, .read)
  | _ => (srcAtomic, .both)

/-! ## When a piece may be performed (11 R215 to R221, 10 R191) -/

/-- The pieces that an outstanding instruction has still to perform. -/
def Pend.pieces (p : Pend) : List Part := match p.act with | .mem ps .. => ps.map Prod.snd | _ => []

def Pend.isAccess (p : Pend) : Bool := !p.pieces.isEmpty

/-- A fence that orders reads waits for this: an access that reads, not yet performed, or a blocked one. -/
def Pend.isRead (p : Pend) : Bool :=
  match p.act with
  | .mem ps _ _ op => !ps.isEmpty && (match op with | .store _ | .storeA _ | .storeK _ | .fset _ | .xclr => false | _ => true)
  | .served .. => true
  | _ => false

/-- An earlier instruction of the strand that a piece of `p` follows: at the same word, on SO pages, or released (R217). -/
def follows (o : Order) (q : Part) (a : Pend) : Bool :=
  a.pieces.any (fun r => r.meets q || (r.ord == .so && q.ord == .so)) ||
    (o.rel.isSome && q.annotated && a.isAccess)

/-- Kinds of instructions that their unit performs in program order (16 R299, 17 R319). -/
def PendKind.inOrder : PendKind → Bool
  | .affine | .closure => true
  | _ => false

/-- Is it the turn of an instruction in the queue of its unit? -/
def Strand.turn (x : Strand) (p : Pend) : Bool :=
  !p.kind.inOrder || x.outs.all fun a => decide (p.id ≤ a.id) || a.kind != p.kind

/-- May piece number n of an outstanding access of a strand be performed, as its own accesses go? Pieces on SO pages go in
ascending order (R216), but for the rows of a `tload`, which reads them all at once. -/
def Strand.mayPerform (x : Strand) (p : Pend) (ps : List (Nat × Part)) (o : Order) (n : Nat) (q : Part) : Bool :=
  !p.held && p.svc.isNone && x.turn p &&
  (x.outs.all fun a => decide (p.id ≤ a.id) || !follows o q a) &&
  (q.ord != .so || (match p.kind with | .contribution _ => true | _ => false) || (ps.take n).all fun r => r.2.ord != .so)

def Pend.isStore (p : Pend) : Bool :=
  match p.act with
  | .mem _ _ _ (.store _) | .mem _ _ _ (.storeA _) | .mem _ _ _ (.storeK _) => true
  | _ => false

/-- A read behind an earlier store of its own strand to a common word. -/
def Strand.readsBehind (x : Strand) (a : Pend) : Bool :=
  (match a.act with
    | .mem _ _ _ (.load ..) | .mem _ _ _ (.loadW ..) => true
    | _ => false) &&
  x.outs.any fun b => decide (b.id < a.id) && b.isStore && b.pieces.any fun r => a.pieces.any r.meets

/-- Must a lower lane of the same issue set perform its access of the same word first? (10 R191) A lower lane's read that waits
for a store of its own strand does not hold the others back (22 R392; log 58), nor one that a record holds: it is performed as if
issued at its replay (09 R177). -/
def State.lowerLaneWaits (s : State) (pos : Nat) (p : Pend) : Bool :=
  (s.braidStrands (braidOf pos)).any fun y => decide (y.1 < pos) && y.2.outs.any fun a =>
    a.group == p.group && a.isAccess && a.svc.isNone && !y.2.readsBehind a

/-- Those who read a write of a strand first, where others may do so later: its core, or the strand alone, a free choice; and the
observers of its release scope (10 R195, 11 R223). -/
def State.firstReaders (s : State) (pos : Nat) (x : Strand) (rel : Option Scope) (q : Part) : Observers :=
  let own := if s.freeBit 3 then .one (strandAgent pos) else units [coreOf pos]
  match rel with
  | some sc => if q.annotated then own.join (s.scopeOf pos x sc) else own
  | none => own

/-! ## Atomic operations (10 R205 to R210) -/

/-- New value of `atom`, of width w (R205). -/
def atomNew (op : AtomOp) (w old b : Nat) : Nat :=
  let so := readInt true w old
  let sb := readInt true w b
  match op with
  | .add => (old + b) % 2 ^ w
  | .sub => (old + 2 ^ w - b % 2 ^ w) % 2 ^ w
  | .minS => if so ≤ sb then old else b
  | .minN => Nat.min old b
  | .maxS => if so ≤ sb then b else old
  | .maxN => Nat.max old b
  | .and => old &&& b
  | .or => old ||| b
  | .xor => old ^^^ b
  | .exch => b
  | .inc => if b ≤ old then 0 else old + 1

def atomTag (w64 : Bool) : Tag := if w64 then .w64 else .i32

/-- The old value of an atomic as registers from d. -/
def oldRegs (w64 : Bool) (d old : Nat) : List (Nat × Reg) :=
  regsFrom d ((wordsOf old (if w64 then 2 else 1)).map fun w => ⟨w, atomTag w64⟩)

/-- The registers of a load (10 R193). -/
def loadRegs (k : LdKind) (d v : Nat) : List (Nat × Reg) :=
  match k with
  | .s8 => [(d, Reg.ofNat (wrapInt 32 (readInt true 8 v)) .i32)]
  | .z8 | .z16 => [(d, Reg.ofNat v .i32)]
  | .s16 => [(d, Reg.ofNat (wrapInt 32 (readInt true 16 v)) .i32)]
  | .b64 => regsFrom d ((wordsOf v 2).map fun w => ⟨w, .w64⟩)
  | .b32 t => [(d, Reg.ofNat v t)]
  | .b128 t => regsFrom d ((wordsOf v 4).map fun w => ⟨w, t⟩)

/-- What an operation makes of the bytes read: what it writes back, the registers, and the flags. -/
structure Done where
  write : Option Nat := none
  regs : List (Nat × Reg) := []
  fl : FFlags := 0
  aff : Option (Nat × AReg) := none

def MemOp.done (op : MemOp) (v : Nat) : Done :=
  match op with
  | .load k d => { regs := loadRegs k d v }
  | .loadW t d => { regs := regsFrom d ((wordsOf v 16).map fun w => ⟨w, t⟩) }
  | .loadA d => { aff := some (d, AReg.ofImage v) }
  | .store x => { write := some x }
  | .atom op w64 b d => { write := some (atomNew op (if w64 then 64 else 32) v b), regs := oldRegs w64 d v }
  | .cas w64 expect new d => { write := if v = expect then some new else none, regs := oldRegs w64 d v }
  | .atomf rm b d =>
    let (c, fl) := fAdd f32 rm (f32.decode v) (f32.decode b)
    { write := some c, regs := [(d, Reg.ofNat v .f32)], fl := fl }
  | .xadd half b => { write := some (cellAdd v (if half then h16.decode (b % 65536) else f32.decode b)) }
  | .xget half rm d =>
    let (c, fl) := cellGet (if half then h16 else f32) rm v
    { regs := [(d, Reg.ofNat c (if half then .h16x2 else .f32))], fl := fl }
  | .xclr => { write := some 0 }
  | .storeA _ | .storeK _ | .fset _ | .loadK _ | .line .. | .tload .. => {}

end Sys2Proof.Machine
end

