-- ==== Sys2Proof/Machine/Banks.lean ====
section
/-! DEFINITION. The cluster SRAM banks (spec 10 R182 to R186, R189): full/empty words, FIFOs, changes of mode, pins. -/

namespace Sys2Proof.Machine

/-! ## The arbiter's events (11 R235) -/

def State.pushEvent (s : State) (core : Nat) (e : CoreEvent) : State :=
  { s with events := s.events.set core (s.events.getD core [] ++ [e]) }

/-- A waiting request is served: an event of its strand's core. -/
def State.served (s : State) (pos id : Nat) (val : Option Word) : State :=
  s.pushEvent (coreOf pos) (.service pos id val false)

/-- A waiting request finds its bank or hank gone: the permission fault of R184, R199. -/
def State.refuseWaiter (s : State) (w : Waiter) : State :=
  s.pushEvent (coreOf w.pos) (.service w.pos w.id none true)

/-! ## Full/empty words (10 R185) -/

def insertNat (n : Nat) : List Nat → List Nat
  | [] => [n]
  | m :: l => if n < m then n :: m :: l else if n = m then m :: l else m :: insertNat n l

def State.setFull (s : State) (key : Nat) (b : Bool) : State :=
  { s with full := if b then insertNat key s.full else s.full.filter (· != key) }

def State.modBank (s : State) (b : Nat) (f : Bank → Bank) : State := { s with banks := s.banks.set b (f (s.bank b)) }

def Bank.setWaiters (b : Bank) (off : Nat) (l : List Waiter) : Bank :=
  { b with words := if l.isEmpty then b.words.erase off else b.words.set off l }

/-- The part that is the word at a key of a bank. -/
def wordPart (key : Nat) : Part := { key := key, len := 4, ord := .rc, va := 0 }

/-- The earliest waiting request whose condition holds is served, until none is. A read takes what the last write left there. -/
def State.serveWord (s : State) (b off : Nat) : Nat → State
  | 0 => s
  | fuel + 1 =>
    let key := bankKey b off
    let full := s.full.contains key
    let ws := (s.bank b).words.getD off []
    match ws.find? fun w => w.store != full with
    | none => s
    | some w =>
      let s := s.modBank b fun bk => bk.setWaiters off (ws.erase w)
      let s := if w.store then
          ((s.strandWrite w.pos ((s.strandWith w.pos w.id).getD default) w.id w.val.toNat [wordPart key] w.first).setFull key
            true).served w.pos w.id none
        else
          let s := s.widen (fun e => meetAny e.parts [wordPart key]) (.one (strandAgent w.pos))
          ((s.learnRead w.pos [wordPart key]).setFull key false).served w.pos w.id
            (some (BitVec.ofNat 32 (s.seenN (strandAgent w.pos) key 4)))
      s.serveWord b off fuel

/-- A request reaches a word. -/
def State.arriveWord (s : State) (b off : Nat) (w : Waiter) : State :=
  let ws := (s.bank b).words.getD off [] ++ [w]
  (s.modBank b fun bk => bk.setWaiters off ws).serveWord b off (ws.length + 1)

/-- `fset` (10 R200). -/
def State.fsetWord (s : State) (b off : Nat) (full : Bool) : State :=
  (s.setFull (bankKey b off) full).serveWord b off (((s.bank b).words.getD off []).length + 1)

/-! ## FIFOs (10 R186) -/

def fifoCap : Nat := 65536

def State.serveFifo (s : State) (b : Nat) : Nat → State
  | 0 => s
  | fuel + 1 =>
    let bk := s.bank b
    match bk.fifo, bk.pops with
    | v :: rest, w :: ws =>
      ((s.modBank b fun bk => { bk with fifo := rest, pops := ws }).served w.pos w.id (some v)).serveFifo b fuel
    | _, _ =>
      match bk.pushes with
      | w :: ws =>
        if bk.fifo.length < fifoCap then
          ((s.modBank b fun bk => { bk with fifo := bk.fifo ++ [w.val], pushes := ws }).served w.pos w.id none).serveFifo
            b fuel
        else s
      | [] => s

def State.arriveFifo (s : State) (b : Nat) (w : Waiter) : State :=
  let s := s.modBank b fun bk =>
    if w.store then { bk with pushes := bk.pushes ++ [w] } else { bk with pops := bk.pops ++ [w] }
  let bk := s.bank b
  s.serveFifo b (bk.pushes.length + bk.pops.length + 1)

/-! ## Pins (10 R189) -/

/-- The banks of a cluster in cache mode: its ways. -/
def State.cacheWays (s : State) (cluster : Nat) : Nat :=
  ((List.range 64).filter fun i => (s.bank (cluster * 64 + i)).mode == .cache).length

/-- The set of a line (log 18). -/
def lineSet (line : Nat) : Nat := line % 2048

/-- The ways of a cluster in cache mode that hold no pin of a set. -/
def State.freeWays (s : State) (cluster set : Nat) : List Nat :=
  ((List.range 64).map (cluster * 64 + ·)).filter fun b =>
    (s.bank b).mode == .cache && !s.pins.any fun p => p.way == b && lineSet p.line == set

/-- The lines pinned in a way that has left cache mode move to another way of their set that is free of pins, a free choice,
though more than half of the ways may then hold pins (log 63); or their pins are released. -/
def State.dropPins (s : State) (way : Nat) : State :=
  let lines := ((s.pins.filter fun p => p.way == way).map Pin.line).dedup
  lines.foldl (fun s line =>
    let free := s.freeWays (way / 64) (lineSet line)
    let mine := fun (p : Pin) => p.way == way && p.line == line
    match free[s.pick free.length]? with
    | some b => { s with pins := s.pins.map fun p => if mine p then { p with way := b } else p }
    | none => { s with pins := s.pins.filter fun p => !mine p }) s

/-! ## Modes (10 R183) -/

/-- Every waiting request of a bank. -/
def Bank.waiters (b : Bank) : List Waiter := (b.words.map Prod.snd).flatten ++ b.pushes ++ b.pops

/-- Is a part of a bank's bytes? -/
def Part.inBank (p : Part) (b : Nat) : Bool := decide (bankKey b 0 ≤ p.key ∧ p.key < bankKey b 0 + 2 ^ 18)

/-- The bytes and full/empty bits of a bank forgotten. -/
def State.wipeBank (s : State) (b : Nat) : State :=
  let lo := bankKey b 0
  let hi := lo + 2 ^ 18
  { s with
    mem := s.mem.clear lo hi, full := s.full.filter fun k => !(decide (lo ≤ k ∧ k < hi))
    early := s.early.filter fun w => !w.parts.any (·.inBank b) }

/-- A bank moves to a mode (10 R183): requests that wait in it are refused, but that those of a FIFO emptied go on
(R201). -/
def State.switchBank (s : State) (b : Nat) (m : BankMode) : State :=
  let old := s.bank b
  if old.mode = m ∧ m ≠ .fifo then s
  else if old.mode = .fifo ∧ m = .fifo then
    (s.modBank b fun bk => { bk with fifo := [] }).serveFifo b (old.pushes.length + old.pops.length + 1)
  else
    let s := (s.wipeBank b).modBank b fun bk => { bk with mode := m, fifo := [], pushes := [], pops := [], words := [] }
    let s := old.waiters.foldl State.refuseWaiter s
    if old.mode = .cache then s.dropPins b else s

/-- Placement: the bank joins a hank's allocation in scratchpad mode (06 R103). -/
def State.claimBank (s : State) (hank b : Nat) : State :=
  (s.switchBank b .scratch).modBank b fun bk => { bk with hank := some hank }

/-- Retirement: back to cache mode, in no allocation. -/
def State.freeBank (s : State) (b : Nat) : State :=
  let old := s.bank b
  let s := old.waiters.foldl State.refuseWaiter (s.wipeBank b)
  { s with banks := s.banks.erase b }

/-- Does an outstanding instruction change the mode of a bank? -/
def Pend.switches (p : Pend) (b : Nat) : Bool := match p.act with | .bankset n .. => n == b | _ => false

/-- Accesses and changes of mode that have reached a bank and are not complete (10 R204). -/
def State.bankAccesses (s : State) (b : Nat) : List (Nat × Nat) :=
  s.strands.flatMap fun y => (y.2.outs.filter fun p =>
    !p.held && (p.pieces.any (·.inBank b) || p.switches b)).map fun p => (y.1, p.id)

/-- Does a change of a bank's mode wait? -/
def State.switching (s : State) (b : Nat) : Bool := s.strands.any fun y => y.2.outs.any fun p => p.switches b

end Sys2Proof.Machine
end

