-- ==== Sys2Proof/Machine/Memory.lean ====
section
/-! DEFINITION. The instructions of groups 0x60 and 0x70 (spec 10 R196 to R210) and the affine loads and stores (16
R307). An access issues here; LONG_LATENCY_COMPLETION performs it. -/

namespace Sys2Proof.Machine

/-! ## Loads and stores -/

def acqOrder (os : Option Scope) : Order := ⟨os, none⟩
def relOrder (os : Option Scope) : Order := ⟨none, os⟩

/-- ld (10 R196). -/
def execLd (k : LdKind) (os : Option Scope) (h : Hint) (l : Long) (d : Nat) (a : Addr) (s : State) : Res :=
  s.access (.ld k os h l d a) l ⟨a, k.bytes, 1, .read, srcLoad, .scratch⟩ (acqOrder os) fun _ _ => .load k d

/-- The low bytes of a run of registers. -/
def Lane.bytes (e : Lane) (d n bytes : Nat) : Nat := runNat (e.words d n) % 2 ^ (8 * bytes)

/-- st (10 R197). -/
def execSt (k : StKind) (os : Option Scope) (h : Hint) (l : Long) (d : Nat) (a : Addr) (s : State) : Res :=
  s.access (.st k os h l d a) l ⟨a, k.bytes, 1, .write, srcStore, .scratch⟩ (relOrder os)
    fun e _ => .store (e.bytes d k.regs k.bytes)

/-- ldw (10 R198). -/
def execLdw (t : Tag) (os : Option Scope) (h : Hint) (l : Long) (d : Nat) (a : Addr) (s : State) : Res :=
  s.access (.ldw t os h l d a) l ⟨a, 64, 64, .read, srcLoad, .scratch⟩ (acqOrder os) fun _ _ => .loadW t d

/-- stw (10 R198). -/
def execStw (os : Option Scope) (h : Hint) (l : Long) (d : Nat) (a : Addr) (s : State) : Res :=
  s.access (.stw os h l d a) l ⟨a, 64, 64, .write, srcStore, .scratch⟩ (relOrder os) fun e _ => .store (e.bytes d 16 64)

/-- ald (16 R307). -/
def execAld (os : Option Scope) (l : Long) (d : Nat) (a : Addr) (s : State) : Res :=
  .next (s.pointwise (.ald os l d a) fun x k st =>
    s.accessLane x (.ald os l d a) k st l .affine ⟨a, 64, 64, .read, srcLoad, .scratch⟩ (acqOrder os) (.loadA d))

/-- ast (16 R307). -/
def execAst (os : Option Scope) (l : Long) (y : Nat) (a : Addr) (s : State) : Res :=
  .next (s.pointwise (.ast os l y a) fun x k st =>
    let waits := st.affPending st.nextId
    s.accessLane x (.ast os l y a) k st l (if waits then .affine else .plain) ⟨a, 64, 64, .write, srcStore, .scratch⟩ (relOrder os)
      (if waits then .storeA y else .store ((s.lane x k st).affine y).image))

/-! ## Blocking accesses (10 R199 to R201) -/

/-- A blocking access in one lane: it stalls behind the accesses of its strand that it follows and behind lower lanes that
do, else the strand blocks, at a FIFO with the word as its resume point (02 R27), at a full/empty word with the next one (R199),
and the request reaches the bank. -/
def State.blockLane (s : State) (x : Issue) (i : Instr) (k : Nat) (l : Long) (a : Addr) (mode : BankMode) (o : Order)
    (dst : Option (Nat × Tag)) (val : Lane → Word) : State × Option TrapReq :=
  let pos := posOf x.braid k
  match s.strand? pos with
  | none => (s, none)
  | some st =>
    let e := s.lane x k st
    let src := if dst.isNone then srcStore else srcLoad
    match s.reach pos st e ⟨a, 4, 4, .read, src, mode⟩ with
    | .error (.inl t) => (s, some t)
    | .error (.inr _) => (s, none)
    | .ok ps => match s.busFault dst.isNone ps with
      | some f => (s, some (xTrap src f none x.here))
      | none =>
        let q := ps.headD (wordPart 0)
        let before := (st.outs.filter (follows o q)).map Pend.id
        let lower := s.lowerStalls x k
        if !before.isEmpty then (s.modStrand pos fun st => { st with run := .stalled (.ops before) }, none)
        else if !lower.isEmpty then (s.modStrand pos fun st => { st with run := .stalled (.others lower) }, none)
        else if !s.farReady o.rel then (s.modStrand pos fun st => { st with run := .stalled (.ops []) }, none)
        else
          let b := (q.key - 2 ^ 64) / 2 ^ 18
          let place := if mode = .fifo then bankKey b 0 / 4 else q.key / 4
          let w : Waiter := ⟨pos, st.nextId, dst.isNone, val e, s.firstReaders pos st o.rel q⟩
          let s := (s.settleFor pos st o.rel [place]).passOn (if dst.isNone then [strandMark pos] else []) [place]
          let s := s.modStrand pos fun st =>
            let st := st.issue l x.here s.moves .plain false (.served dst (x.after i) (o.acq.map fun sc => (place, sc)))
            if mode = .fifo then { st with run := .blocked .fifo }
            else { st with run := .blocked .word, regs := { st.regs with pc := x.after i } }
          (if mode = .fifo then s.arriveFifo b w else s.arriveWord b (q.key % 2 ^ 18) w, none)

/-- ldf (10 R199). -/
def execLdf (t : Tag) (os : Option Scope) (l : Long) (d : Nat) (a b : Src) (s : State) : Res :=
  .next (s.inLaneOrder (.ldf t os l d a b) fun x s k =>
    s.blockLane x (.ldf t os l d a b) k l (.s a b) .scratch (acqOrder os) (some (d, t)) fun _ => 0)

/-- stf (10 R199). -/
def execStf (os : Option Scope) (l : Long) (d : Nat) (a b : Src) (s : State) : Res :=
  .next (s.inLaneOrder (.stf os l d a b) fun x s k =>
    s.blockLane x (.stf os l d a b) k l (.s a b) .scratch (relOrder os) none fun e => (e.regs.reg d).val)

/-- fpush (10 R201). -/
def execFpush (os : Option Scope) (l : Long) (d : Nat) (a b : Src) (s : State) : Res :=
  .next (s.inLaneOrder (.fpush os l d a b) fun x s k =>
    s.blockLane x (.fpush os l d a b) k l (.s a b) .fifo (relOrder os) none fun e => (e.regs.reg d).val)

/-- fpop (10 R201). -/
def execFpop (t : Tag) (os : Option Scope) (l : Long) (d : Nat) (a b : Src) (s : State) : Res :=
  .next (s.inLaneOrder (.fpop t os l d a b) fun x s k =>
    s.blockLane x (.fpop t os l d a b) k l (.s a b) .fifo (acqOrder os) (some (d, t)) fun _ => 0)

/-- fset (10 R200). -/
def execFset (full : Bool) (l : Long) (a b : Src) (s : State) : Res :=
  s.access (.fset full l a b) l ⟨.s a b, 4, 4, .write, srcStore, .scratch⟩ ⟨none, none⟩ fun _ _ => .fset full

/-! ## Prefetch, pins, bank modes (10 R202 to R204) -/

/-- pref changes timing only (10 R202). -/
def execPref (lv : PrefLevel) (l : Long) (a : Nat) (b : Src) (s : State) : Res :=
  s.longWord (.pref lv l a b) l .plain fun _ st => (st, [])

/-- lline (10 R203). -/
def execLline (l : Long) (d a : Nat) (b : Src) (s : State) : Res :=
  s.access (.lline l d a b) l ⟨.g a b, 1, 1, .read, srcLoad, .scratch⟩ ⟨none, none⟩ fun _ _ => .line true d

/-- uline (10 R203). -/
def execUline (l : Long) (d a : Nat) (b : Src) (s : State) : Res :=
  s.access (.uline l d a b) l ⟨.g a b, 1, 1, .read, srcLoad, .scratch⟩ ⟨none, none⟩ fun _ _ => .line false d

/-- The line instruction performed: status and pins (10 R203). A line that another core or context has pinned in the cluster
keeps its way. -/
def State.doLine (s : State) (pos : Nat) (st : Strand) (pin : Bool) (q : Part) : State × Nat :=
  let core := coreOf pos
  let cl := clusterOf core
  let ctx := s.ctxNum st
  let line := q.key / 128
  let mine := fun (p : Pin) => p.ctx == ctx && p.core == core
  let held := s.pins.any fun p => mine p && p.line == line
  let count := fun (s : State) => (s.pins.filter mine).length
  let here := s.pins.filter fun p => p.way / 64 == cl && lineSet p.line == lineSet line
  let way := (here.find? fun p => p.line == line).map Pin.way
  let free := s.freeWays cl (lineSet line)
  let quota := ((s.ctxs.get? ctx).map Ctx.pinq).getD 0
  let code : Nat :=
    if s.mode = .service then 2
    else if !q.cached then 5
    else if !pin then (if held then 0 else 3)
    else if held then 0
    else if quota ≤ count s then 1
    else if way.isNone ∧ (s.cacheWays cl / 2 ≤ ((here.map Pin.line).dedup).length ∨ free = []) then 4
    else 0
  let s := if code ≠ 0 then s
    else if pin then
      (if held then s
        else { s with pins := s.pins ++ [⟨ctx, core, line, way.getD (free.getD (s.pick free.length) 0)⟩] })
    else { s with pins := s.pins.filter fun p => !(mine p && p.line == line) }
  (s, code * 2 ^ 28 + count s % 65536)

def bankModeCode : BankMode → Nat
  | .cache => 0
  | .scratch => 1
  | .fifo => 2

/-- bankset (10 R204): it waits for what reached the bank before it. -/
def execBankset (m : BankMode) (l : Long) (d : Nat) (a : Src) (s : State) : Res :=
  .next (s.inLaneOrder (.bankset m l d a) fun x s k =>
    let pos := posOf x.braid k
    match s.strand? pos with
    | none => (s, none)
    | some st =>
      let j := (s.lane x k st).nat .i32 a
      match (s.hankOf st).bind fun h => h.banks[j]? with
      | none => (s, some scratchDenied)
      | some b =>
        let before := s.bankAccesses b
        (s.modStrand pos fun st => st.issue l x.here s.moves .plain false (.bankset b m d before), none))

/-- The switch: the mode found goes to the strand. A bank that has left the strand's hank stays as it is. -/
def State.runBankset (s : State) (pos : Nat) (x : Strand) (id b : Nat) (m : BankMode) (d : Nat) (after : List (Nat × Nat)) :
    State :=
  if after.any fun p => (s.strandWith p.1 p.2).isSome then s
  else
    let old := bankModeCode (s.bank b).mode
    let s := if (s.bank b).hank = some x.hank then s.switchBank b m else s
    s.complete pos id [(d, Reg.stat old)] 0

/-! ## Atomics and exact cells (10 R205 to R210) -/

def atomOrder : AtomOrder → Order
  | .plain => ⟨none, none⟩
  | .acq x => ⟨some x, none⟩
  | .rel x => ⟨none, some x⟩
  | .ar x => ⟨some x, some x⟩

def atomBytes (w64 : Bool) : Nat := if w64 then 8 else 4

/-- The operand b of `atom` and `cas`. -/
def Lane.atomArg (e : Lane) : AtomArg → Nat
  | .b32 b => e.nat .i32 b
  | .b64 b => (e.pair b).toNat

/-- An atomic or exact-cell word. -/
def State.atomic (s : State) (i : Instr) (l : Long) (a : Place) (len : Nat) (need : Need) (o : AtomOrder)
    (op : Lane → Strand → MemOp) : Res :=
  s.access i l ⟨placeAddr a, len, len, need, if need = .read then srcLoad else srcAtomic, .scratch⟩ (atomOrder o) op

/-- atom (10 R205). -/
def execAtom (op : AtomOp) (o : AtomOrder) (l : Long) (d : Nat) (a : Place) (b : AtomArg) (s : State) : Res :=
  s.atomic (.atom op o l d a b) l a (atomBytes b.is64) .both o fun e _ => .atom op b.is64 (e.atomArg b) d

/-- cas (10 R206). -/
def execCas (o : AtomOrder) (l : Long) (d : Nat) (a : Place) (b : AtomArg) (s : State) : Res :=
  s.atomic (.cas o l d a b) l a (atomBytes b.is64) .both o fun e _ =>
    .cas b.is64 (e.atomArg b) (runNat (e.words d (if b.is64 then 2 else 1))) d

/-- atomf (10 R207). -/
def execAtomf (rm : Rm) (o : AtomOrder) (l : Long) (d : Nat) (a : Place) (b : Src) (s : State) : Res :=
  s.atomic (.atomf rm o l d a b) l a 4 .both o fun e _ => .atomf rm (e.nat .f32 b) d

/-- xadd (10 R208). -/
def execXadd (half : Bool) (o : AtomOrder) (l : Long) (a : Place) (b : Src) (s : State) : Res :=
  s.atomic (.xadd half o l a b) l a 64 .both o fun e _ => .xadd half (e.nat (if half then .h16 else .f32) b)

/-- xget (10 R209). -/
def execXget (half : Bool) (rm : Rm) (o : AtomOrder) (l : Long) (d : Nat) (a : Place) (s : State) : Res :=
  s.atomic (.xget half rm o l d a) l a 64 .read o fun _ _ => .xget half rm d

/-- xclr (10 R210). -/
def execXclr (o : AtomOrder) (l : Long) (a : Place) (s : State) : Res :=
  s.atomic (.xclr o l a) l a 64 .write o fun _ _ => .xclr

end Sys2Proof.Machine
end

