-- ==== Sys2Proof/Machine/Knots.lean ====
section
/-! DEFINITION. Knots (spec 12): the knot table, membership, collectives and their closure, and the closure of a drain
(14 R271 to R273). The home applies a request in the step that issues it (log 6). -/

namespace Sys2Proof.Machine

/-! ## Identifiers (R237) -/

def knotId (key serial : Nat) : Nat := key / 64 * 2 ^ 23 + key % 64 * 2 ^ 17 + serial
def knotKey (id : Nat) : Nat := id / 2 ^ 23 % 512 * 64 + id / 2 ^ 17 % 64
def knotHome (key : Nat) : Nat := key / 64

def Knot.free (serial : Nat) : Knot := ⟨false, serial, 0, 0, [], 0, none, [], none, []⟩

def State.knot (s : State) (key : Nat) : Knot := s.knots.getD key (.free 0)
def State.setKnot (s : State) (key : Nat) (k : Knot) : State := { s with knots := s.knots.set key k }

/-- The neighbourhood of a strand, or outside one its hank (R236). -/
def State.placeOf (s : State) (x : Strand) : Nat := ((s.hankOf x).bind Hank.nb).getD x.hank

/-- The knot that an identifier names, if it is live for a strand. -/
def State.liveKnot (s : State) (x : Strand) (id : Nat) : Option (Nat × Knot) :=
  let key := knotKey id
  let k := s.knot key
  if k.live ∧ knotId key k.serial = id ∧ id < 2 ^ 32 ∧ knotHome key < 384 ∧ k.ctx = s.ctxNum x ∧ k.place = s.placeOf x then
    some (key, k)
  else none

/-- The knot in slot n of a strand. -/
def State.heldKnot (s : State) (x : Strand) (n : Nat) : Option (Nat × Knot) :=
  (x.regs.n.getD n none).bind fun id => let key := knotKey id; let k := s.knot key; if k.live then some (key, k) else none

def Strand.setSlot (x : Strand) (n : Nat) (id : Option Nat) : Strand := { x with regs := { x.regs with n := x.regs.n.set n id } }

/-! ## Tiles of a knot -/

/-- The tile store entry of a knot's slot T. -/
def State.tileAt (s : State) (key tslot : Nat) : Option (Nat × Tile) :=
  let k := s.knot key
  s.tiles.find? fun p => decide (p.1 / 8 = knotHome key) && p.2.entry == key % 64 && p.2.serial == k.serial &&
    p.2.tslot == tslot

def State.setTile (s : State) (t : Nat) (x : Tile) : State := { s with tiles := s.tiles.set t x }
def State.freeTile (s : State) (t : Nat) : State := { s with tiles := s.tiles.erase t }

/-- Every tile of a knot is freed without drain (R238). -/
def State.freeTiles (s : State) (key : Nat) : State :=
  let k := s.knot key
  { s with tiles := s.tiles.filter fun p =>
      !(decide (p.1 / 8 = knotHome key) && p.2.entry == key % 64 && p.2.serial == k.serial) }

def Tile.clear (t : Tile) : Tile := { t with els := t.els.map fun _ => .zero, ovf := false }

/-! ## A block at its home (14 R263, R264) -/

/-- Tile mismatch (18 R325). -/
abbrev cTile : Nat := 13

/-- The home applies a block, or rejects it. -/
def State.applyBlock (s : State) (b : CtrBlock) : State :=
  let finish := fun (s : State) (a : Act) => b.from_.foldl (fun s p => s.modPendAny p.1 p.2 fun q => { q with act := a }) s
  match s.tileAt b.knot b.tslot with
  | none => finish s (.refused cTile 3 none)
  | some (e, t) =>
    if t.fmt ≠ b.fmt ∨ t.shape ≠ b.shape then finish s (.refused cTile 4 none)
    else
      let els := (t.els.zip b.els).map fun p => p.1.apply p.2
      finish (s.setTile e { t with els := els.map Prod.fst, ovf := t.ovf || els.any Prod.snd }) (.regs [] 0)

/-! ## The drain (14 R271 to R273) -/

/-- The keys of the scale words of a drain in a strand's scratchpad window; none where one cannot be read. -/
def State.scaleKeys (s : State) (x : Strand) (off : Nat) : Nat → Option (List Nat)
  | 0 => some []
  | n + 1 =>
    match s.scratch x off with
    | none => none
    | some (b, o) =>
      if (s.bank b).mode = .scratch then (s.scaleKeys x (off + 4) n).map fun l => bankKey b o :: l else none

/-- Does the descriptor of a drain name no scales, so that each is 1? -/
def noScales (off : Nat) : Bool := off == 0xFFFFFFFF

/-- The keys of the row scales and then of the column scales. -/
def State.scales (s : State) (x : Strand) (off n : Nat) : Option (List Nat) :=
  if noScales off then some []
  else if off % 4 ≠ 0 ∨ 2 ^ 32 < off + 4 * n then none
  else s.scaleKeys x off n

/-- A span of bytes cut at the ends of 64 KiB pages. -/
def pageSpans : Nat → Nat → Nat → List (Nat × Nat)
  | 0, _, _ => []
  | fuel + 1, va, len =>
    if len = 0 then []
    else
      let n := Nat.min len (2 ^ 16 - va % 2 ^ 16)
      (va, n) :: pageSpans fuel ((va + n) % 2 ^ 64) (len - n)

/-- The parts of every row of the destination in ascending rows, with what each page's check found. -/
def State.rowParts (s : State) (core ctx addr stride bytes m : Nat) : List (List (Except XFault (List Part))) :=
  (List.range m).map fun i => (pageSpans 3 ((addr + i * stride) % 2 ^ 64) bytes).map fun p =>
    match s.parts core ctx .write p.1 p.2 with
    | .error f => .error f
    | .ok ps => match s.reachFault true ps with
      | some f => .error f
      | none => .ok ps

/-- The failed ones of a list of checks, and what the others found. -/
def failures : List (Except XFault (List Part)) → List XFault
  | [] => []
  | .error f :: l => f :: failures l
  | .ok _ :: l => failures l

def found : List (Except XFault (List Part)) → List Part
  | [] => []
  | .error _ :: l => found l
  | .ok ps :: l => ps ++ found l

/-- In place of the number of a record: the drain is closed, and to be performed again (R240). -/
def drainStopped : Nat := 2 ^ 32

/-- What a closed drain did: a status and flags for every member, a trap for every member, held by a record, or stopped by
an uncorrectable error or for want of a port. -/
inductive Drained where
  | status (w : Nat) (fl : FFlags)
  | empty
  | held (seq : Nat)
  | upset
  deriving DecidableEq, Repr, Inhabited

/-- Rows drained: their bytes and flags. -/
def drainRows (f : DrainFmt) (rm : Rnd) (els : List TileEl) (n : Nat) (rs cs : List Nat) (ctr key : Nat) :
    List (Nat × FFlags) :=
  rs.zipIdx.map fun r =>
    drainRow f rm (((els.drop (r.2 * n)).take n).map TileEl.a) r.1 cs
      ((List.range n).map fun j => drainDraw ctr key (r.2 * n + j))

def drainCode (code : Nat) (ovf kept : Bool) (elems : Nat) : Nat :=
  code * 2 ^ 28 + (if ovf then 2 ^ 27 else 0) + (if kept then 2 ^ 26 else 0) + elems

/-- CODE of a failed page check of a drain (R272); cause 2 holds and cause 7 faults the context instead. -/
def pageCode (f : XFault) : Option Nat :=
  match f.cause with
  | 1 | 6 => some 1
  | 3 | 4 | 5 => some 2
  | _ => none

/-- The home of a knot as a drain of a strand closes there: its neighbourhood (14 R274). -/
def State.homeScope (s : State) (core : Nat) (x : Strand) : Observers :=
  s.scopeObservers (coreAgent core) (x.nb.map Prod.fst) .nb

/-- The number under which a home writes the rows of a drain. -/
def drainId (key : Nat) : Nat := 2 ^ 80 + key

/-- The bytes of a row leave the home: performed in the neighbourhood, or for all, a free choice (14 R274; 11 R223). -/
def State.writeRow (s : State) (key : Nat) (x : Strand) (ps : List Part) (v : Nat) : State :=
  let core := knotHome key
  (s.sendParts engineFlit 0 x.ctx core ps).putFirst
    { reach := if s.freeBit 1 then s.homeScope core x else allObservers, ctx := x.ctx, launch := x.opener, by_ := .copy core,
      id := drainId key, parts := ps, val := v }

/-- What members have released at their arrivals is performed for the home, which reads scales (14 R274). -/
def State.homeAcquire (s : State) (key : Nat) (x : Strand) : State :=
  let g := s.homeScope (knotHome key) x
  s.widen (fun w => w.broughtTo (coreAgent (knotHome key)) g [knotMark key (s.knot key).g.toNat]) g

/-- The rows that it has written are observed where members resume. -/
def State.homeRelease (s : State) (key : Nat) (x : Strand) : State :=
  s.bring (fun w => w.by_ == .copy (knotHome key) && w.id == drainId key) (coreAgent (knotHome key))
    (s.homeScope (knotHome key) x) [knotMark key (s.knot key).g.toNat]

/-- The drain of slot T at closure, with the arguments of its lowest-ranked arrived member: of the checks that fail, the
lowest code is reported (R273). Its fault records have the home as CORE and the index of that member's strand (log 68). -/
def State.drain (s : State) (key : Nat) (f : DrainFmt) (rm : Rnd) (keep : Bool) (tslot : Nat) (x : Strand)
    (a : DrainArgs) : State × Drained :=
  match s.tileAt key tslot with
  | none => (s, .empty)
  | some (t, tile) =>
    -- a frozen tile is drained when it has thawed (14 R258), and the window of a saved hank read when it is back
    if tile.frozen || s.saved.any (fun v => v.uid == x.hank && !v.swap) then (s, .upset) else
    let (m, n, _) := shapeMNK tile.shape
    let bytes := drainRowBytes f n
    let addr := a.addr.toNat
    let core := knotHome key
    let ctx := s.ctxNum x
    let badDesc := decide (addr % drainAlign f ≠ 0 ∨ a.stride % drainAlign f ≠ 0 ∨ a.stride < bytes)
    let sc := s.scales x a.scales (m + n)
    let rows := s.rowParts core ctx addr a.stride bytes m
    let bad := failures rows.flatten ++
      (match (sc.getD []).find? fun k => s.upset k 4 with
        | some _ => [{ va := a.scales, cause := 7, level := 0 }]
        | none => [])
    let codes := (if badDesc then [4] else []) ++ (if sc.isNone then [3] else []) ++ bad.filterMap pageCode
    let record := fun (p : XFault → Bool) => match bad.find? p with
      | some e => s.recordFault ctx core x.index srcDrain e
      | none => (s, 0, none)
    match codes.min? with
    | some c =>
      -- the record is that of the page that fails with this code
      ((record fun e => pageCode e == some c).1, .status (drainCode c tile.ovf true 0) 0)
    | none => match bad with
      | [] =>
        let words := if noScales a.scales then List.replicate (m + n) 0x3F800000
          else (sc.getD []).map fun k => s.seenN (coreAgent core) k 4
        let out := drainRows f rm tile.els n (words.take m) (words.drop m) a.ctr a.key
        let s := ((rows.zip out).foldl (fun s p => s.writeRow key x (found p.1) p.2.1) s).homeRelease key x
        let s := if keep then s else s.setTile t tile.clear
        (s, .status (drainCode 0 tile.ovf keep (m * n)) (flagsOr (out.map Prod.snd)))
      | _ => match record fun _ => true with
        | (s, _, some q) => (s.holdOn ctx q (.drain key), .held q)
        | (s, _, none) => match bad.find? fun e => e.cause == 0 with
          | some e => (s.awaitLink (.drain key) ctx core e.page, .upset)
          | none => (s, .upset)

/-! ## Collectives (R240, R241, R245) -/

def Knot.rankOf (k : Knot) (pos : Nat) : Nat := ((k.members.find? (·.pos == pos)).map Member.rank).getD 0

/-- Arrivals in ascending rank. -/
def Knot.byRank (k : Knot) : List (Nat × Arrival) := sortTerms (k.arrivals.map fun a => (k.rankOf a.pos, a))

/-- Every current member has arrived. -/
def Knot.closed (k : Knot) : Bool :=
  k.live && k.kind.isSome && !k.arrivals.isEmpty && k.members.all fun m => k.arrivals.any fun a => a.pos == m.pos

/-- What an arrived member is given. -/
structure Given where
  regs : List (Nat × Reg) := []
  fl : FFlags := 0
  trap : Option (Nat × Nat) := none
  deriving DecidableEq, Repr, Inhabited

/-- A closed collective ends: results go out as one event for each of the members' cores (R242), and G advances. -/
def State.giveOut (s : State) (key : Nat) (f : Nat → Arrival → Given) : State :=
  let k := s.knot key
  let given := k.byRank.map fun p => let g := f p.1 p.2; (⟨p.2.pos, p.2.id, g.regs, g.fl, g.trap⟩ : KnotResult)
  let cores := (given.map fun r => coreOf r.pos).dedup
  let s := cores.foldl (fun s c => s.pushEvent c (.knot (given.filter fun r => coreOf r.pos == c))) s
  let s := s.setKnot key { k with g := k.g + 1, kind := none, arrivals := [], svc := none, queue := [] }
  k.queue.foldl State.applyBlock s

/-- Collective G closes: its effect (R245, 14 R271). -/
def State.close (s : State) (key : Nat) : State :=
  let k := s.knot key
  let vals := k.byRank.map fun p => (p.1, p.2.val)
  let folded := fun (op : FoldOp) (kind : FoldKind) (rank : Nat) (a : Arrival) =>
    let r := foldAt op kind vals rank
    ({ regs := [(a.dst, ⟨r.1, foldTag op⟩)], fl := r.2 } : Given)
  match k.kind with
  | none => s
  | some .bar => s.giveOut key fun _ _ => {}
  | some (.scan op ex) => s.giveOut key (folded op (if ex then .excl else .incl))
  | some (.red op) => s.giveOut key (folded op .all)
  | some (.drain f rm keep t) =>
    match k.byRank with
    | [] => s
    | (_, a) :: _ =>
      match s.strandWith a.pos a.id with
      | none => s
      | some x =>
        match (s.homeAcquire key x).drain key f rm keep t x a.args with
        | (s, .held q) => s.setKnot key { k with svc := some q }
        | (s, .upset) => s.setKnot key { k with svc := some drainStopped }
        | (s, .empty) => s.giveOut key fun _ _ => { trap := some (cTile, 3) }
        | (s, .status w fl) => s.giveOut key fun _ b => { regs := [(b.dst, Reg.stat w)], fl := fl }

/-- The test after each request (R239). -/
def State.testClosure (s : State) (key : Nat) : State :=
  let k := s.knot key
  if k.closed ∧ k.svc = none then s.close key else s

/-- A closed drain that waits as `svc` says is performed again. -/
def State.closeAgain (s : State) (key svc : Nat) : State :=
  if (s.knot key).svc = some svc then (s.setKnot key { s.knot key with svc := none }).close key else s

/-! ## Membership (R238) -/

/-- The smallest rank that no member holds. -/
def freeRank (ms : List Member) : Nat :=
  ((List.range (ms.length + 1)).find? fun r => ms.all fun m => m.rank != r).getD 0

/-- A member goes: its arrival is withdrawn, the rank freed; the last one dissolves the knot. Where no arrival at G is left, the next
one fixes its kind anew (log 69). A closed drain that waits to be performed, and has none of its members left, counts as
closed. -/
def State.removeMember (s : State) (key pos : Nat) : State :=
  let k := s.knot key
  let k' := { k with members := k.members.filter (·.pos != pos), arrivals := k.arrivals.filter (·.pos != pos) }
  let k' := if k'.arrivals.isEmpty then { k' with kind := none } else k'
  if k'.members.isEmpty then (s.freeTiles key).setKnot key (.free k.serial)
  else if k.svc.isSome && k'.arrivals.isEmpty then (s.setKnot key k').giveOut key fun _ _ => {}
  else (s.setKnot key k').testClosure key

/-- A free entry of a core's table (R247; which one is a free choice). -/
def State.freeEntry (s : State) (core : Nat) : Option Nat :=
  let l := ((List.range 64).map (core * 64 + ·)).filter fun key => !(s.knot key).live
  l[s.pick l.length]?

/-- A new knot in an entry. -/
def State.newKnot (s : State) (key ctx place : Nat) (ms : List Member) : State × Nat :=
  let serial := ((s.knot key).serial + 1) % 2 ^ 17
  (s.setKnot key ⟨true, serial, ctx, place, ms, 0, none, [], none, []⟩, knotId key serial)

end Sys2Proof.Machine
end

