-- ==== Sys2Proof/Machine/KnotOps.lean ====
section
/-! DEFINITION. The knot instructions (spec 12 R243 to R246). -/

namespace Sys2Proof.Machine

/-- Knot limit (18 R325), with the details of R243. -/
abbrev cKnot : Nat := 15

def knotLimit (detail : Nat) : TrapReq := { cause := cKnot, detail := detail }

/-- A knot word that acts on the whole state and is done in one step: lanes in ascending order; its slot is interlocked
until it completes. -/
def State.knotWord (s : State) (i : Instr) (l : Long) (k : Nat)
    (f : State → Nat → Strand → Lane → Except TrapReq (State × List (Nat × Reg))) : Res :=
  s.longInOrder i l (.knotSlot k) f

/-- jnew (12 R244). An occupied slot comes before a full table (log 65). -/
def execJnew (l : Long) (k d : Nat) (s : State) : Res :=
  s.knotWord (.jnew l k d) l k fun s pos x _ =>
    if (x.regs.n.getD k none).isSome then .error (knotLimit 2)
    else match s.freeEntry (coreOf pos) with
      | none => .error (knotLimit 1)
      | some key =>
        let (s, id) := s.newKnot key (s.ctxNum x) (s.placeOf x) [⟨pos, 0⟩]
        .ok (s.modStrand pos fun x => x.setSlot k (some id), [(d, Reg.ofNat id .i32)])

/-- join (12 R244). An occupied slot traps before the identifier is looked at (log 65). -/
def execJoin (l : Long) (k d : Nat) (a : Src) (s : State) : Res :=
  s.knotWord (.join l k d a) l k fun s pos x e =>
    let id := e.nat .i32 a
    if (x.regs.n.getD k none).isSome then .error (knotLimit 2)
    else match s.liveKnot x id with
      | none => .ok (s, [(d, Reg.ofNat 0xFFFFFFFF .i32)])
      | some (key, kn) =>
        if x.regs.n.contains (some id) then .error (knotLimit 4)
        else
          let r := freeRank kn.members
          let s := s.setKnot key { kn with members := kn.members ++ [⟨pos, r⟩] }
          .ok (s.modStrand pos fun x => x.setSlot k (some id), [(d, Reg.ofNat r .i32)])

/-- leave (12 R244). -/
def execLeave (l : Long) (k : Nat) (s : State) : Res :=
  s.knotWord (.leave l k) l k fun s pos x _ =>
    match s.heldKnot x k with
    | none => .error (knotLimit 3)
    | some (key, _) => .ok ((s.removeMember key pos).modStrand pos fun x => x.setSlot k none, [])

/-- A knot word that only reads the knot. -/
def State.knotRead (s : State) (i : Instr) (l : Long) (k d : Nat) (f : Knot → Nat → Nat) : Res :=
  s.longInOrder i l .plain fun s pos x _ =>
    match s.heldKnot x k with
    | none => .error (knotLimit 3)
    | some (_, kn) => .ok (s, [(d, Reg.ofNat (f kn pos) .i32)])

/-- jrank (12 R244). -/
def execJrank (l : Long) (k d : Nat) (s : State) : Res := s.knotRead (.jrank l k d) l k d fun kn pos => kn.rankOf pos

/-- jsize (12 R244): members, or with `.g` the count G. -/
def execJsize (count : Bool) (l : Long) (k d : Nat) (s : State) : Res :=
  s.knotRead (.jsize count l k d) l k d fun kn _ => if count then kn.g.toNat else kn.members.length

/-! ## Collectives -/

/-- The accesses of a strand that a release waits for, and those of a wider scope than its cluster. -/
def Strand.accessIds (x : Strand) : List Nat := (x.outs.filter Pend.isAccess).map Pend.id

/-- Those who wait at a drain held for device replay; later requests to the knot wait behind it (14 R273). -/
def Knot.replayed (k : Knot) : List (Nat × Nat) := if k.svc.isSome then k.arrivals.map fun a => (a.pos, a.id) else []

/-- A member arrives at a collective and blocks until closure (12 R240, R241, R246). -/
def State.arrive (s : State) (x : Issue) (i : Instr) (pos : Nat) (l : Long) (key : Nat) (plain : Bool) (kind : CollKind)
    (val : Word) (dst : Nat) (args : DrainArgs) : State × Option TrapReq :=
  match s.strand? pos with
  | none => (s, none)
  | some st =>
    let kn := s.knot key
    if !plain && !st.accessIds.isEmpty then (s.stallOn pos (.ops st.accessIds), none)
    else if !kn.replayed.isEmpty then (s.stallOn pos (.others kn.replayed), none)
    else if kn.kind.isSome && kn.kind != some kind then (s, some (knotLimit 5))
    else
      let mark := knotMark key kn.g.toNat
      let s := if plain then s else s.meet pos st .nb mark
      let a : Arrival := ⟨pos, st.nextId, plain, val, dst, args, x.here⟩
      let s := s.setKnot key { kn with kind := some kind, arrivals := kn.arrivals ++ [a] }
      let s := s.modStrand pos fun st =>
        { st.issue l x.here s.moves .plain false (.served none (x.after i) (if plain then none else some (mark, .nb))) with run := .blocked .knot }
      (s.testClosure key, none)

/-- A collective of group 0x80: slot n must hold a knot. -/
def State.collective (s : State) (i : Instr) (l : Long) (k : Nat) (plain : Bool) (kind : CollKind) (dst : Nat)
    (val : Lane → Word) : Res :=
  .next (s.inLaneOrder i fun x s lane =>
    let pos := posOf x.braid lane
    match s.strand? pos with
    | none => (s, none)
    | some st => match s.heldKnot st k with
      | none => (s, some (knotLimit 3))
      | some (key, _) => s.arrive x i pos l key plain kind (val (s.lane x lane st)) dst ⟨0, 0, 0, 0, 0⟩)

/-- jbar (12 R244). -/
def execJbar (x : Bool) (l : Long) (k : Nat) (s : State) : Res :=
  s.collective (.jbar x l k) l k x .bar 0 fun _ => 0

/-- jscan (12 R245). -/
def execJscan (op : FoldOp) (ex x : Bool) (l : Long) (k d : Nat) (a : Src) (s : State) : Res :=
  s.collective (.jscan op ex x l k d a) l k x (.scan op ex) d fun e => e.val op.use a

/-- jred (12 R245). -/
def execJred (op : FoldOp) (x : Bool) (l : Long) (k d : Nat) (a : Src) (s : State) : Res :=
  s.collective (.jred op x l k d a) l k x (.red op) d fun e => e.val op.use a

end Sys2Proof.Machine
end

