-- ==== Sys2Proof/Machine/Barriers.lean ====
section
/-! DEFINITION. Named barriers (spec 13): their requests, the completion of a phase, and the `bar` instruction. -/

namespace Sys2Proof.Machine

/-- Barrier misuse (18 R325), with the details of R254. -/
abbrev cBarrier : Nat := 16

def misuse (detail : Nat) : TrapReq := { cause := cBarrier, detail := detail }

def barKey (core b : Nat) : Nat := core * 128 + b

def State.setBarrier (s : State) (key : Nat) (x : Barrier) : State := { s with barriers := s.barriers.set key x }

/-! ## The phase (R250) -/

def Barrier.met (x : Barrier) : Bool :=
  decide (x.exp ≤ x.arr) && (x.mode != 2 || decide (x.rowx ≤ x.rows) || x.rowsMet)

/-- The test after each request: a completed phase ends, and its completion goes to the arbiter. A strand that waited no longer counts
as a waiter of the barrier, though its event is still to be applied (log 69). -/
def State.testBarrier (s : State) (key : Nat) : State :=
  match s.barriers.get? key with
  | none => s
  | some x =>
    if x.met then
      (s.setBarrier key { x with phase := (x.phase + 1) % 2 ^ 32, arr := 0, rows := 0, rowsMet := false, waits := [] }).pushEvent
        (key / 128) (.barrier x.waits)
    else s

/-- One arrival (R249, R254). ARR and ROWS stop at the largest number of their widths (log 42). -/
def State.barArrival (s : State) (key : Nat) : State :=
  match s.barriers.get? key with
  | none => s
  | some x => (s.setBarrier key { x with arr := Nat.min 4095 (x.arr + 1) }).testBarrier key

/-- One row has landed: counted in row-count mode. -/
def State.barRow (s : State) (key : Nat) : State :=
  match s.barriers.get? key with
  | none => s
  | some x =>
    if x.mode = 2 then
      (s.setBarrier key { x with
        rows := Nat.min (2 ^ 24 - 1) (x.rows + 1), ovr := x.ovr || decide (x.rowx < x.rows + 1) }).testBarrier key
    else s

/-- Rows that landed, one after another (R251, R252). -/
def State.barRows (s : State) (key : Nat) : Nat → State
  | 0 => s
  | n + 1 => (s.barRow key).barRows key n

/-- The arrival of an attached copy command (R252). -/
def State.barCopyArrival (s : State) (key : Nat) (failed : Bool) : State :=
  match s.barriers.get? key with
  | none => s
  | some x =>
    (s.setBarrier key { x with att := x.att - 1, flt := x.flt || failed, rowsMet := x.rowsMet || failed }).barArrival key

/-- How a token stands to the current phase (R254). -/
inductive TokenAge where
  | completed | open_ | future
  deriving DecidableEq, Repr, Inhabited

def tokenAge (phase token : Nat) : TokenAge :=
  let d := (phase + 2 ^ 32 - token % 2 ^ 32) % 2 ^ 32
  if d = 0 then .open_ else if d < 2 ^ 31 then .completed else .future

/-! ## The instruction (R254 to R256) -/

/-- The barrier, if the strand's hank owns it. -/
def State.ownBarrier (s : State) (pos : Nat) (x : Strand) (b : Nat) : Option Barrier :=
  match s.barriers.get? (barKey (coreOf pos) b) with
  | some bar => if bar.owner = x.hank then some bar else none
  | none => none

/-- A `bar` word whose result is known in its step. -/
def State.barWord (s : State) (i : Instr) (l : Long) (f : State → Nat → Strand → Lane → Except TrapReq (State × List (Nat × Reg))) :
    Res :=
  s.longInOrder i l .plain f

/-- Claim or re-arm (R253). -/
def State.barInit (s : State) (key : Nat) (x : Strand) (mode exp rowx : Nat) : Except TrapReq State :=
  let bad := decide (exp < 1 ∨ 4095 < exp ∨ 2 ^ 24 - 1 < rowx)
  match s.barriers.get? key with
  | none =>
    if bad then .error (misuse 3)
    else .ok (s.setBarrier key ⟨x.hank, mode, 0, exp, 0, rowx, 0, false, false, 0, [], false⟩)
  | some b =>
    if b.owner ≠ x.hank then .error (misuse 1)
    else if bad then .error (misuse 3)
    else if (b.arr = 0 ∧ b.waits = []) ∨ (b.mode = mode ∧ b.exp = exp ∧ b.rowx = rowx) then
      .ok (s.setBarrier key { b with exp := exp, rowx := rowx, mode := mode, flt := false, ovr := false })
    else .error (misuse 2)

/-- bar.init.arr: complete when the unit has applied it, in its step (R254). -/
def execBarInitArr (l : Long) (bar : Nat) (a : Src) (s : State) : Res :=
  s.doneInOrder (.barInitArr l bar a) fun s pos x e => s.barInit (barKey (coreOf pos) bar) x 1 (e.nat .i32 a) 0

/-- bar.init.rows -/
def execBarInitRows (l : Long) (bar : Nat) (a b : Src) (s : State) : Res :=
  s.doneInOrder (.barInitRows l bar a b) fun s pos x e =>
    s.barInit (barKey (coreOf pos) bar) x 2 (e.nat .i32 a) (e.nat .i32 b)

/-- The accesses that an arrival without `.x` is released after (R255). -/
def releaseWaits (plain : Bool) (x : Strand) : List Nat := if plain then [] else x.accessIds

/-- The arrival: the token is PHASE before it. -/
def State.arriveAt (s : State) (pos id key d : Nat) : State :=
  match s.barriers.get? key with
  | none => s.complete pos id [] 0
  | some b => (s.complete pos id [(d, Reg.ofNat b.phase .i32)] 0).barArrival key

/-- What an arrival releases, to be observed where the phase completes (R255). -/
def State.barRelease (s : State) (pos : Nat) (x : Strand) (key phase : Nat) : State := s.meet pos x .c (barMark key phase)

/-- bar.arrive: the arrival follows the strand's earlier accesses, and the strand goes on (R220). -/
def execBarArrive (x : Bool) (l : Long) (bar d : Nat) (s : State) : Res :=
  .next (s.inLaneOrder (.barArrive x l bar d) fun is s k =>
    let pos := posOf is.braid k
    match s.strand? pos with
    | none => (s, none)
    | some st =>
      let ids := releaseWaits x st
      match s.ownBarrier pos st bar with
      | none => (s, some (misuse 1))
      | some b =>
        if ids.isEmpty then
          let key := barKey (coreOf pos) bar
          let s := if x then s else s.barRelease pos st key b.phase
          ((s.doneAt is pos l [(d, Reg.ofNat b.phase .i32)]).barArrival key, none)
        else (s.modStrand pos fun st => st.issue l is.here s.moves .plain false (.barArrive bar d ids), none))

/-- An arrival whose accesses are performed. -/
def State.runArrive (s : State) (pos : Nat) (x : Strand) (id bar d : Nat) (after : List Nat) : State :=
  if x.outs.any fun p => after.contains p.id && p.isAccess then s
  else match s.ownBarrier pos x bar with
    | none => s.modPend pos id fun p => { p with act := .refused cBarrier 1 none }
    | some b =>
      let key := barKey (coreOf pos) bar
      (s.barRelease pos x key b.phase).arriveAt pos id key d

/-- The strand blocks at the current phase of a barrier. -/
def State.barBlock (s : State) (is : Issue) (i : Instr) (pos : Nat) (l : Long) (key : Nat) (acq : Bool) : State :=
  match s.strand? pos, s.barriers.get? key with
  | some st, some b =>
    let s := s.setBarrier key { b with waits := b.waits ++ [(pos, st.nextId)] }
    s.modStrand pos fun st =>
      { st.issue l is.here s.moves .plain false (.served none (is.after i) (if acq then some (barMark key b.phase, .c) else none)) with
        run := .blocked .barrier }
  | _, _ => s

/-- bar.wait -/
def execBarWait (x : Bool) (l : Long) (bar : Nat) (a : Src) (s : State) : Res :=
  .next (s.inLaneOrder (.barWait x l bar a) fun is s k =>
    let pos := posOf is.braid k
    match s.strand? pos with
    | none => (s, none)
    | some st => match s.ownBarrier pos st bar with
      | none => (s, some (misuse 1))
      | some b => match tokenAge b.phase ((s.lane is k st).nat .i32 a) with
        | .future => (s, some (misuse 4))
        | .completed =>
          let token := (s.lane is k st).nat .i32 a % 2 ^ 32
          let s := if x then s else s.acquire pos st .c [barMark (barKey (coreOf pos) bar) token]
          (s.doneAt is pos l [], none)
        | .open_ => (s.barBlock is (.barWait x l bar a) pos l (barKey (coreOf pos) bar) (!x), none))

/-- bar.sync -/
def execBarSync (x : Bool) (l : Long) (bar : Nat) (s : State) : Res :=
  .next (s.inLaneOrder (.barSync x l bar) fun is s k =>
    let pos := posOf is.braid k
    match s.strand? pos with
    | none => (s, none)
    | some st => match s.ownBarrier pos st bar with
      | none => (s, some (misuse 1))
      | some b =>
        let ids := releaseWaits x st
        if !ids.isEmpty then (s.stallOn pos (.ops ids), none)
        else
          let key := barKey (coreOf pos) bar
          let s := if x then s else s.barRelease pos st key b.phase
          ((s.barBlock is (.barSync x l bar) pos l key (!x)).barArrival key, none))

/-- bar.drop: the count is read as a natural number (log 69). -/
def execBarDrop (l : Long) (bar : Nat) (a : Src) (s : State) : Res :=
  s.doneInOrder (.barDrop l bar a) fun s pos x e =>
    match s.ownBarrier pos x bar with
    | none => .error (misuse 1)
    | some b =>
      let n := e.nat .i32 a
      if b.exp ≤ n then .error (misuse 3)
      else
        let key := barKey (coreOf pos) bar
        .ok ((s.setBarrier key { b with exp := b.exp - n }).testBarrier key)

/-- bar.test -/
def execBarTest (l : Long) (bar d : Nat) (a : Src) (s : State) : Res :=
  s.barWord (.barTest l bar d a) l fun s pos x e =>
    match s.ownBarrier pos x bar with
    | none => .error (misuse 1)
    | some b => match tokenAge b.phase (e.nat .i32 a) with
      | .future => .error (misuse 4)
      | .completed => .ok (s, [(d, Reg.ofNat 1 .i32)])
      | .open_ => .ok (s, [(d, Reg.ofNat 0 .i32)])

/-- The status word of R256. -/
def Barrier.status (b : Barrier) : Nat :=
  b.mode * 2 ^ 30 + (if b.flt then 2 ^ 29 else 0) + (if b.ovr then 2 ^ 28 else 0) + b.arr % 4096 * 4096 + b.exp

/-- bar.stat -/
def execBarStat (l : Long) (bar d : Nat) (s : State) : Res :=
  s.barWord (.barStat l bar d) l fun s pos x _ =>
    match s.ownBarrier pos x bar with
    | none => .error (misuse 1)
    | some b => .ok (s, regsFrom d [Reg.ofNat b.phase .i32, Reg.stat b.status, Reg.ofNat b.rows .i32, Reg.ofNat b.rowx .i32])

/-- bar.free -/
def execBarFree (l : Long) (bar : Nat) (s : State) : Res :=
  s.doneInOrder (.barFree l bar) fun s pos x _ =>
    match s.ownBarrier pos x bar with
    | none => .error (misuse 1)
    | some b =>
      if b.att ≠ 0 ∨ b.waits ≠ [] then .error (misuse 5)
      else .ok { s with barriers := s.barriers.erase (barKey (coreOf pos) bar) }

end Sys2Proof.Machine
end

