-- ==== Sys2Proof/Machine/Tile.lean ====
section
/-! DEFINITION. Tiles and the contraction (spec 14 R257 to R270, 20 R359): tile requests, contribution blocks, `tload`
and the arrival at a drain. Requests other than a block are applied by the home in the step that issues them (log 6). -/

namespace Sys2Proof.Machine

/-- Non-member contraction (18 R325). -/
abbrev cMember : Nat := 14

def nonMember : TrapReq := { cause := cMember }

/-- A request applied; or the detail of its rejection (14 R263). -/
abbrev HomeAnswer := Except Nat State

/-- A tile word: the knot of slot K must be held; a rejection reaches the strand at completion. -/
def State.tileWord (s : State) (i : Instr) (l : Long) (r : TileRef) (f : State → Nat → HomeAnswer) : Res :=
  .next (s.inLaneOrder i fun x s k =>
    let pos := posOf x.braid k
    match s.strand? pos with
    | none => (s, none)
    | some st => match s.heldKnot st r.k with
      | none => (s, some nonMember)
      | some (key, kn) =>
        if !kn.replayed.isEmpty then (s.stallOn pos (.others kn.replayed), none)
        else match f s key with
          | .ok s => (s.modStrand pos fun st => st.issueRegs l x.here s.moves .plain [], none)
          | .error d =>
            (s.modStrand pos fun st => st.issue l x.here s.moves .plain false (.refused cTile d none), none))

/-- A free entry of a core's tile store. -/
def State.freeTileEntry (s : State) (core : Nat) : Option Nat :=
  ((List.range 8).map (core * 8 + ·)).find? fun t => (s.tiles.get? t).isNone

def newTile (entry serial tslot : Nat) (f : TileFmt) (shape ctx : Nat) : Tile :=
  let (m, n, _) := shapeMNK shape
  ⟨entry, serial, tslot, f, shape, false, List.replicate (m * n) .zero, false, ctx⟩

/-- tall (14 R266). -/
def execTall (f : TileFmt) (shape : Nat) (l : Long) (r : TileRef) (s : State) : Res :=
  s.tileWord (.tall f shape l r) l r fun s key =>
    match s.tileAt key r.t with
    | some (_, t) => if t.shape ≠ shape then .error 1 else if t.fmt ≠ f then .error 2 else .ok s
    | none =>
      let kn := s.knot key
      match s.freeTileEntry (knotHome key) with
      | none => .error 5
      | some e => .ok (s.setTile e (newTile (key % 64) kn.serial r.t f shape kn.ctx))

/-- tfree (14 R267). -/
def execTfree (l : Long) (r : TileRef) (s : State) : Res :=
  s.tileWord (.tfree l r) l r fun s key => match s.tileAt key r.t with
    | some (e, _) => .ok (s.freeTile e)
    | none => .error 3

/-- tzero (14 R268). -/
def execTzero (l : Long) (r : TileRef) (s : State) : Res :=
  s.tileWord (.tzero l r) l r fun s key => match s.tileAt key r.t with
    | some (e, t) => .ok (s.setTile e t.clear)
    | none => .error 3

/-! ## tload (14 R269) -/

/-- The rows of a load: (byte offset in the tile, address) of each. -/
def tloadRows (addr stride bytes m : Nat) : List (Nat × Nat) :=
  (List.range m).map fun i => (i * bytes, (addr + i * stride) % 2 ^ 64)

/-- The pieces of every row, in ascending address. -/
def State.tloadPieces (s : State) (core ctx bytes : Nat) : List (Nat × Nat) → Except XFault (List (Nat × Part))
  | [] => .ok []
  | r :: rest =>
    match s.devParts core ctx .read 3 r.2 bytes with
    | .error f => .error f
    | .ok ps => match s.tloadPieces core ctx bytes rest with
      | .error f => .error f
      | .ok qs => .ok ((ps.foldl (fun (acc : Nat × List (Nat × Part)) p => (acc.1 + p.len, acc.2 ++ [(acc.1, p)])) (r.1, [])).2 ++ qs)

/-- The tile that a load makes of its F32 values (14 R269, 03 R68). -/
def Tile.loaded (t : Tile) (v : Nat) : Tile :=
  let els := (List.range t.els.length).map fun i => TileEl.ofF32 (v / 2 ^ (32 * i) % 2 ^ 32)
  { t with els := els.map Prod.fst, ovf := els.any Prod.snd }

/-- A load's instruction, outstanding, with the rows of a tile of M by N: its pieces, held for device replay without a trap, or
rejected. The record of a row not resident has the home as CORE, one of another fault, made where the rejection reaches the
strand, the strand's core (log 68). -/
def State.formTload (s : State) (pos : Nat) (st : Strand) (id : Nat) (at_ : Point) (key tslot addr stride m n : Nat) : State :=
  let home := knotHome key
  let rows := tloadRows addr stride (4 * n) m
  let put := fun (a : Act) => s.modPend pos id fun p => { p with act := a }
  let load := fun (ps : List (Nat × Part)) => put (.mem ps 0 ⟨none, none⟩ (.tload key tslot addr stride m n))
  if addr % 4 ≠ 0 ∨ stride % 4 ≠ 0 ∨ stride < 4 * n then put (.refused cPermission 0 none)
  else match s.tloadPieces home (s.ctxNum st) (4 * n) rows with
    | .ok ps => load ps
    | .error f =>
      if f.cause = 2 then
        let s := load (rows.map fun w => (w.1, { key := 0, len := 4 * n, ord := .rc, va := w.2 }))
        let (s, _, seq) := s.recordFault (s.ctxNum st) home st.index srcLoad f
        s.holdPend pos (s.ctxNum st) (some id) seq
      else
        let t := xTrap srcLoad f none at_
        put (.refused t.cause t.detail t.fault)

/-- tload (14 R269). -/
def execTload (l : Long) (r : TileRef) (a : Nat) (b : Src) (s : State) : Res :=
  .next (s.inLaneOrder (.tload l r a b) fun x s k =>
    let pos := posOf x.braid k
    match s.strand? pos with
    | none => (s, none)
    | some st => match s.heldKnot st r.k with
      | none => (s, some nonMember)
      | some (key, kn) =>
        if !kn.replayed.isEmpty then (s.stallOn pos (.others kn.replayed), none)
        else
          let e := s.lane x k st
          let addr := (e.regs.pair a).toNat
          let stride := e.nat .i32 b
          let s := s.modStrand pos fun st =>
            st.issue l x.here s.moves (.contribution (knotHome key)) false (.refused cTile 3 none)
          match s.tileAt key r.t with
          | none => (s, none)
          | some (_, t) =>
            let (m, n, _) := shapeMNK t.shape
            (s.formTload pos st st.nextId x.here key r.t addr stride m n, none))

/-! ## ctr (14 R264, R265) -/

/-- A start joins the list of its die in order of arrival; within one cycle, by ascending core (20 R359). -/
def insertStart (x : Start) : List Start → List Start
  | [] => [x]
  | y :: l => if y.cycle = x.cycle ∧ x.core < y.core then x :: y :: l else y :: insertStart x l

def State.sendBlock (s : State) (core : Nat) (b : CtrBlock) : State :=
  let g := s.governors.getD (dieOf core) governorIdle
  { s with governors := s.governors.set (dieOf core) { g with starts := insertStart ⟨s.cycles, core, b⟩ g.starts } }

/-- A lane's share of a `ctr`: its knot, its strand, the number of the instruction, its operands. -/
structure Share where
  key : Nat
  pos : Nat
  id : Nat
  ops : CtrOps
  deriving DecidableEq, Repr, Inhabited

/-- The knots of a list of shares, each once, in order. -/
def shareKeys : List Share → List Nat
  | [] => []
  | x :: l => x.key :: (shareKeys l).filter (· != x.key)

/-- One exact block for each knot, by ascending lowest lane. -/
def State.sendBlocks (s : State) (f : TileFmt) (shape : Nat) (an bn : Bool) (tslot : Nat) (at_ : Point) (l : List Share) :
    State :=
  (shareKeys l).foldl (fun s key =>
    let mine := l.filter (·.key == key)
    let core := coreOf ((mine.map Share.pos).headD 0)
    s.sendBlock core ⟨key, tslot, f, shape, ctrBlock f shape an bn (mine.map Share.ops), mine.map fun y => (y.pos, y.id),
      at_.clause, at_.word⟩) s

/-- ctr (14 R264): each lane issues; past a fence, or behind an entry held since one, it is held with its operands; the others'
blocks leave. -/
def execCtr (f : TileFmt) (shape : Nat) (an bn : Bool) (l : Long) (r : TileRef) (a b : Nat) (s : State) : Res :=
  let i : Instr := .ctr f shape an bn l r a b
  let (ra, rb) := ctrRegs f shape
  let issued := s.inLaneOrder i fun x s k =>
    let pos := posOf x.braid k
    match s.strand? pos with
    | none => (s, none)
    | some st => match s.heldKnot st r.k with
      | none => (s, some nonMember)
      | some (key, _) =>
        let e := s.lane x k st
        let ops : CtrOps := ⟨runNat (e.words a ra), runNat (e.words b rb)⟩
        (s.modStrand pos fun st => st.issue l x.here s.moves (.contribution (knotHome key)) st.mustHold
          (if st.mustHold then .ctr f shape an bn key r.t ops s.moves else .waiting), none)
  .next <| match s.cur with
    | none => s
    | some x =>
      if s.illegalHere x i then issued
      else
        let shares := (s.passing x i).filterMap fun p =>
          if p.2.mustHold then none
          else (s.heldKnot p.2 r.k).map fun kn =>
            (⟨kn.1, posOf x.braid p.1, p.2.nextId,
              ⟨runNat ((p.2.regs.run a ra).map Reg.val), runNat ((p.2.regs.run b rb).map Reg.val)⟩⟩ : Share)
        issued.sendBlocks f shape an bn r.t x.here shares

/-- The slew limit of a die: values below 10 act as 10, above 400 as 400 (20 R358). -/
def Governor.slewLimit (g : Governor) : Nat := Nat.min 400 (Nat.max 10 g.slew)

/-- Has the spacing passed since the die's last start? -/
def Governor.spaced (g : Governor) (now : Nat) : Bool :=
  match g.last with
  | none => true
  | some t => decide (t + g.spacing ≤ now)

/-- A block enters the array and reaches its home, which applies it, behind a drain held for device replay and once a frozen tile has
thawed (14 R258). -/
def State.arriveBlock (s : State) (b : CtrBlock) : State :=
  let k := s.knot b.knot
  if k.svc.isSome || !k.queue.isEmpty || (s.tileAt b.knot b.tslot).any (fun t => t.2.frozen) then s.setKnot b.knot { k with queue := k.queue ++ [b] } else s.applyBlock b

/-- CONTRACTION_START (20 R359): the head of a die's list starts where spacing and slew allow. -/
def execContractionStart (die : Nat) (s : State) : Res :=
  .next <| match s.governors.get? die with
    | none => s
    | some g => match g.starts with
      | [] => s
      | x :: rest =>
        if g.spaced s.cycles && Config.slewAllows g.slewLimit s.moves then
          ({ s with governors := s.governors.set die { g with starts := rest, last := some s.cycles } }).arriveBlock x.block
        else s

/-! ## A strand that has exited leaves its knots (14 R265, R274) -/

/-- Has a contribution or a load for a home still to be applied there? -/
def Pend.toHome (p : Pend) (home : Nat) : Bool :=
  p.kind == .contribution home && (match p.act with
    | .regs .. | .refused .. => false
    | _ => true)

/-- The strand leaves the knots to whose homes it has no contribution under way any more. -/
def State.depart (s : State) (pos : Nat) : State :=
  match s.strand? pos with
  | none => s
  | some x =>
    let ready := fun (id : Nat) => x.outs.all fun p => !p.toHome (knotHome (knotKey id))
    let now := x.leaving.filter ready
    if now.isEmpty then s
    else
      let s := s.modStrand pos fun x => { x with leaving := x.leaving.filter fun id => !ready id }
      now.foldl (fun s id => if (s.knot (knotKey id)).live then s.removeMember (knotKey id) pos else s) s

/-! ## tdrain (14 R270) -/

/-- tdrain: the arrival. -/
def execTdrain (f : DrainFmt) (rm : Rnd) (keep : Bool) (l : Long) (r : TileRef) (d a q : Nat) (s : State) : Res :=
  .next (s.inLaneOrder (.tdrain f rm keep l r d a q) fun x s k =>
    let pos := posOf x.braid k
    match s.strand? pos with
    | none => (s, none)
    | some st => match s.heldKnot st r.k with
      | none => (s, some nonMember)
      | some (key, _) =>
        if (s.tileAt key r.t).isNone then (s, some { cause := cTile, detail := 3 })
        else
          let e := s.lane x k st
          let v := fun n => (e.regs.reg n).val.toNat
          let args : DrainArgs := ⟨e.regs.pair a, v (a + 2), v (a + 3), if rm = .sr then runNat (e.words q 4) else 0,
            if rm = .sr then (e.regs.pair (q + 4)).toNat else 0⟩
          s.arrive x (.tdrain f rm keep l r d a q) pos l key false (.drain f rm keep r.t) 0 d args)

end Sys2Proof.Machine
end

