-- ==== Sys2Proof/Machine/Place.lean ====
section
/-! DEFINITION. Strands and braids at their places: capacities of a core (spec 01 R14, 06 R101, R102), the start state of a
strand (06 R107), the incarnation of a position (17 R310), the stack region, and calls and returns (07 R123 to R125). -/

namespace Sys2Proof.Machine

/-! ## Capacity -/

/-- Resident hanks of a core, spawn braids among them. -/
def State.hanksOn (s : State) (core : Nat) : AMap Hank := s.hanks.filter fun p => p.2.core == core

def State.regsUsed (s : State) (core : Nat) : Nat := ((s.hanksOn core).map fun p => p.2.strands * p.2.regs).sum
def State.affsUsed (s : State) (core : Nat) : Nat := ((s.hanksOn core).map fun p => p.2.strands * p.2.affs).sum

/-- 512 KiB of registers and 4,096 affine registers a core (01 R14). -/
def State.regsFit (s : State) (core regs affs : Nat) : Bool :=
  decide (s.regsUsed core + regs ≤ 131072 ∧ s.affsUsed core + affs ≤ 4096)

/-- Contexts resident on a core: those with a hank or a pinned line there (04 R76). -/
def State.residents (s : State) (core : Nat) : List Nat :=
  (((s.hanksOn core).map fun p => p.2.ctx) ++ (s.pins.filter fun p => p.core == core).map Pin.ctx).dedup

def State.residencyFits (s : State) (core ctx : Nat) : Bool :=
  (s.residents core).contains ctx || decide ((s.residents core).length < 16)

/-- Free braid slots of a core, ascending. -/
def State.freeSlots (s : State) (core : Nat) : List Nat :=
  (List.range 64).filter fun b => (s.braids.get? (core * 64 + b)).isNone

/-! ## A strand begins (06 R107, 17 R310) -/

def Strand.new (hank index ctx launch inc : Nat) (r : Regs) (stackB stackE : DWord) : Strand :=
  { hank := hank, index := index, ctx := ctx, launch := launch, inc := inc, nb := none, opener := some launch, regs := r,
    run := .candidate, held := false, handler := false, frame := none, frameId := 0, trap := ⟨0, 0, 0, 0, 0⟩, trapSet := 0,
    heldOn := none, deferred := none, deferNum := 0, handed := [], awaits := [], leaving := [], ttarget := 0, cychi := 0, outs := [],
    nextId := 0, outlasts := [], past := none, spilled := [], stackB := stackB, stackE := stackE }

/-! ## Strands whose hank has retired (06 R103, 07 R133) -/

/-- Does an exited strand still have something to do: an instruction outstanding, copy commands apart, or a knot to leave? -/
def Strand.lingers (x : Strand) : Bool := !x.outs.isEmpty || !x.leaving.isEmpty

/-- An exited strand gives up its place, in the hank of number `n`, which is none: what it issued completes apart from it. A copy
command completes for nobody. -/
def Strand.aside (x : Strand) (n : Nat) : Strand :=
  { x with hank := n, outs := x.outs.filter fun p => match p.act with
      | .waiting => p.kind != .plain
      | _ => true }

/-- A mark of a strand (see `strandMark`, `readMark`), split into its base and the strand's position. -/
def markOf (place : Nat) : Option (Nat × Nat) :=
  if place < 2 ^ 80 ∨ 2 ^ 82 ≤ place then none
  else if place < 2 ^ 81 then some (2 ^ 80, place - 2 ^ 80) else some (2 ^ 81, place - 2 ^ 81)

/-- An early write as it is known once strands have moved to other keys, and others are gone. -/
def EarlyWrite.rekey (w : EarlyWrite) (moved : Nat → Nat) (gone : Nat → Bool) : EarlyWrite :=
  { w with
    by_ := match w.by_ with
      | .strand p => .strand (moved p)
      | b => b
    known := (w.known.filter fun p => !gone p).map moved
    rels := (w.rels.filter fun r => !(markOf r.place).any fun m => gone m.2).map fun r => match markOf r.place with
      | some m => { r with place := m.1 + moved m.2 }
      | none => r }

/-- Exited strands move aside: those that linger to the keys of number `n` above their places, with the memberships that they are
still to give up and what they have observed. -/
def State.setAside (s : State) (n : Nat) (l : AMap Strand) : State :=
  let key := fun (pos : Nat) => pos % places + places * (n + 1)
  let ghosts := (l.map fun p => (p.1, p.2.aside n)).filter fun p => p.2.lingers
  let moved := fun (pos : Nat) => if ghosts.any fun g => g.1 == pos then key pos else pos
  let gone := fun (pos : Nat) => l.any (fun p => p.1 == pos) && !ghosts.any fun g => g.1 == pos
  let member := fun (id : Nat) (m : Member) =>
    if ghosts.any fun g => g.1 == m.pos && g.2.leaving.contains id then { m with pos := key m.pos } else m
  { s with
    early := s.early.map fun w => w.rekey moved gone
    strands := AMap.putAll (s.strands.filter fun p => l.all fun q => q.1 != p.1) (ghosts.map fun p => (key p.1, p.2))
    knots := s.knots.mapVals fun n k => { k with members := k.members.map (member (knotId n k.serial)) } }

/-- Base of the private stack region of a position (06 R107), in units of 256 bytes for `size`. -/
def stackBase (base size pos : Nat) : DWord := BitVec.ofNat 64 (base + pos * size * 256)

/-- The strand starts at a position, which is placed once more. Its instructions are numbered from a number of their own,
so that a position and a number name one instruction for good. `opener` is the launch that it works for. -/
def State.startStrand (s : State) (pos hank index : Nat) (opener : Option Nat) (regs affs : Nat) (arg entry : DWord)
    (n0 : Option Nat) (base size : Nat) (f : Regs → Regs) : State :=
  let b := stackBase base size pos
  let r := f (Regs.start regs affs arg entry b n0)
  let h := s.hanks.get? hank
  let inc := (s.incs.getD pos 0 + 1) % 2 ^ 12
  let x := Strand.new hank index ((h.map Hank.ctx).getD 0) ((h.map Hank.launch).getD 0) inc r b (b + BitVec.ofNat 64 (size * 256))
  { s with
    strands := s.strands.set pos
      { x with nextId := s.uid * 2 ^ 64, opener := opener, nb := h.bind fun h => h.nb.map fun n => (n, h.nbpos) }
    uid := s.uid + 1
    incs := s.incs.set pos inc }

/-! ## Spills (07 R124) -/

/-- The linkage entry as 32 bytes. -/
def Call.image (c : Call) : Nat := c.link.toNat + c.fp.toNat * 2 ^ 64 + c.serial.toNat * 2 ^ 128 + c.size / 64 * 2 ^ 160

def Call.ofImage (n : Nat) : Call :=
  ⟨BitVec.ofNat 64 n, BitVec.ofNat 64 (n / 2 ^ 64), n / 2 ^ 160 % 65536 * 64, BitVec.ofNat 32 (n / 2 ^ 128)⟩

/-- Address of the spilled entry of depth j. -/
def spillAddr (e : DWord) (j : Nat) : Nat := (e - BitVec.ofNat 64 (32 * j)).toNat

/-- Why a call or return did not happen: a trap, or accesses of the strand to the same bytes that come first. -/
inductive CallStop where
  | trap (t : TrapReq)
  | wait (ids : List Nat)
  deriving DecidableEq, Repr, Inhabited

/-- The parts of a spill or refill, unless a fault or an earlier access of the strand stops it. -/
def State.spillParts (s : State) (pos : Nat) (x : Strand) (need : Need) (va : Nat) (here : Point) :
    Except CallStop (List Part) :=
  match s.parts (coreOf pos) (s.ctxNum x) need va 32 with
  | .error f => .error (.trap (xTrap srcSpill f none here))
  | .ok ps => match s.reachFault (need == .write) ps with
    | some f => .error (.trap (xTrap srcSpill f none here))
    | none =>
      let before := (x.outs.filter fun a => ps.any fun q => a.pieces.any fun r => r.meets q).map Pend.id
      if before.isEmpty then .ok ps else .error (.wait before)

/-! ## Call and return (07 R123, R125) -/

abbrev cUnderflow : Nat := 7
abbrev cOverflow : Nat := 8

/-- The strand after its call, spills apart. -/
def Strand.called (x : Strand) (link target : DWord) (size : Nat) : Strand :=
  let r := x.regs
  let fs := r.fs + 1
  { x with
    spilled := if r.depth < 32 then [] else x.spilled.take (r.depth - 32) ++ r.calls.getLast?.toList
    regs := { r with
      calls := (⟨link, r.fp, r.size, r.serial⟩ :: r.calls).take 32
      fp := r.fp + BitVec.ofNat 64 r.size
      size := size
      fs := fs
      serial := fs
      depth := r.depth + 1
      pc := ⟨target, 0⟩ } }

/-- The call of R123: the state with the strand called, or why not. A spill is performed with the word, at every scope
(log 43). -/
def State.call (s : State) (pos : Nat) (x : Strand) (here : Point) (link target : DWord) (size : Nat) :
    Except CallStop State :=
  let r := x.regs
  let d := r.depth + 1
  if x.stackE.toNat < r.fp.toNat + r.size + size + 32 * (d - 32) then .error (.trap { cause := cOverflow })
  else if d ≤ 32 then .ok (s.setStrand pos (x.called link target size))
  else
    match s.spillParts pos x .write (spillAddr x.stackE (d - 32)) here with
    | .error e => .error e
    | .ok ps =>
      let oldest := (r.calls.getLast?).getD ⟨0, 0, 0, 0⟩
      .ok (((s.sendParts engineFlit 0 x.ctx (coreOf pos) ps).putParts (.strand pos) oldest.image ps).setStrand pos (x.called link target size))

/-- The strand after its return to the newest linkage entry; `refill` joins the hardware stack. -/
def Strand.returned (x : Strand) (refill : List Call) : Strand :=
  let r := x.regs
  let c := r.calls.headD ⟨0, 0, 0, 0⟩
  { x with regs := { r with
      calls := r.calls.drop 1 ++ refill
      fp := c.fp
      size := c.size
      serial := c.serial
      depth := r.depth - 1
      pc := ⟨c.link, 0⟩ } }

/-- The return of R123. A refill is read with the word (log 43). -/
def State.ret (s : State) (pos : Nat) (x : Strand) (here : Point) : Except CallStop State :=
  let d := x.regs.depth
  if d = 0 then .error (.trap { cause := cUnderflow })
  else if d ≤ 32 then .ok (s.setStrand pos (x.returned []))
  else
    match s.spillParts pos x .read (spillAddr x.stackE (d - 32)) here with
    | .error e => .error e
    | .ok ps => .ok (s.setStrand pos (x.returned [Call.ofImage (s.seenParts (strandAgent pos) ps)]))

/-- The lane after a call or return that may stop. -/
def State.callStopped (s : State) (pos : Nat) : CallStop → State × Option TrapReq
  | .trap t => (s, some t)
  | .wait ids => (s.stallOn pos (.ops ids), none)

/-- The spilled entry of number j, oldest first, as it stands in the stack region. -/
def State.spilledAt (s : State) (pos : Nat) (x : Strand) (j : Nat) : Except XFault Nat :=
  s.devRead (coreOf pos) (s.ctxNum x) (spillAddr x.stackE (j + 1)) 32

/-- The frames on a strand's stack: frame pointer and serial of each, the current one first (17 R313). A spilled entry that cannot
be read now is as it was spilled: what liveness costs is time alone. -/
def State.frames (s : State) (pos : Nat) (x : Strand) : List (DWord × Word) :=
  let r := x.regs
  let spilled := (List.range (r.depth - 32)).filterMap fun j =>
    match s.spilledAt pos x j with
    | .ok n => some (Call.ofImage n)
    | .error _ => x.spilled[j]?
  ((r.fp, r.serial) :: (r.calls ++ spilled).map fun c => (c.fp, c.serial))

/-- The uncorrectable error that the entries of a stack meet, if any (01 R19, 09 R176). -/
def State.stackFault (s : State) (pos : Nat) (x : Strand) : Option XFault :=
  (List.range (x.regs.depth - 32)).findSome? fun j => match s.spilledAt pos x j with
    | .error f => if f.cause = 7 then some f else none
    | .ok _ => none

end Sys2Proof.Machine
end

