-- ==== Sys2Proof/Machine/Closure.lean ====
section
/-! DEFINITION. Closures and the environment store (spec 17). The home applies a request in the step that issues it
(log 6), or, behind earlier closure words of the strand, when its turn comes (R319). -/

namespace Sys2Proof.Machine

/-! ## Traps (R320) -/

abbrev cEnv : Nat := 10
abbrev cFrame : Nat := 11
abbrev cClosure : Nat := 12

def envExhausted (d : Nat) : TrapReq := { cause := cEnv, detail := d }
def danglingFrame (d : Nat) : TrapReq := { cause := cFrame, detail := d }
def danglingClosure (d : Nat) : TrapReq := { cause := cClosure, detail := d }

/-! ## Environments and handles (R309 to R311) -/

def Env.free0 (check : Nat) : Env := ⟨.free, 0, 0, 0, 0, check, 0, [], [], 0, 0, 0⟩

def State.env (s : State) (key : Nat) : Env := s.envs.getD key (.free0 0)
def State.setEnv (s : State) (key : Nat) (e : Env) : State := { s with envs := s.envs.set key e }

/-- The handle of an environment. -/
def handleOf (key : Nat) (e : Env) : DWord :=
  BitVec.ofNat 64 (2 ^ 63 + e.ctx * 2 ^ 48 + e.check * 2 ^ 32 + key / 2048 * 2 ^ 23 + key % 2048 * 2 ^ 12)

/-- The environment that a handle names. -/
def envKey (h : DWord) : Nat := bits h.toNat 31 23 * 2048 + bits h.toNat 22 12

/-- One more counted reference; none where it is refused. -/
def State.addRef (s : State) (key : Nat) : Option State :=
  let e := s.env key
  if e.refs < 65535 then some (s.setEnv key { e with refs := e.refs + 1 }) else none

/-- One counted reference fewer; at 0 the environment is free. -/
def State.dropRef (s : State) (key : Nat) : State :=
  let e := s.env key
  if e.refs ≤ 1 then s.setEnv key (.free0 e.check) else s.setEnv key { e with refs := e.refs - 1 }

/-- A handle that a register held is released, as `kdrop` releases it. -/
def State.release (s : State) (h : DWord) : State := if h = 0 then s else s.dropRef (envKey h)

def Regs.handle (r : Regs) (k : Nat) : DWord := r.k.getD k 0
def Regs.setHandle (r : Regs) (k : Nat) (h : DWord) : Regs := { r with k := r.k.set k h }
def Strand.handle (x : Strand) (k : Nat) : DWord := x.regs.handle k

/-- The owner of an environment's spans, known by its incarnation: in its place, or saved with its hank. -/
def State.ownerStrand (s : State) (e : Env) : Option (Nat × Strand) :=
  let pos := e.ownerCore * 2048 + e.ownerPos
  let owner := fun (x : Strand) => x.inc == e.ownerInc
  match (s.strand? pos).filter owner with
  | some x => some (pos, x)
  | none => (s.saved.findSome? fun h => (h.strands.get? pos).filter owner).map fun x => (pos, x)

/-- live(env) (R313). -/
def State.spansLive (s : State) (e : Env) : Bool :=
  e.spans.isEmpty ||
  match s.ownerStrand e with
  | none => false
  | some (pos, x) => x.run != .exited && (s.frames pos x).any fun f => f.1 == e.fbase && f.2 == e.fserial

/-- The uncorrectable error that a test of an environment's spans meets in a spilled entry. -/
def State.spansFault (s : State) (e : Env) : Option XFault :=
  if e.spans.isEmpty then none else (s.ownerStrand e).bind fun y => s.stackFault y.1 y.2

/-- The word that tested the spans is not performed; the context faults (09 R176). -/
def upsetStack (f : XFault) : TrapReq := { cause := cPermission, detail := f.cause, fault := some (srcSpill, f) }

/-- The registers that a load of captures writes, from vB on (R314). -/
def Env.captures (e : Env) (b : Nat) : List (Nat × Reg) :=
  let p := (b + e.vals.length + 1) / 2 * 2
  regsFrom b e.vals ++
    regsFrom p ((e.spans.map fun sp => pairRegs (e.fbase + BitVec.ofNat 64 sp.1) .w64).flatten)

/-! ## Spawn (R315, R316, R323) -/

def spawnStatus (code core pos : Nat) : Nat := code * 2 ^ 28 + core * 2 ^ 7 + pos

/-- The lowest free lane of a spawn braid: one never placed, or whose strand has exited. -/
def State.freeLane (s : State) (b : Nat) : Option Nat :=
  (List.range 32).find? fun l => match s.strand? (posOf b l) with
    | none => true
    | some x => x.run == .exited

/-- Spawn braids of a core, by their index: index, hank number, braid. -/
def State.spawnBraids (s : State) (core : Nat) : List (Nat × Nat × Nat) :=
  sortTerms ((s.hanksOn core).filterMap fun p => match p.2.spawn with
    | some i => some (i, p.1, p.2.braids.headD 0)
    | none => none)

/-- The place for a new strand: hank, spawn index, braid, lane; a new spawn braid is opened where none has room. -/
def State.spawnRoom (s : State) (core ctx prio : Nat) : Option (State × Nat × Nat × Nat × Nat) :=
  let all := s.spawnBraids core
  let mine := all.filter fun p => ((s.hanks.get? p.2.1).map Hank.ctx) == some ctx
  match mine.findSome? fun p => (s.freeLane p.2.2).map fun l => (p, l) with
  | some (p, l) => some (s, p.2.1, p.1, p.2.2, l)
  | none =>
    let slots := s.freeSlots core
    if 4 ≤ all.length ∨ slots = [] ∨ ¬ s.regsFit core (32 * 64) 0 ∨ ¬ s.residencyFits core ctx then none
    else
      let idx := ((List.range 4).find? fun i => all.all fun p => p.1 != i).getD 0
      let b := core * 64 + slots.getD (s.pick slots.length) 0
      let (h, s) := s.fresh
      let hank : Hank :=
        { ctx := ctx, launch := h, index := 0, core := core, braids := [b], strands := 32, regs := 64, affs := 0, scrkb := 0,
          banks := [], nb := none, nbpos := 0, nhank := 0, prio := prio, spawn := some idx, stopping := false }
      let br : Braid := { hank := h, index := idx, prio := prio, lanes := 0, unchosen := 0, pending := [] }
      some ({ s with hanks := s.hanks.set h hank, braids := s.braids.set b br }, h, idx, b, 0)

/-- The launch that a strand works for (R324). -/
def State.launchOf (_ : State) (x : Strand) : Option Nat := x.opener

/-- A strand begins with an acquire at .p of what is released at places (R317). -/
def State.beginObserving (s : State) (pos : Nat) (l : List Nat) : State :=
  match s.strand? pos with
  | some x => s.acquire pos x .p l
  | none => s

/-- A closure starts as a new strand on its home core (R315); its status word. `opener` is the launch that it is started
for, `l` are the places of the releases that it observes. -/
def State.spawn (s : State) (ctx : Nat) (h arg : DWord) (prio : Nat) (opener : Option Nat) (l : List Nat) : State × Nat :=
  let key := envKey h
  let core := key / 2048
  let e := s.env key
  if !s.spansLive e then (s, spawnStatus 2 core 0)
  else match s.addRef key with
    | none => (s, spawnStatus 3 core 0)
    | some s' => match s'.spawnRoom core ctx prio with
      | none => (s, spawnStatus 3 core 0)
      | some (s', hank, idx, b, lane) =>
        let c := s.ctxs.get? ctx
        let base := ((c.map Ctx.spBase).getD 0).toNat
        let size := (c.map Ctx.spSize).getD 0
        let (n, s') := s'.fresh
        let s' := s'.setAside n ((s'.strand? (posOf b lane)).toList.map fun x => (posOf b lane, x))
        let s' := s'.startStrand (posOf b lane) hank (32 * idx + lane) opener 64 0 arg e.entry none base size fun r =>
          { r.write (e.captures 2) 0 with k := r.k.set 0 h }
        ((s'.beginObserving (posOf b lane) l).modBraid b fun br => { br with lanes := br.lanes ||| BitVec.twoPow 32 lane }, spawnStatus 0 core (32 * idx + lane))

/-! ## The closure queue of a strand (R319) -/

/-- Does an earlier closure word of the strand still stand in its queue? -/
def Strand.closPending (x : Strand) (before : Nat) : Bool := x.outs.any fun p => p.kind == .closure && decide (p.id < before)

/-- The closure register whose handle a word uses. -/
def closureSrc : Instr → Option Nat
  | .capr _ k .. | .kdup _ _ k | .kdrop _ k | .kst _ _ k _ | .apply _ k _ | .spawn _ _ k _ | .kinfo _ _ _ k => some k
  | _ => none

/-- The vector operands of a closure word, read at issue, and for `capr` the frame there. -/
def closureArgs (e : Lane) : Instr → List Reg
  | .cap _ _ en f n =>
    (match en with
      | .pair p => e.regs.run p 2
      | .literal w => pairRegs w .w64) ++ e.regs.run f n
  | .capr _ _ a b =>
    [e.src .i32 a, e.src .i32 b] ++ pairRegs e.regs.fp .w64 ++ [⟨e.regs.serial, .i32⟩, Reg.ofNat e.regs.size .i32]
  | .spawn _ _ _ a => pairRegs (e.pair a) .w64
  | _ => []

/-- Registers as numbers and pairs of a list of operands. -/
def argVal (l : List Reg) (n : Nat) : Word := (l.getD n .zero).val
def argPair (l : List Reg) (n : Nat) : DWord := pairOf (argVal l n) (argVal l (n + 1))

/-- What a closure word does: the state, the vector registers that it writes, and the closure register. -/
structure ClosureDone where
  st : State
  regs : List (Nat × Reg) := []
  k : Option (Nat × DWord) := none

/-- The lowest free environment of a core. -/
def State.freeEnv (s : State) (core : Nat) : Option Nat :=
  ((List.range 2048).map (core * 2048 + ·)).find? fun key => (s.env key).st == .free

/-- cap (R321) of the strand at `pos`: the handle goes to kD. -/
def State.cap (s : State) (pos : Nat) (x : Strand) (k : Nat) (v : List Reg) : Except TrapReq ClosureDone :=
  match s.freeEnv (coreOf pos) with
  | none => .error (envExhausted 1)
  | some key =>
    let env : Env :=
      { st := .live, entry := argPair v 0, fbase := 0, fserial := 0, refs := 1, check := ((s.env key).check + 1) % 2 ^ 16,
        ctx := s.ctxNum x, vals := v.drop 2, spans := [], ownerCore := 0, ownerPos := 0, ownerInc := 0 }
    .ok { st := s.setEnv key env, k := some (k, handleOf key env) }

/-- capr (R321) on handle h. -/
def State.capr (s : State) (pos : Nat) (x : Strand) (h : DWord) (v : List Reg) : Except TrapReq ClosureDone :=
  let env := s.env (envKey h)
  let off := (argVal v 0).toNat
  let len := (argVal v 1).toNat
  let fp := argPair v 2
  let serial := argVal v 4
  let place := pos % places % 2048
  let foreign := env.fbase != fp || env.fserial != serial || env.ownerCore != coreOf pos || env.ownerPos != place ||
    env.ownerInc != x.inc
  if h = 0 then .error (danglingClosure 1)
  else if 1 < env.refs then .error (danglingClosure 5)
  else if len = 0 ∨ (argVal v 5).toNat < off + len then .error (danglingFrame 2)
  else if !env.spans.isEmpty && foreign then .error (danglingFrame 3)
  else if env.spans.length = 4 then .error (envExhausted 3)
  else
    let env := { env with
      spans := env.spans ++ [(off, len)], fbase := fp, fserial := serial, ownerCore := coreOf pos, ownerPos := place
      ownerInc := x.inc }
    .ok { st := s.setEnv (envKey h) env }

/-- What `kinfo` answers on a handle (R323). -/
def State.kinfo (s : State) (f : KinfoForm) (d : Nat) (h : DWord) : List (Nat × Reg) :=
  let e := s.env (envKey h)
  match f with
  | .h => regsFrom d (pairRegs h .w64)
  | .e => regsFrom d (pairRegs (if h = 0 then 0 else e.entry) .w64)
  | .s => [(d, Reg.stat (if h = 0 then 0 else
      2 ^ 31 + (if s.spansLive e then 2 ^ 30 else 0) + e.vals.length * 2 ^ 25 + e.spans.length * 2 ^ 22 + e.refs))]

/-- A closure word of the strand at `pos`, `apply` and the accesses apart, on the handle of its source. -/
def State.closureDo (s : State) (pos : Nat) (x : Strand) (i : Instr) (v : List Reg) (h : DWord) (prio : Nat) :
    Except TrapReq ClosureDone :=
  match i with
  | .cap _ k .. => s.cap pos x k v
  | .capr .. => s.capr pos x h v
  | .kdup _ kd _ =>
    if h = 0 then .error (danglingClosure 1)
    else match s.addRef (envKey h) with
      | none => .error (envExhausted 2)
      | some s => .ok { st := s, k := some (kd, h) }
  | .kdrop _ k => .ok { st := s, k := some (k, 0) }
  | .spawn _ d _ _ =>
    if h = 0 then .error (danglingClosure 1)
    else if let some f := s.spansFault (s.env (envKey h)) then .error (upsetStack f)
    else
      let (s, w) := s.spawn (s.ctxNum x) h (argPair v 0) prio (s.launchOf x) [strandMark pos]
      .ok { st := s, regs := [(d, Reg.stat w)] }
  | .kinfo f _ d _ => match if h = 0 ∨ f ≠ .s then none else s.spansFault (s.env (envKey h)) with
    | some f => .error (upsetStack f)
    | none => .ok { st := s, regs := s.kinfo f d h }
  | _ => .ok { st := s }

/-- What the closure register that a word writes held before is released. -/
def ClosureDone.released (r : ClosureDone) (old : Regs) : State :=
  match r.k with
  | some (k, _) => r.st.release (old.handle k)
  | none => r.st

def ClosureDone.write (r : ClosureDone) (x : Regs) : Regs :=
  match r.k with
  | some (k, h) => x.setHandle k h
  | none => x

/-- The priority class of a strand's braid. -/
def State.prioOf (s : State) (pos : Nat) : Nat := ((s.braids.get? (braidOf pos)).map Braid.prio).getD 0

/-- The handle of a word's source register, where no earlier word of the strand may change it. -/
def Strand.sourceNow (x : Strand) (i : Instr) : Option DWord :=
  if x.closPending x.nextId then none else some (((closureSrc i).map x.handle).getD 0)

/-- The closure words, in lane order: performed as they issue; behind an earlier one those that raise no trap are queued (log 70), and
`spawn` is held past a fence. -/
def State.closureWord (s : State) (i : Instr) (l : Long) : Res :=
  .next (s.inLaneOrder i fun x s lane =>
    let pos := posOf x.braid lane
    match s.strand? pos with
    | none => (s, none)
    | some st =>
      let v := closureArgs (s.lane x lane st) i
      let prio := s.prioOf pos
      match st.sourceNow i with
      | some h =>
        if st.pastFence then
          if h = 0 then (s, some (danglingClosure 1))
          else (s.modStrand pos fun st => st.issue l x.here s.moves .closure true (.closure i v (some h) prio), none)
        else match s.closureDo pos st i v h prio with
          | .error t => (s, some t)
          | .ok r => ((r.released st.regs).modStrand pos fun st =>
              ({ st with regs := r.write st.regs }).issueRegs l x.here s.moves .plain r.regs, none)
      | none => (s.modStrand pos fun st => st.issue l x.here s.moves .closure st.pastFence (.closure i v none prio), none))

/-- A queued closure word is performed, whether or not its strand has exited or left its handler since; an uncorrectable error faults
the context. -/
def State.runClosure (s : State) (pos : Nat) (x : Strand) (p : Pend) (i : Instr) (v : List Reg) (h : Option DWord)
    (prio : Nat) : State :=
    let old := x.view p
    match s.closureDo pos x i v (h.getD (((closureSrc i).map old.handle).getD 0)) prio with
    | .error t => match t.upset, t.fault with
      | true, some (src, f) => s.upsetFault (s.ctxNum x) (coreOf pos) x.index src f
      | _, _ => s.modPend pos p.id fun p => { p with act := .refused t.cause t.detail t.fault }
    | .ok r => (r.released old).modStrand pos fun x => x.finish p fun y => (r.write y).write r.regs 0

/-- A strand that has exited releases its handles behind its closure words. -/
def State.releaseHandles (s : State) (pos : Nat) : State :=
  match s.strand? pos with
  | none => s
  | some x =>
    if x.run ≠ .exited ∨ x.closPending x.nextId ∨ x.regs.k.all (· == 0) then s
    else (x.regs.k.foldl State.release s).modStrand pos fun x => { x with regs := { x.regs with k := x.regs.k.map fun _ => 0 } }

/-- An exited strand goes on as its instructions complete: handles, knots, and in the end its place aside. -/
def State.windUp (s : State) (pos : Nat) : State :=
  let s := (s.releaseHandles pos).depart pos
  if places ≤ pos ∧ (s.strand? pos).any (fun x => !x.lingers) then { s with strands := s.strands.erase pos } else s

/-! ## The words (R321 to R323) -/

/-- cap -/
def execCap (l : Long) (k : Nat) (en : CapEntry) (f n : Nat) (s : State) : Res := s.closureWord (.cap l k en f n) l

/-- capr -/
def execCapr (l : Long) (k : Nat) (a b : Src) (s : State) : Res := s.closureWord (.capr l k a b) l

/-- kdup -/
def execKdup (l : Long) (kd ks : Nat) (s : State) : Res := s.closureWord (.kdup l kd ks) l

/-- kdrop -/
def execKdrop (l : Long) (k : Nat) (s : State) : Res := s.closureWord (.kdrop l k) l

/-- A handle's access in one lane, in its place among the closure words of the strand. -/
def State.handleAccess (s : State) (i : Instr) (l : Long) (w : Wants) (o : Order) (op : Strand → MemOp) : Res :=
  .next (s.pointwise i fun x k st => s.accessLane x i k st l .closure w o (op st))

/-- kst: stored as `st` of b64 does, 8-byte aligned. -/
def execKst (os : Option Scope) (l : Long) (k : Nat) (a : Addr) (s : State) : Res :=
  s.handleAccess (.kst os l k a) l ⟨a, 8, 8, .write, srcStore, .scratch⟩ (relOrder os) fun st =>
    match st.sourceNow (.kst os l k a) with
    | some h => .store h.toNat
    | none => .storeK k

/-- kld: the handle is checked and counted when it has been read. -/
def execKld (os : Option Scope) (l : Long) (k : Nat) (a : Addr) (s : State) : Res :=
  s.handleAccess (.kld os l k a) l ⟨a, 8, 1, .read, srcLoad, .scratch⟩ (acqOrder os) fun _ => .loadK k

/-- A loaded handle checked: null, the handle, or the trap (R309, R320). -/
def State.checkHandle (s : State) (ctx : Nat) (v : Nat) : Except TrapReq DWord :=
  let h := BitVec.ofNat 64 v
  let e := s.env (envKey h)
  if !v.testBit 63 then .ok 0
  else if bits v 62 56 ≠ 0 ∨ bits v 11 0 ≠ 0 ∨ 383 < bits v 31 23 then .error (danglingClosure 4)
  else if bits v 55 48 ≠ ctx ∨ (e.st ≠ .free ∧ e.ctx ≠ ctx) then .error (danglingClosure 2)
  else if e.st ≠ .live ∨ e.check ≠ bits v 47 32 then .error (danglingClosure 3)
  else .ok h

/-- What `kld` makes of a loaded handle: null, the handle counted, or the trap. -/
def State.takeHandle (s : State) (ctx : Nat) (v : Nat) : Except TrapReq (State × DWord) :=
  match s.checkHandle ctx v with
  | .error t => .error t
  | .ok h =>
    if h = 0 then .ok (s, 0)
    else match s.addRef (envKey h) with
      | none => .error (envExhausted 2)
      | some s => .ok (s, h)

/-- kinfo -/
def execKinfo (f : KinfoForm) (l : Long) (d k : Nat) (s : State) : Res := s.closureWord (.kinfo f l d k) l

/-- apply (R322). Past an incomplete fence it takes a hold-buffer entry, and the strand stalls at the word (R319). -/
def execApply (p : Pred) (k size : Nat) (s : State) : Res :=
  .next (s.inLaneOrder (.apply p k size) fun x s lane =>
    let pos := posOf x.braid lane
    match s.strand? pos with
    | none => (s, none)
    | some st =>
      if st.pastFence then
        let id := st.nextId
        (s.modStrand pos fun st =>
          { st.issue ⟨p, 15, 15⟩ x.here s.moves .plain true .apply with run := .stalled (.ops [id]) }, none)
      else
        let h := st.handle k
        let e := s.env (envKey h)
        if h = 0 then (s, some (danglingClosure 1))
        else if let some f := s.spansFault e then (s, some (upsetStack f))
        else if !s.spansLive e then (s, some (danglingFrame 1))
        else if st.regs.v.length < (e.vals.length + 1) / 2 * 2 + 2 * e.spans.length then (s, some { cause := cIllegal })
        else match s.call pos st x.here x.next e.entry (64 * size) with
          | .error c => s.callStopped pos c
          | .ok s =>
            let w := e.captures 0
            (s.modStrand pos fun st => { st with regs := st.regs.write w 0 }.overwrite (w.map Prod.fst) fun r =>
              s.freeBit (256 * lane + r), none))

/-- spawn (R323). Past an incomplete fence it is held. -/
def execSpawn (l : Long) (d k : Nat) (a : PairSrc) (s : State) : Res := s.closureWord (.spawn l d k a) l

end Sys2Proof.Machine
end

