-- ==== Sys2Proof/Machine/Control.lean ====
section
/-! DEFINITION. Control transfers (spec 07 R128 to R135). A lane whose predicate fails keeps its point, and falls through
when the word ends. -/

namespace Sys2Proof.Machine

/-- A relative target (02 R36). -/
def Issue.target (x : Issue) (disp : Nat) : DWord := x.clause + BitVec.ofInt 64 (8 * readInt true 32 disp)

def Strand.goto (x : Strand) (a : DWord) : Strand := { x with regs := { x.regs with pc := ⟨a, 0⟩ } }

/-- The watch set of strands that park at a word: the candidates outside its issue set (07 R120). -/
def State.watchSet (s : State) (x : Issue) : BitVec 32 := s.candMask x.braid &&& ~~~x.mask

def Strand.park (x : Strand) (watch : BitVec 32) : Strand := { x with run := .parked watch }

/-- bra (07 R129). -/
def execBra (y : Bool) (p : Pred) (disp hint : Nat) (s : State) : Res :=
  .next (s.pointwise (.bra y p disp hint) fun x _ st =>
    let st := st.goto (x.target disp)
    { st := if y then st.park (s.watchSet x) else st })

/-- jmp (07 R130). -/
def execJmp (p : Pred) (t hint : Nat) (s : State) : Res :=
  .next (s.pointwise (.jmp p t hint) fun _ _ st => { st := st.goto (st.regs.pair t) })

/-- A word that calls: lanes in order, each its own call (07 R126, R131). -/
def State.callWord (s : State) (i : Instr) (size : Nat) (target : Issue → Strand → DWord) : Res :=
  .next (s.inLaneOrder i fun x s k =>
    let pos := posOf x.braid k
    match s.strand? pos with
    | none => (s, none)
    | some st => match s.call pos st x.here x.next (target x st) (64 * size) with
      | .error c => s.callStopped pos c
      | .ok s => (s, none))

/-- call (07 R131). -/
def execCall (p : Pred) (size disp : Nat) (s : State) : Res :=
  s.callWord (.call p size disp) size fun x _ => x.target disp

/-- calli (07 R131). -/
def execCalli (p : Pred) (t size : Nat) (s : State) : Res :=
  s.callWord (.calli p t size) size fun _ st => st.regs.pair t

/-- ret (07 R132). -/
def execRet (p : Pred) (s : State) : Res :=
  .next (s.inLaneOrder (.ret p) fun x s k =>
    let pos := posOf x.braid k
    match s.strand? pos with
    | none => (s, none)
    | some st => match s.ret pos st x.here with
      | .error c => s.callStopped pos c
      | .ok s => (s, none))

/-- The exit of a strand (07 R133): its handles are released, in their place among its closure words, and its knots left, each
behind its contributions to that knot's home (14 R265). What it issued completes, on the registers that it had (16 R299,
R308). -/
def State.exitStrand (s : State) (pos : Nat) : State :=
  (s.modStrand pos fun x =>
    { x with
      run := .exited, held := false, handler := false, frame := none, deferred := none
      leaving := x.leaving ++ x.regs.n.filterMap id, past := some x.regs
      regs := { x.regs with n := x.regs.n.map fun _ => none, a := x.regs.a.map fun _ => .point0, calls := [] } }).windUp pos

/-- exit (07 R133). -/
def execExit (p : Pred) (s : State) : Res :=
  .next (s.inLaneOrder (.exit p) fun x s k => (s.exitStrand (posOf x.braid k), none))

/-- yield (07 R134). -/
def execYield (p : Pred) (s : State) : Res :=
  .next (s.pointwise (.yield p) fun x _ st => { st := (st.goto x.next).park (s.watchSet x) })

/-- Breakpoint (18 R325). -/
abbrev cBreak : Nat := 17

/-- brk (07 R135): the resume point is the next clause. -/
def execBrk (p : Pred) (code : Nat) (s : State) : Res :=
  .next (s.pointwise (.brk p code) fun x _ st =>
    { st := st, trap := some { cause := cBreak, detail := code, resume := some ⟨x.next, 0⟩ } })

end Sys2Proof.Machine
end

