-- ==== Sys2Proof/Machine/Convert.lean ====
section
/-! DEFINITION. Conversions, packs and the counter-based generator (spec 08 R164 to R169). -/

namespace Sys2Proof.Machine

/-- The elements of a run of registers, as values. -/
def runValues (f : CvtFmt) (regs : List Word) (n : Nat) : List FVal :=
  (List.range n).map fun i => cvtRead f (elemOf (cvtWidth f) (runNat regs) i)

/-- Element codes as the registers they fill, missing elements at the zero code (08 R166). -/
def elemRegs (f : CvtFmt) (codes : List Nat) (g : Nat) : List Reg :=
  (wordsOf (packElems (cvtWidth f) codes) g).map fun w => ⟨w, f.tag⟩

/-- The source registers of `cvt`: a single source at any level, or a run (08 R165). -/
def cvtSource (f : CvtFmt) (n : Nat) (a : Src) (e : Lane) : List Word :=
  if f.regs n = 1 ∧ f ≠ .t6 then [e.val f.use a]
  else match a with
    | .v r => e.words r (f.regs n)
    | _ => []

/-- cvt (08 R165). -/
def execCvt (tf ff : CvtFmt) (rm : Rnd) (x : DstA) (a : Src) (q : Nat) (s : State) : Res :=
  s.fixed (.cvt tf ff rm x a q) fun e =>
    let n := Nat.max tf.elems ff.elems
    let us := (List.range n).map (srDraw (e.words q (ceilDiv n 2)))
    let (ys, fl, _) := roundBlock tf rm (.fin false 0 0) (runValues ff (cvtSource ff n a e) n) us
    ⟨regsFrom x.d (elemRegs tf ys (tf.regs n)), fl⟩

/-- The residual that ef starts from: a NaN or ±∞ counts as 0 (08 R166). -/
def efStart (x : FVal) : FVal := if x.isFin then x else .fin false 0 0

/-- cvtb (08 R166). -/
def execCvtb (tf : CvtFmt) (rm : Rnd) (residual : Bool) (x : DstA) (a n : Nat) (b : Src) (s : State) : Res :=
  s.fixed (.cvtb tf rm residual x a n b) fun e =>
    let us := match b with
      | .v q => (List.range n).map (srDraw (e.words q (ceilDiv n 2)))
      | _ => []
    let d := if rm = .ef then efStart (e.f32 b) else .fin false 0 0
    let (ys, fl, r) := roundBlock tf rm d (runValues .f32 (e.words a n) n) us
    let out := elemRegs tf ys (tf.regs n)
    let rest := if residual then [Reg.ofNat (f32.round (.rm .rne) r).1 .f32] else []
    ⟨regsFrom x.d (out ++ rest), fl⟩

/-- pack (08 R167). -/
def execPack (f : PackFmt) (ah bh : Bool) (x : DstA) (a b : Src) (s : State) : Res :=
  s.fixed (.pack f ah bh x a b) fun e => .one x.d ⟨packVal ah bh (e.val f.use a) (e.val f.use b), packTag f⟩

/-- unpack (08 R168). -/
def execUnpack (f : PackFmt) (x : DstA) (a b : Src) (s : State) : Res :=
  s.fixed (.unpack f x a b) fun e => .one x.d ⟨unpackVal f (e.val f.use a) (e.val .i32 b), packTag f⟩

/-- rngx: the draw and its counter's advance in one step (08 R169). -/
def execRngx (x : DstA) (a b : Nat) (s : State) : Res :=
  s.fixed (.rngx x a b) fun e =>
    let ctr := runNat (e.words a 4)
    let out := rngOut ctr (e.regs.pair b).toNat
    let tag := fun (w : Word) => (⟨w, .i32⟩ : Reg)
    ⟨regsFrom x.d ((wordsOf out 4).map tag) ++ regsFrom a ((wordsOf (ctr + 1) 4).map tag), 0⟩

end Sys2Proof.Machine
end

