-- ==== Sys2Proof/Machine/Float.lean ====
section
/-! DEFINITION. F32 arithmetic and H16 pairs (spec 08 R155 to R163). -/

namespace Sys2Proof.Machine

/-- A result code and its flags as an F32 write. -/
def f32Result (d : Nat) (r : Nat × FFlags) : Writes := .one d (Reg.ofNat r.1 .f32) r.2

/-- An H16 word applies the F32 rule to each element in binary16 (08 R163). -/
def halves (d : Nat) (t : Tag) (f : Nat → Nat → Nat → Nat × FFlags) (a b c : Word) : Writes :=
  let el := fun (i : Nat) => f (elemOf 16 a.toNat i) (elemOf 16 b.toNat i) (elemOf 16 c.toNat i)
  .one d (Reg.ofNat (packElems 16 [(el 0).1, (el 1).1]) t) ((el 0).2 ||| (el 1).2)

/-- fadd (08 R156). -/
def execFadd (rm : Rm) (x : DstA) (a b : Src) (s : State) : Res :=
  s.fixed (.fadd rm x a b) fun e => f32Result x.d (fAdd f32 rm (e.f32 a) (e.f32 b))

/-- fmul (08 R156). -/
def execFmul (rm : Rm) (x : DstA) (a b : Src) (s : State) : Res :=
  s.fixed (.fmul rm x a b) fun e => f32Result x.d (fMul f32 rm (e.f32 a) (e.f32 b))

/-- fdiv (08 R156). -/
def execFdiv (rm : Rm) (x : DstA) (a b : Src) (s : State) : Res :=
  s.fixed (.fdiv rm x a b) fun e => f32Result x.d (fDiv f32 rm (e.f32 a) (e.f32 b))

/-- fsub (08 R156). -/
def execFsub (rm : Rm) (x : DstA) (a b : Src) (s : State) : Res :=
  s.fixed (.fsub rm x a b) fun e => f32Result x.d (fAdd f32 rm (e.f32 a) (e.f32 b).negate)

/-- ffma (08 R156). -/
def execFfma (rm : Rm) (x : DstA) (a b c : Src) (s : State) : Res :=
  s.fixed (.ffma rm x a b c) fun e => f32Result x.d (fFma f32 rm (e.f32 a) (e.f32 b) (e.f32 c))

/-- fsqrt (08 R156). -/
def execFsqrt (rm : Rm) (x : DstA) (a : Src) (s : State) : Res :=
  s.fixed (.fsqrt rm x a) fun e => f32Result x.d (fSqrt f32 rm (e.f32 a))

/-- frcp (08 R156). -/
def execFrcp (rm : Rm) (x : DstA) (a : Src) (s : State) : Res :=
  s.fixed (.frcp rm x a) fun e => f32Result x.d (fRcp f32 rm (e.f32 a))

/-- frsq (08 R156). -/
def execFrsq (rm : Rm) (x : DstA) (a : Src) (s : State) : Res :=
  s.fixed (.frsq rm x a) fun e => f32Result x.d (fRsq f32 rm (e.f32 a))

/-- fexp2 (08 R156). -/
def execFexp2 (rm : Rm) (x : DstA) (a : Src) (s : State) : Res :=
  s.fixed (.fexp2 rm x a) fun e => f32Result x.d (fExp2 f32 rm (e.f32 a))

/-- flog2 (08 R156). -/
def execFlog2 (rm : Rm) (x : DstA) (a : Src) (s : State) : Res :=
  s.fixed (.flog2 rm x a) fun e => f32Result x.d (fLog2 f32 rm (e.f32 a))

/-- fmin (08 R157). -/
def execFmin (nan : Bool) (x : DstA) (a b : Src) (s : State) : Res :=
  s.fixed (.fmin nan x a b) fun e => f32Result x.d (fMinMax f32 false nan (e.nat .f32 a) (e.nat .f32 b))

/-- fmax (08 R157). -/
def execFmax (nan : Bool) (x : DstA) (a b : Src) (s : State) : Res :=
  s.fixed (.fmax nan x a b) fun e => f32Result x.d (fMinMax f32 true nan (e.nat .f32 a) (e.nat .f32 b))

/-- fabs (08 R158). -/
def execFabs (x : DstA) (a : Src) (s : State) : Res :=
  s.fixed (.fabs x a) fun e => f32Result x.d (fSetSign f32 false (e.nat .f32 a), 0)

/-- fneg (08 R158). -/
def execFneg (x : DstA) (a : Src) (s : State) : Res :=
  s.fixed (.fneg x a) fun e => f32Result x.d (fSetSign f32 (!(e.nat .f32 a).testBit 31) (e.nat .f32 a), 0)

/-- fcsgn (08 R158). -/
def execFcsgn (x : DstA) (a b : Src) (s : State) : Res :=
  s.fixed (.fcsgn x a b) fun e => f32Result x.d (fSetSign f32 ((e.nat .f32 b).testBit 31) (e.nat .f32 a), 0)

/-- fcmp (08 R159). -/
def execFcmp (k : FCond) (x : DstA) (a b : Src) (s : State) : Res :=
  s.fixed (.fcmp k x a b) fun e =>
    let r := fCompare k (e.f32 a) (e.f32 b)
    .one x.d ⟨if r.1 then 1 else 0, .i32⟩ r.2

/-- frnd (08 R160). -/
def execFrnd (exact : Bool) (rm : Rm) (x : DstA) (a : Src) (s : State) : Res :=
  s.fixed (.frnd exact rm x a) fun e => f32Result x.d (fRnd f32 exact rm (e.nat .f32 a))

/-- ffract (08 R161). -/
def execFfract (x : DstA) (a : Src) (s : State) : Res :=
  s.fixed (.ffract x a) fun e => f32Result x.d (fFract f32 (e.nat .f32 a))

/-- fclass (08 R162). -/
def execFclass (x : DstA) (a : Src) (s : State) : Res :=
  s.fixed (.fclass x a) fun e => .one x.d (Reg.ofNat (fClass f32 (e.nat .f32 a)) .i32)

/-- hadd (08 R163). -/
def execHadd (rm : Rm) (x : DstA) (a b : Src) (s : State) : Res :=
  s.fixed (.hadd rm x a b) fun e => halves x.d .h16x2 (fun p q _ => fAdd h16 rm (h16.decode p) (h16.decode q)) (e.val .h16 a) (e.val .h16 b) (e.val .h16 a)

/-- hsub (08 R163). -/
def execHsub (rm : Rm) (x : DstA) (a b : Src) (s : State) : Res :=
  s.fixed (.hsub rm x a b) fun e => halves x.d .h16x2 (fun p q _ => fAdd h16 rm (h16.decode p) (h16.decode q).negate) (e.val .h16 a) (e.val .h16 b) (e.val .h16 a)

/-- hmul (08 R163). -/
def execHmul (rm : Rm) (x : DstA) (a b : Src) (s : State) : Res :=
  s.fixed (.hmul rm x a b) fun e => halves x.d .h16x2 (fun p q _ => fMul h16 rm (h16.decode p) (h16.decode q)) (e.val .h16 a) (e.val .h16 b) (e.val .h16 a)

/-- hfma (08 R163). -/
def execHfma (rm : Rm) (x : DstA) (a b c : Src) (s : State) : Res :=
  s.fixed (.hfma rm x a b c) fun e => halves x.d .h16x2 (fun p q r => fFma h16 rm (h16.decode p) (h16.decode q) (h16.decode r)) (e.val .h16 a) (e.val .h16 b) (e.val .h16 c)

/-- hmin (08 R163). -/
def execHmin (nan : Bool) (x : DstA) (a b : Src) (s : State) : Res :=
  s.fixed (.hmin nan x a b) fun e => halves x.d .h16x2 (fun p q _ => fMinMax h16 false nan p q) (e.val .h16 a) (e.val .h16 b) (e.val .h16 a)

/-- hmax (08 R163). -/
def execHmax (nan : Bool) (x : DstA) (a b : Src) (s : State) : Res :=
  s.fixed (.hmax nan x a b) fun e => halves x.d .h16x2 (fun p q _ => fMinMax h16 true nan p q) (e.val .h16 a) (e.val .h16 b) (e.val .h16 a)

/-- hcmp (08 R163). -/
def execHcmp (k : FCond) (x : DstA) (a b : Src) (s : State) : Res :=
  s.fixed (.hcmp k x a b) fun e => halves x.d .i16x2 (fun p q _ => let z := fCompare k (h16.decode p) (h16.decode q); (if z.1 then 1 else 0, z.2)) (e.val .h16 a) (e.val .h16 b) (e.val .h16 a)

end Sys2Proof.Machine
end

