-- ==== Sys2Proof/Machine/BraidOps.lean ====
section
/-! DEFINITION. The braid instructions (spec 07 R136 to R140) and the gather point (R137). Every lane reads the state
before the word; the active set is the lanes that pass the predicate and the format-tag check. -/

namespace Sys2Proof.Machine

/-- The values of one source over the active set, in ascending lane (07 R136). -/
def State.gathered (s : State) (x : Issue) (i : Instr) (u : Use) (a : Src) : List (Nat × Reg) :=
  (s.passing x i).map fun p => (p.1, (s.lane x p.1 p.2).src u a)

/-- The release fences, not complete yet, of the other lanes of the active set that lane l receives from (11 R219). -/
def State.handoffs (s : State) (x : Issue) (i : Instr) (l : Nat) (gives : Nat → Bool) : List (Nat × Nat) :=
  ((s.passing x i).filter fun p => p.1 != l && gives p.1).flatMap fun p => (p.2.outs.filter fun q => match q.act with
    | .fence k .. => k != .acq
    | _ => false).map fun q => (posOf x.braid p.1, q.id)

/-- The strand has received values across a handoff. -/
def Strand.receive (x : Strand) (l : List (Nat × Nat)) : Strand := if l.isEmpty then x else { x with handed := x.handed ++ l }

/-- A braid word: lane l writes what `f` makes of the gathered values, its own lane and what it reads; `gives` says which
lanes it receives from. -/
def State.braidWord (s : State) (i : Instr) (u : Use) (a : Src) (f : List (Nat × Reg) → Nat → Lane → Writes)
    (gives : Nat → Lane → Nat → Bool := fun _ _ _ => true) : Res :=
  .next (s.pointwise i fun x l st =>
    let e := s.lane x l st
    { st := (st.put i.info.cap (f (s.gathered x i u a) l e)).receive (s.handoffs x i l (gives l e)) })

/-- Source lane of `shfl` (07 R138). -/
def shflLane (m : ShflMode) (l b : Nat) : Option Nat :=
  let j : Int := match m with
    | .idx => (b % 32 : Nat)
    | .up => (l : Int) - b
    | .down => (l : Int) + b
    | .xor => (l.xor (b % 32) : Nat)
  if 0 ≤ j ∧ j ≤ 31 then some j.toNat else none

/-- shfl (07 R138). -/
def execShfl (m : ShflMode) (x : DstA) (a b c : Src) (s : State) : Res :=
  s.braidWord (.shfl m x a b c) .any a (fun vals l e =>
    .one x.d <| match (shflLane m l (e.nat .i32 b)).bind fun j => vals.find? (·.1 == j) with
      | some p => p.2
      | none => e.src .any c) fun l e j => shflLane m l (e.nat .i32 b) == some j

/-- vote (07 R139). -/
def execVote (m : VoteMode) (x : DstA) (a : Src) (s : State) : Res :=
  s.braidWord (.vote m x a) .any a fun vals _ _ =>
    let vs := vals.map fun p => p.2.val
    let r := match m with
      | .all => vs.all (· != 0)
      | .any => vs.any (· != 0)
      | .uni => vs.all (· == vs.headD 0)
    .one x.d ⟨if r then 1 else 0, .i32⟩

/-- ballot (07 R139). -/
def execBallot (x : DstA) (a : Src) (s : State) : Res :=
  s.braidWord (.ballot x a) .any a fun vals _ _ =>
    .one x.d ⟨maskOf ((vals.filter fun p => p.2.val != 0).map Prod.fst), .i32⟩

/-- The result of a scan or reduction in lane l, with its tag and flags. -/
def foldWrite (d : Nat) (op : FoldOp) (k : FoldKind) (vals : List (Nat × Reg)) (l : Nat) : Writes :=
  let r := foldAt op k (vals.map fun p => (p.1, p.2.val)) l
  .one d ⟨r.1, foldTag op⟩ r.2

/-- scan (07 R140). -/
def execScan (op : FoldOp) (ex : Bool) (x : DstA) (a : Src) (s : State) : Res :=
  s.braidWord (.scan op ex x a) op.use a (fun vals l _ => foldWrite x.d op (if ex then .excl else .incl) vals l)
    fun l _ j => decide (j ≤ l)

/-- red (07 R140). -/
def execRed (op : FoldOp) (x : DstA) (a : Src) (s : State) : Res :=
  s.braidWord (.red op x a) op.use a fun vals l _ => foldWrite x.d op .all vals l

/-- The word at which a strand has trapped, if it has: pending, deferred, held or in its handler. -/
def Strand.trappedAt (x : Strand) : Option Point :=
  match x.deferred with
  | some r => some ⟨r.clause, r.word⟩
  | none => if x.handler ∨ x.run = .trapped then some ⟨x.trap.clause, x.trap.word⟩ else none

/-- Is a point at words 1 to w − 1 of a clause? -/
def Point.beforeWord (p : Point) (clause : DWord) (w : Nat) : Bool :=
  p.clause == clause && decide (1 ≤ p.word ∧ p.word < w)

/-- Does a strand hold back a gather at word w of a clause with its depth? One that is not exited and stands at the
same key with a resume point or trap at words 1 to w − 1 (07 R137). A strand in handler mode stands where it trapped,
for a gather outside handlers. -/
def holdsBack (handler : Bool) (depth : Nat) (clause : DWord) (w : Nat) (st : Strand) : Bool :=
  let r := if handler then st.regs else st.frame.getD st.regs
  st.run != .exited && (st.handler || !handler) && r.depth == depth && r.pc.clause == clause &&
    (r.pc.beforeWord clause w || (!handler && st.trappedAt.any fun p => p.beforeWord clause w))

/-- Is some other strand of the braid before the gather point? The lanes in `mask` are at it. -/
def State.gatherBlocked (s : State) (b : Nat) (mask : BitVec 32) (st : Strand) (clause : DWord) (w : Nat) : Bool :=
  (s.braidStrands b).any fun p =>
    !mask.getLsbD (laneOf p.1) && holdsBack st.handler st.regs.depth clause w p.2

/-- Does the issue set in progress of a braid stand at a point? -/
def State.setAt (s : State) (b : Nat) (pt : Point) : Bool :=
  (s.quarter (b / 16)).cur.any fun i => i.braid == b && i.mask != 0 && i.here == pt

/-- Strands of a braid stalled at a gather point that nothing holds back any more are candidates again; where the last of the
others has come there, they join its set instead. -/
def State.releaseGather (s : State) (b : Nat) : State :=
  { s with strands := s.strands.mapVals fun pos st =>
      if braidOf pos = b ∧ st.run = .stalled .gather ∧ s.gatherBlocked b 0 st st.regs.pc.clause st.regs.pc.word = false ∧
        s.setAt b st.regs.pc = false
      then { st with run := .candidate } else st }

/-- The strands gathered at the braid word to which the issue set has come form one set with it, once nothing holds them back: the
active set is the same whichever strand comes last (R137). -/
def State.joinGather (s : State) : State :=
  match s.cur with
  | none => s
  | some x =>
    if s.stepping ∨ bits (x.words.getD (x.word - 1) 0).toNat 63 56 / 16 ≠ 5 then s
    else match (lanesOf x.mask).findSome? fun l => s.strand? (posOf x.braid l) with
      | none => s
      | some lead =>
        let joins := fun (pos : Nat) (y : Strand) => braidOf pos == x.braid && y.run == .stalled .gather && !y.held &&
          y.regs.pc == x.here && y.regs.depth == lead.regs.depth && y.handler == lead.handler &&
          !s.gatherBlocked x.braid 0 y x.clause x.word
        let more := (s.strands.filter fun p => joins p.1 p.2).map fun p => laneOf p.1
        ({ s with strands := s.strands.mapVals fun pos y => if joins pos y then { y with run := .candidate } else y }).setCur
          { x with mask := x.mask ||| maskOf more }

/-- GATHER_POINT_RELEASE (07 R137). -/
def execGatherPointRelease (braid : Nat) (s : State) : Res := .next (s.releaseGather braid)

end Sys2Proof.Machine
end

