-- ==== Sys2Proof/Machine/Copy.lean ====
section
/-! DEFINITION. The copy engine (spec 15): commands and their acceptance, the layout record, chunks by deficit round-robin,
and completion. -/

namespace Sys2Proof.Machine

/-! ## The engine of a core -/

def CopyEngine.idle : CopyEngine := ⟨[[], [], [], []], [0, 0, 0, 0], 3, false⟩

def State.engine (s : State) (core : Nat) : CopyEngine := s.copyEngines.getD core .idle
def State.setEngine (s : State) (core : Nat) (e : CopyEngine) : State := { s with copyEngines := s.copyEngines.set core e }

def CopyEngine.queue (e : CopyEngine) (cls : Nat) : List CopyCmd := e.queues.getD cls []
def CopyEngine.setQueue (e : CopyEngine) (cls : Nat) (l : List CopyCmd) : CopyEngine :=
  { e with queues := e.queues.set cls l }

/-- The command at the head of a class. -/
def State.copyHead (s : State) (core cls : Nat) : Option CopyCmd := ((s.engine core).queue cls).head?

def State.setCopyHead (s : State) (core cls : Nat) (c : CopyCmd) : State :=
  let e := s.engine core
  s.setEngine core (e.setQueue cls (c :: (e.queue cls).drop 1))

/-- Commands of a class of a core that a suspended context keeps: they have their entries still. -/
def State.parkedCopies (s : State) (core cls : Nat) : List CopyCmd :=
  s.ctxs.flatMap fun c => (c.2.copies.filter fun q => q.1 == core && q.2.1 == cls).map fun q => q.2.2

/-- Commands of a class of a core that are not complete: in the queue, in the arbiter, or saved with their hank or context. -/
def State.copiesOpen (s : State) (core cls : Nat) : List Nat :=
  ((s.engine core).queue cls).map CopyCmd.uid ++
  (s.events.getD core []).filterMap (fun e => match e with
    | .copy k c => if k = cls then some c.uid else none
    | _ => none) ++
  (s.parkedCopies core cls).map CopyCmd.uid ++
  s.saved.flatMap fun h => if h.hank.core = core then (h.copies.filter (·.1 == cls)).map (·.2.uid) else []

/-! ## Acceptance (R279, R286, R291) -/

def copyQueueCap : Nat := 32

/-- The barrier counts the command as attached, or the closure is referenced. -/
def State.attach (s : State) (core : Nat) (c : CopyCmd) : State × Bool :=
  match c.att with
  | .nothing => (s, false)
  | .barrier b =>
    let key := barKey core b
    match s.barriers.get? key with
    | some x => if x.owner = c.hank then (s.setBarrier key { x with att := x.att + 1 }, true) else (s, false)
    | none => (s, false)
  | .closure _ =>
    let e := s.env (envKey c.handle)
    if e.st = .free ∨ e.check ≠ bits c.handle.toNat 47 32 then (s, false)
    else match s.addRef (envKey c.handle) with
      | some s => (s, true)
      | none => (s, false)

/-- The layout record as the engine could read it now, where it can. -/
def State.recordNow (s : State) (core : Nat) (c : CopyCmd) : Option Nat :=
  if c.kind = .fence ∨ c.recAddr.toNat % 64 ≠ 0 then none
  else match s.parts core c.ctx .read c.recAddr.toNat 64 with
    | .error _ => none
    | .ok ps => if (s.busFault false ps).isSome then none else some (s.seenParts (coreAgent core) ps)

/-- The command enters its queue. A strand may overwrite its record before it starts: it keeps the version that stands there now
(R292). -/
def State.acceptCopy (s : State) (core cls : Nat) (c : CopyCmd) : State :=
  let (s, ok) := s.attach core c
  let (uid, s) := s.fresh
  let joins := match c.kind with
    | .fence => ((List.range 4).filter fun k => (c.c.headD 0).testBit k || k == cls).flatMap (s.copiesOpen core)
    | _ => []
  let e := s.engine core
  s.setEngine core (e.setQueue cls (e.queue cls ++ [{ c with uid := uid, attached := ok, joins := joins, old := s.recordNow core c }]))

/-- Entries of a class in use. -/
def State.copyCount (s : State) (core cls : Nat) : Nat := ((s.engine core).queue cls).length + (s.parkedCopies core cls).length

def State.copyRoom (s : State) (core cls : Nat) : Bool := decide (s.copyCount core cls < copyQueueCap)

/-- A copy word: past a fence, or behind an entry held since one, it is held; where its class is full the strand blocks at the word; else it is accepted. -/
def State.copyWord (s : State) (i : Instr) (l : Long) (cls d : Nat) (kind : CopyKind) (att : Attach)
    (args : Lane → DWord × List Nat) : Res :=
  .next (s.inLaneOrder i fun x s k =>
    let pos := posOf x.braid k
    match s.strand? pos with
    | none => (s, none)
    | some st =>
      let h := match att with
        | .closure k => st.handle k
        | _ => 0
      let noClosure := match att with
        | .closure _ => h == 0
        | _ => false
      let a := args (s.lane x k st)
      let c : CopyCmd :=
        { uid := 0, kind := kind, ctx := s.ctxNum st, hank := st.hank,
          launch := ((s.hankOf st).map Hank.launch).getD 0, opener := s.launchOf st, nb := s.nbOf st, pos := pos,
          index := st.index, pend := st.nextId, dst := d,
          recAddr := a.1, c := a.2, att := att, attached := false, handle := h, joins := [], record := none, done := 0,
          bytes := 0, rows := 0, row := none, code := 0, svc := none, finished := false, prio := s.prioOf pos }
      if noClosure then (s, some (danglingClosure 1))
      else if st.mustHold then
        (s.modStrand pos fun st => st.issue l x.here s.moves .plain true (.copy cls c), none)
      else if s.copyRoom (coreOf pos) cls then
        ((s.modStrand pos fun st => st.issue l x.here s.moves .plain false .waiting).acceptCopy (coreOf pos) cls c, none)
      else (s.modStrand pos fun st => { st with run := .blocked (.copyQueue cls) }, none))

def Lane.copyArgs (e : Lane) (r c n : Nat) : DWord × List Nat := (e.regs.pair r, (e.words c n).map BitVec.toNat)

/-- cpb (R287) -/
def execCpb (cls : Nat) (att : Attach) (l : Long) (d r c : Nat) (s : State) : Res :=
  s.copyWord (.cpb cls att l d r c) l cls d .box att fun e => e.copyArgs r c 6

/-- cpg (R288) -/
def execCpg (cls : Nat) (att : Attach) (l : Long) (d r c : Nat) (s : State) : Res :=
  s.copyWord (.cpg cls att l d r c) l cls d .gather att fun e => e.copyArgs r c 3

/-- cps (R288) -/
def execCps (cls : Nat) (att : Attach) (l : Long) (d r c : Nat) (s : State) : Res :=
  s.copyWord (.cps cls att l d r c) l cls d .scatter att fun e => e.copyArgs r c 3

/-- cpf (R287) -/
def execCpf (cls : Nat) (att : Attach) (l : Long) (d r c : Nat) (s : State) : Res :=
  s.copyWord (.cpf cls att l d r c) l cls d .fill att fun e => e.copyArgs r c 6

/-- cqf (R289) -/
def execCqf (cls mask : Nat) (l : Long) (d : Nat) (s : State) : Res :=
  s.copyWord (.cqf cls mask l d) l cls d .fence .nothing fun _ => (0, [mask])

/-! ## The layout record (R282, R283), as the number of its 64 bytes -/

def recFmt (r : Nat) : Nat := bits r 495 493
def recToGlobal (r : Nat) : Bool := r.testBit 492
def recDims (r : Nat) : Nat := bits r 491 489
def recScope (r : Nat) : Nat := bits r 488 486
/-- Elements of dimension 0 in one unit, and the bytes of the unit. -/
def recGroup (r : Nat) : Nat := if recFmt r = 5 then 16 else 1
def recUnit (r : Nat) : Nat := if recFmt r = 5 then 12 else 2 ^ recFmt r
def recBox (r i : Nat) : Nat :=
  if i < recDims r then r / 2 ^ (416 + 14 * i) % 2 ^ 14 / (if i = 0 then recGroup r else 1) else 1
def recSize (r i : Nat) : Nat := r / 2 ^ (64 + 32 * i) % 2 ^ 32 / (if i = 0 then recGroup r else 1)
def recStride (r i : Nat) : Nat := r / 2 ^ (256 + 40 * (i - 1)) % 2 ^ 40
def recBase (r : Nat) : Nat := r % 2 ^ 64

/-- The fill element. -/
def recFill (r : Nat) : Nat :=
  let f := bits r 255 224
  match recFmt r with
  | 0 => f % 256
  | 1 => f % 65536
  | 2 => f
  | 3 => f * (2 ^ 32 + 1)
  | 4 => f * (2 ^ 96 + 2 ^ 64 + 2 ^ 32 + 1)
  | _ => ((List.range 16).map fun j => f % 64 * 2 ^ (6 * j)).sum

def CopyCmd.arg (c : CopyCmd) (i : Nat) : Nat := c.c.getD i 0

/-- Does the command move rows by index? -/
def CopyCmd.indexed (c : CopyCmd) : Bool := c.kind == .gather || c.kind == .scatter

/-- Origin in dimension i, in units. -/
def CopyCmd.origin (c : CopyCmd) (r i : Nat) : Int := readInt true 32 (c.arg i) / (if i = 0 then recGroup r else 1 : Nat)

/-- The check of R283: 0, or the code. -/
def CopyCmd.check (c : CopyCmd) (r : Nat) : Nat :=
  let dims := recDims r
  let box0 := bits r 429 416
  let t6Bad := recFmt r == 5 &&
    (decide (bits r 95 64 % 16 ≠ 0 ∨ box0 % 16 ≠ 0) || (!c.indexed && decide (c.arg 0 % 16 ≠ 0)))
  let vol := ((List.range 5).map (recBox r)).foldl (· * ·) 1 * recUnit r
  let align := if recFmt r = 5 then 4 else recUnit r
  let used := if c.indexed then [1] else (List.range dims).filter (0 < ·)
  let offsets := match c.kind with
    | .gather | .scatter => [c.arg 0, c.arg 2]
    | .fill => if recToGlobal r then [] else [c.arg 5]
    | _ => [c.arg 5]
  if bits r 503 496 ≠ 1 ∨ bits r 511 504 ≠ 0 ∨ 6 ≤ recFmt r ∨ dims = 0 ∨ 5 < dims ∨ recScope r = 0 then 3
  else if t6Bad then 3
  else if 2 ^ 22 < vol then 3
  else if c.indexed && (decide (dims < 2) || decide (65536 < c.arg 1)) then 3
  else if recBase r % align != 0 || used.any (fun i => recStride r i % align != 0) || offsets.any (· % 16 != 0) then 4
  else 0

/-- Units that the command visits. -/
def CopyCmd.total (c : CopyCmd) (r : Nat) : Nat :=
  if (List.range 5).any fun i => recBox r i == 0 then 0
  else if c.indexed then c.arg 1 * recBox r 0
  else ((List.range 5).map (recBox r)).foldl (· * ·) 1

/-! ## Moving one unit (R287, R288) -/

/-- Where a unit comes from or goes: `outside` breaks the bounds of CODE 3; a scratchpad span begins at `base`. -/
inductive CopyEnd where
  | fill | clipped | outside
  | global (a : Nat)
  | scratch (base o : Nat)
  deriving DecidableEq, Repr, Inhabited

/-- The scratchpad parts of n bytes at an offset of a span that begins at `base`, in pieces of at most 4 bytes, where R105
and the bank's mode allow; a span stays in one hank's allocation (R284). -/
def State.copySpan (s : State) (hank base off : Nat) : Nat → Nat → Option (List Part)
  | 0, _ => some []
  | fuel + 1, n =>
    if n = 0 then some []
    else match (s.hanks.get? hank).bind fun h => s.window h off with
      | none => none
      | some (b, o) =>
        if (s.bank b).mode ≠ .scratch ∨ off / 2 ^ 22 ≠ base / 2 ^ 22 then none
        else (s.copySpan hank base (off + 4) fuel (n - 4)).map fun l =>
          { key := bankKey b o, len := Nat.min n 4, ord := .rc, va := off } :: l

/-- Unit i of a box, inside the tensor or not, as a place in global memory. -/
def CopyCmd.boxGlobal (c : CopyCmd) (r i : Nat) : Option Nat :=
  let b := recBox r
  let y := [i % b 0, i / b 0 % b 1, i / (b 0 * b 1) % b 2, i / (b 0 * b 1 * b 2) % b 3, i / (b 0 * b 1 * b 2 * b 3) % b 4]
  let g := (List.range (recDims r)).map fun d => c.origin r d + ((y.getD d 0 : Nat) : Int)
  if g.zipIdx.all fun p => decide (0 ≤ p.1 ∧ p.1 < ((recSize r p.2 : Nat) : Int)) then
    some ((((recBase r : Nat) : Int) + (g.zipIdx.map fun p =>
      p.1 * ((if p.2 = 0 then recUnit r else recStride r p.2 : Nat) : Int)).sum).toNat % 2 ^ 64)
  else none

/-- Index word k of a gather or scatter: as read when the row began, or as it stands. -/
def State.copyIndex (s : State) (core : Nat) (c : CopyCmd) (k : Nat) : Option (List Part × Nat) :=
  (s.copySpan c.hank (c.arg 0) (c.arg 0 + 4 * k) 1 4).map fun ps =>
    (ps, match c.row with
      | some (n, x) => if n = k then x else s.seenParts (coreAgent core) ps
      | none => s.seenParts (coreAgent core) ps)

/-- The row of unit i, noted with its index where it begins (R288). -/
def State.noteRow (s : State) (core : Nat) (c : CopyCmd) (r i : Nat) : CopyCmd :=
  if c.indexed then
    let k := i / recBox r 0
    { c with row := (s.copyIndex core c k).map fun x => (k, x.2) }
  else c

/-- Source and destination of unit i. -/
def State.copyMove (s : State) (core : Nat) (c : CopyCmd) (r i : Nat) : CopyEnd × CopyEnd :=
  let e := recUnit r
  let scr := CopyEnd.scratch (c.arg 5) (c.arg 5 + i * e)
  match c.kind with
  | .box => match recToGlobal r, c.boxGlobal r i with
    | false, some a => (.global a, scr)
    | false, none => (.fill, scr)
    | true, some a => (scr, .global a)
    | true, none => (scr, .clipped)
  | .fill => match recToGlobal r, c.boxGlobal r i with
    | false, _ => (.fill, scr)
    | true, some a => (.fill, .global a)
    | true, none => (.fill, .clipped)
  | .gather | .scatter =>
    match s.copyIndex core c (i / recBox r 0) with
    | none => (.outside, .outside)
    | some (_, x) =>
      let a := (recBase r + x * recStride r 1 + i % recBox r 0 * e) % 2 ^ 64
      let row := CopyEnd.scratch (c.arg 2) (c.arg 2 + i * e)
      let inside := decide (x < recSize r 1)
      if c.kind = .gather then (if inside then .global a else .fill, row)
      else (row, if inside then .global a else .clipped)
  | .fence => (.fill, .clipped)

/-- Why a unit did not move: CODE 3, or what an access met. -/
inductive CopyStop where
  | bounds
  | fault (f : XFault)
  deriving DecidableEq, Repr, Inhabited

/-- The parts of a unit in global memory. -/
def State.copyParts (s : State) (core : Nat) (c : CopyCmd) (write : Bool) (a len : Nat) : Except CopyStop (List Part) :=
  match s.parts core c.ctx (if write then .write else .read) a len with
  | .error f => .error (.fault f)
  | .ok ps => match s.reachFault write ps with
    | some f => .error (.fault f)
    | none => .ok ps

/-- The parts of a unit in scratchpad space. -/
def State.copyScratch (s : State) (c : CopyCmd) (r base o : Nat) : Except CopyStop (List Part) :=
  match s.copySpan c.hank base o 4 (recUnit r) with
  | none => .error .bounds
  | some ps => match s.busFault false ps with
    | some f => .error (.fault f)
    | none => .ok ps

/-- What the source of a unit gives, and the parts that were read. -/
def State.copyRead (s : State) (core : Nat) (c : CopyCmd) (r : Nat) (e : CopyEnd) : Except CopyStop (Nat × List Part) :=
  let read := fun (x : Except CopyStop (List Part)) => match x with
    | .error f => Except.error f
    | .ok ps => .ok (s.seenParts (coreAgent core) ps, ps)
  match e with
  | .fill | .clipped => .ok (recFill r, [])
  | .outside => .error .bounds
  | .global a => read (s.copyParts core c false a (recUnit r))
  | .scratch b o => read (s.copyScratch c r b o)

/-- A class of the engine has read parts: it has observed the writes whose values it read (11 R224). -/
def State.copyLearns (s : State) (core cls : Nat) (ps : List Part) : State :=
  s.learn (copyKey core cls) fun w => w.reach.has (coreAgent core) && meetAny w.parts ps

/-- A unit is written, by a free choice for the engine or its core alone before it is performed for all (11 R223). -/
def State.copyWrite (s : State) (core cls : Nat) (c : CopyCmd) (r v : Nat) (e : CopyEnd) : Except CopyStop State :=
  let write := fun (x : Except CopyStop (List Part)) => match x with
    | .error f => Except.error f
    | .ok ps =>
      let s := s.sendParts copyFlit c.uid c.ctx core ps
      .ok (s.putFirst
        { reach := if s.freeBit 2 then allObservers else if s.freeBit 3 then .one (coreAgent core) else units [core]
          ctx := c.ctx, launch := c.opener, by_ := .copy core, id := c.uid, parts := ps, val := v, known := [copyKey core cls] })
  match e with
  | .clipped | .fill => .ok s
  | .outside => .error .bounds
  | .global a => write (s.copyParts core c true a (recUnit r))
  | .scratch b o => write (s.copyScratch c r b o)

/-- An access that fails ends the command with CODE 1 or 2, or holds it (R284), faults the context, or waits for a port
(19 R352). -/
def State.copyFault (s : State) (core : Nat) (c : CopyCmd) (f : XFault) : State × CopyCmd :=
  if f.cause = 0 then (s.awaitLink (.copy c.uid) c.ctx core f.page, c)
  else
    let (s, _, seq) := s.recordFault c.ctx core c.index srcCopy f
    match seq with
    | some q => (s.holdOn c.ctx q (.copy c.uid), { c with svc := some q })
    | none =>
      if f.cause = 7 then (s, c)
      else (s, { c with code := if f.cause = 3 ∨ f.cause = 4 then 2 else 1, finished := true })

/-- The next n units of a command, up to a fault: CODE 1 to 3, or held for device replay. A clipped unit reads nothing. -/
def State.copyUnits (s : State) (core cls : Nat) (c : CopyCmd) (r : Nat) : Nat → State × CopyCmd
  | 0 => (s, c)
  | n + 1 =>
    let c := s.noteRow core c r c.done
    let (src, dst) := s.copyMove core c r c.done
    let indexParts := if c.indexed then ((s.copyIndex core c (c.done / recBox r 0)).map Prod.fst).getD [] else []
    let index := s.busFault false indexParts
    let moved : Except CopyStop (State × Nat) := match index with
      | some f => .error (.fault f)
      | none => if dst = .clipped then .ok (s, 0) else match s.copyRead core c r src with
        | .error e => .error e
        | .ok (v, ps) => match (s.copyLearns core cls (indexParts ++ ps)).copyWrite core cls c r v dst with
          | .error e => .error e
          | .ok s => .ok (s, recUnit r)
    match moved with
    | .ok (s, b) => s.copyUnits core cls { c with done := c.done + 1, bytes := c.bytes + b } r n
    | .error .bounds => (s, { c with code := 3, finished := true })
    | .error (.fault f) => s.copyFault core c f

/-! ## Chunks (R280) -/

/-- Units of the next chunk. -/
def CopyCmd.chunkUnits (c : CopyCmd) (r : Nat) : Nat := Nat.min (2048 / recUnit r) (c.total r - c.done)

/-- Bytes that the next chunk writes. -/
def State.chunkBytes (s : State) (core : Nat) (c : CopyCmd) (r : Nat) : Nat :=
  (((List.range (c.chunkUnits r)).filter fun j => (s.copyMove core c r (c.done + j)).2 != .clipped).length) * recUnit r

/-- Does a change of mode wait at a bank that the hank reaches? Chunks behind it meet the new mode (10 R204, R292). -/
def State.copyBehind (s : State) (c : CopyCmd) : Bool :=
  match s.hanks.get? c.hank with
  | none => false
  | some h => s.hanks.any fun g => (g.1 == c.hank || (h.nb.isSome && g.2.nb == h.nb)) && g.2.banks.any s.switching

/-- Has the head of a class something to do? A `cqf` entry waits for the commands it joins (R289). -/
def State.hasWork (s : State) (core : Nat) (c : CopyCmd) : Bool :=
  !c.finished && c.svc.isNone && !s.copyBehind c &&
  (match c.kind with
    | .fence => (List.range 4).all fun k => (s.copiesOpen core k).all fun u => !c.joins.contains u
    | _ => c.record.isSome)

/-- What a command has written is performed at .c, and observed where a phase of its barrier completes. -/
def State.copyLanded (s : State) (core : Nat) (c : CopyCmd) (l : List Nat) : State :=
  let mine := fun (w : EarlyWrite) => w.by_ == .copy core && w.id == c.uid
  (s.widen mine (units [core])).bring mine (coreAgent core) (units [core]) l

/-- The mark of the current phase of a core's barrier. -/
def State.phaseMark (s : State) (core b : Nat) : List Nat :=
  ((s.barriers.get? (barKey core b)).map fun x => barMark (barKey core b) x.phase).toList

/-- The rows that landed whole are performed at .c and counted (R252). -/
def State.countRows (s : State) (core : Nat) (c : CopyCmd) (r : Nat) : State × CopyCmd :=
  let n := if recBox r 0 = 0 then 0 else c.done / recBox r 0
  match c.att, c.attached with
  | .barrier b, true =>
    let own := ((s.barriers.get? (barKey core b)).map Barrier.owner) == some c.hank
    (if own ∧ c.rows < n then (s.copyLanded core c (s.phaseMark core b)).barRows (barKey core b) (n - c.rows) else s,
      { c with rows := n })
  | _, _ => (s, { c with rows := n })

/-- The next chunk of the head of a class. -/
def State.doChunk (s : State) (core cls : Nat) (c : CopyCmd) : State :=
  match c.record with
  | none => s.setCopyHead core cls { c with finished := true }
  | some r =>
    let (s, c) := s.copyUnits core cls c r (c.chunkUnits r)
    let (s, c) := s.countRows core c r
    s.setCopyHead core cls { c with finished := c.finished || decide (c.total r ≤ c.done) }

/-- COPYQ at reset (R280). -/
def copyqReset : DWord := 0x0080008000800080

/-- Quantum of a class in bytes; a value below 32 acts as 32. -/
def State.quantum (s : State) (core cls : Nat) : Nat :=
  64 * Nat.max 32 ((s.copyq.getD (dieOf core) copyqReset).toNat / 2 ^ (16 * cls) % 65536)

/-- The round-robin goes on until a chunk is issued: classes 3 down to 0, each credited once a visit. -/
def State.nextChunk (s : State) (core : Nat) : Nat → State
  | 0 => s
  | fuel + 1 =>
    let e := s.engine core
    let cls := e.visit
    let onward : CopyEngine := { e with visit := (cls + 3) % 4, credited := false }
    match (e.queue cls).head? with
    | none => (s.setEngine core { onward with deficits := e.deficits.set cls 0 }).nextChunk core fuel
    | some c =>
      let d := e.deficits.getD cls 0 + if e.credited then 0 else s.quantum core cls
      let need := match c.record with
        | some r => s.chunkBytes core c r
        | none => 0
      if s.hasWork core c ∧ need ≤ d then
        (s.setEngine core { e with deficits := e.deficits.set cls (d - need), credited := true }).doChunk core cls c
      else (s.setEngine core { onward with deficits := e.deficits.set cls d }).nextChunk core fuel

/-- CHUNK (R280). -/
def execChunk (core : Nat) (s : State) : Res := .next (s.nextChunk core 9)

/-! ## Start (R282) and completion (R290, R291) -/

/-- COMMAND_START: the head of a class reads its record: as it stands, or, a free choice, as it stood when the command was accepted
(R292). -/
def execCommandStart (core cls : Nat) (s : State) : Res :=
  .next <| match s.copyHead core cls with
    | none => s
    | some c =>
      if c.kind = .fence ∨ c.record.isSome ∨ c.finished ∨ c.svc.isSome then s
      else if c.recAddr.toNat % 64 ≠ 0 then s.setCopyHead core cls { c with code := 4, finished := true }
      else match s.copyParts core c false c.recAddr.toNat 64 with
        | .error .bounds => s
        | .error (.fault f) =>
          let (s, c) := s.copyFault core c f
          s.setCopyHead core cls c
        | .ok ps =>
          let s := s.copyLearns core cls ps
          let now := s.seenParts (coreAgent core) ps
          let r := if s.freeBit 4 then c.old.getD now else now
          match c.check r with
          | 0 => s.setCopyHead core cls { c with record := some r }
          | code => s.setCopyHead core cls { c with code := code, finished := true }

/-- The status word (R284). -/
def copyStatus (cls : Nat) (c : CopyCmd) : Nat := c.code * 2 ^ 28 + cls * 2 ^ 24 + (c.bytes + 63) / 64 % 2 ^ 24

/-- Scope of a code of R192. -/
def scopeOfCode : Nat → Option Scope
  | 1 => some .c | 2 => some .cl | 3 => some .nb | 4 => some .d | 5 => some .p | 6 => some .dm | 7 => some .sy
  | _ => none

/-- What the completion also reaches: the barrier's arrival, or the closure spawned and its reference released. -/
def State.copyReaches (s : State) (core cls : Nat) (c : CopyCmd) : State × CopyCmd :=
  let coded := fun (k : Nat) => { c with code := if c.code = 0 then k else c.code }
  match c.att with
  | .nothing => (s, c)
  | .barrier b =>
    if !c.attached then (s, coded 5)
    else
      let own := ((s.barriers.get? (barKey core b)).map Barrier.owner) == some c.hank
      (if own then s.barCopyArrival (barKey core b) (c.code != 0) else s, c)
  | .closure _ =>
    if !c.attached then (s, coded 6)
    else
      let (s, w) := s.spawn c.ctx c.handle (BitVec.ofNat 64 (copyStatus cls c)) c.prio c.opener [copyMark c.uid]
      (s.dropRef (envKey c.handle), if w / 2 ^ 28 = 0 then c else coded 6)

/-- Strands blocked at a full class of a core try again. -/
def State.wakeCopies (s : State) (core cls : Nat) : State :=
  { s with strands := s.strands.mapVals fun pos x =>
      if coreOf pos = core ∧ x.run = .blocked (.copyQueue cls) then x.unblock else x }

/-- The completion is a release at SCOPE, or at .c where there is none: what its class has written and observed is performed there
(R290; 11 R224), and observed by the wait on its slot, at its barrier and by the strand that it spawns. -/
def State.copyRelease (s : State) (core cls : Nat) (c : CopyCmd) : State :=
  let sc := ((c.record.bind fun r => scopeOfCode (recScope r)).getD .c)
  let g := s.scopeObservers (coreAgent core) c.nb sc
  let known := fun (w : EarlyWrite) => w.knownTo (copyKey core cls)
  let bar := match c.att with
    | .barrier b => if c.attached then s.phaseMark core b else []
    | _ => []
  (s.widen known g).bring known (coreAgent core) g (copyMark c.uid :: bar)

/-- The uncorrectable error that the test of its closure's spans meets. -/
def State.copySpansFault (s : State) (c : CopyCmd) : Option XFault :=
  match c.att with
  | .closure _ => if c.attached then s.spansFault (s.env (envKey c.handle)) else none
  | _ => none

/-- COPY_COMPLETION: the writes are performed at SCOPE, those in other packages acknowledged (19 R354), the entry frees, and the
status goes to the arbiter. Where the spawn of its closure meets an uncorrectable error the command stays, and the context faults
(01 R19). -/
def execCopyCompletion (core cls : Nat) (s : State) : Res :=
  .next <| match s.copyHead core cls with
    | none => s
    | some c =>
      if !c.finished || s.unacked copyFlit c.uid then s
      else if let some f := s.copySpansFault c then s.upsetFault c.ctx core c.index srcSpill f
      else
        let s := s.copyRelease core cls c
        let e := s.engine core
        let rest := (e.queue cls).drop 1
        let e := e.setQueue cls rest
        let s := s.setEngine core (if rest.isEmpty then { e with deficits := e.deficits.set cls 0 } else e)
        let (s, c) := s.copyReaches core cls c
        (s.pushEvent core (.copy cls c)).wakeCopies core cls

end Sys2Proof.Machine
end

