-- ==== Sys2Proof/Machine/Save.lean ====
section
/-! DEFINITION. Rollback (spec 11 R229, R231), the arbiter's events as they are applied (11 R235, 12 R242, 14 R271), and the
saving and restoring of hanks (04 R79, 18 R344 to R346). The bytes of save images are private: log 9. -/

namespace Sys2Proof.Machine

/-! ## Rollback (11 R229) -/

/-- Has another observer written a word that the strand read past this fence? -/
def State.mismatch (s : State) (pos : Nat) (p : Pend) : Bool := s.spoiled.contains (pos, p.id)

/-- The strand as it was after the fence: what it issued since is dropped. A trap of the acquire itself, which waits for fences
before it, stays (R230). The words that it issued since still count towards the
lookahead of what was outstanding before (log 56). -/
def Strand.rollBack (x : Strand) (f : Pend) : Strand :=
  match f.act with
  | .fence k sc only ck w _ h =>
    { x with
      regs := ck
      run := if x.deferred.isSome ∧ x.deferNum ≤ f.id then x.awaitFenced x.deferNum
        else match w with
          | some m => .parked m
          | none => .candidate
      deferred := if f.id < x.deferNum then none else x.deferred
      outlasts := x.outlasts.filter fun e => decide (e.1 ≤ f.id)
      outs := (x.outs.filter fun p => decide (p.id ≤ f.id)).map fun p =>
        if p.id = f.id then { p with act := .fence k sc only ck w [] h } else { p with shown := [] } }
  | _ => x

/-- The acquire fence of a strand that belongs to an issue set. A strand that trapped at the acquire itself has nothing to roll
back, and one that has exited past the fence is not rolled back: `exit` waits for no fence (log 69). -/
def Strand.fenceOf (x : Strand) (grp : Nat) : Option Pend :=
  if x.run = .exited ∨ x.run = .trapped then none
  else x.outs.find? fun p => p.isAcqFence && p.group == grp && !(x.handler && decide (p.id < x.frameId))

/-- Strands that wait for room in a braid's hold buffer go on (11 R228). -/
def State.wakeHold (s : State) (b : Nat) : State :=
  { s with strands := s.strands.mapVals fun pos x =>
      if braidOf pos = b ∧ x.run = .blocked .holdBuffer then x.unblock else x }

/-- Every strand of the issue set that executed the fence rolls back, and its core counts it. The hold buffer has room again. -/
def State.rollGroup (s : State) (b grp : Nat) : State :=
  let core := b / 64
  let rolled := fun (q : Nat × Nat) => (s.strand? q.1).any fun x => braidOf q.1 == b && (x.fenceOf grp).any fun f => decide (f.id ≤ q.2)
  { s with
    spoiled := s.spoiled.filter fun q => !rolled q
    strands := s.strands.mapVals fun pos x =>
      if braidOf pos = b then match x.fenceOf grp with
        | some f => x.rollBack f
        | none => x
      else x
    rollbacks := s.rollbacks.set core (s.rollbacks.getD core 0 + 1) }.wakeHold b

/-- ROLLBACK: a write of another observer reached a word read past the fence. -/
def execRollback (b grp : Nat) (s : State) : Res :=
  .next <|
    if (s.braidStrands b).any fun p => match p.2.fenceOf grp with
        | some f => s.mismatch p.1 f
        | none => false
    then s.rollGroup b grp else s

/-! ## Events applied -/

/-- The point at which the strand of a blocked word goes on. -/
def Pend.next (p : Pend) : Point := match p.act with | .served _ n _ => n | _ => p.at_

/-- What the strand of a blocked word acquires as it goes on. -/
def Pend.acquires (p : Pend) : Option (Nat × Scope) := match p.act with | .served _ _ a => a | _ => none

/-- A strand blocked at a word goes on past it. -/
def Strand.goOn (x : Strand) (p : Pend) : Strand :=
  let x := x.unblock
  if x.regs.pc = p.at_ then { x with regs := { x.regs with pc := p.next } } else x

/-- The strand at a position acquires at a place, where it does. -/
def State.acquireAt (s : State) (pos : Nat) : Option (Nat × Scope) → State
  | none => s
  | some (place, sc) => match s.strand? pos with
    | some x => s.acquire pos x sc [place]
    | none => s

/-- The instruction of a blocked strand completes and the strand goes on: what it wrote is performed at .c, and what its acquire
observes for it (11 R222). -/
def State.resume (s : State) (pos id : Nat) (w : List (Nat × Reg)) (fl : FFlags) : State :=
  match s.pend? pos id with
  | some p => ((((s.writeDone pos id).acquireAt pos p.acquires)).complete pos id w fl).modStrand pos fun x => x.goOn p
  | none => s

/-- The instruction of a blocked strand ends in a trap at its word; the strand goes on after the word or at it. -/
def State.resumeTrap (s : State) (pos id : Nat) (after : Bool) (t : TrapReq) : State :=
  match s.pend? pos id with
  | some p =>
    ((s.complete pos id [] 0).modStrand pos Strand.unblock).raiseLate pos p (if after then p.next else p.at_) p.at_.clause t
  | none => s

/-- What an event does to the strand that waits for it. -/
def State.applyTo (s : State) (pos id : Nat) (e : CoreEvent) : State :=
  match e with
  | .barrier _ | .wake .. => s.resume pos id [] 0
  | .knot l => match l.find? fun r => r.pos == pos && r.id == id with
    | some r => match r.trap with
      | none => s.resume pos id r.regs r.fl
      | some t => s.resumeTrap pos id true { cause := t.1, detail := t.2 }
    | none => s
  | .copy cls c =>
    -- the wait on the completion is an acquire at .c (11 R234)
    let s := if (s.pend? pos id).any (fun p => decide (p.slot < 12 ∨ p.look < 15)) then s.acquireAt pos (some (copyMark c.uid, .c)) else s
    s.complete pos id [(c.dst, Reg.stat (copyStatus cls c))] 0
  | .service _ _ _ true => s.resumeTrap pos id false scratchDenied
  | .service _ _ v false =>
    let w := match s.pend? pos id with
      | some p => match p.act, v with
        | .served (some d) _ _, some v => [(d.1, ⟨v, d.2⟩)]
        | _, _ => []
      | none => []
    s.resume pos id w 0
  | .swap _ => s

/-- The event reaches one strand: in its place, or kept for it where its hank is saved (18 R345). -/
def State.sendTo (s : State) (core pos id : Nat) (e : CoreEvent) : State :=
  if (s.pend? pos id).isSome then s.applyTo pos id e
  else
    { s with saved := s.saved.map fun v =>
        if ((v.strands.get? pos).any fun x => x.outs.any fun p => p.id == id) then { v with events := v.events ++ [(core, e)] }
        else v }

def State.applyEvent (s : State) (core : Nat) (e : CoreEvent) : State :=
  match e with
  | .barrier l => l.foldl (fun s p => s.sendTo core p.1 p.2 (.barrier [p])) s
  | .knot l => l.foldl (fun s r => s.sendTo core r.pos r.id (.knot [r])) s
  | .copy _ c => s.sendTo core c.pos c.pend e
  | .service pos id .. => s.sendTo core pos id e
  | .wake pos id => s.sendTo core pos id e
  | .swap _ => s

/-! ## When a hank can be saved -/

def State.hankStrands (s : State) (h : Nat) : AMap Strand := s.strands.filter fun p => p.2.hank == h

/-- Does a piece of an access to another package wait for a port? (19 R352) -/
def State.linkStuck (s : State) (pos id : Nat) (q : Part) : Bool :=
  match keyPackage q.key with
  | none => false
  | some g =>
    if q.sent then s.ports.any fun p => !p.2.usable && p.2.buffer.any fun f => f.pos == pos && f.id == id
    else (s.openPorts g).isEmpty

/-- Can an outstanding instruction do something by itself? -/
def State.canPerform (s : State) (pos : Nat) (x : Strand) (p : Pend) : Bool :=
  match p.act with
  | .mem ps _ o _ => ps.zipIdx.any fun q =>
      x.mayPerform p ps o q.2 q.1.2 && !s.lowerLaneWaits pos p
  | .affine .. | .closure .. => x.turn p && p.svc.isNone
  | .bankset _ _ _ l => l.all fun q => s.gone q.1 q.2
  | .barArrive _ _ l => l.all fun n => x.outs.all fun q => q.id != n
  | _ => false

/-- Does a contribution stand behind a drain held for device replay? -/
def State.behindDrain (s : State) (pos id : Nat) : Bool := s.knots.any fun k => k.2.queue.any fun b => b.from_.contains (pos, id)

/-- What stays outstanding across a save: waits, fences, held entries, operations held for device replay and those behind
them, copy commands (R344). -/
def State.keeps (s : State) (pos : Nat) (x : Strand) (p : Pend) : Bool :=
  if p.held then true
  else match p.act with
    | .fence .. | .served .. | .refused .. => true
    | .waiting => p.kind == .plain || s.behindDrain pos p.id
    | .mem .. | .affine .. | .closure .. | .bankset .. | .barArrive .. => !s.canPerform pos x p
    | _ => false

/-- No issue set of the hank is in progress, and what it issued has completed. -/
def State.hankQuiet (s : State) (h : Nat) : Bool :=
  let mine := fun (b : Nat) => ((s.braids.get? b).map Braid.hank) == some h
  (s.quarters.all fun q => !(q.2.cur.any fun i => mine i.braid) && !(q.2.step.any fun r => mine r.issue.braid)) &&
  (s.hankStrands h).all fun p => p.2.outs.all (s.keeps p.1 p.2)

/-! ## Saving -/

/-- A point with the clause start as the first word, as an issue set that has begun its clause stands there. -/
def Point.begun (p : Point) : Point := if p.word = 0 then { p with word := 1 } else p

/-- Has the strand gone on past an acquire fence: is it speculative? -/
def Strand.speculates (x : Strand) (f : Pend) : Bool :=
  match f.act with
  | .fence _ _ _ ck _ rd _ => !rd.isEmpty || decide (f.id + 1 < x.nextId) || x.regs.pc.begun != ck.pc.begun
  | _ => false

/-- Every speculation of the hank rolls back before it is saved (11 R231). -/
def State.rollHank (s : State) (h : Nat) : State :=
  let gs := ((s.hankStrands h).flatMap fun p =>
    (p.2.outs.filter fun f => f.isAcqFence && p.2.speculates f).map fun f => (braidOf p.1, f.group)).dedup
  gs.foldl (fun s g => if (s.braidStrands g.1).any fun p => (p.2.fenceOf g.2).isSome then s.rollGroup g.1 g.2 else s) s

/-- Has the bank served this request? -/
def State.serviceComes (s : State) (pos id : Nat) : Bool :=
  (s.events.getD (coreOf pos) []).any fun e => match e with
    | .service p i .. => p == pos && i == id
    | _ => false

/-- A request withdrawn from every bank. -/
def State.unwait (s : State) (pos id : Nat) : State :=
  let keep := fun (l : List Waiter) => l.filter fun w => !(w.pos == pos && w.id == id)
  { s with banks := s.banks.mapVals fun _ b =>
      { b with
        pushes := keep b.pushes, pops := keep b.pops
        words := (b.words.mapVals fun _ l => keep l).filter fun p => !p.2.isEmpty } }

/-- A waiting full/empty or FIFO access leaves its list, and executes again (10 R199, R201); so does a word that waits for
a queue or the hold buffer. -/
def State.withdraw (s : State) (pos : Nat) (x : Strand) : State :=
  match x.run with
  | .blocked .word | .blocked .fifo =>
    match x.outs.find? fun p => match p.act with | .served .. => true | _ => false with
    | some p =>
      if s.serviceComes pos p.id then s
      else ((s.unwait pos p.id).complete pos p.id [] 0).modStrand pos fun x =>
        { x.unblock with regs := { x.regs with pc := p.at_ } }
    | none => s
  | .blocked (.copyQueue _) | .blocked .holdBuffer => s.modStrand pos Strand.unblock
  | _ => s

/-! ## The save area (04 R79, R84; 14 R277; 17 R310) -/

/-- Where an image of n bytes fits first: at the start of the area, or behind another image. -/
def Ctx.saveRoom (c : Ctx) (n : Nat) : Option Nat :=
  (0 :: c.images.map fun i => i.off + i.len).find? fun a => decide (a + n ≤ c.saveSize) &&
    c.images.all fun i => decide (a + n ≤ i.off ∨ i.off + i.len ≤ a)

/-- Why something is not saved: it waits for a port to a package (19 R352), it does not fit, or its image cannot be written. -/
inductive SaveStop where
  | wait (pkg : Nat)
  | full
  | fault (f : XFault)
  deriving DecidableEq, Repr, Inhabited

def SaveStop.of (f : XFault) : SaveStop := if f.cause = 0 then .wait f.page else .fault f

/-- An image is written to the save area: bytes `v` of a layout that the spec gives, `k` of them, and private bytes behind
them. -/
def State.writeImage (s : State) (core ctx : Nat) (o : ImageOwner) (n k v : Nat) : Except SaveStop State :=
  match s.ctxs.get? ctx with
  | none => .error .full
  | some c => match c.saveRoom n with
    | none => .error .full
    | some off =>
      let at_ := (c.saveBase.toNat + off) % 2 ^ 64
      match s.devParts core ctx .write (n / 2 ^ 16 + 2) at_ n with
      | .error f => .error (.of f)
      | .ok ps => match s.reachFault true ps with
        | some f => .error (.of f)
        | none =>
          let draw := 2 ^ 40 * s.draws
          let s := { s.scribbleParts core ctx draw ps with draws := s.draws + 1 }
          match s.devWrite core ctx at_ k v with
          | .error f => .error (.of f)
          | .ok s => .ok (s.modCtx ctx fun c => { c with images := c.images ++ [⟨o, off, n, draw⟩] })

/-- The image of an owner, taken from the area. -/
def State.dropImage (s : State) (ctx : Nat) (o : ImageOwner) : State :=
  s.modCtx ctx fun c => { c with images := c.images.filter fun i => i.owner != o }

/-- State that could not be saved. A failed translation has its record, with SRC 1 (log 68); an uncorrectable error faults the
context with code 1 (R85), all else with code 8 (R84); one that has faulted already can no longer be recovered (log 44). -/
def State.saveFail (s : State) (ctx core : Nat) (e : SaveStop) : State :=
  let active := (s.ctxs.get? ctx).any fun c => c.st == .active
  match e with
  | .wait pkg => s.awaitLink (.engine core) ctx core pkg
  | .full => (s.ctxFault ctx 8 (dieOf core) 0 0).modCtx ctx fun c => { c with faultCode := 8 }
  | .fault f =>
    let s := (s.recordFault ctx core 0 srcStore f).1
    if f.cause = 7 ∧ active then s
    else (s.ctxFault ctx 8 (dieOf core) 0 0).modCtx ctx fun c => { c with faultCode := 8 }

/-- The header of a tile's image (14 R277). -/
def State.tileHeader (s : State) (e : Nat) (t : Tile) (kib : Nat) : Nat :=
  let key := e / 8 * 64 + t.entry
  1 + kib * 2 ^ 16 + tileFmtCodes.idxOf t.fmt * 2 ^ 24 + t.shape * 2 ^ 32 + (if t.ovf then 2 ^ 37 else 0) + t.tslot * 2 ^ 38 +
    knotId key (s.knot key).serial * 2 ^ 96

/-- Length of a tile's image, 1 to 96 KiB. -/
def State.tileImageKib (s : State) : Nat := Config.saveSize s.draws % 96 + 1

/-- A tile is frozen: its image is written (14 R276). -/
def State.freezeTile (s : State) (e : Nat) (t : Tile) : Except SaveStop State :=
  let kib := s.tileImageKib
  (s.writeImage (e / 8) t.ctx (.tile e) (1024 * kib) 16 (s.tileHeader e t kib)).map fun s => s.setTile e { t with frozen := true }

/-- The record of an environment (17 R310). -/
def Env.image (e : Env) : Nat :=
  let val := fun (i : Nat) => e.vals.getD i .zero
  e.entry.toNat + e.fbase.toNat * 2 ^ 64 + e.fserial.toNat * 2 ^ 128 + e.refs * 2 ^ 160 + e.check * 2 ^ 176 + e.ctx * 2 ^ 192 +
    e.vals.length * 2 ^ 200 + e.spans.length * 2 ^ 208 +
    ((List.range 16).map fun i => tagCodes.idxOf (val i).tag * 2 ^ (224 + 4 * i) + (val i).val.toNat * 2 ^ (288 + 32 * i)).sum +
    (e.spans.zipIdx.map fun p => (p.1.2 % 2 ^ 16 * 2 ^ 16 + p.1.1 % 2 ^ 16) * 2 ^ (800 + 32 * p.2)).sum +
    (if e.spans.isEmpty then 0 else (e.ownerCore * 2 ^ 23 + e.ownerPos * 2 ^ 12 + e.ownerInc) * 2 ^ 928)

/-- An environment goes to the save area (17 R311). -/
def State.saveEnv (s : State) (key : Nat) (e : Env) : Except SaveStop State :=
  (s.writeImage (key / 2048) e.ctx (.env key) 128 128 e.image).map fun s => s.setEnv key { e with st := .held }

/-- The core to which an image returns. -/
def State.imageCore (s : State) : ImageOwner → Nat
  | .hank u => ((s.saved.find? fun v => v.uid == u).map fun v => v.hank.core).getD 0
  | .tile e => e / 8
  | .env key => key / 2048

/-- The header that the image of a tile holds now. -/
def tileHeaderBad (h : Nat) : Bool :=
  bits h 15 0 != 1 || bits h 31 28 != 0 || bits h 95 40 != 0 || decide (96 < bits h 23 16) ||
    decide (3 < bits h 27 24 ∨ 9 < bits h 36 32)

/-- The bytes that the device wrote behind the first k of an image. -/
def privateBytes (draw k n : Nat) : Nat :=
  ((List.range n).map fun i => (Config.privateByte (draw + k + i)).toNat * 2 ^ (8 * i)).sum

/-- Does an image fail its checks at a restore (R77, 14 R277)? A header that R277 refuses; one that cannot be read; or one
that something has changed, a free choice (log 9). -/
def State.imageBad (s : State) (ctx : Nat) (c : Ctx) (i : SaveImage) : Bool :=
  let core := s.imageCore i.owner
  let at_ := (c.saveBase.toNat + i.off) % 2 ^ 64
  let changed := fun (k given : Nat) => match s.devRead core ctx at_ i.len with
    | .error _ => true
    | .ok v => (v != given + privateBytes i.draw k (i.len - k) * 2 ^ (8 * k)) && Config.imageFails core s.moves
  match i.owner with
  | .hank _ => changed 0 0
  | .env key => changed 128 (s.env key).image
  | .tile e => match s.devRead core ctx at_ 16 with
    | .error _ => true
    | .ok h => tileHeaderBad h || (match s.tiles.get? e with
      | some t => changed 16 (s.tileHeader e t (i.len / 1024))
      | none => false)

/-- The copy commands of a hank taken out of its core's queues, with their classes; strands that waited for room go on. -/
def State.takeCopies (s : State) (core h : Nat) : List (Nat × CopyCmd) × State :=
  let e := s.engine core
  let l := e.queues.zipIdx.flatMap fun q => (q.1.filter fun c => c.hank == h).map fun c => (q.2, c)
  let s := s.setEngine core { e with queues := e.queues.map fun q => q.filter fun c => c.hank != h }
  (l, (l.map Prod.fst).dedup.foldl (fun s cls => s.wakeCopies core cls) s)

/-- A bank without waiting requests: those of the hank and of its neighbours, saved with it, execute again. -/
def Bank.unlisted (b : Bank) : Bank := { b with words := [], pushes := [], pops := [] }

/-- The keys of the bytes of a list of banks. -/
def inBanks (banks : List Nat) (k : Nat) : Bool := banks.any fun b => decide (bankKey b 0 ≤ k ∧ k < bankKey b 0 + 2 ^ 18)

/-- The hank's barriers. -/
def State.hankBarriers (s : State) (h : Nat) : AMap Barrier := s.barriers.filter fun p => p.2.owner == h

/-- The hank leaves its core: positions, registers, barriers, banks back to cache mode (06 R103, 13 R253). Its copy
commands stay in their queues. -/
def State.dropHank (s : State) (h : Nat) : State :=
  match s.hanks.get? h with
  | none => s
  | some hank =>
    let s := hank.banks.foldl State.freeBank s
    { s with
      strands := s.strands.filter fun p => p.2.hank != h
      braids := s.braids.filter fun p => p.2.hank != h
      barriers := s.barriers.filter fun p => p.2.owner != h
      hanks := s.hanks.erase h }

/-- The part of an event that is for some of the instructions, and the rest. -/
def CoreEvent.split (mine : Nat → Nat → Bool) (e : CoreEvent) : Option CoreEvent × Option CoreEvent :=
  let whole := fun (m : Bool) => if m then (some e, none) else (none, some e)
  match e with
  | .barrier l =>
    let l' := l.filter fun p => mine p.1 p.2
    (if l'.isEmpty then none else some (.barrier l'), if l'.length = l.length then none else
      some (.barrier (l.filter fun p => !mine p.1 p.2)))
  | .knot l =>
    let l' := l.filter fun r => mine r.pos r.id
    (if l'.isEmpty then none else some (.knot l'), if l'.length = l.length then none else
      some (.knot (l.filter fun r => !mine r.pos r.id)))
  | .copy _ c => whole (mine c.pos c.pend)
  | .service pos id .. | .wake pos id => whole (mine pos id)
  | .swap _ => (none, some e)

/-- The events on their way to a hank's strands go with it, in order (18 R345). -/
def State.takeEvents (s : State) (core h : Nat) : List (Nat × CoreEvent) × State :=
  let l := (s.events.getD core []).map (CoreEvent.split fun pos id =>
    (s.strand? pos).any fun x => x.hank == h && x.outs.any fun p => p.id == id)
  (l.filterMap fun p => p.1.map fun e => (core, e), { s with events := s.events.set core (l.filterMap Prod.snd) })

/-- A hank is saved: by a swap, which leaves its barriers and banks, or by a suspend or pre-emption. -/
def State.trySave (s : State) (h : Nat) (swap : Bool) : Except SaveStop State :=
  match s.hanks.get? h with
  | none => .ok s
  | some hank =>
    let core := hank.core
    let s := s.rollHank h
    let s := (s.hankStrands h).foldl (fun s p => s.withdraw p.1 p.2) s
    let s := if swap then s else s.widen (fun w => w.parts.any fun q => hank.banks.any q.inBank) allObservers
    (s.writeImage core hank.ctx (.hank h) (Config.saveSize s.draws) 0 0).map fun s =>
      let (copies, s) := s.takeCopies core h
      let (events, s) := s.takeEvents core h
      let v : SavedHank :=
        { uid := h, hank := hank, swap := swap, braids := s.braids.filter fun p => p.2.hank == h, strands := s.hankStrands h,
          barriers := s.hankBarriers h, banks := hank.banks.map fun b => (b, (s.bank b).unlisted),
          bytes := s.mem.filter fun c => inBanks hank.banks c.1, fulls := s.full.filter (inBanks hank.banks),
          copies := copies, events := events }
      let s := { s with saved := s.saved ++ [v], swapIn := s.swapIn.set core (s.swapIn.getD core [] ++ [h]) }
      if swap then
        { s with
          strands := s.strands.filter fun p => p.2.hank != h
          braids := s.braids.filter fun p => p.2.hank != h
          hanks := s.hanks.erase h }
      else
        let s := hank.banks.foldl (fun s b => s.modBank b Bank.unlisted) s
        s.dropHank h

/-- A save at its core, up to where it stops: what cannot be saved faults the context (04 R84), what waits for a port is saved
later. -/
def State.saveStep (s : State) (ctx core : Nat) (f : State → Except SaveStop State) : State × Bool :=
  match f s with
  | .ok s => (s, true)
  | .error e => (s.saveFail ctx core e, false)

/-- Saves in order, each at its core, up to the first that stops. -/
def State.saveSteps (s : State) (ctx : Nat) : List (Nat × (State → Except SaveStop State)) → State
  | [] => s
  | (core, f) :: l => match s.saveStep ctx core f with
    | (s, true) => s.saveSteps ctx l
    | (s, false) => s

/-- Items in the order of their cores, ascending. -/
def byCore {α : Type} (l : List (Nat × α)) : List (Nat × α) :=
  ((l.map Prod.fst).foldr insertNat []).flatMap fun c => l.filter fun p => p.1 == c

/-! ## The hold buffer (11 R228) -/

/-- May an entry leave: every earlier fence complete, every earlier entry gone? Lanes of one `ctr` leave together. -/
def Strand.mayLeave (x : Strand) (p : Pend) : Bool :=
  p.held && x.outs.all fun a => decide (p.id ≤ a.id) || (!a.isFence && !a.held)

/-- The held contributions of one issue set to one knot that may leave now. -/
def State.heldShares (s : State) (b grp key : Nat) : List Share :=
  (s.braidStrands b).flatMap fun y => y.2.outs.filterMap fun p => match p.act with
    | .ctr _ _ _ _ k _ ops g => if g = grp ∧ k = key ∧ y.2.mayLeave p then some ⟨key, y.1, p.id, ops⟩ else none
    | _ => none

/-- An entry that may leave does, a copy command where its class has room. -/
def State.leaveHold (s : State) (pos id : Nat) : State :=
  match s.strand? pos, s.pend? pos id with
  | some x, some p =>
    if !x.mayLeave p then s
    else
      let b := braidOf pos
      let free := fun (a : Act) (q : Pend) => { q with held := false, act := a }
      match p.act with
      | .copy cls c =>
        if s.copyRoom (coreOf pos) cls then
          let s := if x.run = .exited then s.complete pos id [] 0 else s.modPend pos id (free .waiting)
          ((s.acceptCopy (coreOf pos) cls c).wakeHold b).windUp pos
        else s
      | .ctr f shape an bn key tslot _ grp =>
        let l := s.heldShares b grp key
        let s := l.foldl (fun s y => s.modPend y.pos y.id (free .waiting)) s
        (s.sendBlocks f shape an bn tslot p.at_ l).wakeHold b
      | .apply => (s.complete pos id [] 0).wakeHold b
      | a => (s.modPend pos id (free a)).wakeHold b
  | _, _ => s

/-! ## Restoring -/

/-- Copy commands of a saved hank that return to a class: queued ones, and held ones whose fences have completed. -/
def SavedHank.copiesIn (v : SavedHank) (cls : Nat) : Nat :=
  (v.copies.filter fun c => c.1 == cls).length +
  (v.strands.map fun x => (x.2.outs.filter fun p => x.2.mayLeave p && (match p.act with
    | .copy k _ => k == cls
    | _ => false)).length).sum

/-- Are the places of a saved hank free? (log 10) A spawn braid returns under its number (17 R315). -/
def State.roomFor (s : State) (v : SavedHank) : Bool :=
  let h := v.hank
  (h.braids.all fun b => (s.braids.get? b).isNone) && s.regsFit h.core (h.strands * h.regs) (h.strands * h.affs) &&
  s.residencyFits h.core h.ctx &&
  (List.range 4).all (fun k => decide (s.copyCount h.core k + v.copiesIn k ≤ copyQueueCap)) &&
  (match h.spawn with
    | some i => (s.spawnBraids h.core).all (fun p => p.1 != i) && decide ((s.spawnBraids h.core).length < 4)
    | none => true) &&
  (v.swap || ((v.barriers.all fun p => (s.barriers.get? p.1).isNone) &&
    h.banks.all fun b => (s.bank b).hank.isNone && (s.bank b).mode == .cache))

/-- Fences in flight complete before any later word issues (11 R231). -/
def Strand.awaitFences (x : Strand) : Strand := { x with awaits := x.fences.map Pend.id }

/-- Bytes put back. -/
def Memory.restore (m : Memory) (l : Memory) : Memory := l.foldl (fun m c => m.write c.1 c.2) m

/-- A frozen tile goes on, with the OVF that its image holds (14 R258, R276), and blocks that came meanwhile are added. -/
def State.thawTile (s : State) (e : Nat) (t : Tile) : State :=
  let c := (s.ctxs.get? t.ctx).getD default
  let ovf := match c.images.find? fun i => i.owner == .tile e with
    | some i => match s.devRead (e / 8) t.ctx ((c.saveBase.toNat + i.off) % 2 ^ 64) 16 with
      | .ok h => h.testBit 37
      | .error _ => t.ovf
    | none => t.ovf
  let s := (s.setTile e { t with frozen := false, ovf := ovf }).dropImage t.ctx (.tile e)
  let key := e / 8 * 64 + t.entry
  let k := s.knot key
  k.queue.foldl State.arriveBlock (s.setKnot key { k with queue := [] })

/-- The frozen tiles of a place's knots. -/
def State.frozenAt (s : State) (place : Nat) : AMap Tile :=
  s.tiles.filter fun p => p.2.frozen && (s.knot (p.1 / 8 * 64 + p.2.entry)).place == place

def State.thawTiles (s : State) (place : Nat) : State := (s.frozenAt place).foldl (fun s p => s.thawTile p.1 p.2) s

/-- A bank returns to a hank: one that leaves cache mode does so as at placement; one saved in cache mode stays in it. -/
def State.returnBank (s : State) (hank : Nat) (b : Nat) (saved : Bank) : State :=
  if saved.mode = .cache then s.modBank b fun bk => { bk with hank := some hank } else s.claimBank hank b

/-- A command in its place among others, in the order of their acceptance. -/
def insertCopy (c : CopyCmd) : List CopyCmd → List CopyCmd
  | [] => [c]
  | d :: l => if c.uid < d.uid then c :: d :: l else d :: insertCopy c l

/-- Returning commands join their queue in the order in which all were accepted (15 R281), but behind a head that has begun. -/
def rejoin (c l : List CopyCmd) : List CopyCmd :=
  match l with
  | [] => c
  | h :: rest => if h.record.isSome ∨ h.finished then h :: c.foldr insertCopy rest else c.foldr insertCopy l

/-! ## Translation again (09 R175, R177) -/

/-- The parts of an access, translated again; those in scratchpad space stay. -/
def State.retranslate (s : State) (core ctx : Nat) (n : Need) (single : Bool) :
    List (Nat × Part) → Except XFault (List (Nat × Part))
  | [] => .ok []
  | (off, q) :: rest =>
    match if 2 ^ 64 ≤ q.key then .ok [q] else s.devParts core ctx n 3 q.va q.len with
    | .error f => .error f
    | .ok ps =>
      let here := if single then (pieces q.len ps).map fun y => (off + y.1, y.2)
        else (ps.foldl (fun (acc : Nat × List (Nat × Part)) p => (acc.1 + p.len, acc.2 ++ [(acc.1, p)])) (off, [])).2
      match s.retranslate core ctx n single rest with
      | .error f => .error f
      | .ok qs => .ok (here ++ qs)

/-- An access with its parts as of now; held again on another page; or the trap at its word. -/
def State.replayPend (s : State) (x : Strand) (pos : Nat) (p : Pend) : State × Pend :=
  match p.act with
  | .mem ps got o op =>
    let tl := match op with
      | .tload .. => true
      | _ => false
    let core := match op with
      | .tload key .. => knotHome key
      | _ => coreOf pos
    match s.retranslate core x.ctx op.reach.2 (!tl) ps with
    | .ok qs => (s, { p with svc := none, act := .mem qs got (orderOn o (qs.map Prod.snd)) op })
    | .error f =>
      if f.cause = 2 then
        let (s, _, q) := s.recordFault x.ctx core x.index op.reach.1 f
        (s.holdIf x.ctx q (.op p.id), { p with svc := q })
      else
        let t := xTrap op.reach.1 f none p.at_
        (s, { p with svc := none, act := .refused t.cause t.detail t.fault })
  | _ => (s, { p with svc := none })

/-- The accesses that a strand brings back, but those that a record holds, use the translations of now (09 R175). -/
def State.translateAgain (s : State) (pos : Nat) : State :=
  match s.strand? pos with
  | none => s
  | some x => (x.outs.filter fun p => p.svc.isNone && p.pieces.any fun q => decide (q.key < 2 ^ 64)).foldl (fun s p =>
      let r := s.replayPend x pos p
      r.1.modPend pos p.id fun _ => r.2) s

/-- A strand whose deadline came while its hank was saved goes on (18 R345). -/
def State.wakeSleeper (s : State) (pos : Nat) : State :=
  match s.strand? pos with
  | none => s
  | some x => match x.run with
    | .blocked (.sleep dl) =>
      if dl ≤ s.time (dieOf (coreOf pos)) then
        match x.outs.find? fun p => match p.act with | .served none _ _ => true | _ => false with
        | some p => s.resume pos p.id [] 0
        | none => s
      else s
    | _ => s

/-- The hank returns, and the events kept for it are applied in order before any of its strands issues, deadlines that have come
among them (18 R345); so do the entries of its hold buffers that may leave (11 R231). -/
def State.restoreHank (s : State) (v : SavedHank) : State :=
  let h := v.hank
  let s := { s with
    saved := s.saved.filter fun w => w.uid != v.uid
    swapIn := s.swapIn.mapVals fun _ l => l.filter (· != v.uid)
    hanks := s.hanks.set v.uid { h with stopping := false }
    braids := s.braids.putAll v.braids
    strands := s.strands.putAll (v.strands.mapVals fun _ x => x.awaitFences) }
  let s := s.dropImage h.ctx (.hank v.uid)
  let s := if v.swap then s
    else
      let s := v.banks.foldl (fun s b => s.returnBank v.uid b.1 b.2) s
      { s with
        barriers := s.barriers.putAll v.barriers
        banks := s.banks.putAll v.banks
        mem := s.mem.restore v.bytes
        full := v.fulls.foldl (fun l k => insertNat k l) s.full }
  let e := s.engine h.core
  let s := s.setEngine h.core { e with
    queues := (e.queues.zipIdx : List (List CopyCmd × Nat)).map fun q =>
      rejoin ((v.copies.filter fun c => c.1 == q.2).map Prod.snd) q.1 }
  let s := v.events.foldl (fun s p => s.applyEvent p.1 p.2) (s.thawTiles (h.nb.getD v.uid))
  let s := (s.hankStrands v.uid).foldl (fun s y => (s.translateAgain y.1).wakeSleeper y.1) s
  (s.hankStrands v.uid).foldl (fun s y => (y.2.outs.foldl (fun s p => s.leaveHold y.1 p.id) s).windUp y.1) s

/-- The images of a saved hank and of its tiles. -/
def State.imagesOf (s : State) (c : Ctx) (v : SavedHank) : List SaveImage :=
  let tiles := (s.frozenAt (v.hank.nb.getD v.uid)).map Prod.fst
  c.images.filter fun i => match i.owner with
    | .hank u => u == v.uid
    | .tile e => tiles.contains e
    | .env _ => false

/-- Is the queue of a launch pre-empted at the instruction level, or about to be? -/
def State.launchStopped (s : State) (l : Option Nat) : Bool :=
  ((l.bind s.launches.get?).bind fun l => s.queues.get? l.queue).any fun q => q.st == .preempted || q.preempting == some 1

/-- May a saved hank come back? Its context is active, and the queues that its strands work for are not pre-empted at the
instruction level. -/
def State.mayReturn (s : State) (v : SavedHank) : Bool :=
  ((s.ctxs.get? v.hank.ctx).any fun c => c.st == .active && !c.stopping) &&
  !(v.hank.spawn.isNone && s.launchStopped (some v.hank.launch)) &&
  !v.strands.any fun x => x.2.run != .exited && s.launchStopped x.2.opener

/-- The first hank on a core's list that may come back (18 R344). -/
def State.nextIn (s : State) (core : Nat) : Option SavedHank :=
  (s.swapIn.getD core []).findSome? fun u => s.saved.find? fun v => v.uid == u && s.roomFor v && s.mayReturn v

/-- The package to which the reading of an image waits for a port (19 R352). -/
def State.imageLink (s : State) (ctx : Nat) (c : Ctx) (i : SaveImage) : Option Nat :=
  match s.devRead (s.imageCore i.owner) ctx ((c.saveBase.toNat + i.off) % 2 ^ 64) i.len with
  | .error f => if f.cause = 0 then some f.page else none
  | .ok _ => none

/-- SWAP_IN (18 R344). An image that fails its checks faults the context with code 7, and nothing is restored. -/
def execSwapIn (core : Nat) (s : State) : Res :=
  .next <| match s.nextIn core with
    | none => s
    | some v => match s.ctxs.get? v.hank.ctx with
      | none => s
      | some c => if let some g := (s.imagesOf c v).findSome? (s.imageLink v.hank.ctx c) then s.awaitLink (.engine core) v.hank.ctx core g
        else match ((s.imagesOf c v).filter (s.imageBad v.hank.ctx c)).map fun i => s.imageCore i.owner with
        | [] => s.restoreHank v
        | k :: l => s.ctxFault v.hank.ctx 7 (dieOf ((k :: l).foldl Nat.min k)) 0 0

/-! ## The arbiter (11 R235) -/

/-- The six sources, in the order of R235. -/
def CoreEvent.source : CoreEvent → Nat
  | .barrier _ => 0
  | .knot .. => 1
  | .copy .. => 2
  | .service .. => 3
  | .swap _ => 4
  | .wake .. => 5

/-- Can the event be applied now? A swap waits until its hank is quiet. -/
def State.eventReady (s : State) : CoreEvent → Bool
  | .swap h => (s.hanks.get? h).isNone || s.hankQuiet h
  | _ => true

/-- The event applied next: the oldest of the first source after the one served last. -/
def State.nextEvent (s : State) (core : Nat) : Option CoreEvent :=
  let l := s.events.getD core []
  let last := s.lastSource.getD core 5
  (List.range 6).findSome? fun k =>
    (l.find? fun e => e.source == (last + 1 + k) % 6).filter s.eventReady

/-- EVENT_APPLICATION. -/
def execEventApplication (core : Nat) (s : State) : Res :=
  .next <| match s.nextEvent core with
    | none => s
    | some e =>
      let taken := { s with
        events := s.events.set core ((s.events.getD core []).erase e)
        lastSource := s.lastSource.set core e.source }
      match e with
      | .swap h => match taken.trySave h true, (s.hanks.get? h).map Hank.ctx with
        -- a save that waits for a port is tried again
        | .error (.wait pkg), some ctx => s.awaitLink (.engine core) ctx core pkg
        | .error stop, some ctx => taken.saveFail ctx core stop
        | .ok t, _ => t
        | _, none => taken
      | e => taken.applyEvent core e

end Sys2Proof.Machine
end

