-- ==== Sys2Proof/Machine/System.lean ====
section
/-! DEFINITION. The system instructions (spec 18 R334 to R343), trap delivery and the wakeup of a sleeping strand. -/

namespace Sys2Proof.Machine

/-! ## Software trap and return -/

/-- Software trap (18 R325). -/
abbrev cTrap : Nat := 18

/-- trap (R335). -/
def execTrap (p : Pred) (code : Nat) (s : State) : Res :=
  .next (s.pointwise (.trap p code) fun x _ st =>
    { st := st, trap := some { cause := cTrap, detail := code, resume := some (x.after (.trap p code)) } })

/-- Is a record of the context still to be served? -/
def State.inServiceSeq (s : State) (ctx seq : Nat) : Bool :=
  (s.ctxs.get? ctx).any fun c => c.inService.any fun p => p.seq == seq

def Strand.systemIds (x : Strand) : List Nat := (x.outs.filter fun p => p.kind == .system).map Pend.id

/-- A strand whose held operation was refused at its replay stands at the held word until it traps there (R336). -/
def Strand.toRefused (x : Strand) : Strand :=
  match x.outs.find? fun p => p.at_ == ⟨x.trap.clause, x.trap.word⟩ && (match p.act with | .refused .. => true | _ => false) with
  | some p => { x with run := .stalled (.ops [p.id]), regs := { x.regs with pc := p.at_ } }
  | none => x

/-- rte (R336). It stalls until the strand's other system words are complete. -/
def execRte (w : Bool) (p : Pred) (s : State) : Res :=
  .next (s.pointwise (.rte w p) fun _ _ st =>
    let ids := st.systemIds
    if !ids.isEmpty then { st := { st with run := .stalled (.ops ids) } }
    else
      let st' := st.leaveHandler
      { st := match w, st.heldOn with
          | true, some q => if s.inServiceSeq (s.ctxNum st) q then { st' with run := .stalled (.service q) } else st'.toRefused
          | _, _ => st' })

/-! ## CSRs (R337, R338) -/

/-- The value of a CSR. -/
def State.csr (s : State) (pos : Nat) (x : Strand) (c : Nat) : Word :=
  let ctx := (s.ctxs.get? (s.ctxNum x)).getD default
  let core := coreOf pos
  match c with
  | 0x001 => x.regs.fstat.setWidth 32
  | 0x002 => if x.regs.noMint then 1 else 0
  | 0x010 => BitVec.ofNat 32 ctx.symlim
  | 0x011 => BitVec.ofNat 32 ctx.symC
  | 0x012 => BitVec.ofNat 32 ctx.pinq
  | 0x020 => s.rollbacks.getD core 0
  | 0x021 => BitVec.ofNat 32 (s.clock core)
  | 0x022 => x.cychi
  | 0x030 => if x.handler then 1 else 0
  | 0x031 => x.ttarget
  | _ => BitVec.ofNat 32 (((s.braids.get? (braidOf pos)).map fun b => b.pending.length).getD 0)

/-- A read of CYCLO latches the high half. -/
def State.csrRead (s : State) (pos : Nat) (x : Strand) (c : Nat) : Strand :=
  if c = 0x021 then { x with cychi := BitVec.ofNat 32 (s.clock (coreOf pos) / 2 ^ 32) } else x

/-- csrr -/
def execCsrr (l : Long) (d csr : Nat) (s : State) : Res :=
  s.longInOrder (.csrr l d csr) l .system fun s pos x _ =>
    .ok (s.modStrand pos fun x => s.csrRead pos x csr, [(d, ⟨s.csr pos x csr, .i32⟩)])

/-- A write to a CSR. -/
def State.csrWrite (s : State) (pos : Nat) (x : Strand) (c : Nat) (v : Word) : State :=
  match c with
  | 0x001 => s.modStrand pos fun x => { x with regs := { x.regs with fstat := x.regs.fstat &&& ~~~(v.setWidth 6) } }
  | 0x002 => s.modStrand pos fun x => { x with regs := { x.regs with noMint := v.getLsbD 0 } }
  | 0x010 => s.modCtx (s.ctxNum x) fun k => { k with symlim := v.toNat % 65536 }
  | 0x031 => s.modStrand pos fun x => { x with ttarget := v }
  | _ => s

/-- csrw -/
def execCsrw (l : Long) (d csr : Nat) (a : Src) (s : State) : Res :=
  s.longInOrder (.csrw l d csr a) l .system fun s pos x e =>
    .ok (s.csrWrite pos x csr (e.val .i32 a), [(d, ⟨s.csr pos x csr, .i32⟩)])

/-! ## Targets (R331, R333) -/

inductive TClass where
  | self | pending | handler | held | running | exited
  deriving DecidableEq, Repr, Inhabited

def targetClass (self target : Nat) (x : Strand) : TClass :=
  if self = target then .self
  else if x.run = .exited then .exited
  else if x.handler then .handler
  else if x.held then .held
  else if x.run = .trapped then .pending
  else .running

/-- STATE of the status word. -/
def stateCode (x : Strand) : Nat :=
  match x.run with
  | .exited => 7
  | r =>
    if x.handler then 5 else if x.held then 6
    else match r with
      | .candidate => 0
      | .stalled _ => 1
      | .blocked _ => 2
      | .parked _ => 3
      | .trapped => 4
      | .exited => 7

/-- The target of a strand: its position and itself; none for an index that names no strand, with CODE 1 or 2. -/
def State.target (s : State) (x : Strand) : Except Nat (Nat × Strand) :=
  let t := x.ttarget.toNat
  match s.strands.find? fun p => p.2.hank == x.hank && p.2.index == t with
  | some p => .ok p
  | none => match s.hankOf x with
    | some h =>
      let first := match h.spawn with
        | some i => 32 * i
        | none => 0
      .error (if first ≤ t ∧ t < first + h.strands then 2 else 1)
    | none => .error 1

def tStatus (code st cause count : Nat) : Reg := Reg.stat (code * 2 ^ 28 + st * 2 ^ 24 + cause * 2 ^ 16 + count)

/-- CODE and STATE where the target's index or state settles them. -/
def missingState (code : Nat) : Nat := if code = 2 then 7 else 0

/-! ## tins and tset (R332, R339) -/

/-- The registers that `tins` and `tset` act on: the frame in handler mode, else the saved state. -/
def Strand.saved (x : Strand) : Regs := if x.handler then x.frame.getD x.regs else x.regs

def Strand.modSaved (x : Strand) (f : Regs → Regs) : Strand :=
  if x.handler then { x with frame := x.frame.map f } else { x with regs := f x.regs }

/-- A field of the target; none where the selector is not permitted. -/
def Strand.field (x : Strand) (sel : Nat) : Option Reg :=
  let r := x.saved
  let i := fun (n : Nat) => some (Reg.ofNat (n % 2 ^ 32) .i32)
  if sel < 0x100 then r.v[sel]?
  else if sel < 0x108 then some (r.o.getD (sel - 0x100) .zero)
  else if 0x120 ≤ sel ∧ sel ≤ 0x127 then i (x.trap.toNat / 2 ^ (32 * (sel - 0x120)))
  else match sel with
    | 0x108 => some r.ll
    | 0x110 => i r.fstat.toNat
    | 0x111 => i r.slots.toNat
    | 0x112 => i r.pc.clause.toNat
    | 0x113 => i (r.pc.clause.toNat / 2 ^ 32)
    | 0x114 => i r.pc.word
    | 0x115 => i r.depth
    | 0x116 => i (if r.noMint then 1 else 0)
    | 0x117 => i (stateCode x)
    | 0x118 => i r.fs.toNat
    | _ => none

/-- A write of a field; none where the selector is not permitted. -/
def Strand.setField (x : Strand) (sel : Nat) (a : Reg) : Option Strand :=
  let put := fun (f : Regs → Regs) => some (x.modSaved f)
  let v := a.val
  if sel < 0x100 then
    if sel < x.saved.v.length then put fun r => { r with v := r.v.set sel a } else none
  else if sel < 0x108 then put fun r => { r with o := r.o.set (sel - 0x100) a }
  else match sel with
    | 0x108 => put fun r => { r with ll := a }
    | 0x110 => put fun r => { r with fstat := v.setWidth 6 }
    | 0x112 => put fun r => { r with pc := { r.pc with clause := BitVec.ofNat 64 (r.pc.clause.toNat / 2 ^ 32 * 2 ^ 32 + v.toNat) } }
    | 0x113 => put fun r => { r with pc := { r.pc with clause := BitVec.ofNat 64 (r.pc.clause.toNat % 2 ^ 32 + v.toNat * 2 ^ 32) } }
    | 0x114 => put fun r => { r with pc := { r.pc with word := v.toNat } }
    | 0x116 => put fun r => { r with noMint := v.getLsbD 0 }
    | _ => none

/-- May `tins` and `tset` act on a target of this class? The CODE if not. -/
def TClass.insCode : TClass → Nat
  | .running => 3
  | .exited => 2
  | _ => 0

/-- A system word whose lanes act in order and write a status. -/
def State.sysWord (s : State) (i : Instr) (l : Long) (f : State → Nat → Strand → Lane → State × List (Nat × Reg)) : Res :=
  s.longInOrder i l .system fun s pos x e => .ok (f s pos x e)

/-- tins -/
def execTins (l : Long) (d sel : Nat) (s : State) : Res :=
  s.sysWord (.tins l d sel) l fun s pos x _ =>
    let out := fun (v : Reg) (code st : Nat) => (s, [(d, v), (d + 1, tStatus code st 0 0)])
    match s.target x with
    | .error c => out .zero c (missingState c)
    | .ok (tp, t) =>
      match (targetClass pos tp t).insCode, t.field sel with
      | 0, some v => out v 0 (stateCode t)
      | 0, none => out .zero 4 (stateCode t)
      | c, _ => out .zero c (stateCode t)

/-- tset -/
def execTset (l : Long) (d sel : Nat) (a : Src) (s : State) : Res :=
  s.sysWord (.tset l d sel a) l fun s pos x e =>
    let out := fun (s : State) (code st : Nat) => (s, [(d, tStatus code st 0 0)])
    match s.target x with
    | .error c => out s c (missingState c)
    | .ok (tp, t) =>
      match (targetClass pos tp t).insCode, t.setField sel (e.src .any a) with
      | 0, some t' => out (s.setStrand tp t') 0 (stateCode t)
      | 0, none => out s 4 (stateCode t)
      | c, _ => out s c (stateCode t)

/-! ## tres (R340) -/

/-- The strand's entry leaves its braid's pending groups. -/
def State.unpend (s : State) (pos : Nat) : State :=
  s.modBraid (braidOf pos) fun b => { b with
    pending := (b.pending.map fun g => { g with mask := g.mask &&& ~~~(BitVec.twoPow 32 (laneOf pos)) }).filter fun g =>
      g.mask != 0 }

/-- A strand ends as `exit` ends it; a blocked one leaves its wait list with nothing performed. -/
def State.kill (s : State) (pos : Nat) (x : Strand) : State :=
  let ids := (x.outs.filter fun p => match p.act with
    | .served .. => true
    | _ => false).map Pend.id
  let s := ids.foldl (fun s id => s.unwait pos id) s
  let s := { s with barriers := s.barriers.mapVals fun _ b => { b with
    waits := b.waits.filter fun w => !(w.1 == pos && ids.contains w.2) } }
  let s := s.modStrand pos fun x => { x with outs := x.outs.filter fun p => !ids.contains p.id }
  ((s.unpend pos).exitStrand pos).slackReturn (braidOf pos)

inductive TresForm where
  | go | hold | kill
  deriving DecidableEq, Repr, Inhabited

/-- What `tres` does to a pending, held or running target. -/
def State.tres (s : State) (f : TresForm) (pos : Nat) (x : Strand) : State :=
  let free := fun (x : Strand) => { x with held := false, run := if x.run = .trapped then .candidate else x.run }
  match f with
  | .go => if x.held ∨ x.run = .trapped then (s.unpend pos).modStrand pos free else s
  | .hold => ((s.unpend pos).modStrand pos fun x => { x with held := true }).slackReturn (braidOf pos)
  | .kill => s.kill pos x

def State.tresWord (s : State) (i : Instr) (f : TresForm) (l : Long) (d : Nat) : Res :=
  s.sysWord i l fun s pos x _ =>
    let out := fun (s : State) (code st : Nat) => (s, [(d, tStatus code st 0 0)])
    match s.target x with
    | .error c => out s c (missingState c)
    | .ok (tp, t) => match targetClass pos tp t with
      | .self | .handler => out s 5 (stateCode t)
      | .exited => out s 2 (stateCode t)
      | _ => out (s.tres f tp t) 0 (stateCode t)

/-- tres.go -/
def execTresGo (l : Long) (d : Nat) (s : State) : Res := s.tresWord (.tresGo l d) .go l d

/-- tres.hold -/
def execTresHold (l : Long) (d : Nat) (s : State) : Res := s.tresWord (.tresHold l d) .hold l d

/-- tres.kill -/
def execTresKill (l : Long) (d : Nat) (s : State) : Res := s.tresWord (.tresKill l d) .kill l d

/-! ## tstep (R341) -/

/-- Every strand of the braid that has not exited is held. -/
def State.braidStopped (s : State) (b : Nat) : Bool :=
  (s.braidStrands b).all fun p => p.2.run == .exited || p.2.held

/-- tstep: the request goes to the braid's quarter, and the word issues there; a request in progress there comes first. -/
def execTstep (l : Long) (d : Nat) (s : State) : Res :=
  .next (s.inLaneOrder (.tstep l d) fun x s k =>
    let pos := posOf x.braid k
    match s.strand? pos with
    | none => (s, none)
    | some st =>
      let done := fun (s : State) (code sc : Nat) =>
        (s.modStrand pos fun st => st.issueRegs l x.here s.moves .system [(d, tStatus code sc 0 0)], (none : Option TrapReq))
      match s.target st with
      | .error c => done s c (missingState c)
      | .ok (tp, t) =>
        match targetClass pos tp t with
        | .exited => done s 2 (stateCode t)
        | .held =>
          let b := braidOf tp
          let q := s.quarter (quarterOf tp)
          if !s.braidStopped b then done s 3 (stateCode t)
          else match q.step with
            | some r => (s.stallOn pos (.others (r.by_.map fun y => (y.1, y.2.1))), none)
            | none =>
              let r : StepReq := ⟨⟨b, 0, 0, [], 0⟩, 0, [(pos, st.nextId, d)], 0⟩
              ((s.setQuarter (quarterOf tp) { q with step := some r }).modStrand pos fun st =>
                st.issue l x.here s.moves .system false .waiting, none)
        | _ => done s 3 (stateCode t))

/-! ## tswap, gettime, sleep (R342, R343) -/

/-- tswap: the decision goes to the core's arbiter; the hank issues no further word, and its strands leave the issue set until it
has been swapped in again (R343). -/
def execTswap (p : Pred) (s : State) : Res :=
  .next (s.inLaneOrder (.tswap p) fun x s k =>
    let pos := posOf x.braid k
    match s.strand? pos with
    | none => (s, none)
    | some st =>
      let s := s.modStrand pos fun st => { st with run := .stalled .swap, regs := { st.regs with pc := x.after (.tswap p) } }
      match s.hanks.get? st.hank with
      | none => (s, none)
      | some h =>
        if h.stopping then (s, none)
        else (({ s with hanks := s.hanks.set st.hank { h with stopping := true } }).pushEvent h.core (.swap st.hank), none))

/-- gettime -/
def execGettime (l : Long) (d : Nat) (s : State) : Res :=
  s.longInOrder (.gettime l d) l .system fun s pos _ _ =>
    .ok (s, regsFrom d (pairRegs (BitVec.ofNat 64 (s.time (dieOf (coreOf pos)))) .w64))

/-- sleep -/
def execSleep (l : Long) (t : Deadline) (s : State) : Res :=
  .next (s.inLaneOrder (.sleep l t) fun x s k =>
    let pos := posOf x.braid k
    match s.strand? pos with
    | none => (s, none)
    | some st =>
      let now := s.time (dieOf (coreOf pos))
      let e := s.lane x k st
      let dl := match t with
        | .abs a => (e.pair a).toNat
        | .rel a => now + e.nat .i32 a
      if dl ≤ now then (s.modStrand pos fun st => st.issueRegs l x.here s.moves .system [], none)
      else (s.modStrand pos fun st =>
        let st := st.issue l x.here s.moves .system false (.served none (x.after (.sleep l t)) none)
        { st with run := .blocked (.sleep dl) }, none))

/-- SLEEP_WAKEUP: device time has reached the deadline. -/
def execSleepWakeup (pos : Nat) (s : State) : Res :=
  .next <| match s.strand? pos with
    | none => s
    | some x => match x.run with
      | .blocked (.sleep dl) =>
        match x.outs.find? fun p => match p.act with | .served none _ _ => true | _ => false with
        | none => s
        | some p =>
          let sent := (s.events.getD (coreOf pos) []).any fun e => match e with
            | .wake q i => q == pos && i == p.id
            | _ => false
          if dl ≤ s.time (dieOf (coreOf pos)) ∧ ¬ sent then s.pushEvent (coreOf pos) (.wake pos p.id) else s
      | _ => s

/-- TRAP_DELIVERY (R328). -/
def execTrapDelivery (b : Nat) (s : State) : Res := .next (s.deliver b)

end Sys2Proof.Machine
end

