-- ==== Sys2Proof/Machine/Complete.lean ====
section
/-! DEFINITION. Fences and the hold buffer (spec 11 R225 to R230) and the completion of long-latency instructions (02 R45,
10 R195): an access is performed piece by piece, and the last piece writes its registers. -/

namespace Sys2Proof.Machine

/-! ## fence (11 R225) -/

/-- fence: the checkpoint is the state after the fence, at the word after it. One that acquires follows the fences of the
strands whose values its strand has received (R219). -/
def execFence (k : FenceKind) (sc : Scope) (l : Long) (s : State) : Res :=
  .next (s.pointwise (.fence k sc l) fun x _ st =>
    let slots := st.regs.slots ||| slotBit l.slot
    let ckpt := { st.regs with slots := slots, pc := x.after (.fence k sc l) }
    let hand := if k = .rel then [] else st.handed
    let st := if k = .rel then st else { st with handed := [] }
    { st := st.issue l x.here s.moves .plain false (.fence k sc none ckpt none [] hand) })

/-- Has an outstanding access a part that an acquire orders: one on RC or in scratchpad space? (R215, R221) -/
def Pend.isAcquire (p : Pend) : Bool := p.pieces.any Part.annotated

/-- Have the accesses that a fence waits for not all been performed? (R221, R226) -/
def Strand.fenceWaits (x : Strand) (f : Pend) (k : FenceKind) (only : Option Nat) : Bool :=
  x.outs.any fun p => decide (p.id < f.id) &&
    (match k, only with
      | .acq, some n => p.id == n && p.isAcquire
      | .acq, none => p.isRead
      | _, _ => p.isAccess || p.isRead)

/-- Does a fence of another strand, across a handoff, still wait for accesses? (R219) -/
def State.handWaits (s : State) (h : Nat × Nat) : Bool :=
  (s.strandWith h.1 h.2).any fun y => y.outs.any fun f => f.id == h.2 && (match f.act with
    | .fence k _ only .. => y.fenceWaits f k only
    | _ => false)

/-- A deferred trap is delivered once no fence before its instruction is incomplete (R230); in handler mode it faults the context
(18 R330). -/
def State.releaseDeferred (s : State) (pos : Nat) : State :=
  match s.strand? pos with
  | none => s
  | some x => match x.deferred with
    | none => s
    | some r =>
      if x.fencedBefore x.deferNum then s
      else
        let s := s.modStrand pos fun x => { x with deferred := none }
        if x.handler then s.handlerTrap pos (s.ctxNum x) r
        else ((s.modStrand pos fun x => { x with run := .trapped, trap := r }).addGroups (braidOf pos) [laneOf pos]).slackReturn
          (braidOf pos)

/-- The marks of what a strand that acquires by a fence observes: what it has read, and what strands across handoffs have released
(R219, R222). -/
def acquireMarks (pos : Nat) (hand : List (Nat × Nat)) : List Nat := readMark pos :: hand.map fun h => strandMark h.1

/-- A strand's acquire fence completes, that of an acquire access apart: what its reads observed of releases it has observed
(R222). -/
def State.fenceAcquire (s : State) (pos : Nat) (x : Strand) (f : Pend) : State :=
  match f.act with
  | .fence k sc none _ _ _ hand => if k = .rel then s else s.acquire pos x sc (acquireMarks pos hand)
  | _ => s

/-- What the completion of a fence makes of the early writes: one that acquires has observed releases, and so has a release behind
one that is still to complete; a release has what its strand has observed performed at its scope, and what the strand writes from
now on carries it (R222, R224). -/
def State.fenceDone (s : State) (pos : Nat) (x : Strand) (f : Pend) (k : FenceKind) (sc : Scope) : State :=
  let before := if k = .rel then x.outs.filter fun p => decide (p.id < f.id) else []
  let s := (before ++ [f]).foldl (fun s p => s.fenceAcquire pos x p) s
  if k = .acq then s else s.settleFor pos x (some sc) [strandMark pos]

/-- FENCE_COMPLETION (R226). What was read past an acquire fence must still be so (R229); what a release at .dm or .sy follows in
other packages is acknowledged (19 R354). -/
def execFenceCompletion (pos id : Nat) (s : State) : Res :=
  .next <| match s.strand? pos, s.pend? pos id with
    | some x, some p => match p.act with
      | .fence k sc only _ _ _ hand =>
        if x.fenceWaits p k only || hand.any s.handWaits || (k != .rel && x.run != .exited && s.mismatch pos p) ||
          (k != .acq && !s.farReady (some sc)) then s
        else
          let s := s.fenceDone pos x p k sc
          let s := { s with spoiled := s.spoiled.filter fun q => q != (pos, id) }
          ((s.complete pos id [] 0).releaseDeferred pos).windUp pos
      | _ => s
    | _, _ => s

/-- HOLD_BUFFER_LEAVE (11 R228). -/
def execHoldBufferLeave (pos id : Nat) (s : State) : Res := .next (s.leaveHold pos id)

/-! ## Performing an access -/

/-- A strand with a completed read of an affine image. -/
def Regs.writeDone (r : Regs) (d : Done) : Regs :=
  let r := r.write d.regs d.fl
  match d.aff with
  | some (n, v) => { r with a := r.a.set n v }
  | none => r

/-- The words that a strand reads past acquire fences are noted with them (11 R229), but those that its handler reads, where it
trapped at the acquire itself. -/
def Strand.noteReads (x : Strand) (id : Nat) (l : List Nat) : Strand :=
  { x with outs := x.outs.map fun p =>
      if p.id < id ∧ p.isAcqFence ∧ ¬ (x.handler ∧ p.id < x.frameId) then match p.act with
        | .fence k sc only ck w rd h => { p with act := .fence k sc only ck w (rd ++ l) h }
        | _ => p
      else p }

/-- Does a piece go to another package, for what a line instruction does is local (10 R203)? -/
def MemOp.package (op : MemOp) (q : Part) : Option Nat := match op with | .line .. => none | _ => keyPackage q.key

/-- Can the piece go on as links go: a port for its request, or, once it has left, the acknowledgement of its home (19 R352,
R354)? -/
def State.linkReady (s : State) (pos id : Nat) (op : MemOp) (q : Part) : Bool :=
  match op.package q with
  | none => true
  | some g => if q.sent then !s.unacked pos id else !(s.openPorts g).isEmpty

/-- Does a change of a bank's mode that a piece came behind wait there? The change waits for what reached the bank before it (10 R204). -/
def State.behindSwitch (s : State) (pos id : Nat) (q : Part) : Bool :=
  decide (2 ^ 64 ≤ q.key) && s.strands.any fun y => y.2.outs.any fun p => match p.act with
    | .bankset b _ _ after => q.inBank b && !after.any fun e => samePlace e.1 pos && e.2 == id
    | _ => false

/-- Pieces that may go on now, with their numbers. -/
def State.ready (s : State) (pos : Nat) (x : Strand) (p : Pend) (ps : List (Nat × Part)) (o : Order) (op : MemOp) :
    List (Nat × Nat × Part) :=
  if s.lowerLaneWaits pos p || !s.farReady o.rel then []
  else (ps.zipIdx.filter fun q =>
    x.mayPerform p ps o q.2 q.1.2 && s.linkReady pos p.id op q.1.2 && !s.behindSwitch pos p.id q.1.2).map fun q => (q.2, q.1)

/-- A piece written by a strand: readable by the strand or its core and at its release scope first, where the completion says so, or
performed at every scope. It follows the writes to its words that its first readers have not seen. -/
def State.storePiece (s : State) (pos id : Nat) (x : Strand) (early : Bool) (rel : Option Scope) (q : Part) (v : Nat) : State :=
  s.strandWrite pos x id v [q] (if early then s.firstReaders pos x rel q else allObservers)

/-- May a trap from outside its words reach the strand now? It waits while the strand is blocked, trapped, held, in a handler
or past an incomplete fence (log 22, 11 R230). -/
def Strand.open_ (x : Strand) : Bool :=
  (match x.run with
    | .candidate | .stalled _ | .parked _ => true
    | _ => false) && !x.handler && !x.held && !x.pastFence && x.deferred.isNone

/-- A `kld` has its handle: counted, or rejected by the home (17 R320). -/
def State.finishKld (s : State) (pos : Nat) (x : Strand) (p : Pend) (k v : Nat) : State :=
  if x.run = .exited then s.complete pos p.id [] 0
  else match s.takeHandle (s.ctxNum x) v with
    | .error t => s.modPend pos p.id fun p => { p with act := .refused t.cause t.detail t.fault }
    | .ok (s, h) => (s.release ((x.view p).handle k)).modStrand pos fun x => x.finish p fun r => r.setHandle k h

/-- Is a store or an atomic complete with what it has written performed at .c, or is that still to come, as `early` says? (10 R195) -/
def State.laterDone (s : State) (early : Bool) (op : MemOp) (d : Done) : Bool :=
  early && s.freeBit 0 && (!d.regs.isEmpty || match op with | .store _ => true | _ => false)

/-- The last piece is performed: what the access does with the bytes read. Where `early` says so its write is readable to some
observers first, or its registers are still to be written. -/
def State.finishAccess (s : State) (pos : Nat) (x : Strand) (p : Pend) (early : Bool) (o : Order) (q : Part) (op : MemOp) (v : Nat) :
    State :=
  match op with
  | .loadK k => s.finishKld pos x p k v
  | .line pin d =>
    let (s, w) := s.doLine pos x pin q
    s.complete pos p.id [(d, Reg.stat w)] 0
  | .fset full => (s.fsetWord ((q.key - 2 ^ 64) / 2 ^ 18) (q.key % 2 ^ 18) full).complete pos p.id [] 0
  | _ =>
    let d := op.done v
    let s := match op, d.write with
      | .store _, _ => s
      | _, some w => s.storePiece pos p.id x (early && s.freeBit 1) (if q.annotated then o.rel else none) q w
      | _, none => s
    if s.laterDone early op d then s.modPend pos p.id fun p => { p with act := .regs d.regs d.fl }
    else (s.writeDone pos p.id).modStrand pos fun x => x.finish p fun r => r.writeDone d

/-- Is a piece in scratchpad space still where its strand may reach it: the hank resident, the bank in scratchpad mode?
(10 R184, R204) -/
def State.stillThere (s : State) (x : Strand) (q : Part) : Bool :=
  decide (q.key < 2 ^ 64) || (match s.scratch x q.va with
    | some (b, o) => bankKey b o == q.key && (s.bank b).mode == .scratch
    | none => false)

/-- The memory answers an access with an error: an uncorrectable error faults the context (09 R176); an error status of the host
is a trap (19 R355). -/
def State.busStop (s : State) (pos core : Nat) (x : Strand) (p : Pend) (src : Nat) (f : XFault) : State :=
  if f.cause = 7 then s.upsetFault (s.ctxNum x) core x.index src f
  else s.modPend pos p.id fun p => { p with act := .refused cPermission f.cause (some (src, f)) }

/-- Does an operation read and write in one step (10 R205 to R208)? -/
def MemOp.stepped : MemOp → Bool
  | .atom .. | .cas .. | .atomf .. | .xadd .. => true
  | _ => false

/-- What the memory answers a piece with. What a line instruction does is local to the cluster: it answers of a remote or host
line with its code (10 R203). -/
def State.pieceFault (s : State) (op : MemOp) (q : Part) : Option XFault :=
  match op with
  | .line .. => if q.cached then s.busFault false [q] else none
  | _ => s.busFault op.writes [q]

/-- The strand has read a piece: it has observed the writes there, and, by an acquire, what the releases there carry (11 R222,
R224). -/
def State.hasRead (s : State) (pos : Nat) (x : Strand) (p : Pend) (o : Order) (q : Part) : State :=
  let s := s.learnRead pos [q]
  let s := match o.acq with
    | some sc => if q.annotated then s.acquire pos x sc q.words else s
    | none => s
  s.modStrand pos fun x => x.noteReads p.id q.words

/-- One piece of an access is performed. An operation that reads and writes in one step stands behind every write to its words. -/
def State.performPiece (s : State) (pos : Nat) (x : Strand) (p : Pend) (ps : List (Nat × Part)) (got : Nat) (o : Order)
    (op : MemOp) (early : Bool) (n : Nat) (off : Nat) (q : Part) : State :=
  let rest := ps.eraseIdx n
  if !s.stillThere x q then s.modPend pos p.id fun p => { p with act := .refused cPermission 0 none }
  else match s.pieceFault op q with
    | some f => s.busStop pos (coreOf pos) x p op.reach.1 f
    | none =>
      let s := if q.annotated then s.settleFor pos x o.rel q.words else s
      let last := fun (s : State) (got : Nat) =>
        if rest.isEmpty then s.finishAccess pos x p early o q op got
        else s.modPend pos p.id fun p => { p with act := .mem rest got o op }
      match op with
      | .store v =>
        last (s.storePiece pos p.id x early (if q.annotated then o.rel else none) q (v / 2 ^ (8 * off) % 2 ^ (8 * q.len))) 0
      | _ =>
        let s := if op.stepped then s.land [q] else s
        let got := got + s.seenN (strandAgent pos) q.key q.len * 2 ^ (8 * off)
        last (s.hasRead pos x p o q) got

/-- The pieces of an access with one of them, number n, sent. -/
def sentPiece (ps : List (Nat × Part)) (n : Nat) : List (Nat × Part) :=
  ps.zipIdx.map fun y => if y.2 = n then (y.1.1, { y.1.2 with sent := true }) else y.1

/-- A `tload` reads every value as a load of its strand does, and the home replaces the tile in one step, or rejects it (14 R269).
It is applied once a frozen tile has thawed (R258); where the tile has other dimensions by then, the rows are read anew. -/
def State.performTload (s : State) (pos : Nat) (x : Strand) (p : Pend) (key tslot addr stride m n : Nat) (ps : List (Nat × Part)) :
    State :=
  let refuse := fun (cause detail : Nat) => s.modPend pos p.id fun p => { p with act := .refused cause detail none }
  match s.busFault false (ps.map Prod.snd) with
  | some f => s.busStop pos (knotHome key) x p srcLoad f
  | none =>
    let got := (ps.map fun q => s.seenN (strandAgent pos) q.2.key q.2.len * 2 ^ (8 * q.1)).sum
    match s.tileAt key tslot with
    | none => refuse cTile 3
    | some (e, t) =>
      let d := shapeMNK t.shape
      if t.frozen then s
      else if d.1 ≠ m ∨ d.2.1 ≠ n then s.formTload pos x p.id p.at_ key tslot addr stride d.1 d.2.1
      else
        let s := (s.setTile e (t.loaded got)).learnRead pos (ps.map Prod.snd)
        (s.modStrand pos fun x => x.noteReads p.id (ps.flatMap fun q => q.2.words)).complete pos p.id [] 0

/-- A store of an affine image or of a handle reads it when its turn comes (16 R299, 17 R319). -/
def MemOp.resolved (op : MemOp) (r : Regs) : MemOp :=
  match op with
  | .storeA y => .store (r.affine y).image
  | .storeK k => .store (r.handle k).toNat
  | op => op

/-- An outstanding access: one of the pieces that may go on now is sent to its package, or performed. -/
def State.performAccess (s : State) (pos : Nat) (x : Strand) (p : Pend) (ps : List (Nat × Part)) (got : Nat) (o : Order)
    (op : MemOp) (early : Bool) : State :=
  let op := if x.turn p then op.resolved (x.view p) else op
  let l := s.ready pos x p ps o op
  let send := fun (s : State) (n g : Nat) => (s.sendFlit g pos p.id (s.ctxNum x) (coreOf pos)).modPend pos p.id fun p => match p.act with
    | .mem ps got o op => { p with act := .mem (sentPiece ps n) got o op }
    | _ => p
  let unsent := fun (y : Nat × Nat × Part) => if y.2.2.sent then none else (op.package y.2.2).map fun g => (y.1, g)
  match op with
  | .tload key tslot addr stride m n =>
    if l.length ≠ ps.length then s
    else match l.filterMap unsent with
      | [] => s.performTload pos x p key tslot addr stride m n ps
      | ⟨j, g⟩ :: _ => send s j g
  | _ => match l[s.pick l.length]? with
    | none => s
    | some (n, off, q) => match unsent (n, off, q) with
      | some (n, g) => send s n g
      | none => s.performPiece pos x p ps got o op early n off q

/-- Causes of a trap whose resume point is the rejected word itself: those of the closure words (17 R320). -/
def resumesAtWord (p : Pend) (cause : Nat) : Bool := p.kind == .closure && decide (cEnv ≤ cause ∧ cause ≤ cClosure)

/-- The later words of the queue of a closure word that is to be executed again are not performed: the strand executes them again, in
program order (17 R319). -/
def State.dropQueue (s : State) (pos : Nat) (x : Strand) (p : Pend) : State :=
  ((x.outs.filter fun a => a.kind == .closure && decide (p.id < a.id)).map Pend.id).foldl (fun s id => s.complete pos id [] 0) s

/-- A trap of a word that a handler issued before its `rte` faults the context, which keeps its record (18 R330). -/
def State.handlerReject (s : State) (pos : Nat) (x : Strand) (p : Pend) (cause detail : Nat) (f : Option (Nat × XFault)) : State :=
  let r := match f with
    | some (src, f) => s.recordFault (s.ctxNum x) (coreOf pos) x.index src f
    | none => (s, 0, none)
  r.1.ctxFault (s.ctxNum x) 3 (dieOf (coreOf pos)) 0 (TrapRec.toNat ⟨p.at_.clause, p.at_.word, cause, detail, r.2.1⟩)

/-- A rejection reaches its strand (14 R263): a trap at its next word boundary; an exited strand discards it, but a failed
translation has its record. One of a word that the strand's handler issued faults the context (18 R330). -/
def State.reject (s : State) (pos : Nat) (x : Strand) (p : Pend) (cause detail : Nat) (f : Option (Nat × XFault)) : State :=
  let done := s.complete pos p.id [] 0
  let t : TrapReq := { cause := cause, detail := detail, fault := f }
  if x.run = .exited then
    match f with
    | some (src, f) => (done.recordFault (s.ctxNum x) (coreOf pos) x.index src f).1
    | none => done
  else if p.mute then done.handlerReject pos x p cause detail f
  else if x.handler && decide (x.frameId ≤ p.id) then
    if x.pastFence then s else done.raiseLate pos p p.at_ p.at_.clause t
  else if !x.open_ then s
  else if resumesAtWord p cause then (done.dropQueue pos x p).raiseLate pos p p.at_ p.at_.clause t
  else done.raiseLate pos p x.regs.pc x.regs.pc.clause t

/-- An early write of an instruction or a command, a free choice among them, becomes readable to one more observer, to those of a
core or another unit, or to all; earlier writes to its words go before it (11 R223). `key` names the writer. -/
def State.spread (s : State) (key id : Nat) : State :=
  let l := s.early.filter fun w => w.by_.key == key && w.id == id
  match l[Config.pick s.moves / 2 ^ 64 % l.length]? with
  | none => s
  | some w =>
    let n := s.pick (395 + places)
    s.widen (fun v => v == w) (if n < 394 then units [n] else if n = 394 then allObservers else .one (n - 395))

/-- A closed drain that an uncorrectable error or want of a port stopped is tried again. -/
def State.retryDrain (s : State) (pos id : Nat) : State :=
  match s.knots.find? fun k => k.2.arrivals.any fun a => a.pos == pos && a.id == id with
  | some k => s.closeAgain k.1 drainStopped
  | none => s

/-- Registers of an outstanding instruction show the values to come, or again those before, a free choice for each (02 R48). -/
def Strand.showEarly (x : Strand) (p : Pend) (w : List (Nat × Reg)) (choose : Nat → Bool) : Strand :=
  (w.zipIdx.filter fun q => choose q.2).foldl (fun x q =>
    let r := q.1.1
    let put := fun (v : Reg) (sh : List (Nat × Reg)) =>
      { x with
        regs := { x.regs with v := x.regs.v.set r v }
        outs := x.outs.map fun a => if a.id = p.id then { a with shown := sh } else a }
    let shown := ((x.outs.find? (·.id == p.id)).map Pend.shown).getD []
    match shown.find? (·.1 == r) with
    | some old => if x.regs.reg r = q.1.2 then put old.2 (shown.erase old) else put (x.regs.reg r) (shown.erase old)
    | none => put q.1.2 (shown ++ [(r, x.regs.reg r)])) x

/-- Results known: written and complete, with what was written in memory performed at .c, or shown before (02 R45, R48; 10 R195). -/
def State.finishRegs (s : State) (pos : Nat) (x : Strand) (p : Pend) (w : List (Nat × Reg)) (fl : FFlags) (early : Bool) : State :=
  if early && !p.mute && x.run != .exited then s.modStrand pos fun x => x.showEarly p w s.freeBit
  else (s.writeDone pos p.id).complete pos p.id w fl

/-- The next thing that an outstanding instruction has to do. -/
def State.advance (s : State) (pos : Nat) (x : Strand) (p : Pend) (early : Bool) : State :=
  match p.act with
  | .regs w fl => s.finishRegs pos x p w fl early
  | .mem ps got o op => s.performAccess pos x p ps got o op early
  | .refused c d f => s.reject pos x p c d f
  | .affine i a b => if x.turn p then s.runAffine pos x p i a b else s
  | .closure i v h prio => if x.turn p then s.runClosure pos x p i v h prio else s
  | .bankset b m d after => s.runBankset pos x p.id b m d after
  | .barArrive bar d after => s.runArrive pos x p.id bar d after
  | .served .. => s.retryDrain pos p.id
  | _ => s

/-- LONG_LATENCY_COMPLETION (02 R45). -/
def execLongLatencyCompletion (pos id : Nat) (early : Bool) (s : State) : Res :=
  .next <| match s.strand? pos, s.pend? pos id with
    | some x, some p => if p.held || p.svc.isSome then s else (s.advance pos x p early).windUp pos
    | _, _ => s.spread pos id

end Sys2Proof.Machine
end

