-- ==== Sys2Proof/Machine/Sched.lean ====
section
/-! DEFINITION. Issue: fetching and validating a clause (spec 02 R22 to R30), forming an issue set (07 R115, R116), the
group scheduler's round (07 R118), and the beginning and end of a word: lookahead, slots, waits and interlocks
(02 R45 to R47, 07 R137, 11 R227, R228, 12 R243, 14 R265, 16 R299). -/

namespace Sys2Proof.Machine

/-! ## The clause (02 R22 to R30) -/

structure Clause where
  cls : Nat
  wait : Nat
  words : List DWord
  deriving DecidableEq, Repr, Inhabited

/-- Does a clause class admit an op value? (R29) -/
def classAdmits (cls op : Nat) : Bool :=
  let g := op / 16
  g == 14 || (match cls with
    | 0 => decide (g ≤ 5)
    | 1 => g == 6 || g == 7
    | 7 => true
    | c => g == c + 6)

/-- A control transfer or `apply` (R30). -/
def endsClause (op : Nat) : Bool := decide (0xE0 ≤ op ∧ op ≤ 0xE7) || op == 0xC6

/-- Checks 3 to 5 of R25 on one instruction word at slot position p of n. -/
def wordPlaced (cls n : Nat) (p : Nat × Nat × Nat) : Bool :=
  let op := bits p.2.1 63 56
  let ext := takesExt op (bits p.2.1 55 52)
  let size := if ext then 2 else 1
  !opAssigned op || (classAdmits cls op && (!endsClause op || p.1 + size == n + 1) && (!ext || decide (p.1 < n)))

def clauseOk (c : Clause) : Bool := (instrWords 1 c.words).all (wordPlaced c.cls c.words.length)

/-- A trap at the start of a clause. -/
def atStart (t : TrapReq) (clause : DWord) : TrapReq := { t with point := some ⟨clause, 0⟩, resume := some ⟨clause, 0⟩ }

def illegalClause (clause : DWord) : TrapReq := atStart { cause := cClause } clause

/-- A fault on a fetch (18 R326). -/
def fetchFault (clause : DWord) (f : XFault) : TrapReq := atStart (xTrap srcFetch f none ⟨clause, 0⟩) clause

/-- The clause at an address, fetched and validated. -/
def State.fetchClause (s : State) (core ctx : Nat) (a : DWord) : Except TrapReq Clause :=
  if a.toNat % 8 ≠ 0 then .error (illegalClause a)
  else match s.fetch8 core ctx a with
    | .error f => .error (fetchFault a f)
    | .ok h =>
      if !headerOk h then .error (illegalClause a)
      else match s.fetchWords core ctx (a + 8) (headerCount h) with
        | .error f => .error (fetchFault a f)
        | .ok ws =>
          let c : Clause := ⟨bits h 55 53, headerWait h, ws⟩
          if clauseOk c then .ok c else .error (illegalClause a)

/-- The wait mask of the clause at an address: empty where the header cannot be read or is no header. -/
def State.waitMask (s : State) (core ctx : Nat) (a : DWord) : Nat :=
  if a.toNat % 8 ≠ 0 then 0
  else match s.fetch8 core ctx a with
    | .ok h => if headerOk h then headerWait h else 0
    | .error _ => 0

/-! ## The issue set (07 R115, R116; 18 R329) -/

/-- The key of a strand as one number: handler strands lowest, then greater depth, lower address, lower word. -/
def Strand.key (x : Strand) : Nat :=
  (((if x.handler then 0 else 1) * 2 ^ 64 + (2 ^ 64 - 1 - x.regs.depth)) * 2 ^ 64 + x.regs.pc.clause.toNat) * 2 ^ 64 +
    x.regs.pc.word

/-- The lanes with the lowest key, and one of their strands. -/
def lowest (l : AMap Strand) : Option (BitVec 32 × Strand) :=
  match l.foldl (fun (m : Option Strand) p => match m with
      | none => some p.2
      | some x => if p.2.key < x.key then some p.2 else some x) none with
  | none => none
  | some x => some (maskOf ((l.filter fun p => p.2.key == x.key).map fun p => laneOf p.1), x)

/-- Does the wait field of the clause name a slot set in one of the lanes? -/
def State.mustWait (s : State) (b : Nat) (mask : BitVec 32) (x : Strand) : Bool :=
  x.regs.pc.word == 0 &&
  (let w := s.waitMask (b / 64) (s.ctxNum x) x.regs.pc.clause
   (lanesOf mask).any fun l => match s.strand? (posOf b l) with
     | some y => (y.regs.slots.toNat &&& w) != 0
     | none => false)

/-- Is a hank allowed to issue? Its context is active, and neither stops. -/
def State.hankRuns (s : State) (h : Nat) : Bool :=
  match s.hanks.get? h with
  | none => false
  | some hk => !hk.stopping && ((s.ctxs.get? hk.ctx).any fun c => c.st == .active && !c.stopping)

/-- The issue set of a braid, if it is eligible (R116). -/
def State.issueSet (s : State) (b : Nat) : Option (BitVec 32 × Strand) :=
  match s.braids.get? b with
  | none => none
  | some br =>
    if !s.hankRuns br.hank then none
    else match lowest ((s.braidStrands b).filter fun p => p.2.isCand) with
      | none => none
      | some (m, x) => if s.mustWait b m x then none else some (m, x)

/-- Is `w` the place of an instruction word in the clause? -/
def resumable (c : Clause) (w : Nat) : Bool := w == 0 || (instrWords 1 c.words).any fun p => p.1 == w

/-- The issue set leaves its clause. -/
def State.dropCur (s : State) : State :=
  let q := s.quarter s.focus
  if s.stepping then s else s.setQuarter s.focus { q with cur := none }

/-- An issue set begins its clause at the word where it stands: the clause is fetched and validated (R25), and a set at the
clause start stands at word 1. -/
def State.startIssue (s : State) (b : Nat) (mask : BitVec 32) (x : Strand) : State :=
  let pc := x.regs.pc
  let bad := fun (t : TrapReq) =>
    (((s.setCur ⟨b, mask, pc.clause, [], 0⟩).raise ((lanesOf mask).map fun l => (l, t))).dropCur).slackReturn b
  match s.fetchClause (b / 64) (s.ctxNum x) pc.clause with
  | .error t => bad t
  | .ok c =>
    if !resumable c pc.word then bad (illegalClause pc.clause)
    else
      let w := if pc.word = 0 then 1 else pc.word
      let s := s.mapBraid b fun pos y =>
        if mask.getLsbD (laneOf pos) then { y with regs := { y.regs with pc := ⟨pc.clause, w⟩ } }
        else match y.run with
          | .parked m => { y with run := .parked (m &&& ~~~mask) }
          | _ => y
      (s.slackReturn b).setCur ⟨b, mask, pc.clause, c.words, w⟩

/-! ## Stalls that end (02 R45, 07 R117) -/

/-- Has the cause of a strand's stall gone? Gather points and deferred traps apart. -/
def State.stallOver (s : State) (x : Strand) : Bool :=
  x.deferred.isNone && (match x.run with
    | .stalled (.ops ids) => ids.all fun i => x.outs.all fun p => p.id != i
    | .stalled (.others l) => l.all fun p => s.gone p.1 p.2
    | .stalled (.bank b) => !s.switching b
    | .stalled .swap => !(s.hanks.get? x.hank).any Hank.stopping
    | .stalled (.service q) => !s.inServiceSeq (s.ctxNum x) q && x.outs.all fun p => p.svc != some q
    | _ => false)

/-- Strands of a braid whose stall is over are candidates, and parked strands return (R117, R121, R137). -/
def State.settleBraid (s : State) (b : Nat) : State :=
  let s := s.mapBraid b fun _ x => if s.stallOver x then { x with run := .candidate } else x
  (s.releaseGather b).slackReturn b

/-- SLACK_RETURN (R121). -/
def execSlackReturn (b : Nat) (s : State) : Res := .next (s.slackReturn b)

/-! ## The round (07 R118) -/

def ageLimit : Nat := 48

/-- The braids of a quarter. -/
def quarterBraids (q : Nat) : List Nat := (List.range 16).map fun i => q * 16 + i

/-- Ineligible braids stop being aged; braids unchosen for 48 rounds become aged, by ascending position. -/
def State.ageBraids (s : State) (q : Nat) : State :=
  let x := s.quarter q
  let old := x.aged.filter fun b => (s.issueSet b).isSome
  let new := (quarterBraids q).filter fun b =>
    !old.contains b && (s.issueSet b).isSome && ((s.braids.get? b).any fun br => decide (ageLimit ≤ br.unchosen))
  s.setQuarter q { x with aged := old ++ new }

/-- BRAID_AGED. -/
def execBraidAged (b : Nat) (s : State) : Res :=
  .next (if (s.braids.get? b).any fun br => decide (ageLimit ≤ br.unchosen) then s.ageBraids (b / 16) else s)

/-- The first of a list of braids at or after the pointer, in the order of the quarter's places. -/
def roundRobin (ptr : Nat) (l : List Nat) : Option Nat :=
  (List.range 16).findSome? fun i => l.find? fun b => b % 16 == (ptr + i) % 16

/-- The braid chosen and the quarter's pointers after the choice. A braid chosen as aged moves no pointer, and one chosen for
its handler moves that of the handlers alone (log 45). -/
def State.choose (s : State) (q : Nat) (el : List (Nat × Strand)) : Option (Nat × Quarter) :=
  let x := s.quarter q
  match x.aged with
  | b :: rest => some (b, { x with aged := rest })
  | [] =>
    match roundRobin x.rrHandler ((el.filter fun p => p.2.handler).map Prod.fst) with
    | some b => some (b, { x with rrHandler := (b + 1) % 16 })
    | none =>
      [3, 2, 1, 0].findSome? fun c =>
        (roundRobin (x.rr.getD c 0) ((el.filter fun p => ((s.braids.get? p.1).map Braid.prio) == some c).map Prod.fst)).map
          fun b => (b, { x with rr := x.rr.set c ((b + 1) % 16) })

/-- SCHEDULER_ROUND: where the issue slot is free, one eligible braid is chosen and its issue set begins. -/
def State.round (s : State) (q : Nat) : State :=
  if (s.quarter q).cur.isSome || s.clocksStopped || decide (1536 ≤ q) then s
  else
    let s := (quarterBraids q).foldl State.settleBraid s
    let s := s.ageBraids q
    let el := (quarterBraids q).filterMap fun b => (s.issueSet b).map fun p => (b, p.2)
    match s.choose q el with
    | none => { s with braids := s.braids.mapVals fun b br => if b / 16 = q then { br with unchosen := 0 } else br }
    | some (b, x) =>
      let set := s.issueSet b
      let s := { (s.setQuarter q x) with
        focus := q, stepping := false
        braids := s.braids.mapVals fun c br =>
          if c / 16 ≠ q then br
          else if c = b ∨ (el.all fun p => p.1 != c) then { br with unchosen := 0 }
          else { br with unchosen := br.unchosen + 1 } }
      match set with
      | none => s
      | some (m, st) => s.startIssue b m st

def execSchedulerRound (q : Nat) (s : State) : Res := .next (s.round q)

/-! ## Before a word: what makes a lane stall or block at it -/

/-- Long-latency words that a fence of the braid holds back, whichever strand's it is (10 R195). -/
def bankWord : Instr → Bool
  | .ldf .. | .stf .. | .fset .. | .fpush .. | .fpop .. | .lline .. | .uline .. | .bankset .. => true
  | _ => false

/-- Words that wait in the hold buffer past a fence (11 R227). -/
def heldWord : Instr → Bool
  | .st .. | .stw .. | .ast .. | .atom .. | .cas .. | .atomf .. | .xadd .. | .xclr .. | .cpb .. | .cpg .. | .cps .. | .cpf ..
  | .cqf .. | .apply .. | .spawn .. | .ctr .. => true
  | _ => false

/-- Those that keep their order among themselves also behind an entry held since a fence (11 R232). -/
def queuedWord : Instr → Bool
  | .cpb .. | .cpg .. | .cps .. | .cpf .. | .cqf .. | .ctr .. => true
  | _ => false

/-- Does the strand need an entry of the hold buffer for the word? -/
def Strand.needsHold (x : Strand) (i : Instr) : Bool := heldWord i && (x.pastFence || queuedWord i && x.mustHold)

/-- Does a call or return touch the spilled part of the stack? (07 R124) -/
def touchesSpill (x : Strand) : Instr → Bool
  | .call .. | .calli .. => decide (32 ≤ x.regs.depth)
  | .ret .. => decide (32 < x.regs.depth)
  | _ => false

/-- The words that stall past a fence of their own strand (11 R227), by op value where a range says so. -/
def fenceWord (x : Strand) (e : Lane) (op : Nat) (i : Instr) : Bool :=
  decide (0x80 ≤ op ∧ op ≤ 0x93) || op == 0x95 || decide (0xC0 ≤ op ∧ op ≤ 0xC5) || op == 0xC8 || decide (0xF0 ≤ op) ||
    touchesSpill x i || wouldMint x e i

/-- The knot slot that a word of groups 0x80 and 0x90 names (12 R243). -/
def knotSlotOf : Instr → Option Nat
  | .jnew _ k _ | .join _ k _ _ | .leave _ k | .jrank _ k _ | .jsize _ _ k _ | .jbar _ _ k | .jscan _ _ _ _ k _ _
  | .jred _ _ _ k _ _ => some k
  | .tall _ _ _ r | .tfree _ r | .tzero _ r | .tload _ r _ _ | .ctr _ _ _ _ _ r _ _ | .tdrain _ _ _ _ r _ _ _ => some r.k
  | _ => none

def isCtr : Instr → Bool
  | .ctr .. => true
  | _ => false

/-- A contribution on its way, rather than a `tload`. -/
def Pend.isBlock (p : Pend) : Bool := match p.act with | .waiting | .ctr .. => true | _ => false

def pendIds (l : List Pend) : List Nat := l.map Pend.id

/-- Outstanding instructions of a strand that hold a slot. -/
def Strand.slotHolders (x : Strand) (slot : Nat) : List Pend :=
  if slot < 12 ∧ x.regs.slots.getLsbD slot then x.outs.filter fun p => !p.mute && p.slot == slot else []

/-- The homes of the knots that a word goes to: the knot of its slot, the core itself for `jnew`, and for `join` the knot named
(14 R265). -/
def State.knotHomes (s : State) (pos : Nat) (x : Strand) (e : Lane) : Instr → List Nat
  | .jnew .. => [coreOf pos]
  | .join _ _ _ a => [knotHome (knotKey (e.nat .i32 a))]
  | i => ((knotSlotOf i).bind (s.heldKnot x)).toList.map fun k => knotHome k.1

/-- The barrier that a word names. -/
def barOf : Instr → Option Nat
  | .barInitArr _ b _ | .barInitRows _ b _ _ | .barArrive _ _ b _ | .barWait _ _ b _ | .barSync _ _ b | .barDrop _ b _
  | .barTest _ b _ _ | .barStat _ b _ | .barFree _ b => some b
  | _ => none

/-- Is it an arrival at the barrier that waits for accesses? -/
def Pend.arrivesAt (p : Pend) (bar : Nat) : Bool := match p.act with | .barArrive b .. => b == bar | _ => false

/-- Earlier instructions that the word waits for: requests to a knot's home and to a barrier go in order (12 R243, 13 R251,
14 R265); the closure words that may trap and `apply` come behind the closure words (17 R319, R320; log 70), the no-mint bit behind the
affine words (16 R299), `rte` behind system words (18 R336). -/
def State.queueWaits (s : State) (pos : Nat) (x : Strand) (e : Lane) (i : Instr) : List Nat :=
  let homes := s.knotHomes pos x e i
  let knot := pendIds (x.outs.filter fun p => ((knotSlotOf i).any fun k => p.kind == .knotSlot k) ||
    ((homes.any fun h => p.kind == .contribution h) && !(isCtr i && p.isBlock)))
  let bar := match barOf i with
    | some b => pendIds (x.outs.filter fun p => p.arrivesAt b)
    | none => []
  let unit := match i with
    | .rte .. => x.systemIds
    | .csrr _ _ c | .csrw _ _ c _ => if c = 0x002 then x.affQueue else []
    | .cap .. | .capr .. | .kdup .. | .spawn .. => pendIds (x.outs.filter fun p => p.kind == .closure)
    | .apply .. => if x.pastFence then [] else pendIds (x.outs.filter fun p => p.kind == .closure)
    | _ => []
  knot ++ bar ++ unit

/-- The address that an access names. -/
def accessAddr : Instr → Option Addr
  | .ld _ _ _ _ _ a | .st _ _ _ _ _ a | .ldw _ _ _ _ _ a | .stw _ _ _ _ a | .ald _ _ _ a | .ast _ _ _ a | .kst _ _ _ a
  | .kld _ _ _ a => some a
  | .ldf _ _ _ _ a b | .stf _ _ _ a b | .fset _ _ a b | .fpush _ _ _ a b | .fpop _ _ _ _ a b => some (.s a b)
  | .atom _ _ _ _ a _ | .cas _ _ _ a _ | .atomf _ _ _ _ a _ | .xadd _ _ _ a _ | .xget _ _ _ _ _ a | .xclr _ _ a =>
    some (placeAddr a)
  | _ => none

/-- The bank whose mode is being changed before the access reaches it (10 R204). -/
def State.bankStall (s : State) (x : Strand) (e : Lane) (i : Instr) : Option Nat :=
  match accessAddr i with
  | some (.s a b) => ((s.scratch x (e.ea (.s a b))).map Prod.fst).filter s.switching
  | _ => none

/-- Why a lane does not execute the word: the run state it takes; none where it goes on. `room` says whether the hold
buffer has an entry for it. -/
def State.gate (s : State) (x : Issue) (i : Except DecodeError Instr) (l : Nat) (st : Strand) (room : Bool) : Option Run :=
  let ops := fun (ids : List Nat) => some (Run.stalled (.ops ids))
  let look := pendIds (st.outs.filter fun p => p.look == 0)
  let awaits := st.awaits.filter fun n => st.outs.any fun p => p.id == n
  if !look.isEmpty then ops look
  else if !awaits.isEmpty then ops awaits
  else match i with
    | .error _ => none
    | .ok i =>
      if s.illegalHere x i then none
      else
        let slot := match i.info.long with
          | some lg => pendIds (st.slotHolders lg.slot)
          | none => []
        let op := bits ((x.words.getD (x.word - 1) 0).toNat) 63 56
        if !slot.isEmpty then ops slot
        else if op / 16 = 5 ∧ s.gatherBlocked x.braid x.mask st x.clause x.word then some (.stalled .gather)
        else if !predHolds st.regs i.info.pred then none
        else
          let braidFences := (s.braidStrands x.braid).flatMap fun p => p.2.fences.map fun f => (p.1, f.id)
          let e := s.lane x l st
          let waits := s.queueWaits (posOf x.braid l) st e i
          if bankWord i ∧ braidFences ≠ [] then some (.stalled (.others braidFences))
          else if st.pastFence ∧ fenceWord st e op i then ops (pendIds st.fences)
          else if !waits.isEmpty then ops waits
          else if let some b := s.bankStall st e i then some (.stalled (.bank b))
          else if st.needsHold i ∧ ¬ room then some (.blocked .holdBuffer)
          else none

/-- The decoded word at which the issue set stands. -/
def Issue.decoded (x : Issue) : Except DecodeError Instr :=
  decode (x.words.getD (x.word - 1) 0).toNat (x.words.getD x.word 0).toNat

/-- The lanes that reach the word: candidates that stand there. -/
def State.reaching (s : State) (x : Issue) : List (Nat × Strand) :=
  (lanesOf x.mask).filterMap fun l => match s.strand? (posOf x.braid l) with
    | some st =>
      if st.run = .candidate ∧ (s.stepping ∨ ¬ st.held) ∧ st.regs.pc = x.here then some (l, st) else none
    | none => none

/-- The issue set comes to its next word: lanes that stall or block there leave it. The answer is the word to execute, or
none where no lane is left. -/
def State.beginWord (s : State) : State × Option (Except DecodeError Instr) :=
  match s.cur with
  | none => (s, none)
  | some x =>
    let lanes := s.reaching x
    let x := { x with mask := maskOf (lanes.map Prod.fst) }
    let i := x.decoded
    -- lanes that execute the word take an entry each (11 R228)
    let held := fun (st : Strand) => match i with
      | .ok i => st.needsHold i && predHolds st.regs i.info.pred && (tagFailure st.regs i.info).isNone && !s.illegalHere x i
      | .error _ => false
    let free := 64 - s.holdCount x.braid
    let step := fun (acc : State × BitVec 32 × Nat) (p : Nat × Strand) =>
      let used := acc.2.2
      match s.gate x i p.1 p.2 (decide (used < free)) with
      | some r => (acc.1.modStrand (posOf x.braid p.1) fun st => { st with run := r }, acc.2.1, used)
      | none => (acc.1, acc.2.1 ||| BitVec.twoPow 32 p.1, if held p.2 then used + 1 else used)
    let (s, mask, _) := lanes.foldl step (s, 0, 0)
    if mask = 0 then (s.setCur { x with mask := 0 }, none)
    else (s.setCur { x with mask := mask }, some i)

/-! ## After a word -/

/-- Slot words that the word takes. -/
def Issue.width (x : Issue) : Nat :=
  let w := (x.words.getD (x.word - 1) 0).toNat
  if takesExt (bits w 63 56) (bits w 55 52) then 2 else 1

/-- The point after the word (02 R22, R28). -/
def Issue.nextPoint (x : Issue) : Point :=
  if x.words.length < x.word + x.width then ⟨x.next, 0⟩ else ⟨x.clause, x.word + x.width⟩

/-- The register whose value the latch takes from a word: the first that a fixed-latency word writes (02 R42). -/
def Issue.latched (x : Issue) : Option Nat :=
  match x.decoded with
  | .ok i => if i.info.long.isNone ∧ bits ((x.words.getD (x.word - 1) 0).toNat) 63 56 < 0x60 then
      (i.info.writes.head?).map Prod.fst else none
  | .error _ => none

/-- Has the lane issued the word, rather than stalled or blocked at it, or trapped to execute it again? `before` numbers the
instruction that it would issue next before the word. -/
def Strand.issued (x : Strand) (here : Point) (before : Nat) : Bool :=
  match x.run with
  | .candidate | .parked _ | .exited => true
  | .blocked _ => x.nextId != before
  | .trapped | .stalled _ => x.regs.pc != here

/-- One issued word counts towards the lookahead of each earlier instruction (02 R46). -/
def Strand.countWord (x : Strand) (before : Nat) : Strand :=
  { x with outs := x.outs.map fun p => if p.id < before ∧ 0 < p.look ∧ p.look < 15 then { p with look := p.look - 1 } else p }

/-- The vector registers that a fixed-latency word writes. -/
def Issue.fixedWrites (x : Issue) : List Nat :=
  match x.decoded with
  | .ok i => if i.info.long.isNone then i.info.writes.flatMap fun w => (List.range w.2).map (w.1 + ·) else []
  | .error _ => []

/-- Has a lane executed a word here, its predicate holding and no trap raised? -/
def Strand.executed (x was : Strand) (i : Issue) : Bool :=
  (match i.decoded with
    | .ok w => predHolds was.regs w.info.pred
    | .error _ => false) &&
  x.run != .trapped && x.deferred.isNone && x.issued i.here was.nextId

/-- A lane after the word, which it began as `was`: it moves on where the word did not move it, back from a handler to this very
point or elsewhere, and its latch takes the word's register. -/
def Strand.afterWord (x : Strand) (i : Issue) (was : Strand) (keep : Nat → Bool) : Strand :=
  let before := was.nextId
  let x := if x.executed was i then x.overwrite i.fixedWrites keep else x
  let x := if x.issued i.here before then x.countWord before else x
  if x.run = .candidate ∧ x.regs.pc = i.here ∧ ¬ (was.handler ∧ ¬ x.handler) then
    { x with regs := { x.regs with
        pc := i.nextPoint
        ll := match i.latched with
          | some d => x.regs.reg d
          | none => x.regs.ll } }
  else x

/-- The trap record of a strand that a `tstep` stepped without a trap (18 R341). -/
def stepRecord (i : Issue) : TrapRec := ⟨i.clause, i.word, 19, 0, 0⟩

/-- The end of a stepped word: records, held again, and the status of those who asked. -/
def State.endStep (s : State) (i : Issue) : State :=
  let q := s.quarter s.focus
  match q.step with
  | none => { s with stepping := false }
  | some r =>
    let lanes := lanesOf i.mask
    let trapped := lanes.filterMap fun l => match s.strand? (posOf i.braid l) with
      | some x =>
        if x.run = .trapped then some x.trap.cause else x.deferred.map TrapRec.cause
      | none => none
    let s := s.mapBraid i.braid fun pos x =>
      if i.mask.getLsbD (laneOf pos) ∧ x.run ≠ .exited then
        { x with held := true, trap := if x.run = .trapped ∨ x.deferred.isSome then x.trap else stepRecord i }
      else x
    let st := tStatus 0 6 (trapped.headD 0) lanes.length
    let s := r.by_.foldl (fun s y => s.complete y.1 y.2.1 [(y.2.2, st)] 0) s
    { (s.setQuarter s.focus { q with step := none }) with stepping := false }

/-- The end of a word that began with `before`. -/
def State.endWord (before s : State) : State :=
  match s.cur with
  | none => s
  | some x =>
    let was := fun (pos : Nat) (y : Strand) => (before.strand? pos).getD y
    let s := s.mapBraid x.braid fun pos y =>
      if x.mask.getLsbD (laneOf pos) then y.afterWord x (was pos y) (fun r => s.freeBit (256 * laneOf pos + r)) else y
    let stepped := (lanesOf x.mask).filter fun l => (s.strand? (posOf x.braid l)).any fun y =>
      y.run == .trapped || y.deferred.isSome || y.issued x.here (was (posOf x.braid l) y).nextId
    let s := s.settleBraid x.braid
    if s.stepping then (if stepped.isEmpty then s else s.endStep { x with mask := maskOf stepped })
    else
      let n := x.nextPoint
      let stay := if n.word = 0 then [] else (lanesOf x.mask).filter fun l => match s.strand? (posOf x.braid l) with
        | some y => y.isCand && y.regs.pc == n && (y.handler || !(was (posOf x.braid l) y).handler)
        | none => false
      if stay.isEmpty then s.dropCur else s.setCur { x with mask := maskOf stay, word := n.word }

/-! ## A stepped word (18 R341, 07 R127) -/

/-- Held strands that a step treats as candidates; the parked ones where there is none. In a stopped braid, which has no
candidate, the parked strands return before the step and take part in it (log 45). -/
def State.stepCands (s : State) (b : Nat) : AMap Strand :=
  let l := (s.braidStrands b).filter fun p => p.2.held
  let c := l.filter fun p => p.2.run == .candidate || p.2.run == .trapped
  if c.isEmpty then l.filter fun p => match p.2.run with | .parked _ => true | _ => false else c

/-- The issue set of a step is formed, or none: it waits for a slot, for strands that are stalled, or for its clause, where the
fetch meets an error or waits for a link; where every strand of the braid is blocked or gone, the step ends with nothing
stepped. -/
def State.formStep (s : State) (r : StepReq) : State :=
  let b := r.issue.braid
  let s := s.settleBraid b
  match lowest (s.stepCands b) with
  | none =>
    if (s.braidStrands b).any fun p => match p.2.run with | .stalled _ => true | _ => false then s
    else { s with stepping := true }.endStep { r.issue with mask := 0 }
  | some (m, x) =>
    if s.mustWait b m x then s
    else
      let s := { s with stepping := true }.mapBraid b fun pos y =>
        if m.getLsbD (laneOf pos) then { y with run := .candidate } else y
      let s := s.startIssue b m x
      match s.cur with
      | none => s
      | some i =>
        if !i.words.isEmpty then s
        else if (s.braidStrands b).any fun p => m.getLsbD (laneOf p.1) && (p.2.run == .trapped || p.2.deferred.isSome) then
          s.endStep { i with mask := m }
        else { s with stepping := false }

end Sys2Proof.Machine
end

