-- ==== Sys2Proof/Machine/Queue.lean ====
section
/-! DEFINITION. Queues and the queue engine (spec 05), and the checks of a launch (06 R100, R101). The engine's accesses
carry the number of the first core of its die. -/

namespace Sys2Proof.Machine

/-! ## Queues -/

def State.modQueue (s : State) (q : Nat) (f : Queue → Queue) : State := { s with queues := s.queues.modify q f }

def Queue.core (x : Queue) : Nat := 48 * x.die

/-- The queue of a context at a descriptor address. -/
def State.queueAt (s : State) (ctx : Nat) (desc : DWord) : Option (Nat × Queue) :=
  s.queues.find? fun p => p.2.ctx == ctx && p.2.desc == desc

/-- May the queue's context run? -/
def State.ctxRuns (s : State) (ctx : Nat) : Bool := (s.ctxs.get? ctx).any fun c => c.st == .active && !c.stopping

def Queue.read (s : State) (x : Queue) (off len : Nat) : Except XFault Nat :=
  s.devRead x.core x.ctx ((x.desc.toNat + off) % 2 ^ 64) len

def Queue.write (s : State) (x : Queue) (off len v : Nat) : Except XFault State :=
  s.devWrite x.core x.ctx ((x.desc.toNat + off) % 2 ^ 64) len v

/-- Bytes of the descriptor: WRIDX, RDIDX, DOORVAL, FAULTREC (R89). -/
abbrev offWr : Nat := 16
abbrev offRd : Nat := 24
abbrev offDoor : Nat := 32
abbrev offFault : Nat := 56

/-! ## Threads and the map list (R88, R97) -/

def State.threads (s : State) (die : Nat) : Nat := (s.queues.filter fun p => p.2.die == die && p.2.thread).length

def State.mapList (s : State) (die : Nat) : List Nat := s.mapLists.getD die []

/-- A queue asks for a thread: it joins the tail of its die's map list, once. -/
def State.askThread (s : State) (q die : Nat) : State :=
  let l := s.mapList die
  if l.contains q then s else { s with mapLists := s.mapLists.set die (l ++ [q]) }

/-- The launches of a queue, in the order started. -/
def State.launchesOf (s : State) (q : Nat) : AMap Launch := s.launches.filter fun p => p.2.queue == q

/-- A queue receives a thread; the dispatch of launches stopped by a pre-empt goes on (06 R109). -/
def State.mapQueue (s : State) (q : Nat) : State :=
  let s := s.modQueue q fun x => { x with st := .mapped, thread := true }
  { s with launches := s.launches.mapVals fun _ l => if l.queue = q then { l with stopped := false } else l }

/-- May a queue receive a thread: is one free, does its engine run, and does its context? Before the boot completes and in
recovery, firmware contexts use the engines of dies 0 and 4 (20 R365). -/
def State.threadFree (s : State) (x : Queue) : Bool :=
  decide (s.threads x.die < 32) && s.featAgreed.toNat / 256 % 256 == 1 && s.ctxRuns x.ctx &&
  (if (s.ctxs.get? x.ctx).any Ctx.firmware then x.die == 0 || x.die == 4 else s.engines)

/-- The first queue of a map list that may be handed a thread. -/
def State.nextMapped (s : State) (die : Nat) : Option Nat :=
  (s.mapList die).find? fun q => (s.queues.get? q).any fun x =>
    (x.st == .created || x.st == .unmapped) && s.threadFree x

/-- A queue in created or unmapped asks: mapped at once where a thread is free and none waits before it. -/
def State.request (s : State) (q : Nat) (x : Queue) : State :=
  if s.threadFree x ∧ (s.nextMapped x.die).isNone then s.mapQueue q else s.askThread q x.die

/-- QUEUE_MAP: the first queue of the map list that can run receives a free thread. -/
def execQueueMap (die : Nat) (s : State) : Res :=
  .next <| match s.nextMapped die with
    | none => s
    | some q => { s with mapLists := s.mapLists.set die ((s.mapList die).filter (· != q)) }.mapQueue q

/-- QUEUE_UNMAP: the queue blocked longest gives its thread to a waiting queue, and waits at the tail. Of queues blocked at the same
device time it is the one of the lowest number (log 69). -/
def execQueueUnmap (die : Nat) (s : State) : Res :=
  .next <|
    if s.mapList die = [] ∨ s.threads die < 32 then s
    else
      let l := s.queues.filter fun p => p.2.die == die && p.2.st == .blocked && p.2.preempting.isNone
      match l.foldl (fun (m : Option (Nat × Queue)) p => match m with
          | none => some p
          | some y => if p.2.blockedAt < y.2.blockedAt then some p else some y) none with
      | none => s
      | some (q, _) => (s.modQueue q fun x => { x with st := .unmapped, thread := false }).askThread q die

/-! ## Faults (R95, R96) -/

/-- A record of R176 whose VADDR is the descriptor's address (R85, code 9). -/
def onDescriptor (x : Queue) (r : Nat) : Nat := r % 2 ^ 64 + x.desc.toNat * 2 ^ 64

/-- A failed access of the engine: the record, and what it holds; none where the access only waits for a port (19 R352). -/
def State.engineFault (s : State) (x : Queue) (h : Holder) (f : XFault) : Option (State × Nat × Option Nat) :=
  if f.cause = 0 then none
  else
    let (s, r, seq) := s.recordFault x.ctx x.core 0 srcQueue f
    some (s.holdIf x.ctx seq h, r, seq)

/-- The queue enters faulted with code 0: thread and state are kept until the page is served (R96). -/
def State.queueHolds (s : State) (q seq : Nat) : State :=
  s.modQueue q fun y => { y with before := y.st, st := .faulted 0, svc := some seq }

/-- An access to the descriptor that fails: held for replay; or a context fault of code 9, or of code 1. -/
def State.descFail (s : State) (q : Nat) (x : Queue) (f : XFault) : State :=
  match s.engineFault x (.queue q) f with
  | none => s.awaitLink (.queue q) x.ctx x.core f.page
  | some (s, r, seq) => match seq with
    | some n => s.queueHolds q n
    | none => if f.cause = 7 then s else s.ctxFault x.ctx 9 x.die (onDescriptor x r) 0

/-- A packet fault: FAULTREC is written and the thread freed. -/
def State.queueFault (s : State) (q : Nat) (x : Queue) (code : Nat) : State :=
  match Queue.write s x offFault 8 (code * 2 ^ 56 + x.rdidx.toNat % 2 ^ 56) with
  | .ok s => s.modQueue q fun x => { x with st := .faulted code, thread := false }
  | .error f => s.descFail q x f

/-- An access to the ring, or to what a packet names, that fails: held for replay, or a packet fault of code 6; an
uncorrectable error faults the context. -/
def State.queueFail (s : State) (q : Nat) (x : Queue) (f : XFault) : State :=
  match s.engineFault x (.queue q) f with
  | none => s.awaitLink (.queue q) x.ctx x.core f.page
  | some (s, _, seq) => match seq with
    | some n => s.queueHolds q n
    | none => if f.cause = 7 then s else s.queueFault q x 6

/-! ## Doorbells and the write index (R91) -/

/-- A doorbell that waits for a port: no record has this number. -/
def bellWaits : Nat := 2 ^ 32

/-- A doorbell's access fails: the doorbell is held until it can be replayed; a queue with a thread is faulted with code 0
meanwhile (R96). -/
def State.bellFail (s : State) (q : Nat) (x : Queue) (f : XFault) : State :=
  match s.engineFault x (.bell q) f with
  | none => (s.awaitLink (.bell q) x.ctx x.core f.page).modQueue q fun y => { y with bell := some bellWaits }
  | some (s, r, seq) => match seq with
    | some n =>
      let s := s.modQueue q fun y => { y with bell := some n }
      if x.thread && (x.st == .mapped || x.st == .running || x.st == .blocked) then (s.holdOn x.ctx n (.queue q)).queueHolds q n
      else s
    | none => if f.cause = 7 then s else s.ctxFault x.ctx 9 x.die (onDescriptor x r) 0

/-- What the engine does at a doorbell: WRIDX is read and copied to DOORVAL, and the queue mapped. -/
def State.ring (s : State) (q : Nat) (x : Queue) : State :=
  match Queue.read s x offWr 8 with
  | .error f => s.bellFail q x f
  | .ok w => match Queue.write s x offDoor 8 w with
    | .error f => s.bellFail q x f
    | .ok s =>
      let s := s.modQueue q fun x => { x with wridx := BitVec.ofNat 64 w, doorval := BitVec.ofNat 64 w, bell := none }
      if x.st = .created ∨ x.st = .unmapped then s.request q x else s

/-- The context and the die of an offset in BAR 2 (19 R355). -/
def doorbellPage (off : Nat) : Nat × Nat := (off / 65536 / 8, off / 65536 % 8)

/-- DOORBELL: a write to BAR 2, at a byte of one of its 64 KiB pages. One held already is replayed with the one before it. -/
def execDoorbell (page byte : Nat) (va : DWord) (s : State) : Res :=
  let (ctx, die) := doorbellPage (page * 65536 + byte)
  .next <| match s.queueAt ctx va with
    | none => s
    | some (q, x) => if x.die ≠ die ∨ x.bell.isSome then s else s.ring q x

/-- WRIDX_POLL: a mapped queue sees WRIDX; a doorbell that waited for a port is taken up. -/
def execWridxPoll (q : Nat) (s : State) : Res :=
  .next <| match s.queues.get? q with
    | none => s
    | some x =>
      if x.bell = some bellWaits then s.ring q { x with bell := none }
      else if !x.thread || !s.ctxRuns x.ctx || (match x.st with | .mapped | .running | .blocked => false | _ => true) then s
      else match Queue.read s x offWr 8 with
        | .error f => s.descFail q x f
        | .ok w => s.modQueue q fun x => { x with wridx := BitVec.ofNat 64 w }

/-! ## Kernel objects (06 R100, R101) -/

def kEntry (k : Nat) : DWord := BitVec.ofNat 64 k
def kFeat (k : Nat) : Nat := bits k 79 72
def kRegs (k : Nat) : Nat := 16 * bits k 84 80
def kAffs (k : Nat) : Nat := [0, 4, 8, 16].getD (bits k 89 88) 0
def kNbr (k : Nat) : Nat := bits k 98 92
def kScrkb (k : Nat) : Nat := bits k 116 104
def kStackBase (k : Nat) : Nat := bits k 191 128
def kStackSize (k : Nat) : Nat := bits k 255 240
def kBanks (k : Nat) : Nat := (kScrkb k + 255) / 256

/-- Checks of code 4 on the object. -/
def kernelBad (k : Nat) : Bool :=
  bits k 511 256 != 0 || bits k 239 192 != 0 || bits k 127 117 != 0 || bits k 103 99 != 0 || bits k 91 90 != 0 ||
  bits k 87 85 != 0 || kRegs k == 0 || decide (256 < kRegs k) || kNbr k == 0 || decide (64 < kNbr k) ||
  kStackSize k == 0 || decide (4096 < kScrkb k) || kStackBase k % 65536 != 0 ||
  decide (131072 < 32 * kNbr k * kRegs k) || decide (4096 < 32 * kNbr k * kAffs k) || decide (16 < kBanks k)

/-! ## Packets (R90, R92, R93, R95), as the number of their first 64 bytes -/

structure Packet where
  val : Nat
  len : Nat
  kind : Nat
  sync : Bool
  scope : Nat
  deriving DecidableEq, Repr, Inhabited

/-- Bytes a to b of a packet. -/
def Packet.bytes (p : Packet) (a b : Nat) : Nat := p.val / 2 ^ (8 * a) % 2 ^ (8 * (b + 1 - a))

def Packet.ofNat (v : Nat) : Packet := ⟨v, bits v 19 8, bits v 7 4, v.testBit 20, bits v 23 21⟩

def minLen (kind : Nat) : Nat := [1, 4, 2, 2, 2, 1].getD kind 1

/-- Checks of code 4 on a header: KIND, SCOPE, LEN, reserved bits. -/
def Packet.headerBad (p : Packet) : Bool :=
  decide (5 < p.kind) || bits p.val 63 24 != 0 || decide (p.len < minLen p.kind) ||
    ((p.kind == 3 || p.kind == 5) && decide (p.scope < 4))

/-- The checks of code 4 on the fields of a body, each with the bytes that it takes. -/
def Packet.fieldChecks (p : Packet) : List (Nat × Bool) :=
  match p.kind with
  | 1 =>
    [(16, p.bytes 8 15 % 64 != 0), (28, p.bytes 24 27 == 0 || decide (2 ^ 24 < p.bytes 24 27)),
      (29, p.bytes 28 28 == 0 || decide (24 < p.bytes 28 28) || p.bytes 24 27 % p.bytes 28 28 != 0),
      (30, p.bytes 29 29 / 4 != 0), (32, p.bytes 30 31 / 2 != 0), (48, p.bytes 40 47 != 0), (64, p.bytes 48 63 != 0)]
  | 2 => [(16, p.bytes 8 15 % 8 != 0), (25, decide (3 < p.bytes 24 24)), (32, p.bytes 25 31 != 0)]
  | 3 =>
    [(16, p.bytes 8 15 % 8 != 0), (25, decide (2 < p.bytes 24 24)), (26, (p.bytes 25 25).testBit 6),
      (32, p.bytes 26 31 != 0)]
  | 5 => [(16, p.bytes 8 15 != 0)]
  | _ => []

/-- Checks of code 4 on a packet, as far as its first n bytes tell. -/
def Packet.badIn (p : Packet) (n : Nat) : Bool := p.headerBad || p.fieldChecks.any fun c => decide (c.1 ≤ n) && c.2

/-- Checks of code 4 on a packet. A one-unit fence has its whole body of 8 bytes. -/
def Packet.bad (p : Packet) : Bool := p.badIn 64

def Packet.timed (p : Packet) : Bool := (p.bytes 30 30).testBit 0

/-- What stands at the head of a ring. -/
inductive Head where
  | nothing
  | fails (f : XFault)
  | faulty (code : Nat)
  | packet (p : Packet)
  deriving DecidableEq, Repr, Inhabited

/-- Does a packet name a kernel object that the engine reads (06 R101), be it too short for a launch? -/
def Packet.named (p : Packet) : Bool := p.kind == 1 && decide (1 ≤ p.len) && p.bytes 8 15 % 64 == 0

/-- The lowest failing code of R95 that a packet shows by itself, codes 6 and 7 apart. -/
def packetCode (u pos feat : Nat) (p : Packet) : Option Nat :=
  [(1, decide (u < pos + p.len)), (2, p.len == 0 || decide (u < p.len)), (3, p.val % 16 != 1), (4, p.bad),
   (5, p.kind == 1 && ((p.timed && !feat.testBit 6) || (decide (2 ≤ p.bytes 28 28) && !feat.testBit 1)))].findSome? fun c =>
    if c.2 then some c.1 else none

/-- The lowest failing code of a launch, its kernel object read. -/
def launchCode (feat : Nat) (p : Packet) (k : Nat) : Option Nat :=
  [(3, bits k 71 64 != 1), (4, p.bad || kernelBad k),
   (5, (p.timed && !feat.testBit 6) || (decide (2 ≤ p.bytes 28 28) && !feat.testBit 1) ||
      (kFeat k &&& (255 - feat)) != 0)].findSome? fun c => if c.2 then some c.1 else none

/-- Units written and not taken; more than the ring holds is the fault of code 7. -/
def Queue.avail (x : Queue) : Nat := (x.wridx - x.rdidx).toNat
def Queue.over (x : Queue) : Bool := decide (2 ^ x.log < x.avail)

/-- Features of the queue's context. -/
def State.featOf (s : State) (x : Queue) : Nat := ((s.ctxs.get? x.ctx).map Ctx.feat).getD 0

/-- The lowest failing code from 3 on of a packet whose first n bytes alone can be read, its kernel object where they name it. -/
def State.partCode (s : State) (x : Queue) (p : Packet) (n : Nat) : Option Nat :=
  let feat := s.featOf x
  let obj := if p.kind == 1 && decide (16 ≤ n) && p.bytes 8 15 % 64 == 0 then
      (s.devRead x.core x.ctx (p.bytes 8 15) 64).toOption else none
  [(3, obj.any fun k => bits k 71 64 != 1), (4, p.badIn n || obj.any kernelBad),
   (5, (p.kind == 1 && decide (32 ≤ n) && p.timed && !feat.testBit 6) ||
      (p.kind == 1 && decide (29 ≤ n) && decide (2 ≤ p.bytes 28 28) && !feat.testBit 1) ||
      obj.any fun k => (kFeat k &&& (255 - feat)) != 0)].findSome? fun c => if c.2 then some c.1 else none

/-- A packet whose header could be read meets a fault at its other units, in `len` bytes from `a`: a lower code that its readable
bytes show comes before code 6 (R95). -/
def State.headFails (s : State) (x : Queue) (p : Packet) (a len : Nat) (f : XFault) : Head :=
  let first := 2 ^ 16 - a % 2 ^ 16
  let (p, n) := match if first < len then s.devRead x.core x.ctx a first else .error f with
    | .ok v => ({ p with val := v }, first)
    | .error _ => (p, 8)
  if f.cause = 0 ∨ f.cause = 2 then (if p.badIn n ∧ p.kind ≠ 1 then .faulty 4 else .fails f)
  else if f.cause = 7 then (if p.badIn n then .faulty 4 else .fails f)
  else match s.partCode x p n with
    | some c => .faulty c
    | none => .fails f

/-- The head of a ring: read where it is wholly written (R90), and checked as far as the packet alone tells. A launch that
names a kernel object is checked when it starts, since its object may fail a lower code. One that straddles the wrap or has no
length that fits faults at once, written or not; and the first four units, as far as it has them, are read of every kind (log
57). -/
def State.head (s : State) (x : Queue) : Head :=
  let u := 2 ^ x.log
  let pos := x.rdidx.toNat % u
  let at_ := (x.base.toNat + 16 * pos) % 2 ^ 64
  if x.avail = 0 then .nothing
  else match s.devRead x.core x.ctx at_ 8 with
    | .error f => .fails f
    | .ok h =>
      let p := Packet.ofNat h
      let early := (packetCode u pos 255 { p with kind := 0 }).filter fun c => decide (c ≤ 3)
      if x.avail < p.len ∧ !x.over ∧ early.all (fun c => decide (2 < c)) then .nothing
      else match early with
        | some c => .faulty c
        | none => match s.devRead x.core x.ctx at_ (16 * Nat.min p.len 4) with
          | .error f => s.headFails x p at_ (16 * Nat.min p.len 4) f
          | .ok v =>
            let p := { p with val := v }
            if p.named then .packet p
            else match packetCode u pos (s.featOf x) p with
              | some c => .faulty c
              | none => .packet p

/-- Is a queue in a state that takes packets? -/
def State.takes (s : State) (x : Queue) : Bool :=
  x.thread && s.ctxRuns x.ctx && x.preempting.isNone && (x.st == .mapped || x.st == .running)

/-- A launch with a start time, none of whose hanks is placed yet, holds the packets after it (R94). -/
def State.timedHolds (s : State) (q : Nat) : Bool := (s.launchesOf q).any fun p => p.2.timed && p.2.next == 0

/-- What the engine of a die has read or written becomes visible at a scope: its release, which is observed at places. -/
def State.engineRelease (s : State) (x : Queue) (sc : Scope) (l : List Nat) : State :=
  let gs := s.scopeObservers (coreAgent x.core) none sc
  (s.widen (fun w => w.reach.has (dieAgent x.die)) gs).bring (fun w => w.reach.has (dieAgent x.die)) (dieAgent x.die) gs l

/-- The queue past a packet, whose other checks it has passed: RDIDX written with a release at .sy (R90). -/
def State.pass (s : State) (q : Nat) (x : Queue) (len : Nat) (f : State → State) : State :=
  let rd := x.rdidx + BitVec.ofNat 64 len
  if x.over then s.queueFault q x 7
  else match Queue.write (s.engineRelease x .sy []) x offRd 8 rd.toNat with
    | .error e => s.descFail q x e
    | .ok s => f (s.modQueue q fun x => { x with rdidx := rd, st := if rd = x.wridx then .mapped else .running })

/-- The packet at the head of a queue, of the kind an event is about: it faults, waits, also for its release at .sy to be able to
go (19 R354), or starts. A skip waits for no earlier
packet, whatever its SYNC bit (R94; log 47). -/
def State.startPacket (s : State) (q kind : Nat) (f : State → Queue → Packet → State) : State :=
  match s.queues.get? q with
  | none => s
  | some x =>
    if !s.takes x || s.timedHolds q || x.waiting.isSome then s
    else match s.head x with
      | .nothing => s
      | .fails e => s.queueFail q x e
      | .faulty c => s.queueFault q x c
      | .packet p =>
        if p.kind ≠ kind ∨ (p.sync ∧ p.kind ≠ 0 ∧ x.started ≠ []) ∨ s.farReady (some .sy) = false then s else f s x p

/-- SKIP_PACKET. -/
def execSkipPacket (q : Nat) (s : State) : Res := .next (s.startPacket q 0 fun s x p => s.pass q x p.len id)

/-- A launch starts: its hanks wait for placement (06 R102). -/
def State.beginLaunch (s : State) (q : Nat) (x : Queue) (p : Packet) (k : Nat) : State :=
  s.pass q x p.len fun s =>
    let (id, s) := s.fresh
    let l : Launch :=
      { queue := q, ctx := x.ctx, packet := x.rdidx.toNat, kaddr := BitVec.ofNat 64 (p.bytes 8 15), kobj := k,
        arg := BitVec.ofNat 64 (p.bytes 16 23), count := p.bytes 24 27, next := 0, retired := 0, nbsize := p.bytes 28 28,
        prio := p.bytes 29 29 % 4, timed := p.timed, stopped := false, nbs := [] }
    { (s.modQueue q fun y => { y with started := y.started ++ [⟨x.rdidx.toNat, some id⟩], slice := 0 }) with
      launches := s.launches.set id l }

/-- A launch packet whose SYNC condition and start time have come: its kernel object is read, once, and checked (06 R100,
R101). -/
def State.startLaunch (s : State) (q : Nat) (x : Queue) (p : Packet) : State :=
  match s.devRead x.core x.ctx (p.bytes 8 15) 64 with
  | .error f =>
    if f.cause = 0 ∨ f.cause = 2 ∨ f.cause = 7 then s.queueFail q x f
    else match packetCode (2 ^ x.log) (x.rdidx.toNat % 2 ^ x.log) (s.featOf x) p with
      | some c => s.queueFault q x c
      | none => s.queueFail q x f
  | .ok k => match launchCode (s.featOf x) p k with
    | some c => s.queueFault q x c
    | none => s.beginLaunch q x p k

/-- Has a launch packet's start time come? Where the context lacks TIMED there is none to wait for: the packet faults. -/
def State.due (s : State) (x : Queue) (p : Packet) : Bool :=
  !p.timed || !(s.featOf x).testBit 6 || decide (p.bytes 32 39 ≤ s.time x.die)

/-- LAUNCH_PACKET. -/
def execLaunchPacket (q : Nat) (s : State) : Res :=
  .next (s.startPacket q 1 fun s x p => if s.due x p then s.startLaunch q x p else s)

/-- TIMED_LAUNCH_START. -/
def execTimedLaunchStart (q : Nat) (s : State) : Res :=
  .next (s.startPacket q 1 fun s x p => if p.timed ∧ s.due x p then s.startLaunch q x p else s)

/-- Does a wait's condition hold for the signal's value? (R93) -/
def waitHolds (cond v cmp : Nat) : Bool :=
  match cond with
  | 0 => v == cmp
  | 1 => v != cmp
  | 2 => decide (cmp ≤ v)
  | _ => decide (v < cmp)

def State.signalNow (s : State) (x : Queue) (w : Waiting) : Except XFault Bool :=
  match s.devRead x.core x.ctx w.addr 8 with
  | .error f => .error f
  | .ok v => .ok (waitHolds w.cond v w.cmp)

/-- A wait that was started meets a fault of code 6 on its signal: RDIDX goes back to its packet with FAULTREC (log 47). The
wait stays, to be evaluated again, where the descriptor cannot be written yet. -/
def State.waitFault (s : State) (q : Nat) (x : Queue) (w : Waiting) (f : XFault) : State :=
  let back := { x with rdidx := BitVec.ofNat 64 w.index }
  let s := (s.recordFault x.ctx x.core 0 srcQueue f).1
  match Queue.write s x offRd 8 w.index with
  | .error e => s.descFail q x e
  | .ok s =>
    let s := s.queueFault q back 6
    s.modQueue q fun y => if y.st = .faulted 6 then { y with waiting := none, rdidx := back.rdidx } else y

/-- A started wait is evaluated: it completes, or the queue is blocked at it (R97, R98). -/
def State.evalWait (s : State) (q : Nat) (x : Queue) (w : Waiting) : State :=
  match s.signalNow x w with
  | .error f =>
    if f.cause = 0 ∨ f.cause = 2 ∨ f.cause = 7 then s.queueFail q x f else s.waitFault q x w f
  | .ok true => s.modQueue q fun x => { x with st := if x.rdidx = x.wridx then .mapped else .running, waiting := none }
  | .ok false =>
    if x.st = .blocked then s else s.modQueue q fun x => { x with st := .blocked, blockedAt := s.devTime }

/-- WAIT_PACKET: started, and evaluated; a wait that lost its thread or was pre-empted is evaluated again. -/
def execWaitPacket (q : Nat) (s : State) : Res :=
  .next <| match (s.queues.get? q).bind Queue.waiting, s.queues.get? q with
    | some w, some x => if s.takes x then s.evalWait q x w else s
    | _, _ => s.startPacket q 2 fun s x p =>
      let w : Waiting := ⟨x.rdidx.toNat, p.bytes 8 15, p.bytes 16 23, p.bytes 24 24⟩
      match s.signalNow x w with
      | .error f => s.queueFail q x f
      | .ok _ => s.pass q x p.len fun s => match s.queues.get? q with
        | some x => ({ s with queues := s.queues.set q { x with waiting := some w } }).evalWait q x w
        | none => s

/-- SIGNAL_CHANGE: a blocked queue's wait condition holds. -/
def execSignalChange (q : Nat) (s : State) : Res :=
  .next <| match s.queues.get? q with
    | none => s
    | some x => match x.waiting with
      | some w =>
        if x.st = .blocked ∧ s.ctxRuns x.ctx ∧ x.preempting.isNone then s.evalWait q x w else s
      | none => s

/-- The parts of an access to an address that a packet names. -/
def State.namedParts (s : State) (x : Queue) (n : Need) (a len : Nat) : Except XFault (List Part) :=
  match s.devParts x.core x.ctx n 2 a len with
  | .error f => .error f
  | .ok ps => match s.reachFault true ps with
    | some f => .error f
    | none => .ok ps

/-- What a signal packet stores over an old value, modulo 2^64 (R93). -/
def signalNew (op old b : Nat) : Nat :=
  match op with
  | 0 => b
  | 1 => (old + b) % 2 ^ 64
  | _ => (old + 2 ^ 64 - b) % 2 ^ 64

/-- A signal packet's atomic, a release at SCOPE, on the word as all writes to it have left it; then the interrupt. -/
def State.signal (s : State) (x : Queue) (p : Packet) (ps : List Part) : State :=
  let s := (s.engineRelease x ((scopeOfCode p.scope).getD .sy) (ps.flatMap Part.words)).land ps
  let s := (s.sendParts engineFlit 0 x.ctx x.core ps).putParts (.engine x.die)
    (signalNew (p.bytes 24 24) (s.seenParts (dieAgent x.die) ps) (p.bytes 16 23)) ps
  if (p.bytes 25 25).testBit 7 then { s with msix := s.msix ++ [p.bytes 25 25 % 64] } else s

/-- SIGNAL_PACKET: one atomic with release, then the interrupt. -/
def execSignalPacket (q : Nat) (s : State) : Res :=
  .next (s.startPacket q 3 fun s x p =>
    match s.namedParts x (if p.bytes 24 24 = 0 then .write else .both) (p.bytes 8 15) 8 with
    | .error f => s.queueFail q x f
    | .ok ps => s.pass q x p.len fun s => s.signal x p ps)

/-- The spawn of an apply packet and its status word (17 R316, R323): the handle is revalidated as `kld` does and counted by the
spawn alone. -/
def State.applySpawn (s : State) (x : Queue) (h arg : Nat) : State × Nat :=
  let dangling := (s, spawnStatus 1 (bits h 31 23) 0)
  match s.checkHandle x.ctx h with
  | .error _ => dangling
  | .ok hd => if hd = 0 then dangling else s.spawn x.ctx hd (BitVec.ofNat 64 arg) 0 none []

/-- The uncorrectable error that the spawn of an apply packet meets where it tests the spans (01 R19). -/
def State.applyUpset (s : State) (x : Queue) (h : Nat) : Option XFault :=
  match s.checkHandle x.ctx h with
  | .error _ => none
  | .ok hd => if hd = 0 then none else s.spansFault (s.env (envKey hd))

/-- APPLY_PACKET. -/
def execApplyPacket (q : Nat) (s : State) : Res :=
  .next (s.startPacket q 4 fun s x p =>
    let a := p.bytes 24 31
    match if a = 0 then .ok [] else s.namedParts x .write a 4 with
    | .error f => s.queueFail q x f
    | .ok ps => match s.applyUpset x (p.bytes 8 15) with
     | some f => s.upsetFault x.ctx x.core 0 srcSpill f
     | none => s.pass q x p.len fun s =>
      let (s, w) := s.applySpawn x (p.bytes 8 15) (p.bytes 16 23)
      (s.sendParts engineFlit 0 x.ctx x.core ps).putParts (.engine x.die) w ps)

/-- FENCE_PACKET: every earlier packet is complete, and its writes performed (06 R112); a release at SCOPE. -/
def execFencePacket (q : Nat) (s : State) : Res :=
  .next (s.startPacket q 5 fun s x p =>
    if x.started ≠ [] then s
    else (s.engineRelease x ((scopeOfCode p.scope).getD .sy) []).pass q x p.len id)

end Sys2Proof.Machine
end

