-- ==== Sys2Proof/Machine/Launch.lean ====
section
/-! DEFINITION. Placement of hanks and neighbourhoods (spec 06 R102 to R107), retirement, pre-emption of a queue (06 R109,
R111, 18 R346, 05 R99) and the completion of a launch (06 R112). -/

namespace Sys2Proof.Machine

/-! ## Placement -/

/-- The banks of a core that a placement may take. -/
def State.freeBanks (s : State) (core : Nat) : List Nat :=
  (ownedBanks core).filter fun b => (s.bank b).mode == .cache && (s.bank b).hank.isNone

/-- Room of a core for a hank of the kernel, places and banks apart; swapped hanks of the core come first (18 R344). -/
def State.coreTakes (s : State) (ctx k core : Nat) : Bool :=
  s.regsFit core (32 * kNbr k * kRegs k) (32 * kNbr k * kAffs k) && s.residencyFits core ctx && (s.nextIn core).isNone

/-- Does a seat fit a hank of the kernel? (R102) -/
def State.seatFits (s : State) (ctx k : Nat) (t : Seat) : Bool :=
  decide (t.core < 384) && t.slots.length == kNbr k && decide t.slots.Nodup && t.slots.all (s.freeSlots t.core).contains &&
  t.banks.length == kBanks k && decide (t.banks.Pairwise (· < ·)) && t.banks.all (s.freeBanks t.core).contains &&
  s.coreTakes ctx k t.core

/-- Does a hank of the kernel fit on a core? -/
def State.coreFits (s : State) (ctx k core : Nat) : Bool :=
  decide (kNbr k ≤ (s.freeSlots core).length ∧ kBanks k ≤ (s.freeBanks core).length) && s.coreTakes ctx k core

/-- Position of strand i of a hank with these braids. -/
def strandPos (braids : List Nat) (i : Nat) : Nat := posOf (braids.getD (i / 32) 0) (i % 32)

/-- The braids that a seat names. -/
def seatBraids (t : Seat) : List Nat := t.slots.map fun b => t.core * 64 + b

/-- One hank placed: banks in scratchpad mode, and every strand at its start state (R103, R107). -/
def State.placeHank (s : State) (id : Nat) (l : Launch) (index : Nat) (t : Seat) (nb : Option Nat) (nbpos : Nat)
    (n0 : Option Nat) : State :=
  let k := l.kobj
  let (h, s) := s.fresh
  let braids := seatBraids t
  let n := 32 * kNbr k
  let hank : Hank :=
    { ctx := l.ctx, launch := id, index := index, core := t.core, braids := braids, strands := n, regs := kRegs k,
      affs := kAffs k, scrkb := kScrkb k, banks := t.banks, nb := nb, nbpos := nbpos, nhank := l.count, prio := l.prio,
      spawn := none, stopping := false }
  let s := t.banks.foldl (fun s b => s.claimBank h b) s
  let s := { s with
    hanks := s.hanks.set h hank
    braids := braids.zipIdx.foldl (fun m b => m.set b.1 ⟨h, b.2, l.prio, BitVec.allOnes 32, 0, []⟩) s.braids }
  (List.range n).foldl (fun s i =>
    s.startStrand (strandPos braids i) h i (some id) (kRegs k) (kAffs k) l.arg (kEntry k) n0 (kStackBase k) (kStackSize k) fun r => r) s

/-- May the next hanks of a launch be placed? Saved hanks of it return first (18 R346). -/
def State.dispatches (s : State) (id : Nat) (l : Launch) : Bool :=
  !l.stopped && decide (l.next < l.count) && s.ctxRuns l.ctx && s.saved.all fun v => v.swap || v.hank.launch != id

/-- The cores of the rectangle of n hanks at an origin core, by position (R104). -/
def rectangleAt (n c : Nat) : Option (List Nat) :=
  let w := Nat.min n 8
  let r0 := c % 48 / 8
  let c0 := c % 8
  if c0 + w ≤ 8 ∧ r0 + (n + w - 1) / w ≤ 6 then
    some ((List.range n).map fun p => c / 48 * 48 + (r0 + p / w) * 8 + c0 + p % w)
  else none

/-- Do the seats form the rectangle of R104? -/
def rectangle (seats : List Seat) : Bool :=
  rectangleAt seats.length ((seats.map Seat.core).headD 0) == some (seats.map Seat.core)

/-- Do the next hanks of a launch fit anywhere? -/
def State.launchFits (s : State) (l : Launch) : Bool :=
  (List.range 384).any fun c =>
    if l.nbsize = 1 then s.coreFits l.ctx l.kobj c
    else (s.freeEntry c).isSome && (rectangleAt l.nbsize c).any fun cs => cs.all (s.coreFits l.ctx l.kobj)

/-- Is a queue before another in the round robin of their class? `last` is the one served last. -/
def roundBefore (last a b : Nat) : Bool :=
  if last < a then decide (a < b ∨ b ≤ last) else decide (b ≤ last ∧ a < b)

/-- Is it the turn of a launch's queue: is there no other queue of its die with a launch to place, and a place for it, of a
higher QPRI or earlier in the round robin? (05 R97) The turn passes after each hank or neighbourhood, and a launch that fits
nowhere holds no other back (log 59). -/
def State.turnOf (s : State) (l : Launch) : Bool :=
  match s.queues.get? l.queue with
  | none => true
  | some x =>
    let last := s.dispatched.getD (x.die * 4 + x.pri) 0
    s.queues.all fun p => p.1 == l.queue || p.2.die != x.die || decide (p.2.pri < x.pri) ||
      (p.2.pri == x.pri && roundBefore last l.queue p.1) ||
      (s.launchesOf p.1).all fun m => !s.dispatches m.1 m.2 || !s.launchFits m.2

/-- A launch has had n hanks more placed. -/
def State.noteDispatch (s : State) (launch : Nat) (l : Launch) (n : Nat) : State :=
  { s with
    launches := s.launches.set launch { l with next := l.next + n }
    dispatched := match s.queues.get? l.queue with
      | some x => s.dispatched.set (x.die * 4 + x.pri) l.queue
      | none => s.dispatched }

/-- HANK_PLACEMENT: the next hank of an ordinary launch. -/
def execHankPlacement (launch : Nat) (seat : Seat) (s : State) : Res :=
  .next <| match s.launches.get? launch with
    | none => s
    | some l =>
      if l.nbsize = 1 ∧ s.dispatches launch l ∧ s.seatFits l.ctx l.kobj seat ∧ s.turnOf l then
        (s.placeHank launch l l.next seat none 0 none).noteDispatch launch l 1
      else s

/-- NEIGHBOURHOOD_PLACEMENT: the hanks together, with their launch knot (R104, R106). -/
def execNeighbourhoodPlacement (launch : Nat) (seats : List Seat) (s : State) : Res :=
  .next <| match s.launches.get? launch with
    | none => s
    | some l =>
      let origin := (seats.map Seat.core).headD 0
      if 2 ≤ l.nbsize ∧ seats.length = l.nbsize ∧ s.dispatches launch l ∧ rectangle seats ∧
          seats.all (s.seatFits l.ctx l.kobj) ∧ s.turnOf l then
        match s.freeEntry origin with
        | none => s
        | some key =>
          let (nb, s) := s.fresh
          let n := 32 * kNbr l.kobj
          let ms := seats.zipIdx.flatMap fun t => (List.range n).map fun i =>
            (⟨strandPos (seatBraids t.1) i, t.2 * n + i⟩ : Member)
          let (s, kid) := s.newKnot key l.ctx nb ms
          let s := seats.zipIdx.foldl (fun s t =>
            s.placeHank launch l (l.next + t.2) t.1 (some nb) t.2 (some kid)) s
          s.noteDispatch launch { l with nbs := l.nbs ++ [(nb, seats.map Seat.core)] } l.nbsize
      else s

/-! ## Pre-emption (R109, R111; 18 R346) -/

/-- Resident hanks of a queue's launches. -/
def State.queueHanks (s : State) (q : Nat) : List Nat :=
  (s.hanks.filter fun p => ((s.launches.get? p.2.launch).map Launch.queue) == some q && p.2.spawn.isNone).map Prod.fst

/-- The queue of the launch that a strand works for. -/
def State.queueOf (s : State) (x : Strand) : Option Nat := (x.opener.bind s.launches.get?).map Launch.queue

/-- Resident spawn braids with a strand that works for a queue's launches (17 R324). -/
def State.queueSpawned (s : State) (q : Nat) : List Nat :=
  (s.hanks.filter fun p => p.2.spawn.isSome &&
    (s.hankStrands p.1).any fun y => y.2.run != .exited && s.queueOf y.2 == some q).map Prod.fst

/-- Does an outstanding instruction of a retired hank's strand stay where it is: an entry that may not leave, a fence that waits
for an access? A rejection is still to be discarded. -/
def State.ghostKeeps (s : State) (pos : Nat) (x : Strand) (p : Pend) : Bool :=
  s.keeps pos x p && !x.mayLeave p && (match p.act with
    | .fence k _ only _ _ _ hand => x.fenceWaits p k only || hand.any s.handWaits
    | .refused .. => false
    | _ => true)

/-- Has what retired hanks of a queue's launches issued come to rest: every block in the array (14 R276)? -/
def State.queueGhosts (s : State) (q : Nat) : Bool :=
  s.strands.all fun p => decide (p.1 < places) || s.queueOf p.2 != some q || p.2.outs.all (s.ghostKeeps p.1 p.2)

def State.queueSaved (s : State) (q : Nat) : List SavedHank :=
  s.saved.filter fun v => ((s.launches.get? v.hank.launch).map Launch.queue) == some q && v.hank.spawn.isNone

/-- The launch record (R110). -/
def Launch.image (l : Launch) : Nat :=
  l.kaddr.toNat * 2 ^ 384 + l.arg.toNat * 2 ^ 320 + l.count * 2 ^ 288 + l.next * 2 ^ 256 + l.nbsize * 2 ^ 184 +
    l.prio * 2 ^ 182 + 1

/-- The launch that a queue's record is about: the oldest of those not wholly retired (log 48). -/
def State.recordOf (s : State) (q : Nat) : Option Launch :=
  ((s.launchesOf q).map Prod.snd).find? fun l => decide (l.retired < l.count)

/-- The launch record goes into the 64 bytes after the descriptor; false where it is held for replay, waits for a port, or
faults the context with code 6. -/
def State.writeRecord (s : State) (q : Nat) (x : Queue) : State × Bool :=
  match s.recordOf q with
  | none => (s, true)
  | some l => match Queue.write s x 64 64 l.image with
    | .ok s => (s, true)
    | .error f => match s.engineFault x (.queue q) f with
      | none => (s.awaitLink (.queue q) x.ctx x.core f.page, false)
      | some (s, r, seq) => match seq with
        | some n => (s.modQueue q fun y => { y with svc := some n }, false)
        | none => (if f.cause = 7 then s else s.ctxFault x.ctx 6 x.die r 0, false)

/-- Does a pre-empt still wait: for resident hanks, which at hank depth retire and at instruction depth are saved; and for
launches that end with it, which complete and leave no record (R109, R111)? At hank depth it waits for saved hanks too, until they
have returned and retired (log 60). -/
def State.preemptBusy (s : State) (q d : Nat) : Bool :=
  let ls := (s.launchesOf q).map Prod.snd
  !(s.queueHanks q).isEmpty ||
  (if d = 0 then !(s.queueSaved q).isEmpty || ls.any fun l => l.next == l.count
    else !(s.queueSpawned q).isEmpty || ls.any fun l => l.retired == l.count)

/-- A pre-empt ends once it waits for nothing, with the launch record. -/
def State.checkPreempt (s : State) (q : Nat) : State :=
  match s.queues.get? q with
  | none => s
  | some x => match x.preempting with
    | none => s
    | some d =>
      if s.preemptBusy q d || x.svc.isSome then s
      else match s.writeRecord q x with
        | (s, true) => s.modQueue q fun x => { x with st := .preempted, thread := false, preempting := none }
        | (s, false) => s

/-- Have all strands of a hank exited? (R103, 07 R114) -/
def State.retirable (s : State) (h : Nat) : Bool := (s.hankStrands h).all fun p => p.2.run == .exited

/-- A hank retires. What its strands issued and has not completed goes on apart from it. -/
def State.retire (s : State) (h : Nat) : State :=
  match s.hanks.get? h with
  | none => s
  | some hank =>
    let (n, s) := s.fresh
    let s := (s.setAside n (s.hankStrands h)).dropHank h
    if hank.spawn.isSome then s
    else { s with launches := s.launches.modify hank.launch fun l => { l with retired := l.retired + 1 } }

/-- What hanks and the tiles of a choice hold, to be saved core by core (14 R276, 18 R346): a hank that has just retired
retires. -/
def State.savePlan (s : State) (hs : List Nat) (tiles : AMap Tile) : List (Nat × (State → Except SaveStop State)) :=
  (hs.map fun h => (((s.hanks.get? h).map Hank.core).getD 0,
    fun s => if s.retirable h then .ok (s.retire h) else s.trySave h false)) ++
  tiles.map fun p => (p.1 / 8, fun s => s.freezeTile p.1 p.2)

/-- The tiles, not frozen, whose knots belong to one of these hanks or to its neighbourhood. -/
def State.hankTiles (s : State) (hs : List Nat) : AMap Tile :=
  let place := hs.filterMap fun h => (s.hanks.get? h).map fun x => x.nb.getD h
  s.tiles.filter fun p => !p.2.frozen && place.contains (s.knot (p.1 / 8 * 64 + p.2.entry)).place

def State.stopHanks (s : State) (hs : List Nat) : State :=
  { s with hanks := s.hanks.mapVals fun h x => if hs.contains h then { x with stopping := true } else x }

/-- A pre-empt goes on: at instruction depth its hanks stop issuing at clause boundaries and, once all of them are quiet and what
retired ones left is done, are saved with their tiles. -/
def State.goOnPreempt (s : State) (q : Nat) : State :=
  match s.queues.get? q with
  | none => s
  | some x =>
    let s :=
      if x.preempting = some 1 then
        let hs := s.queueHanks q ++ s.queueSpawned q
        let s := s.stopHanks hs
        if hs.all s.hankQuiet && s.queueGhosts q then s.saveSteps x.ctx (byCore (s.savePlan hs (s.hankTiles hs))) else s
      else s
    s.checkPreempt q

/-- A pre-empt of a queue in mapped, running or blocked: dispatch of its launches stops (R97, R109). -/
def State.preempt (s : State) (q d : Nat) : State :=
  match s.queues.get? q with
  | none => s
  | some x =>
    if x.st ≠ .mapped ∧ x.st ≠ .running ∧ x.st ≠ .blocked then s
    else
      let s := s.modQueue q fun x => { x with preempting := some (Nat.max d (x.preempting.getD 0)) }
      let s := { s with launches := s.launches.mapVals fun _ l => if l.queue = q then { l with stopped := true } else l }
      s.goOnPreempt q

/-! ## The time slice (05 R99) -/

/-- Does the slice of a queue count device time now? A launch of a context that does not run waits for no placement. -/
def State.sliceRuns (s : State) (q : Nat) (x : Queue) : Bool :=
  x.tslice != 0 && !(s.queueHanks q).isEmpty &&
  s.queues.any fun p => p.1 != q && p.2.die == x.die && decide (x.pri ≤ p.2.pri) && s.ctxRuns p.2.ctx &&
    ((s.launchesOf p.1).any fun l => l.2.next == 0 && !l.2.stopped)

/-- Device time passes for the slices. -/
def State.passSlices (s : State) (ns : Nat) : State :=
  { s with queues := s.queues.mapVals fun q x => if s.sliceRuns q x then { x with slice := x.slice + ns } else x }

/-- TIME_SLICE_EXPIRY: the pre-empt, which deepens one under way; or the next step of one. -/
def execTimeSliceExpiry (q : Nat) (s : State) : Res :=
  .next <| match s.queues.get? q with
    | none => s
    | some x =>
      if x.tslice ≠ 0 ∧ x.tslice * 1000 ≤ x.slice ∧ x.preempting.all (fun d => decide (d < x.tsdepth)) then s.preempt q x.tsdepth
      else if x.preempting.isSome then s.goOnPreempt q
      else s

/-! ## Retirement and completion (R103, R112) -/

/-- HANK_RETIREMENT. -/
def execHankRetirement (h : Nat) (s : State) : Res :=
  .next <| match s.hanks.get? h with
    | none => s
    | some hank =>
      if s.retirable h then
        let s := s.retire h
        match s.launches.get? hank.launch with
        | some l => s.checkPreempt l.queue
        | none => s
      else s

/-- Copy commands of a launch that are not complete. -/
def State.launchCopies (s : State) (id : Nat) : Bool :=
  (s.copyEngines.any fun e => e.2.queues.any fun q => q.any fun c => c.launch == id) ||
  (s.events.any fun l => l.2.any fun e => match e with
    | .copy _ c => c.launch == id
    | _ => false) ||
  (s.saved.any fun v => v.copies.any fun c => c.2.launch == id) ||
  s.ctxs.any fun c => c.2.copies.any fun q => q.2.2.launch == id

/-- Does an outstanding instruction still write memory? -/
def Pend.toWrite (p : Pend) : Bool :=
  match p.act with
  | .mem _ _ _ op => op.writes
  | .copy .. => true
  | _ => false

/-- Writes of a launch's exited strands that are not performed. -/
def State.launchWrites (s : State) (id : Nat) : Bool := s.strands.any fun p => p.2.launch == id && p.2.outs.any Pend.toWrite

/-- LAUNCH_COMPLETION: every hank has retired and every write of the launch is performed at .p; the packet is complete. The engine
has seen those writes: its later releases carry them (R112). -/
def execLaunchCompletion (launch : Nat) (s : State) : Res :=
  .next <| match s.launches.get? launch with
    | none => s
    | some l =>
      if l.retired = l.count ∧ s.launchCopies launch = false ∧ s.launchWrites launch = false ∧
          (s.ctxs.get? l.ctx).any (fun c => c.st == .active) then
        let s := s.widen (fun w => w.launch == some launch) (s.scopeObservers (coreAgent 0) none .p)
        let s := { s with launches := s.launches.erase launch }
        (s.modQueue l.queue fun x => { x with started := x.started.filter fun p => p.launch != some launch }).checkPreempt
          l.queue
      else s

end Sys2Proof.Machine
end

