-- ==== Sys2Proof/Machine/Paging.lean ====
section
/-! DEFINITION. TLBs and their invalidation (spec 09 R174, R175), and the service of fault records: ring space, FAULTDONE and
the replay of held operations (09 R177 to R179, 18 R347). -/

namespace Sys2Proof.Machine

/-! ## TLBs -/

/-- An entry joins those of one holder among at most n, a free choice giving way where they are full. -/
def State.tlbInto (s : State) (l : List TlbEntry) (n : Nat) (e : TlbEntry) : List TlbEntry :=
  let mine := l.filter fun t => t.core == e.core
  let l := match if mine.length < n then none else mine[s.pick mine.length]? with
    | some d => l.erase d
    | none => l
  if l.contains e then l else l ++ [e]

/-- A core's TLB, of 128 entries, takes an entry. -/
def State.tlbTake (s : State) (e : TlbEntry) : State := { s with tlb := s.tlbInto s.tlb 128 e }

/-- A cluster's TLB, of 2,048 entries, takes an entry. -/
def State.clusterTake (s : State) (e : TlbEntry) : State :=
  { s with clusterTlb := s.tlbInto s.clusterTlb 2048 { e with core := clusterOf e.core } }

/-- A die's walker holds the pointer to a table of a level for an address. -/
def State.ptrTake (s : State) (e : PtrEntry) : State := { s with pointers := if s.pointers.contains e then s.pointers else e :: s.pointers }

/-- The walk of a TLB miss from a table on, down to a level: pointers are held as they are read, and a resident leaf fills the
TLBs. An uncorrectable error faults the context (R176); a walk that fails otherwise changes nothing, for the access that wanted
it meets the same fault. -/
def State.walkOn (s : State) (w : WalkReq) : Nat → Nat → State
  | level, base =>
    let die := dieOf w.core
    let va := w.va.toNat
    match s.tableEntry die level base (tableIndex level va) with
    | none => (s.recordFault w.ctx w.core w.strand w.src { va := va, cause := 7, level := level }).1
    | some e =>
      if !e.testBit 63 then s
      else if e.testBit 60 then
        if leafBad level e || !e.testBit 52 then s
        else
          let t : TlbEntry := ⟨w.core, w.ctx, va / leafSize e * leafSize e, leafSize e, e⟩
          (s.clusterTake t).tlbTake t
      else match level with
        | 0 => s
        | l + 1 =>
          let s := s.ptrTake ⟨die, w.ctx, l, va / 2 ^ (16 + 13 * (l + 1)), leafFrame e⟩
          if l < w.depth then s else s.walkOn w l (leafFrame e)

/-- What the cluster's TLB and the walker hold for an address gives way. -/
def State.forget (s : State) (core ctx va : Nat) : State :=
  { s with
    clusterTlb := s.clusterTlb.filter fun t => !t.hits (clusterOf core) ctx va
    pointers := s.pointers.filter fun p => !(p.die == dieOf core && p.ctx == ctx && p.pre == va / 2 ^ (16 + 13 * (p.level + 1))) }

/-- TLB_MISS_WALK: the cluster's entry, or a walk from the lowest table that the die's walker holds a pointer to. -/
def execTlbMissWalk (w : WalkReq) (s : State) : Res :=
  .next <| match s.ctxs.get? w.ctx with
    | none => s
    | some c =>
      let va := w.va.toNat
      let s := if w.cold then s.forget w.core w.ctx va else s
      match s.tlbEntry w.core w.ctx va with
      | some t => s.tlbTake { t with core := w.core }
      | none =>
        if !canonicalVa va || !c.root.testBit 63 || c.root.testBit 60 then s
        else match s.heldTable (dieOf w.core) w.ctx va 0, s.heldTable (dieOf w.core) w.ctx va 1 with
          | some t, _ => s.walkOn w 0 t
          | none, some t => s.walkOn w 1 t
          | none, none => s.walkOn w 2 (leafFrame c.root)

/-- The entries that an invalidation drops, and the accesses under way that it waits for: those that may use them. -/
structure Inval where
  kind : Nat
  ctx : Nat
  page : Nat
  deriving DecidableEq, Repr, Inhabited

def Inval.drops (i : Inval) (t : TlbEntry) : Bool :=
  match i.kind with
  | 0 => t.ctx == i.ctx && decide (t.page % 2 ^ 55 ≤ i.page * 2 ^ 16 ∧ i.page * 2 ^ 16 < t.page % 2 ^ 55 + t.size)
  | 1 => t.ctx == i.ctx
  | _ => true

/-- Does it drop a pointer that a walker holds? -/
def Inval.dropsPtr (i : Inval) (p : PtrEntry) : Bool :=
  let k := 16 + 13 * (p.level + 1)
  match i.kind with
  | 0 => p.ctx == i.ctx && p.pre % 2 ^ (55 - k) == i.page * 2 ^ 16 / 2 ^ k
  | 1 => p.ctx == i.ctx
  | _ => true

/-- Pages of one VA are at most 1 GiB. -/
def Inval.covers (i : Inval) (ctx va : Nat) : Bool :=
  match i.kind with
  | 0 => ctx == i.ctx && va % 2 ^ 55 / 2 ^ 30 == i.page * 2 ^ 16 / 2 ^ 30
  | 1 => ctx == i.ctx
  | _ => true

/-- Is an access that was translated before still to be performed, at every scope? One of a saved hank is translated again when
the hank returns. -/
def State.translatedAccess (s : State) (i : Inval) : Bool :=
  (s.strands.any fun p => p.2.outs.any fun o => o.svc.isNone && o.pieces.any fun q =>
    decide (q.key < 2 ^ 64) && i.covers p.2.ctx q.va) ||
  s.early.any fun w => w.parts.any fun q => i.covers w.ctx q.va

/-- The value of TLBINV for an invalidation. -/
def Inval.code (i : Inval) : Nat := i.kind * 2 ^ 61 + i.ctx % 256 * 2 ^ 53 + i.page % 2 ^ 39

/-- The entries that an invalidation names are dropped. -/
def State.dropXlats (s : State) (i : Inval) : State :=
  { s with
    tlb := s.tlb.filter fun t => !i.drops t
    clusterTlb := s.clusterTlb.filter fun t => !i.drops t
    pointers := s.pointers.filter fun p => !i.dropsPtr p }

/-- An invalidation: BUSY, over once every access that used an old translation is performed. The entries are dropped when it ends,
and before that, a free choice, when it begins: accesses meanwhile use old or new ones. A write while another is busy is ignored
(R175). -/
def State.invalidate (s : State) (i : Inval) : State :=
  match s.tlbinv with
  | some c => if c = i.code ∧ s.translatedAccess i = false then { s.dropXlats i with tlbinv := none } else s
  | none =>
    if s.translatedAccess i then { (if s.freeBit 3 then s.dropXlats i else s) with tlbinv := some i.code } else s.dropXlats i

/-- TLBINV_PAGE -/
def execTlbinvPage (ctx va : Nat) (s : State) : Res := .next (s.invalidate ⟨0, ctx, va % 2 ^ 39⟩)

/-- TLBINV_CONTEXT -/
def execTlbinvContext (ctx : Nat) (s : State) : Res := .next (s.invalidate ⟨1, ctx, 0⟩)

/-- TLBINV_ALL -/
def execTlbinvAll (s : State) : Res := .next (s.invalidate ⟨2, 0, 0⟩)

/-- FAULT_RING_SPACE_FREED: FRRD is read again (R178), and records that waited for links are written (19 R352, R354). -/
def execFaultRingSpaceFreed (ctx : Nat) (s : State) : Res := .next ((s.rereadRing ctx).writeFaultRec ctx)

/-! ## Replay (R177, R179) -/

/-- The strand after the replay of its instruction p, now p': where it waits with `rte.w`, it goes on waiting, for what else the
record holds of it, then on the next record or for the operation, or stands at the held word, refused (18 R336). -/
def Strand.replayed (x : Strand) (seq : Nat) (p p' : Pend) : Strand :=
  let x := { x with
    outs := x.outs.map fun q => if q.id = p.id then p' else q
    heldOn := if x.heldOn = some seq then p'.svc.orElse fun _ => some seq else x.heldOn }
  if x.run ≠ .stalled (.service seq) then x
  else match p'.svc, p'.act with
    | none, .refused .. => { x with run := .stalled (.ops [p.id]), regs := { x.regs with pc := p'.at_ } }
    | _, _ =>
      if x.outs.any fun q => q.id != p.id && q.svc == some seq then x
      else match x.heldOn with
        | some n => { x with run := if n = seq then .stalled (.ops [p.id]) else .stalled (.service n) }
        | none => { x with run := .stalled (.ops [p.id]) }

/-- Does a strand have the instruction number `id`, held on a record of its context? -/
def Strand.holds (x : Strand) (ctx seq id : Nat) : Option Pend :=
  if x.ctx = ctx then x.outs.find? fun p => p.id == id && p.svc == some seq else none

/-- An instruction that a record holds is replayed, its strand resident or saved with its hank. One that waits for it traps at
once where the replay refuses it. -/
def State.replayOp (s : State) (ctx seq id : Nat) : State :=
  match s.strands.find? fun y => (y.2.holds ctx seq id).isSome with
  | some (pos, x) => match x.holds ctx seq id with
    | none => s
    | some p =>
      let (s, p') := s.replayPend x pos p
      let s := s.setStrand pos (x.replayed seq p p')
      match p'.act with
      | .refused c d f => if x.run = .stalled (.service seq) then s.reject pos (x.replayed seq p p') p' c d f else s
      | _ => s
  | none =>
    s.saved.foldl (fun s v =>
      match v.strands.find? fun y => (y.2.holds ctx seq id).isSome with
      | none => s
      | some (pos, x) => match x.holds ctx seq id with
        | none => s
        | some p =>
          let (s, p') := s.replayPend x pos p
          { s with saved := s.saved.map fun w =>
              if w.uid = v.uid then { w with strands := w.strands.set pos (x.replayed seq p p') } else w }) s

def CopyEngine.mapCmds (e : CopyEngine) (f : CopyCmd → CopyCmd) : CopyEngine := { e with queues := e.queues.map (List.map f) }

/-- Every copy command changed, in its engine or saved with its hank. -/
def State.mapCopies (s : State) (f : CopyCmd → CopyCmd) : State :=
  let kept := fun (v : SavedHank) => ({ v with copies := v.copies.map fun c => (c.1, f c.2) } : SavedHank)
  { s with copyEngines := s.copyEngines.mapVals fun _ e => e.mapCmds f, saved := s.saved.map kept }

/-- A queue's access is replayed: the queue returns to the state it left (05 R96); the write of a launch record is done again. -/
def State.replayQueue (s : State) (q seq : Nat) : State :=
  match s.queues.get? q with
  | none => s
  | some x =>
    if x.svc ≠ some seq then s
    else
      let s := s.modQueue q fun y => { y with st := if y.st = .faulted 0 then y.before else y.st, svc := none }
      if x.preempting.isSome then s.checkPreempt q
      else if x.st = .preempted then (s.writeRecord q x).1
      else s

/-- A doorbell that a record holds is replayed. -/
def State.replayBell (s : State) (q seq : Nat) : State :=
  match s.queues.get? q with
  | none => s
  | some x =>
    if x.bell ≠ some seq then s
    else
      let x := { x with bell := none }
      { s with queues := s.queues.set q x }.ring q x

/-- A closed drain that a record holds is tried again. -/
def State.replayDrain (s : State) (key seq : Nat) : State :=
  s.closeAgain key seq

/-- One held operation is replayed. -/
def State.replay (s : State) (ctx seq : Nat) (h : Holder) : State :=
  match h with
  | .op id => s.replayOp ctx seq id
  | .copy uid => s.mapCopies fun c => if c.uid = uid ∧ c.svc = some seq then { c with svc := none } else c
  | .queue q => s.replayQueue q seq
  | .bell q => s.replayBell q seq
  | .drain key => s.replayDrain key seq
  | .engine _ => s

/-- The old number of a record that holds again gives way to the new one. -/
def State.renumber (s : State) (ctx old new : Nat) : State :=
  let num := fun (n : Option Nat) => if n = some old then some new else n
  let strand := fun (x : Strand) =>
    if x.ctx ≠ ctx then x
    else { x with
      outs := x.outs.map fun p => { p with svc := num p.svc }
      heldOn := num x.heldOn
      run := if x.run = .stalled (.service old) then .stalled (.service new) else x.run }
  let s := s.mapCopies fun c => if c.ctx = ctx then { c with svc := num c.svc } else c
  let kept := fun (v : SavedHank) => ({ v with strands := v.strands.mapVals fun _ x => strand x } : SavedHank)
  { s with
    strands := s.strands.mapVals fun _ x => strand x
    saved := s.saved.map kept
    queues := s.queues.mapVals fun _ q => if q.ctx = ctx then { q with svc := num q.svc, bell := num q.bell } else q
    knots := s.knots.mapVals fun _ k => if k.ctx = ctx then { k with svc := num k.svc } else k }

/-- A record is served: the page is walked again, and what it holds replayed in the order held, or held by a new record. An
uncorrectable error on the way faults the context, and the service waits for its return. -/
def State.serve (s : State) (ctx seq : Nat) : State :=
  match s.ctxs.get? ctx with
  | none => s
  | some c => match c.inService.find? (·.seq == seq) with
    | none => s
    | some p =>
      let core := p.image / 2 ^ 23 % 512
      let (cause, level) := match s.walk (dieOf core) ctx c.root p.page with
        | .fail f => (f.cause, f.level)
        | .ok _ => (0, 0)
      if cause = 7 then
        let s := (s.recordFault ctx core (p.image / 2 ^ 12 % 2 ^ 11) (p.image / 2 ^ 8 % 16)
          { va := p.image / 2 ^ 64, cause := 7, level := level }).1
        { s with replays := s.replays ++ [(ctx, seq)] }
      else if cause = 2 then
        let new := c.seq.toNat
        let r := p.image / 2 ^ 64 * 2 ^ 64 + new * 2 ^ 32 + bits p.image 31 4 * 2 ^ 4 + level * 2 ^ 2 + p.image % 4
        let s := s.modCtx ctx fun c => { c with
          seq := c.seq + 1
          inService := c.inService.map fun q => if q.seq = seq then { q with seq := new, image := r } else q }
        (s.renumber ctx seq new).ringWrite core ctx new r true
      else
        let s := s.modCtx ctx fun c => { c with inService := c.inService.filter fun q => q.seq != seq }
        p.held.foldl (fun s h => s.replay ctx seq h) s

/-- FAULTDONE: FRRD is read again; the held operations are replayed, or wait until their context is active (18 R347). -/
def State.faultDone (s : State) (ctx seq : Nat) : State :=
  let s := s.rereadRing ctx
  if s.ctxRuns ctx then s.serve ctx seq
  else if (s.ctxs.get? ctx).isSome then { s with replays := s.replays ++ [(ctx, seq)] } else s

def execFaultdone (ctx seq : Nat) (s : State) : Res := .next (s.faultDone ctx seq)

/-- The replays that waited for a context. -/
def State.serveWaiting (s : State) (ctx : Nat) : State :=
  let mine := s.replays.filter fun p => p.1 == ctx
  mine.foldl (fun s p => s.serve p.1 p.2) { s with replays := s.replays.filter fun p => p.1 != ctx }

end Sys2Proof.Machine
end

