-- ==== Sys2Proof/Machine/Context.lean ====
section
/-! DEFINITION. The command block (spec 04 R86) and the driver's commands (R87): contexts (R77, R84), queues (05 R89, R97)
and device modes (20 R364, R365). A command event acts only while the command block is busy with its operation. -/

namespace Sys2Proof.Machine

/-! ## The command block -/

/-- Byte i of CMDBUF, and bytes a to b as a number. -/
def Cmd.byte (c : Cmd) (i : Nat) : Nat := c.buf / 2 ^ (8 * i) % 256
def Cmd.bytes (c : Cmd) (a b : Nat) : Nat := c.buf / 2 ^ (8 * a) % 2 ^ (8 * (b + 1 - a))

/-- A command completes: STATUS and RESULT, SEQ, BUSY, then the interrupt (R86). -/
def State.finishCmd (s : State) (status result : Nat) : State :=
  let c := s.cmd
  { s with
    cmd := { c with busy := false, started := false, seq := (c.seq + 1) % 2 ^ 16, status := status, result := result }
    msix := if (c.byte 1).testBit 0 then s.msix ++ [0] else s.msix }

/-- Is a byte or bit set that the operation does not use? -/
def Cmd.stray (c : Cmd) (used : List Nat) : Bool :=
  decide (2 ≤ c.byte 1) || (List.range 64).any fun i => decide (2 ≤ i) && !used.contains i && c.byte i != 0

/-- A command of operation `op`, which uses these bytes, past the checks of status 1. -/
def State.command (s : State) (op : Nat) (used : List Nat) (f : State → State) : State :=
  if !s.cmd.busy || s.cmd.byte 0 != op then s
  else if s.cmd.stray used then s.finishCmd 1 0
  else f s

/-- The bytes of a quadword operand at byte 16. -/
def quadAt16 : List Nat := [16, 17, 18, 19, 20, 21, 22, 23]

/-- Are commands for firmware contexts, or those for host contexts, refused in this mode? (20 R365) -/
def State.modeRefuses (s : State) (firmware : Bool) : Bool :=
  match s.mode with
  | .startUp | .recovery => !firmware
  | .service | .test => firmware

/-- A command about the context of byte 8. -/
def State.ctxCommand (s : State) (op : Nat) (used : List Nat) (f : State → Nat → Ctx → State) : State :=
  s.command op (8 :: used) fun s =>
    let n := s.cmd.byte 8
    match s.ctxs.get? n with
    | none => s.finishCmd 2 0
    | some c => f s n c

/-- A command about a queue of a context. -/
def State.queueCommand (s : State) (op : Nat) (used : List Nat) (f : State → Nat → Queue → State) : State :=
  s.ctxCommand op (quadAt16 ++ used) fun s n _ =>
    match s.queueAt n (BitVec.ofNat 64 (s.cmd.bytes 16 23)) with
    | none => s.finishCmd 2 0
    | some (q, x) => f s q x

/-- UNKNOWN_OP_COMMAND -/
def execUnknownOpCommand (s : State) : Res :=
  .next <|
    let op := s.cmd.byte 0
    if s.cmd.busy ∧ (op = 0 ∨ 14 ≤ op) then s.finishCmd 1 0 else s

/-! ## Create (R77, R84) -/

/-- The refusals of R84 on a descriptor. -/
def descriptorBad (d agreed : Nat) : Bool :=
  bits d 71 64 != 1 || bits d 1023 720 != 0 || bits d 383 325 != 0 || bits d 159 136 != 0 || bits d 127 72 != 0 ||
  !d.testBit 63 || d.testBit 60 ||
  (bits d 135 128 &&& (255 - agreed % 128)) != 0 || !d.testBit 128 ||
  decide (bits d 324 320 < 4) || decide (20 < bits d 324 320) ||
  [(255, 192, 64), (319, 256, 64), (447, 384, 4096), (511, 448, 65536), (639, 576, 64), (703, 640, 65536)].any (fun f =>
    bits d f.1 f.2.1 % f.2.2 != 0 || !canonicalVa (bits d f.1 f.2.1)) ||
  bits d 719 704 == 0 || bits d 575 512 == 0 || bits d 575 512 % 65536 != 0

/-- The context of a descriptor. -/
def Ctx.ofDescriptor (d : Nat) (firmware : Bool) : Ctx :=
  { st := .created, firmware := firmware, root := d % 2 ^ 64, feat := bits d 135 128, symlim := bits d 175 160,
    pinq := bits d 191 176, trapBase := BitVec.ofNat 64 (bits d 255 192), frBase := BitVec.ofNat 64 (bits d 319 256),
    frLog := bits d 324 320, tfBase := BitVec.ofNat 64 (bits d 447 384), saveBase := BitVec.ofNat 64 (bits d 511 448),
    saveSize := bits d 575 512, faultAddr := BitVec.ofNat 64 (bits d 639 576), spBase := BitVec.ofNat 64 (bits d 703 640),
    spSize := bits d 719 704, symC := 1, seq := 0, inService := [], pendingRecs := [], images := [], copies := [], faultCode := 0,
    recorded := false, stopping := false, ringSent := false, faultRec := none }

/-- Memory key of a physical address that a command names: HBM, or host memory where bit 47 is set. -/
def physicalKey (a : Nat) : Nat := if a.testBit 47 then 2 ^ 47 + a % 2 ^ 47 else a

/-- CREATE_CONTEXT; which free number, a free choice. -/
def execCreateContext (s : State) : Res :=
  .next (s.command 1 [8, 9, 10, 11, 12, 13, 14, 15] fun s =>
    let a := s.cmd.bytes 8 15
    let free := (List.range 256).filter fun n => (s.ctxs.get? n).isNone
    if s.modeRefuses s.cmd.firmware || bits s.featAgreed.toNat 15 8 != 1 then s.finishCmd 8 0
    else match free[s.pick free.length]? with
      | none => s.finishCmd 3 0
      | some n =>
        if a % 128 ≠ 0 ∨ (¬ a.testBit 47 ∧ hbmEnd ≤ a) then s.finishCmd 5 0
        else
          let ps : List Part := [{ key := physicalKey a, len := 128, ord := .rc, va := 0 }]
          let d := s.seenParts (dieAgent 0) ps
          if (s.busFault false ps).isSome then s.finishCmd 7 0
          else if descriptorBad d s.featAgreed.toNat then s.finishCmd 5 0
          else { s with ctxs := s.ctxs.set n (Ctx.ofDescriptor d s.cmd.firmware) }.finishCmd 0 n)

/-! ## Activate (R77) -/

/-- ACTIVATE: the 256 bytes of the trap table must be readable (18 R327). Operations whose records were served meanwhile, a
doorbell's access among them (05 R96), are replayed. -/
def execActivate (s : State) : Res :=
  .next (s.ctxCommand 2 [] fun s n c =>
    if s.modeRefuses c.firmware then s.finishCmd 8 0
    else if c.st ≠ .created ∨ (c.feat &&& (255 - s.featAgreed.toNat % 128)) ≠ 0 then s.finishCmd 4 0
    else match s.devRead 0 n c.trapBase.toNat 256 with
      | .error f => if f.cause = 0 then s.awaitLink (.engine 0) n 0 f.page else s.finishCmd 5 0
      | .ok _ => ((s.modCtx n fun c => { c with st := .active }).serveWaiting n).finishCmd 0 0)

/-! ## Suspend (R77, R79; 18 R346) -/

/-- Resident hanks of a context. -/
def State.ctxHanks (s : State) (n : Nat) : List Nat := (s.hanks.filter fun p => p.2.ctx == n).map Prod.fst

/-- A suspend pre-empts a queue that is mapped, running or blocked, with its launch record; the queue keeps in mind the state that
it leaves. -/
def State.suspendQueue (s : State) (q : Nat) : State :=
  match s.queues.get? q with
  | none => s
  | some x =>
    match x.st with
    | .mapped | .running | .blocked =>
      (s.writeRecord q x).1.modQueue q fun y => { y with
        before := if x.preempting.isSome then .preempted else x.st
        st := .preempted, thread := false, preempting := none, susp := true }
    | _ => s

/-- The strands of a context whose hanks have retired have performed what they could. -/
def State.ghostsQuiet (s : State) (n : Nat) : Bool :=
  s.strands.all fun p => decide (p.1 < places) || p.2.ctx != n || p.2.outs.all (s.ghostKeeps p.1 p.2)

/-- What a context saves, core by core: hanks, tiles, environments (R79, 17 R311). -/
def State.ctxPlan (s : State) (n : Nat) : List (Nat × (State → Except SaveStop State)) :=
  byCore (s.savePlan (s.ctxHanks n) (s.tiles.filter fun p => p.2.ctx == n && !p.2.frozen) ++
    (s.envs.filter fun p => p.2.ctx == n && p.2.st == .live).map fun p =>
      (p.1 / 2048, fun s => s.saveEnv p.1 (s.env p.1)))

/-- Is everything of a context saved? -/
def State.ctxSaved (s : State) (n : Nat) : Bool :=
  (s.ctxHanks n).isEmpty && (s.tiles.all fun p => p.2.ctx != n || p.2.frozen) && s.envs.all fun p => p.2.ctx != n || p.2.st != .live

/-- The hanks of a context stop; once they are quiet the context is saved, and its queues are pre-empted. -/
def State.saveCtx (s : State) (n : Nat) : State :=
  let s := s.stopHanks (s.ctxHanks n)
  if (s.ctxHanks n).all s.hankQuiet && s.ghostsQuiet n then
    let s := s.saveSteps n (s.ctxPlan n)
    if s.ctxSaved n then ((s.queues.filter fun p => p.2.ctx == n).map Prod.fst).foldl State.suspendQueue s else s
  else s

/-- Copy commands of a context leave every engine; strands that waited for room go on. -/
def State.dropCopies (s : State) (n : Nat) : State :=
  s.copyEngines.foldl (fun s e =>
    let keep := e.2.queues.map fun l => l.filter fun c => c.ctx != n
    let s := s.setEngine e.1 { e.2 with queues := keep }
    (List.range 4).foldl (fun s cls => if keep.getD cls [] = e.2.queue cls then s else s.wakeCopies e.1 cls) s) s

/-- A saved context keeps the copy commands that retired hanks left in the engines: they change nothing while it is suspended (17
R311). -/
def State.parkCopies (s : State) (n : Nat) : State :=
  let l := s.copyEngines.flatMap fun e => (List.range 4).flatMap fun cls =>
    ((e.2.queue cls).filter fun c => c.ctx == n).map fun c => (e.1, cls, c)
  (s.modCtx n fun c => { c with copies := c.copies ++ l }).dropCopies n

/-- They return to their queues. -/
def State.returnCopies (s : State) (n : Nat) : State :=
  let l := ((s.ctxs.get? n).map Ctx.copies).getD []
  let s := s.modCtx n fun c => { c with copies := [] }
  l.foldl (fun s q =>
    let e := s.engine q.1
    s.setEngine q.1 (e.setQueue q.2.1 (rejoin [q.2.2] (e.queue q.2.1)))) s

/-- A context that is saved is suspended. -/
def State.suspended (s : State) (n : Nat) : State :=
  (s.parkCopies n).modCtx n fun c => { c with st := .suspended, stopping := false }

/-- SUSPEND: it takes effect once the context is saved. A context that faults meanwhile stays faulted. -/
def execSuspend (s : State) : Res :=
  .next (s.ctxCommand 3 [] fun s n c =>
    if c.st ≠ .active then (if s.cmd.started then s.finishCmd 0 0 else s.finishCmd 4 0)
    else
      let s := { s with cmd := { s.cmd with started := true } }.modCtx n fun c => { c with stopping := true }
      let s := s.saveCtx n
      if (s.ctxs.get? n).any fun c => c.st != .active then s.finishCmd 0 0
      else if s.ctxSaved n then (s.suspended n).finishCmd 0 0
      else s)

/-! ## Resume (R77, R81) -/

/-- A queue that the suspend pre-empted returns to the state it left, where a thread is free; else it asks for one. -/
def State.returnQueue (s : State) (q : Nat) : State :=
  match s.queues.get? q with
  | none => s
  | some x =>
    if !x.susp then s
    else
      let s := s.modQueue q fun y => { y with susp := false }
      if x.st ≠ .preempted ∨ x.before = .preempted then s
      else if s.threadFree x then s.modQueue q fun x => { x with st := x.before, thread := true, slice := 0 }
      else (s.modQueue q fun x => { x with st := .unmapped, slice := 0 }).askThread q x.die

/-- The tiles of a context whose knots belong to no saved hank go on at once; the others, as their hanks return. -/
def State.thawOrphans (s : State) (n : Nat) : State :=
  let orphan := fun (e : Nat) (t : Tile) =>
    t.ctx == n && t.frozen && s.saved.all fun v => v.swap || v.hank.nb.getD v.uid != (s.knot (e / 8 * 64 + t.entry)).place
  (s.tiles.filter fun p => orphan p.1 p.2).foldl (fun s p => s.thawTile p.1 p.2) s

/-- The environments of a context return to the store (17 R311). -/
def State.returnEnvs (s : State) (n : Nat) : State :=
  let back := fun (e : Env) => if e.ctx = n ∧ e.st = .held then { e with st := .live } else e
  { s with envs := s.envs.mapVals fun _ e => back e }.modCtx n fun c => { c with
      images := c.images.filter fun i => match i.owner with | .env _ => false | _ => true }

/-- The core to which the first failing image of a context returns, in ascending order (R85). -/
def State.failingCore (s : State) (n : Nat) (c : Ctx) : Option Nat :=
  ((c.images.filter (s.imageBad n c)).map fun i => s.imageCore i.owner).min?

/-- The package to which the reading of a context's images waits for a port (19 R352). -/
def State.imagesLink (s : State) (n : Nat) (c : Ctx) : Option Nat := c.images.findSome? (s.imageLink n c)

/-- RESUME. An image that fails its checks faults the context with code 7, and nothing is restored. -/
def execResume (s : State) : Res :=
  .next (s.ctxCommand 4 [] fun s n c =>
    if s.modeRefuses c.firmware then s.finishCmd 8 0
    else if c.st ≠ .suspended then s.finishCmd 4 0
    else if let some g := s.imagesLink n c then s.awaitLink (.engine 0) n 0 g
    else
      let s' := s.modCtx n fun c => { c with st := .active, stopping := false }
      match s.failingCore n c with
      | some core => (s'.ctxFault n 7 (dieOf core) 0 0).finishCmd 0 7
      | none =>
        let qs := (s'.queues.filter fun p => p.2.ctx == n).map Prod.fst
        let s := qs.foldl State.returnQueue ((s'.returnEnvs n).returnCopies n)
        (s.thawOrphans n |>.serveWaiting n).finishCmd 0 0)

/-! ## Recover (R77, R85) -/

/-- RECOVER: the record was written and acknowledged. What the fault found still unsaved is saved; where that fails the command
is refused and nothing changes (log 44). -/
def execRecover (s : State) : Res :=
  .next (s.ctxCommand 5 [] fun s n c =>
    if c.st ≠ .faulted then s.finishCmd 4 0
    else if !c.recorded then s.finishCmd 7 0
    else match s.devRead 0 n c.faultAddr.toNat 8 with
      | .error f => if f.cause = 0 then s.awaitLink (.engine 0) n 0 f.page else s.finishCmd 7 0
      | .ok r =>
        if c.faultCode = 8 ∨ ¬ r.testBit 0 then s.finishCmd 4 0
        else
          let t := s.saveCtx n
          if (t.ctxs.get? n).any fun c => c.faultCode == 8 then s.finishCmd 4 0
          else if t.ctxSaved n then (t.suspended n).finishCmd 0 0
          else t)

/-! ## Destroy (R77) -/

/-- A quarter without the issue set, step and aged braids of some braids. -/
def Quarter.without (q : Quarter) (mine : Nat → Bool) : Quarter :=
  { q with
    cur := q.cur.filter fun i => !mine i.braid
    step := q.step.filter fun r => !mine r.issue.braid
    aged := q.aged.filter fun b => !mine b }

/-- What a swapped hank left on its core goes. -/
def State.dropSwapped (s : State) (v : SavedHank) : State :=
  let s := v.hank.banks.foldl State.freeBank s
  { s with barriers := s.barriers.filter fun p => p.2.owner != v.uid }

/-- In place of the context of a flit: it has been destroyed, and no wait for a port is its any more. -/
def noCtx : Nat := 256

/-- What a context owns is discarded or freed; its number is free again. Its writes are performed first. -/
def State.destroyCtx (s : State) (n : Nat) : State :=
  let s := s.widen (fun w => w.ctx == n) allObservers
  let hs := s.ctxHanks n
  let mine := fun (b : Nat) => ((s.braids.get? b).map Braid.hank).any hs.contains
  let gone := (s.queues.filter fun p => p.2.ctx == n).map Prod.fst
  let ks := (s.knots.filter fun p => p.2.live && p.2.ctx == n).map Prod.fst
  let out := (s.saved.filter fun v => v.hank.ctx == n).map SavedHank.uid
  let s := { s with quarters := s.quarters.mapVals fun _ q => q.without mine }
  let s := hs.foldl State.dropHank s
  let s := (s.saved.filter fun v => v.hank.ctx == n && v.swap).foldl State.dropSwapped s
  let s := (s.returnCopies n).dropCopies n
  let quieter := fun (g : Governor) => { g with starts := g.starts.filter fun (b : Start) => !ks.contains b.block.knot }
  { s with
    strands := s.strands.filter fun p => p.2.ctx != n
    saved := s.saved.filter fun v => v.hank.ctx != n
    swapIn := s.swapIn.mapVals fun _ l => l.filter fun u => !out.contains u
    queues := s.queues.filter fun p => p.2.ctx != n
    mapLists := s.mapLists.mapVals fun _ l => l.filter fun q => !gone.contains q
    launches := s.launches.filter fun p => p.2.ctx != n
    envs := s.envs.mapVals fun _ e => if e.ctx = n ∧ e.st ≠ .free then .free0 e.check else e
    knots := s.knots.mapVals fun _ k => if k.live ∧ k.ctx = n then .free k.serial else k
    tiles := s.tiles.filter fun p => p.2.ctx != n
    pins := s.pins.filter fun p => p.ctx != n
    symBlocks := s.symBlocks.filter fun p => p.1 % 256 != n
    governors := s.governors.mapVals fun _ g => quieter g
    replays := s.replays.filter fun p => p.1 != n
    linkWaits := s.linkWaits.filter fun w => w.ctx != n
    ports := s.ports.mapVals fun _ p => { p with buffer := p.buffer.map fun f => if f.ctx = n then { f with ctx := noCtx } else f }
    ctxs := s.ctxs.erase n }

/-- DESTROY -/
def execDestroy (s : State) : Res := .next (s.ctxCommand 6 [] fun s n _ => (s.destroyCtx n).finishCmd 0 0)

/-! ## Queues (05 R89, R97) -/

/-- The queue of a descriptor, which is read once, here (log 49). -/
def Queue.ofDescriptor (ctx : Nat) (desc : DWord) (d : Nat) : Queue :=
  { ctx := ctx, die := bits d 103 101, desc := desc, base := BitVec.ofNat 64 d, log := bits d 95 91, pri := bits d 100 99,
    tslice := bits d 351 320, tsdepth := bits d 352 352, st := .created, before := .created, thread := false,
    rdidx := BitVec.ofNat 64 (bits d 255 192), wridx := BitVec.ofNat 64 (bits d 255 192),
    doorval := BitVec.ofNat 64 (bits d 319 256), blockedAt := 0, waiting := none, slice := 0, svc := none, started := [],
    preempting := none, susp := false, bell := none }

/-- CREATE_QUEUE -/
def execCreateQueue (s : State) : Res :=
  .next (s.ctxCommand 7 quadAt16 fun s n c =>
    let a := s.cmd.bytes 16 23
    let desc : DWord := BitVec.ofNat 64 a
    if s.modeRefuses c.firmware || bits s.featAgreed.toNat 15 8 != 1 then s.finishCmd 8 0
    else if a % 64 ≠ 0 then s.finishCmd 6 0
    else if (s.queueAt n desc).isSome then s.finishCmd 4 0
    else match s.devRead 0 n a 64 with
      | .error f => if f.cause = 0 then s.awaitLink (.engine 0) n 0 f.page else s.finishCmd 7 0
      | .ok d =>
        let lg := bits d 95 91
        if lg < 8 ∨ 20 < lg ∨ d % 2 ^ 64 % 2 ^ (lg + 4) ≠ 0 then s.finishCmd 6 0
        else
          let (q, s) := s.fresh
          { s with queues := s.queues.set q (.ofDescriptor n desc d) }.finishCmd 0 0)

/-- Is a pre-empt under way that can end? One of a context that has faulted ends with its recovery. -/
def State.preemptGoesOn (s : State) (q : Nat) : Bool :=
  (s.queues.get? q).any fun x => x.preempting.isSome && (s.ctxs.get? x.ctx).any fun c => c.st == .active

/-- PRE_EMPT_QUEUE: at hank depth the pre-empt is under way at once; at instruction depth the command ends with it. -/
def execPreEmptQueue (s : State) : Res :=
  .next (s.command 8 (8 :: 9 :: quadAt16) fun s =>
    if 1 < s.cmd.byte 9 then s.finishCmd 1 0
    else s.queueCommand 8 [9] fun s q x =>
      let d := s.cmd.byte 9
      if s.cmd.started then
        let s := s.goOnPreempt q
        if s.preemptGoesOn q then s else s.finishCmd 0 0
      else if x.st ≠ .mapped ∧ x.st ≠ .running ∧ x.st ≠ .blocked then s.finishCmd 4 0
      else
        let s := s.preempt q d
        if d = 1 ∧ s.preemptGoesOn q then { s with cmd := { s.cmd with started := true } }
        else s.finishCmd 0 0)

/-- RESUME_QUEUE: the queue rejoins the map list. -/
def execResumeQueue (s : State) : Res :=
  .next (s.queueCommand 9 [] fun s q x =>
    let firmware := (s.ctxs.get? x.ctx).any Ctx.firmware
    if s.modeRefuses firmware then s.finishCmd 8 0
    else if x.st ≠ .preempted then s.finishCmd 4 0
    else
      let x' := { x with st := .unmapped, slice := 0 }
      ({ s with queues := s.queues.set q x' }.request q x').finishCmd 0 0)

/-- ACKNOWLEDGE_QUEUE_FAULT: RDIDX, which the driver may have moved, is read again. -/
def execAcknowledgeQueueFault (s : State) : Res :=
  .next (s.queueCommand 10 [] fun s q x =>
    match x.st with
    | .faulted code =>
      if code = 0 then s.finishCmd 4 0
      else match Queue.read s x offRd 8 with
        | .error f => if f.cause = 0 then s.awaitLink (.engine x.core) x.ctx x.core f.page else s.finishCmd 7 0
        | .ok r => (s.modQueue q fun x => { x with st := .unmapped, rdidx := BitVec.ofNat 64 r }).finishCmd 0 0
    | _ => s.finishCmd 4 0)

/-- DESTROY_QUEUE: thread and ring are released; no further hank of its launches is placed, and those placed run on. -/
def execDestroyQueue (s : State) : Res :=
  .next (s.queueCommand 11 [] fun s q x =>
    { s with
      queues := s.queues.erase q
      mapLists := s.mapLists.set x.die ((s.mapList x.die).filter (· != q))
      launches := s.launches.mapVals fun _ l =>
        if l.queue = q then { l with count := l.next, stopped := true } else l }.finishCmd 0 0)

/-! ## Modes (20 R364) -/

def State.anyActive (s : State) : Bool := s.ctxs.any fun c => c.2.st == .active

/-- ENTER_TEST_MODE -/
def execEnterTestMode (s : State) : Res :=
  .next (s.command 12 [] fun s =>
    if s.mode = .service ∧ s.anyActive = false then { s with mode := .test }.finishCmd 0 0 else s.finishCmd 8 0)

/-- ENTER_SERVICE_MODE -/
def execEnterServiceMode (s : State) : Res :=
  .next (s.command 13 [] fun s =>
    if s.mode = .test then { s with mode := .service }.finishCmd 0 0 else s.finishCmd 8 0)

end Sys2Proof.Machine
end

