-- ==== Sys2Proof/Machine/Link.lean ====
section
/-! DEFINITION. Links (spec 19 R348 to R353) and the host's accesses (R355 to R357): BAR 0 with its registers, BAR 4 and
errors. -/

namespace Sys2Proof.Machine

/-! ## Ports -/

/-- Can the flits of a port not be sent again there: has it failed, or been disabled? -/
def Port.gone (x : Port) : Bool := x.st == .failed || x.st == .down

/-- A flit of a failed port moves to an open port of its route, a free choice; it stays numbered by the port that numbered it
(R352; log 40). One that finds none waits. -/
def State.moveFlit (s : State) (p : Nat) (f : Flit) : State :=
  let l := s.openPorts f.pkg
  match l[s.pick l.length]? with
  | none => s
  | some q =>
    let x := s.port p
    let s := { s with ports := s.ports.set p { x with buffer := x.buffer.erase f } }
    let y := s.port q
    { s with ports := s.ports.set q { y with buffer := y.buffer ++ [f] } }

/-- The unacknowledged flits of failed and disabled ports move where they can. -/
def State.moveStranded (s : State) : State :=
  s.ports.foldl (fun s p => if p.2.gone then p.2.buffer.foldl (fun s f => s.moveFlit p.1 f) s else s) s

def State.setPort (s : State) (p : Nat) (x : Port) : State := { s with ports := s.ports.set p x }.moveStranded

/-- A port leaves active or degraded at a device time: no lanes carry traffic and no peer is known. -/
def Port.unlink (x : Port) (now : Nat) (st : PortState) : Port :=
  { x with st := st, lanes := 0, peerPkg := 0, peerPort := 0, counted := none, consecutive := 0, since := now }

/-- EN written 1 (R351). -/
def State.enablePort (s : State) (p : Nat) : State :=
  let x := { s.port p with en := true }
  match x.st with
  | .down | .failed => s.setPort p (x.unlink s.devTime .training)
  | .degraded => s.setPort p (x.unlink s.devTime .retraining)
  | _ => s.setPort p x

/-- EN written 0 (R351). -/
def State.disablePort (s : State) (p : Nat) : State :=
  let x := { s.port p with en := false }
  match x.st with
  | .down => s.setPort p x
  | _ => s.setPort p (x.unlink s.devTime .down)

/-- An event of a port that the package has. -/
def State.portEvent (s : State) (p : Nat) (f : Port → State) : State := if p < 18 then f (s.port p) else s

/-- LINK_ENABLE -/
def execLinkEnable (p : Nat) (s : State) : Res := .next (if s.regsOpen then s.portEvent p fun _ => s.enablePort p else s)

/-- LINK_DISABLE -/
def execLinkDisable (p : Nat) (s : State) : Res := .next (if s.regsOpen then s.portEvent p fun _ => s.disablePort p else s)

def saturate16 (n : Nat) : Nat := Nat.min n 0xFFFF

/-- Bytes as a little-endian number. -/
def bytesNat : List Byte → Nat
  | [] => 0
  | b :: l => b.toNat + 256 * bytesNat l

/-- Bytes written to HBM from outside the package. -/
def State.putBytes (s : State) (w : Writer) (a : Nat) (l : List Byte) : State :=
  s.putParts w (bytesNat l) [{ key := a, len := l.length, ord := .rc, va := 0 }]

/-- The write to this package's HBM that an accepted flit carries is performed here, at its home; a free choice (log 40). -/
def State.performRemote (s : State) (w : Option (Nat × List Byte)) : State :=
  match w with
  | some (a, l) => if l ≠ [] ∧ a + l.length ≤ hbmEnd then s.putBytes .remote a l else s
  | none => s

/-- Flits without the first k that a port numbered. -/
def ackFlits (o : Nat) : Nat → List Flit → List Flit
  | 0, l => l
  | _, [] => []
  | k + 1, f :: l => if f.port = o then ackFlits o k l else f :: ackFlits o (k + 1) l

/-- The ports that numbered the flits of port p's replay buffer: itself, and those whose flits have moved to it. -/
def Port.origins (x : Port) (p : Nat) : List Nat := p :: ((x.buffer.filter fun f => f.port != p).map Flit.port).dedup

/-- An acknowledged flit's replays are no longer consecutive; eight stay counted until the port retrains (R349). -/
def Port.recount (x : Port) : Port :=
  if 8 ≤ x.consecutive ∨ (x.counted.any fun c => x.buffer.any fun f => f.port == c.1 && f.seq == c.2) then x
  else { x with counted := none, consecutive := 0 }

/-- The home acknowledges flits. -/
def Port.acked (x : Port) (p : Nat) (k : Nat → Nat) : Port :=
  { x with buffer := (x.origins p).foldl (fun l o => ackFlits o (k o) l) x.buffer }.recount

/-- FLIT_RECEIVED: a bad CRC or a gap asks for a replay; the expected flit is accepted, acknowledges flits of the replay buffer and
has its request performed; an earlier one is a duplicate (R348). The peer numbered the flit to p or, where it
has moved it (R352), to another port, in whose sequence it stands wherever it arrives (log 40). -/
def execFlitReceived (p : Nat) (f : FlitNum) (crcOk : Bool) (s : State) : Res :=
  .next (s.portEvent p fun x =>
    let o := f.origin
    let seq := f.num
    let rx := (s.port o).rxSeq
    if !x.usable || decide (18 ≤ o) then s
    else if !crcOk then
      s.setPort p { x with crcErr := saturate16 (x.crcErr + 1), replays := saturate16 (x.replays + 1) }
    else if seq = rx then
      let s' := s.setPort p (x.acked p (Config.flitAcks s.moves))
      (s'.setPort o { s'.port o with rxSeq := rx + 1 }).performRemote (Config.remoteWrite s.moves)
    else if rx < seq then s.setPort p { x with replays := saturate16 (x.replays + 1) }
    else s)

/-- The flits left by a request for those that port o numbered from a number on: earlier ones of it are acknowledged. -/
def Port.from (x : Port) (p o seq : Nat) : List Flit :=
  if x.buffer.any fun f => f.port == o && f.seq == seq then x.buffer.filter fun f => f.port != o || decide (seq ≤ f.seq)
  else if o = p ∧ seq = x.txSeq then x.buffer.filter fun f => f.port != o else x.buffer

/-- A replay: its first flit is counted, and eight consecutive replays of one flit stay counted until the port retrains (R349). -/
def Port.replay (x : Port) (p o seq : Nat) : Port :=
  let x := { x with buffer := x.from p o seq }
  if 8 ≤ x.consecutive then x
  else match x.buffer.find? fun f => f.port == o with
    | none => { x with counted := none, consecutive := 0 }
    | some f => { x with
        counted := some (o, f.seq)
        consecutive := if x.counted = some (o, f.seq) then x.consecutive + 1 else 1 }

/-- REPLAY_REQUEST: earlier flits are acknowledged; the rest is sent again, and repeats of one flit are counted. It is about the
sequence of a port: p, or one whose flits have moved to p (log 40). -/
def execReplayRequest (p : Nat) (f : FlitNum) (s : State) : Res :=
  .next (s.portEvent p fun x => if x.usable && (x.origins p).contains f.origin then s.setPort p (x.replay p f.origin f.num) else s)

/-- A port that is active or degraded retrains. -/
def State.retrain (s : State) (p : Nat) (x : Port) : State :=
  if x.usable then s.setPort p (x.unlink s.devTime .retraining) else s

/-- REPLAY_LIMIT: eight consecutive replays of one flit (R349). -/
def execReplayLimit (p : Nat) (s : State) : Res :=
  .next (s.portEvent p fun x => if 8 ≤ x.consecutive then s.retrain p x else s)

/-- LANE_LOSS: fewer lanes work than the port uses. -/
def execLaneLoss (p lanes : Nat) (s : State) : Res :=
  .next (s.portEvent p fun x => if lanes < x.lanes then s.retrain p x else s)

/-- The port fails, and its flits move (R352). -/
def State.failPort (s : State) (p : Nat) (x : Port) : State := s.setPort p (x.unlink s.devTime .failed)

def Port.trains (x : Port) : Bool := x.st == .training || x.st == .retraining

/-- Have 100 ms passed since training began? (R351) -/
def State.trainedOut (s : State) (x : Port) : Bool := decide (x.since + 100000000 ≤ s.devTime)

/-- TRAINING_ENDS with as many lanes as work; the held flits are sent again. A peer has no port above 17. -/
def execTrainingEnds (p lanes peerPkg peerPort : Nat) (s : State) : Res :=
  .next (s.portEvent p fun x =>
    if !x.trains then s
    else if lanes < 2 ∨ s.trainedOut x then s.failPort p x
    else if 17 < peerPort then s
    else
      let n := if 8 ≤ lanes then 8 else if 4 ≤ lanes then 4 else 2
      let st : PortState := if n = 8 then .active else .degraded
      s.setPort p { x with st := st, lanes := n, peerPkg := peerPkg % 2 ^ 14, peerPort := peerPort, consecutive := 0 })

/-- TRAINING_TIMEOUT: 100 ms of training. -/
def execTrainingTimeout (p : Nat) (s : State) : Res :=
  .next (s.portEvent p fun x => if x.trains ∧ s.trainedOut x then s.failPort p x else s)

/-! ## Requests that wait for a port (R352) -/

/-- The packages that an outstanding access cannot reach: a piece could leave, but no port of its route is usable. -/
def State.stuckAt (s : State) (x : Strand) (p : Pend) : List Nat :=
  match p.act with
  | .mem ps _ o op => ps.zipIdx.filterMap fun q => (op.package q.1.2).filter fun g =>
      !s.linked g && !q.1.2.sent && x.mayPerform p ps o q.2 q.1.2
  | _ => []

/-- The instructions of strands that wait for a port now. -/
def State.strandWaits (s : State) : List LinkWait :=
  s.strands.flatMap fun y => y.2.outs.flatMap fun p =>
    (s.stuckAt y.2 p).dedup.map fun g => ⟨.op p.id, y.2.ctx, coreOf y.1, g, s.devTime⟩

/-- Whose request a flit carries. -/
def Flit.owner (f : Flit) : Holder :=
  if f.pos = copyFlit then .copy f.id else if f.pos = engineFlit then .engine f.core else .op f.id

/-- The requests that have left and stand in the buffer of a port that does not carry them, while no port of their route does. -/
def State.flitWaits (s : State) : List LinkWait :=
  s.ports.flatMap fun p =>
    if p.2.usable then []
    else (p.2.buffer.filter fun f => decide (f.ctx < noCtx) && !s.linked f.pkg).map fun f => ⟨f.owner, f.ctx, f.core, f.pkg, s.devTime⟩

/-- Waits, each once. -/
def onceEach (old : List LinkWait) : List LinkWait → List LinkWait
  | [] => old
  | v :: l => onceEach (if old.any fun w => w.owner == v.owner && w.pkg == v.pkg && w.ctx == v.ctx then old else old ++ [v]) l

/-- Does an engine of the device still do something for a context that may wait for a port: a record, a command, a save or the return
of a hank? -/
def State.engineWaits (s : State) (ctx core : Nat) : Bool :=
  (s.ctxs.get? ctx).any fun c => c.faultRec.isSome || !c.pendingRecs.isEmpty || (s.cmd.busy && s.cmd.byte 8 == ctx) ||
    (s.queues.any fun q => q.2.ctx == ctx && q.2.preempting.isSome) ||
    ((s.events.getD core []).any fun e => match e with
      | .swap h => ((s.hanks.get? h).map Hank.ctx) == some ctx
      | _ => false) || (s.nextIn core).any fun v => v.hank.ctx == ctx

/-- Is what waits still there? A word that waits to be executed again has the number that its strand issues next. -/
def State.stillWaits (s : State) (now : List LinkWait) (w : LinkWait) : Bool :=
  !s.linked w.pkg && (match w.owner with
    | .op id => (now.any fun v => v.owner == w.owner && v.pkg == w.pkg) || s.strands.any fun y => y.2.nextId == id
    | .copy uid => s.copyEngines.any fun e => e.2.queues.any fun l => l.any fun c => c.uid == uid
    | .queue q | .bell q => (s.queues.get? q).isSome
    | .drain key => (s.knot key).closed
    | .engine core => s.engineWaits w.ctx core || now.any fun v => v.owner == w.owner && v.pkg == w.pkg && v.ctx == w.ctx)

/-- Waits that are over are forgotten, and new ones begin. -/
def State.watchLinks (s : State) : State :=
  let now := s.strandWaits ++ s.flitWaits
  { s with linkWaits := onceEach (s.linkWaits.filter (s.stillWaits now)) now }

/-- LINK_TIMEOUT: a request has waited for longer than LINKTMO. -/
def execLinkTimeout (ctx core pkg : Nat) (s : State) : Res :=
  .next <|
    if s.linkWaits.any fun w => w.ctx == ctx && w.core == core && w.pkg == pkg && decide (s.linkTmo * 1000 < s.devTime - w.since)
    then s.ctxFault ctx 5 (dieOf core) 0 0 else s

/-! ## Registers of BAR 0 (R356) -/

/-- The feature bits that the device supports: all (04 R80). -/
def featSupported : Nat := 0x7F

/-- FEATOFFER written: the device writes FEATAGREED (04 R80). -/
def State.writeFeatoffer (s : State) (v : DWord) : State :=
  let offer := v.toNat % 2 ^ 16 / 256 * 256 + (v.toNat % 128 ||| 1)
  let agreed := (offer &&& featSupported) + (if bits offer 15 8 = 1 then 256 else 0)
  { s with featOffer := BitVec.ofNat 64 offer, featAgreed := BitVec.ofNat 64 agreed }

/-- FEATOFFER_WRITE -/
def execFeatofferWrite (v : DWord) (s : State) : Res := .next (if s.regsOpen then s.writeFeatoffer v else s)

/-- PKGID written (R357). -/
def State.writePkgid (s : State) (v : DWord) : State :=
  let n := v.toNat % 2 ^ 14
  if (s.ports.any fun p => p.2.en) ∨ s.ctxs ≠ [] ∨ 9215 < n then s else { s with pkgid := n }

/-- PKGID_WRITE -/
def execPkgidWrite (v : DWord) (s : State) : Res := .next (if s.regsOpen then s.writePkgid v else s)

/-- Fields of a range register that exist; RATIO above 256 reads as 256 (10 R188). -/
def rangeValue (v : Nat) : Nat :=
  let ratio := Nat.min 256 (bits v 111 103)
  v % 2 ^ 78 + ratio * 2 ^ 103 + bits v 117 112 * 2 ^ 112 + bits v 127 119 * 2 ^ 119

/-- A half of a range register written: the low half is held aside until the high half is written. -/
def State.writeRange (s : State) (cluster reg : Nat) (high : Bool) (v : DWord) : State :=
  let k := cluster * 8 + reg
  let r := s.ranges.getD k ⟨0, 0⟩
  let r' : RangeReg := if high then ⟨rangeValue (r.low + v.toNat * 2 ^ 64), r.low⟩ else { r with low := v.toNat }
  { s with ranges := s.ranges.set k r' }

/-- RANGE_REGISTER_WRITE -/
def execRangeRegisterWrite (cluster reg : Nat) (high : Bool) (v : DWord) (s : State) : Res :=
  .next (if s.regsOpen ∧ cluster < 96 ∧ reg < 8 then s.writeRange cluster reg high v else s)

/-- TLBINV written; ignored while busy, and with KIND 3 (09 R175). -/
def State.writeTlbinv (s : State) (v : DWord) : State :=
  let ctx := bits v.toNat 60 53
  if s.tlbinv.isSome then s
  else match bits v.toNat 62 61 with
    | 0 => s.invalidate ⟨0, ctx, bits v.toNat 38 0⟩
    | 1 => s.invalidate ⟨1, ctx, 0⟩
    | 2 => s.invalidate ⟨2, 0, 0⟩
    | _ => s

/-- LINKCSp written: EN, and the counters cleared where bits are 1 (R350). -/
def State.writeLinkcs (s : State) (p : Nat) (v : DWord) : State :=
  let x := s.port p
  let clear := fun (n w : Nat) => n &&& (0xFFFF - w)
  let s := s.setPort p { x with
    replays := clear x.replays (bits v.toNat 31 16), crcErr := clear x.crcErr (bits v.toNat 15 0) }
  if v.toNat.testBit 63 then s.enablePort p else s.disablePort p

/-- CMDBUF, a quadword of it; ignored while busy (04 R86). -/
def State.writeCmdbuf (s : State) (i : Nat) (v : DWord) : State :=
  let c := s.cmd
  if c.busy then s
  else
    let lo := c.buf % 2 ^ (64 * i)
    let hi := c.buf / 2 ^ (64 * (i + 1)) * 2 ^ (64 * (i + 1))
    { s with cmd := { c with buf := hi + v.toNat * 2 ^ (64 * i) + lo } }

/-- CMDGO: the command starts. Before the host registers open, and in recovery, it is the Gladin firmware's over the internal path
or one that reaches the management port, a free choice (20 R364, R365; log 66). -/
def State.writeCmdgo (s : State) : State :=
  let c := s.cmd
  if c.busy then s
  else
    let firmware := (!s.regsOpen || s.mode == .recovery) && s.pick 2 == 1
    { s with cmd := { c with busy := true, firmware := firmware, started := false } }

/-- Is an offset of BAR 0 that of a ROUTE entry, or of a register of 8 bytes? -/
def isRoute (off : Nat) : Bool := decide (0x100000 ≤ off ∧ off < 0x100000 + 4 * 16384)

def isReg8 (off : Nat) : Bool :=
  let o := off / 8 * 8
  [0x0000, 0x0008, 0x0010, 0x0020, 0x0028, 0x0030, 0x0038, 0x0880, 0x0888].contains o ||
  decide (0x100 ≤ o ∧ o < 0x140) || decide (0x200 ≤ o ∧ o < 0x240) || decide (0x800 ≤ o ∧ o < 0x840) ||
  decide (0x1000 ≤ o ∧ o < 0x1090) || (decide (0x10000 ≤ o ∧ o < 0x10000 + 96 * 256) && decide (o % 256 < 128))

/-- Does an access to BAR 0 complete with Unsupported Request status? -/
def barBad (off width : Nat) : Bool :=
  !(width == 4 || width == 8) || off % width != 0 || (isReg8 off && width != 8) || (isRoute off && width != 4)

/-- A register of BAR 0 written, past the check of the access. -/
def State.writeReg (s : State) (off : Nat) (v : DWord) : State :=
  let n := v.toNat
  if 0x800 ≤ off ∧ off < 0x840 then s.writeCmdbuf (off / 8 % 8) v
  else if off = 0x880 then s.writeCmdgo
  else if !s.regsOpen then s
  else if off = 0x00 then s.writeFeatoffer v
  else if off = 0x10 then s.writePkgid v
  else if off = 0x20 then s.writeTlbinv v
  else if off = 0x28 then s.faultDone (bits n 63 56) (bits n 31 0)
  else if off = 0x30 then { s with linkTmo := n % 2 ^ 32 }
  else if off = 0x38 then { s with telctl := BitVec.ofNat 64 (n / 256 * 256 + n % 2) }
  else if 0x100 ≤ off ∧ off < 0x140 then
    let d := off / 8 % 8
    let g := s.governors.getD d governorIdle
    { s with governors := s.governors.set d { g with spacing := bits n 47 32, slew := bits n 24 16 } }
  else if 0x200 ≤ off ∧ off < 0x240 then { s with copyq := s.copyq.set (off / 8 % 8) v }
  else if 0x1000 ≤ off ∧ off < 0x1090 then s.writeLinkcs ((off - 0x1000) / 8) v
  else if isRoute off then
    { s with routes := s.routes.set ((off - 0x100000) / 4) (n % 2 ^ 18) }.moveStranded
  else if isReg8 off ∧ 0x10000 ≤ off then
    s.writeRange ((off - 0x10000) / 256) (off % 256 / 16) (off / 8 % 2 == 1) v
  else s

/-- HOST_REGISTER_WRITE -/
def execHostRegisterWrite (off width : Nat) (v : DWord) (s : State) : Res :=
  .next (if 2 ^ 26 ≤ off then s
    else if barBad off width then { s with unsupported := s.unsupported + 1 } else s.writeReg off v)

/-- STATE of LINKCS (R350). -/
def PortState.code : PortState → Nat
  | .down => 0 | .training => 1 | .active => 2 | .degraded => 3 | .retraining => 4 | .failed => 5

/-- LINKCS as it reads (R350). -/
def Port.linkcs (x : Port) : Nat :=
  (if x.en then 2 ^ 63 else 0) + x.st.code * 2 ^ 60 + x.lanes * 2 ^ 56 + x.peerPkg * 2 ^ 42 + x.peerPort * 2 ^ 37 +
    x.replays * 2 ^ 16 + x.crcErr

/-- CMDSTAT as it reads (04 R86). -/
def Cmd.stat (c : Cmd) : Nat := (if c.busy then 2 ^ 63 else 0) + c.seq * 2 ^ 32 + c.status * 2 ^ 24 + c.result

/-- PWRCTL as it reads (20 R358). -/
def Governor.pwrctl (g : Governor) : Nat := g.spacing * 2 ^ 32 + g.slew * 2 ^ 16

/-- What a read of BAR 0 returns; none is Unsupported Request status (R356). Registers that are only written read as zero. -/
def State.readReg (s : State) (off width : Nat) : Option Nat :=
  if barBad off width ∨ 2 ^ 26 ≤ off then none
  else some <|
    if off = 0x00 then s.featOffer.toNat
    else if off = 0x08 then s.featAgreed.toNat
    else if off = 0x10 then s.pkgid
    else if off = 0x20 then (if s.tlbinv.isSome then 2 ^ 63 else 0)
    else if off = 0x30 then s.linkTmo
    else if off = 0x38 then s.telctl.toNat
    else if 0x100 ≤ off ∧ off < 0x140 then (s.governors.getD (off / 8 % 8) governorIdle).pwrctl
    else if 0x200 ≤ off ∧ off < 0x240 then (s.copyq.getD (off / 8 % 8) copyqReset).toNat
    else if 0x800 ≤ off ∧ off < 0x840 then s.cmd.bytes (off % 64) (off % 64 + 7)
    else if off = 0x888 then s.cmd.stat
    else if 0x1000 ≤ off ∧ off < 0x1090 then (s.port ((off - 0x1000) / 8)).linkcs
    else if isRoute off then s.routes.getD ((off - 0x100000) / 4) 0
    else if isReg8 off ∧ 0x10000 ≤ off then
      (s.ranges.getD ((off - 0x10000) / 256 * 8 + off % 256 / 16) ⟨0, 0⟩).val / 2 ^ (64 * (off / 8 % 2)) % 2 ^ 64
    else 0

/-- UNSUPPORTED_REQUEST: an access that the function answers with Unsupported Request status. -/
def execUnsupportedRequest (bar off width : Nat) (s : State) : Res :=
  .next (if (bar = 0 ∧ off < 2 ^ 26 ∧ barBad off width) ∨ (bar = 4 ∧ off < 2 ^ 41 ∧ hbmEnd < off + width) then
      { s with unsupported := s.unsupported + 1 } else s)

/-! ## BAR 4 and completions (R355) -/

/-- The bytes that the host reads at an offset of BAR 4, as one little-endian number; none is Unsupported Request status. -/
def State.readHbm (s : State) (a len : Nat) : Option Nat := if hbmEnd < a + len then none else some (s.seenN hostAgent a len)

/-- HOST_HBM_ACCESS: a read returns what `State.readHbm` says, and changes nothing else. -/
def execHostHbmAccess (a : HbmAccess) (s : State) : Res :=
  .next <| match a with
    | .read addr len => if (s.readHbm addr len).isNone then { s with unsupported := s.unsupported + 1 } else s
    | .write addr data =>
      if hbmEnd < addr + data.length then { s with unsupported := s.unsupported + 1 }
      else if data = [] then s else s.putBytes .host addr data

/-- The level at which the walk for an address stops. -/
def State.stopLevel (s : State) (core ctx va : Nat) : Nat :=
  match s.translate core ctx va with
  | .ok x => leafLevel x.leaf
  | .fail f => f.level

/-- PCIE_COMPLETION_TIMEOUT: cause 7 (09 R176) with the SRC of the access, and the context faults with code 1. -/
def execPcieCompletionTimeout (ctx core strand : Nat) (va : DWord) (src : Nat) (s : State) : Res :=
  .next (s.recordFault ctx core strand src { va := va.toNat, cause := 7, level := s.stopLevel core ctx va.toNat }).1

end Sys2Proof.Machine
end

