-- ==== Sys2Proof/Machine/Power.lean ====
section
/-! DEFINITION. Power, boot and management (spec 20): telemetry, the thermal trip, power-on and reset, boot, device time and
attestation; and what passes with time before every move. -/

namespace Sys2Proof.Machine

/-! ## Time (log 2) -/

/-- Of the n cycles from `now` on, those in which R359 keeps the head of a die's list waiting. -/
def Governor.heldFor (g : Governor) (now moves n : Nat) : Nat :=
  if g.starts.isEmpty then 0
  else if !Config.slewAllows g.slewLimit moves then n
  else match g.last with
    | some t => Nat.min n (t + g.spacing - now)
    | none => 0

/-- The head of a die's list waits (20 R359, R361). -/
def Governor.wait (g : Governor) (now moves n : Nat) : Governor :=
  let k := g.heldFor now moves n
  { g with stall := g.stall + k, throt := g.throt || decide (0 < k) }

/-- Time passes for the boot step in progress; its work done, the next begins, up to the loading of R366 (log 66). -/
def State.passBoot (s : State) (ns : Nat) : State :=
  let goes := s.mode == .startUp && s.boot != 0
  let done := goes && decide (s.boot < 4 ∧ Config.bootNeeds s.moves ≤ s.bootWork + ns)
  { s with
    boot := if done then s.boot + 1 else s.boot
    bootWork := if done then 0 else if goes then s.bootWork + ns else s.bootWork }

/-- Cycles and nanoseconds pass. Stopped clocks count no cycles (20 R360). Which words hold an uncorrectable error, and which fail
in the host, is free at every move (log 39). -/
def State.tick (s : State) : State :=
  let n := if s.clocksStopped then 0 else Config.cycles s.moves
  let ns := Config.ns s.moves
  let s := (s.passSlices ns).passBoot ns
  { s with
    cycles := s.cycles + n
    devTime := s.devTime + ns
    silence := if Config.heartbeat s.moves then 0 else s.silence + ns
    upsets := Config.upsets s.moves
    busErrors := Config.busErrors s.moves
    governors := s.governors.mapVals fun _ g => g.wait s.cycles s.moves n }.watchLinks

/-! ## Telemetry (R361, R362) -/

/-- 115 °C in units of 1/16 °C. -/
def tripTemp : Int := 1840

/-- The record of a sample. -/
def telemetryRecord (time seq die : Nat) (throt trip : Bool) (stall : Nat) (x : Sensors) : Nat :=
  time * 2 ^ 192 + seq % 2 ^ 32 * 2 ^ 160 + die % 8 * 2 ^ 157 + (if throt then 2 ^ 156 else 0) + (if trip then 2 ^ 155 else 0) +
    Nat.min stall (2 ^ 32 - 1) * 2 ^ 96 + x.power % 2 ^ 16 * 2 ^ 80 + x.current % 2 ^ 16 * 2 ^ 64 + x.volt % 2 ^ 16 * 2 ^ 48 +
    wrapInt 16 x.temp * 2 ^ 32

/-- Memory key of a slot of the ring. A bus address that no physical address reaches (01 R10) has a key of its own. -/
def State.ringSlot (s : State) (die seq : Nat) : Nat :=
  let n := 2 ^ Nat.min 10 (bits s.telctl.toNat 11 8) * 128
  let a := (s.telctl.toNat / 4096 * 4096 + 32 * ((8 * seq + die) % n)) % 2 ^ 64
  if a < 2 ^ 47 then 2 ^ 47 + a else 2 ^ 80 + a

/-- The words of a record are written one by one: until all are performed, a read can see a mixture (R362). -/
def State.putRecord (s : State) (die seq r : Nat) : State :=
  let k := s.ringSlot die seq
  (List.range 8).foldl (fun s i => s.putEarly
    { reach := .one (dieAgent die), ctx := 0, launch := none, by_ := .engine die, id := seq,
      parts := [{ key := k + 4 * i, len := 4, ord := .rc, va := 0 }], val := r / 2 ^ (32 * i) }) s

/-- Does a hot sample, the fourth in a row, cause the trip? Once it has come, no other does. -/
def State.tripsNow (s : State) (hot : Nat) : Bool := hot == 4 && s.mode != .recovery && s.governors.all fun g => !g.2.tripped

/-- TELEMETRY_SAMPLE: the samples of one round of the dies share a number, which goes up where a die has used it. -/
def execTelemetrySample (die : Nat) (x : Sensors) (s : State) : Res :=
  .next <|
    if 8 ≤ die then s
    else
      let g := s.governors.getD die governorIdle
      let hot := if tripTemp ≤ x.temp then g.hot + 1 else 0
      let seq := Nat.max s.samples g.samples
      let trip := s.tripsNow hot
      let r := telemetryRecord (s.time die) seq die g.throt trip g.stall x
      let g' := { g with hot := hot, tripped := g.tripped || trip, stall := 0, throt := false, samples := seq + 1 }
      let s := { s with governors := s.governors.set die g', samples := seq, reports := s.reports ++ [r] }
      if s.telctl.toNat.testBit 0 then s.putRecord die seq r else s

/-! ## The trip (R360) -/

/-- THERMAL_TRIP: every active context faults; once the issue sets have left their clauses the clocks stop, and the package
enters recovery mode. The trip that a sample caused is not undone by a cooler one. -/
def execThermalTrip (die : Nat) (s : State) : Res :=
  .next <|
    if !(s.governors.getD die governorIdle).tripped ∨ s.mode = .recovery then s
    else
      let s := s.ctxs.foldl (fun s c => s.ctxFault c.1 4 die 0 0) s
      if s.quarters.any fun q => q.2.cur.isSome || q.2.step.isSome then s
      else
        { s with
          clocksStopped := true, mode := .recovery, boot := 0, bootWork := 0
          governors := s.governors.mapVals fun _ g => { g with tripped := false } }

/-! ## Modes and boot (R363 to R366) -/

/-- POWER_ON -/
def execPowerOn (s : State) : Res :=
  .next { State.reset with agenda := s.agenda, moves := s.moves, draws := s.draws, fuse := s.fuse }

/-- RESET: memory, host memory and device time stay; scratchpads do not. -/
def execReset (s : State) : Res :=
  .next
    { State.reset with
      mem := s.settleAll.mem.filter fun c => decide (c.1 < 2 ^ 64 ∨ 2 ^ 80 ≤ c.1)
      agenda := s.agenda, moves := s.moves, draws := s.draws, fuse := s.fuse, devTime := s.devTime, uid := s.uid
      msix := s.msix, reports := s.reports, unsupported := s.unsupported }

/-- Does every image of a location carry both signatures, at a version that the fuses allow (R366, step 3)? -/
def State.verifies (s : State) (l : List BootImage) : Bool :=
  !l.isEmpty && l.all fun x => x.ed25519 && x.mlDsa && decide (s.fuse ≤ x.version)

/-- Images in the order in which they are loaded: the Gladin firmware, then that of the queue engines (R366, step 4). -/
def loadOrder (l : List BootImage) : List BootImage := (l.filter fun x => !x.engine) ++ l.filter fun x => x.engine

/-- BOOT_COMPLETES, once step 4 is done: of the locations, tried in order and at most four, number n is the first whose images all
verify; they are loaded. -/
def execBootCompletes (locations : List (List BootImage)) (n : Nat) (s : State) : Res :=
  .next (if s.mode = .startUp ∧ s.ctxs = [] ∧ s.boot = 4 ∧ Config.bootNeeds s.moves ≤ s.bootWork ∧ n < 4 ∧
        s.verifies (locations.getD n []) ∧ (locations.take n).all (fun l => !s.verifies l) then
      { s with
        mode := .service, engines := true, regsOpen := true, boot := 0, bootWork := 0
        images := (loadOrder (locations.getD n [])).map BootImage.digest }
    else s)

/-- NO_IMAGE_VERIFIES: step 3 has refused the images of every location (log 66). -/
def execNoImageVerifies (s : State) : Res :=
  .next (if s.mode = .startUp ∧ s.ctxs = [] ∧ s.boot = 3 ∧ ((Config.bootLocations s.moves).take 4).all (fun l => !s.verifies l) then
      { s with mode := .recovery, boot := 0, bootWork := 0 } else s)

/-- HEARTBEAT_TIMEOUT: after 50 ms without a heartbeat the mirror on die 4 manages the package, and the boot step in progress begins
again. -/
def execHeartbeatTimeout (s : State) : Res :=
  .next (if 50000000 ≤ s.silence ∧ s.manager ≠ 4 then { s with manager := 4, bootWork := 0 } else s)

/-! ## Time and attestation (R367, R368) -/

/-- PTP_MESSAGE: the counter is stepped in start-up only; elsewhere its rate is corrected, and what passes before a move is
free (log 2). -/
def execPtpMessage (master : Nat) (s : State) : Res :=
  .next (if s.mode = .startUp then { s with devTime := master % 2 ^ 64 } else s)

/-- What a report says: image digests, FEATAGREED, fuse count, nonce. -/
def State.attested (s : State) (nonce : Nat) : List Nat := s.images ++ [s.featAgreed.toNat, s.fuse, nonce % 2 ^ 256]

/-- ATTESTATION_REPORT: signed with both identity keys. -/
def execAttestationReport (nonce : Nat) (s : State) : Res :=
  .next
    (let body := s.attested nonce
     let digest := body.foldl (fun n x => n * 2 ^ 512 + x) 0
     { s with reports := s.reports ++ body ++ [Config.signature 0 digest, Config.signature 1 digest] })

end Sys2Proof.Machine
end

