-- ==== Sys2Proof/Machine/Dispatch.lean ====
section
/-! DEFINITION. One arm for each constructor of `Instr`: a word of the issue set in progress, or an event. -/

namespace Sys2Proof.Machine

def exec (i : Instr) (s : State) : Host.Outcome State Fault Refusal :=
  match i with
  | .nop => Sys2Proof.Machine.execNop s
  | .mov x a => Sys2Proof.Machine.execMov x a s
  | .movi f p d imm => Sys2Proof.Machine.execMovi f p d imm s
  | .movx f p d lit => Sys2Proof.Machine.execMovx f p d lit s
  | .add f x a b => Sys2Proof.Machine.execAdd f x a b s
  | .sub f x a b => Sys2Proof.Machine.execSub f x a b s
  | .mul f x a b => Sys2Proof.Machine.execMul f x a b s
  | .mulh natural x a b => Sys2Proof.Machine.execMulh natural x a b s
  | .mad f x a b c => Sys2Proof.Machine.execMad f x a b c s
  | .neg f x a => Sys2Proof.Machine.execNeg f x a s
  | .abs f x a => Sys2Proof.Machine.execAbs f x a s
  | .min f x a b => Sys2Proof.Machine.execMin f x a b s
  | .max f x a b => Sys2Proof.Machine.execMax f x a b s
  | .sel x a b c => Sys2Proof.Machine.execSel x a b c s
  | .lea natural sh x a b => Sys2Proof.Machine.execLea natural sh x a b s
  | .add64 x a b => Sys2Proof.Machine.execAdd64 x a b s
  | .sub64 x a b => Sys2Proof.Machine.execSub64 x a b s
  | .and x a b => Sys2Proof.Machine.execAnd x a b s
  | .or x a b => Sys2Proof.Machine.execOr x a b s
  | .xor x a b => Sys2Proof.Machine.execXor x a b s
  | .not x a => Sys2Proof.Machine.execNot x a s
  | .shl x a b => Sys2Proof.Machine.execShl x a b s
  | .shr x a b => Sys2Proof.Machine.execShr x a b s
  | .sar x a b => Sys2Proof.Machine.execSar x a b s
  | .rot right x a b => Sys2Proof.Machine.execRot right x a b s
  | .clz x a => Sys2Proof.Machine.execClz x a s
  | .popc x a => Sys2Proof.Machine.execPopc x a s
  | .brev x a => Sys2Proof.Machine.execBrev x a s
  | .bfe signed x a b c => Sys2Proof.Machine.execBfe signed x a b c s
  | .bfi x a b c => Sys2Proof.Machine.execBfi x a b c s
  | .cmp cond x a b => Sys2Proof.Machine.execCmp cond x a b s
  | .vtag t x a => Sys2Proof.Machine.execVtag t x a s
  | .fadd rm x a b => Sys2Proof.Machine.execFadd rm x a b s
  | .fsub rm x a b => Sys2Proof.Machine.execFsub rm x a b s
  | .fmul rm x a b => Sys2Proof.Machine.execFmul rm x a b s
  | .ffma rm x a b c => Sys2Proof.Machine.execFfma rm x a b c s
  | .fmin nan x a b => Sys2Proof.Machine.execFmin nan x a b s
  | .fmax nan x a b => Sys2Proof.Machine.execFmax nan x a b s
  | .fabs x a => Sys2Proof.Machine.execFabs x a s
  | .fneg x a => Sys2Proof.Machine.execFneg x a s
  | .fcmp cond x a b => Sys2Proof.Machine.execFcmp cond x a b s
  | .frnd exact rm x a => Sys2Proof.Machine.execFrnd exact rm x a s
  | .fcsgn x a b => Sys2Proof.Machine.execFcsgn x a b s
  | .fclass x a => Sys2Proof.Machine.execFclass x a s
  | .fdiv rm x a b => Sys2Proof.Machine.execFdiv rm x a b s
  | .fsqrt rm x a => Sys2Proof.Machine.execFsqrt rm x a s
  | .frcp rm x a => Sys2Proof.Machine.execFrcp rm x a s
  | .frsq rm x a => Sys2Proof.Machine.execFrsq rm x a s
  | .fexp2 rm x a => Sys2Proof.Machine.execFexp2 rm x a s
  | .flog2 rm x a => Sys2Proof.Machine.execFlog2 rm x a s
  | .ffract x a => Sys2Proof.Machine.execFfract x a s
  | .hadd rm x a b => Sys2Proof.Machine.execHadd rm x a b s
  | .hsub rm x a b => Sys2Proof.Machine.execHsub rm x a b s
  | .hmul rm x a b => Sys2Proof.Machine.execHmul rm x a b s
  | .hfma rm x a b c => Sys2Proof.Machine.execHfma rm x a b c s
  | .hmin nan x a b => Sys2Proof.Machine.execHmin nan x a b s
  | .hmax nan x a b => Sys2Proof.Machine.execHmax nan x a b s
  | .hcmp cond x a b => Sys2Proof.Machine.execHcmp cond x a b s
  | .cvt tf ff rm x a q => Sys2Proof.Machine.execCvt tf ff rm x a q s
  | .cvtb tf rm residual x a n b => Sys2Proof.Machine.execCvtb tf rm residual x a n b s
  | .pack f ah bh x a b => Sys2Proof.Machine.execPack f ah bh x a b s
  | .unpack f x a b => Sys2Proof.Machine.execUnpack f x a b s
  | .rngx x a b => Sys2Proof.Machine.execRngx x a b s
  | .shfl m x a b c => Sys2Proof.Machine.execShfl m x a b c s
  | .vote m x a => Sys2Proof.Machine.execVote m x a s
  | .ballot x a => Sys2Proof.Machine.execBallot x a s
  | .scan op ex x a => Sys2Proof.Machine.execScan op ex x a s
  | .red op x a => Sys2Proof.Machine.execRed op x a s
  | .gatherPointRelease braid => Sys2Proof.Machine.execGatherPointRelease braid s
  | .ld k os h l d a => Sys2Proof.Machine.execLd k os h l d a s
  | .st k os h l d a => Sys2Proof.Machine.execSt k os h l d a s
  | .ldw t os h l d a => Sys2Proof.Machine.execLdw t os h l d a s
  | .stw os h l d a => Sys2Proof.Machine.execStw os h l d a s
  | .ldf t os l d a b => Sys2Proof.Machine.execLdf t os l d a b s
  | .stf os l d a b => Sys2Proof.Machine.execStf os l d a b s
  | .fset full l a b => Sys2Proof.Machine.execFset full l a b s
  | .fpush os l d a b => Sys2Proof.Machine.execFpush os l d a b s
  | .fpop t os l d a b => Sys2Proof.Machine.execFpop t os l d a b s
  | .pref lv l a b => Sys2Proof.Machine.execPref lv l a b s
  | .lline l d a b => Sys2Proof.Machine.execLline l d a b s
  | .uline l d a b => Sys2Proof.Machine.execUline l d a b s
  | .bankset m l d a => Sys2Proof.Machine.execBankset m l d a s
  | .atom op o l d a b => Sys2Proof.Machine.execAtom op o l d a b s
  | .cas o l d a b => Sys2Proof.Machine.execCas o l d a b s
  | .atomf rm o l d a b => Sys2Proof.Machine.execAtomf rm o l d a b s
  | .xadd half o l a b => Sys2Proof.Machine.execXadd half o l a b s
  | .xget half rm o l d a => Sys2Proof.Machine.execXget half rm o l d a s
  | .xclr o l a => Sys2Proof.Machine.execXclr o l a s
  | .fence k x l => Sys2Proof.Machine.execFence k x l s
  | .fenceCompletion pos id => Sys2Proof.Machine.execFenceCompletion pos id s
  | .holdBufferLeave pos id => Sys2Proof.Machine.execHoldBufferLeave pos id s
  | .rollback braid grp => Sys2Proof.Machine.execRollback braid grp s
  | .barInitArr l bar a => Sys2Proof.Machine.execBarInitArr l bar a s
  | .barInitRows l bar a b => Sys2Proof.Machine.execBarInitRows l bar a b s
  | .barArrive x l bar d => Sys2Proof.Machine.execBarArrive x l bar d s
  | .barWait x l bar a => Sys2Proof.Machine.execBarWait x l bar a s
  | .barSync x l bar => Sys2Proof.Machine.execBarSync x l bar s
  | .barDrop l bar a => Sys2Proof.Machine.execBarDrop l bar a s
  | .barTest l bar d a => Sys2Proof.Machine.execBarTest l bar d a s
  | .barStat l bar d => Sys2Proof.Machine.execBarStat l bar d s
  | .barFree l bar => Sys2Proof.Machine.execBarFree l bar s
  | .jnew l k d => Sys2Proof.Machine.execJnew l k d s
  | .join l k d a => Sys2Proof.Machine.execJoin l k d a s
  | .leave l k => Sys2Proof.Machine.execLeave l k s
  | .jrank l k d => Sys2Proof.Machine.execJrank l k d s
  | .jsize count l k d => Sys2Proof.Machine.execJsize count l k d s
  | .jbar x l k => Sys2Proof.Machine.execJbar x l k s
  | .jscan op ex x l k d a => Sys2Proof.Machine.execJscan op ex x l k d a s
  | .jred op x l k d a => Sys2Proof.Machine.execJred op x l k d a s
  | .tall f shape l r => Sys2Proof.Machine.execTall f shape l r s
  | .tfree l r => Sys2Proof.Machine.execTfree l r s
  | .tzero l r => Sys2Proof.Machine.execTzero l r s
  | .tload l r a b => Sys2Proof.Machine.execTload l r a b s
  | .ctr f shape an bn l r a b => Sys2Proof.Machine.execCtr f shape an bn l r a b s
  | .contractionStart die => Sys2Proof.Machine.execContractionStart die s
  | .tdrain f rm keep l r d a q => Sys2Proof.Machine.execTdrain f rm keep l r d a q s
  | .cpb cls att l d r c => Sys2Proof.Machine.execCpb cls att l d r c s
  | .cpg cls att l d r c => Sys2Proof.Machine.execCpg cls att l d r c s
  | .cps cls att l d r c => Sys2Proof.Machine.execCps cls att l d r c s
  | .cpf cls att l d r c => Sys2Proof.Machine.execCpf cls att l d r c s
  | .cqf cls mask l d => Sys2Proof.Machine.execCqf cls mask l d s
  | .commandStart core cls => Sys2Proof.Machine.execCommandStart core cls s
  | .chunk core => Sys2Proof.Machine.execChunk core s
  | .copyCompletion core cls => Sys2Proof.Machine.execCopyCompletion core cls s
  | .aset l d a b => Sys2Proof.Machine.execAset l d a b s
  | .anoise l d a b => Sys2Proof.Machine.execAnoise l d a b s
  | .aadd l d x y => Sys2Proof.Machine.execAadd l d x y s
  | .asub l d x y => Sys2Proof.Machine.execAsub l d x y s
  | .aneg l d x => Sys2Proof.Machine.execAneg l d x s
  | .ascl l d x a => Sys2Proof.Machine.execAscl l d x a s
  | .aaddc l d x a => Sys2Proof.Machine.execAaddc l d x a s
  | .amul l d x y => Sys2Proof.Machine.execAmul l d x y s
  | .aquant f rm l d x => Sys2Proof.Machine.execAquant f rm l d x s
  | .acond l d x a => Sys2Proof.Machine.execAcond l d x a s
  | .aget f l d y => Sys2Proof.Machine.execAget f l d y s
  | .ald os l d a => Sys2Proof.Machine.execAld os l d a s
  | .ast os l y a => Sys2Proof.Machine.execAst os l y a s
  | .asymn ctr l d => Sys2Proof.Machine.execAsymn ctr l d s
  | .amode f l d => Sys2Proof.Machine.execAmode f l d s
  | .cap l k e f n => Sys2Proof.Machine.execCap l k e f n s
  | .capr l k a b => Sys2Proof.Machine.execCapr l k a b s
  | .kdup l kd ks => Sys2Proof.Machine.execKdup l kd ks s
  | .kdrop l k => Sys2Proof.Machine.execKdrop l k s
  | .kst os l k a => Sys2Proof.Machine.execKst os l k a s
  | .kld os l k a => Sys2Proof.Machine.execKld os l k a s
  | .apply p k size => Sys2Proof.Machine.execApply p k size s
  | .spawn l d k a => Sys2Proof.Machine.execSpawn l d k a s
  | .kinfo f l d k => Sys2Proof.Machine.execKinfo f l d k s
  | .bra y p disp hint => Sys2Proof.Machine.execBra y p disp hint s
  | .jmp p t hint => Sys2Proof.Machine.execJmp p t hint s
  | .call p size disp => Sys2Proof.Machine.execCall p size disp s
  | .calli p t size => Sys2Proof.Machine.execCalli p t size s
  | .ret p => Sys2Proof.Machine.execRet p s
  | .exit p => Sys2Proof.Machine.execExit p s
  | .yield p => Sys2Proof.Machine.execYield p s
  | .brk p code => Sys2Proof.Machine.execBrk p code s
  | .trap p code => Sys2Proof.Machine.execTrap p code s
  | .rte w p => Sys2Proof.Machine.execRte w p s
  | .csrr l d csr => Sys2Proof.Machine.execCsrr l d csr s
  | .csrw l d csr a => Sys2Proof.Machine.execCsrw l d csr a s
  | .tins l d sel => Sys2Proof.Machine.execTins l d sel s
  | .tset l d sel a => Sys2Proof.Machine.execTset l d sel a s
  | .tresGo l d => Sys2Proof.Machine.execTresGo l d s
  | .tresHold l d => Sys2Proof.Machine.execTresHold l d s
  | .tresKill l d => Sys2Proof.Machine.execTresKill l d s
  | .tstep l d => Sys2Proof.Machine.execTstep l d s
  | .tswap p => Sys2Proof.Machine.execTswap p s
  | .gettime l d => Sys2Proof.Machine.execGettime l d s
  | .sleep l t => Sys2Proof.Machine.execSleep l t s
  | .sleepWakeup pos => Sys2Proof.Machine.execSleepWakeup pos s
  | .schedulerRound quarter => Sys2Proof.Machine.execSchedulerRound quarter s
  | .braidAged braid => Sys2Proof.Machine.execBraidAged braid s
  | .longLatencyCompletion pos id early => Sys2Proof.Machine.execLongLatencyCompletion pos id early s
  | .slackReturn braid => Sys2Proof.Machine.execSlackReturn braid s
  | .eventApplication core => Sys2Proof.Machine.execEventApplication core s
  | .trapDelivery braid => Sys2Proof.Machine.execTrapDelivery braid s
  | .swapIn core => Sys2Proof.Machine.execSwapIn core s
  | .doorbell page byte va => Sys2Proof.Machine.execDoorbell page byte va s
  | .wridxPoll queue => Sys2Proof.Machine.execWridxPoll queue s
  | .queueMap die => Sys2Proof.Machine.execQueueMap die s
  | .queueUnmap die => Sys2Proof.Machine.execQueueUnmap die s
  | .skipPacket queue => Sys2Proof.Machine.execSkipPacket queue s
  | .launchPacket queue => Sys2Proof.Machine.execLaunchPacket queue s
  | .waitPacket queue => Sys2Proof.Machine.execWaitPacket queue s
  | .signalPacket queue => Sys2Proof.Machine.execSignalPacket queue s
  | .applyPacket queue => Sys2Proof.Machine.execApplyPacket queue s
  | .fencePacket queue => Sys2Proof.Machine.execFencePacket queue s
  | .signalChange queue => Sys2Proof.Machine.execSignalChange queue s
  | .timedLaunchStart queue => Sys2Proof.Machine.execTimedLaunchStart queue s
  | .timeSliceExpiry queue => Sys2Proof.Machine.execTimeSliceExpiry queue s
  | .hankPlacement launch seat => Sys2Proof.Machine.execHankPlacement launch seat s
  | .neighbourhoodPlacement launch seats => Sys2Proof.Machine.execNeighbourhoodPlacement launch seats s
  | .hankRetirement hank => Sys2Proof.Machine.execHankRetirement hank s
  | .launchCompletion launch => Sys2Proof.Machine.execLaunchCompletion launch s
  | .tlbMissWalk w => Sys2Proof.Machine.execTlbMissWalk w s
  | .faultRingSpaceFreed ctx => Sys2Proof.Machine.execFaultRingSpaceFreed ctx s
  | .faultdone ctx seq => Sys2Proof.Machine.execFaultdone ctx seq s
  | .tlbinvPage ctx va => Sys2Proof.Machine.execTlbinvPage ctx va s
  | .tlbinvContext ctx => Sys2Proof.Machine.execTlbinvContext ctx s
  | .tlbinvAll => Sys2Proof.Machine.execTlbinvAll s
  | .createContext => Sys2Proof.Machine.execCreateContext s
  | .activate => Sys2Proof.Machine.execActivate s
  | .suspend => Sys2Proof.Machine.execSuspend s
  | .resume => Sys2Proof.Machine.execResume s
  | .recover => Sys2Proof.Machine.execRecover s
  | .destroy => Sys2Proof.Machine.execDestroy s
  | .createQueue => Sys2Proof.Machine.execCreateQueue s
  | .preEmptQueue => Sys2Proof.Machine.execPreEmptQueue s
  | .resumeQueue => Sys2Proof.Machine.execResumeQueue s
  | .acknowledgeQueueFault => Sys2Proof.Machine.execAcknowledgeQueueFault s
  | .destroyQueue => Sys2Proof.Machine.execDestroyQueue s
  | .enterTestMode => Sys2Proof.Machine.execEnterTestMode s
  | .enterServiceMode => Sys2Proof.Machine.execEnterServiceMode s
  | .featofferWrite value => Sys2Proof.Machine.execFeatofferWrite value s
  | .pkgidWrite value => Sys2Proof.Machine.execPkgidWrite value s
  | .rangeRegisterWrite cluster reg high value => Sys2Proof.Machine.execRangeRegisterWrite cluster reg high value s
  | .hostRegisterWrite off width value => Sys2Proof.Machine.execHostRegisterWrite off width value s
  | .unsupportedRequest bar off width => Sys2Proof.Machine.execUnsupportedRequest bar off width s
  | .hostHbmAccess a => Sys2Proof.Machine.execHostHbmAccess a s
  | .pcieCompletionTimeout ctx core strand va src => Sys2Proof.Machine.execPcieCompletionTimeout ctx core strand va src s
  | .linkEnable port => Sys2Proof.Machine.execLinkEnable port s
  | .linkDisable port => Sys2Proof.Machine.execLinkDisable port s
  | .flitReceived port seq crcOk => Sys2Proof.Machine.execFlitReceived port seq crcOk s
  | .replayRequest port seq => Sys2Proof.Machine.execReplayRequest port seq s
  | .replayLimit port => Sys2Proof.Machine.execReplayLimit port s
  | .laneLoss port lanes => Sys2Proof.Machine.execLaneLoss port lanes s
  | .trainingEnds port lanes peerPkg peerPort => Sys2Proof.Machine.execTrainingEnds port lanes peerPkg peerPort s
  | .trainingTimeout port => Sys2Proof.Machine.execTrainingTimeout port s
  | .linkTimeout ctx core pkg => Sys2Proof.Machine.execLinkTimeout ctx core pkg s
  | .telemetrySample die x => Sys2Proof.Machine.execTelemetrySample die x s
  | .thermalTrip die => Sys2Proof.Machine.execThermalTrip die s
  | .powerOn => Sys2Proof.Machine.execPowerOn s
  | .reset => Sys2Proof.Machine.execReset s
  | .bootCompletes locations n => Sys2Proof.Machine.execBootCompletes locations n s
  | .noImageVerifies => Sys2Proof.Machine.execNoImageVerifies s
  | .heartbeatTimeout => Sys2Proof.Machine.execHeartbeatTimeout s
  | .ptpMessage master => Sys2Proof.Machine.execPtpMessage master s
  | .attestationReport nonce => Sys2Proof.Machine.execAttestationReport nonce s
  | .unknownOpCommand => Sys2Proof.Machine.execUnknownOpCommand s

end Sys2Proof.Machine
end

