-- ==== Sys2Proof/Machine/Run.lean ====
section
/-! DEFINITION. One move: the next word of a quarter's issue set, the word of a `tstep`, or an event of another agent; and
the placing of one word where the next move runs it. -/

namespace Sys2Proof.Machine

/-- The move that comes next (log 1), and the state with the time before it passed (log 2). -/
def State.takeMove (s : State) : Move × State :=
  let s' := { s.tick with moves := s.moves + 1, agenda := s.agenda.tail }
  (s.agenda.headD (Config.move s.moves), s')

/-- The braid of the issue set, its stalls and slack set brought up to date. -/
def State.settleCur (s : State) : State :=
  match s.cur with
  | some x => (s.settleBraid x.braid).joinGather
  | none => s

/-- The lanes that a word which is no instruction traps: every lane of the set, or in the ops of tiles and copies, which each strand
checks whose predicate holds, those lanes (02 R52, 14 R263, 15 R286). -/
def State.unlistedLanes (s : State) (x : Issue) : List Nat :=
  let f := fieldsOf (x.words.getD (x.word - 1) 0).toNat
  if (0x90 ≤ f.op ∧ f.op ≤ 0x95) ∨ (0xA0 ≤ f.op ∧ f.op ≤ 0xA4) then s.checkedLanes x f.pred else lanesOf x.mask

/-- The word at which the issue set stands, past its stalls: executed, and the set moved on. -/
def State.runIssue (s : State) : Res :=
  match s.settleCur.beginWord with
  | (s, none) => .next s.dropCur
  | (s, some (.error _)) =>
    .next (match s.cur with
      | some x => State.endWord s (s.allIllegal (s.unlistedLanes x))
      | none => s)
  | (s, some (.ok i)) =>
    match exec i s with
    | .next s' => .next (s.endWord s')
    | .fault r => .fault r
    | .refused r => .refused r

/-- The next word of the issue set in progress on a quarter. -/
def State.runWord (s : State) (q : Nat) : Res :=
  if 1536 ≤ q then .fault .noSuchQuarter
  else if s.clocksStopped then .next s
  else match (s.quarter q).cur with
    | none => .next s
    | some _ => { s with focus := q, stepping := false }.runIssue

/-- A step that could not execute its word yet forms its issue set again. -/
def State.stepAgain (s : State) : State :=
  let q := s.quarter s.focus
  let again := fun (r : StepReq) => { r with issue := { r.issue with words := [] } }
  if s.stepping then { (s.setQuarter s.focus { q with step := q.step.map again }) with stepping := false } else s

/-- The word of a `tstep` on a quarter, once no issue set is inside a clause there (07 R118). -/
def State.runStepWord (s : State) (q : Nat) : Res :=
  if 1536 ≤ q then .fault .noSuchQuarter
  else if s.clocksStopped then .next s
  else match (s.quarter q).step, (s.quarter q).cur with
    | none, _ | _, some _ => .next s
    | some r, none =>
      let s := { s with focus := q, stepping := false }.formStep r
      if !s.stepping then .next s
      else match s.runIssue with
        | .next s => .next s.stepAgain
        | o => o

/-- Does an event go on while the clocks of the dies are stopped (20 R360; log 46)? What reaches the package from outside does:
the host, the links' ports, power and the management complex. -/
def unclocked : Instr → Bool
  | .featofferWrite _ | .pkgidWrite _ | .rangeRegisterWrite .. | .hostRegisterWrite .. | .unsupportedRequest .. | .hostHbmAccess _
  | .faultdone .. | .tlbinvPage .. | .tlbinvContext _ | .tlbinvAll | .linkEnable _ | .linkDisable _ | .telemetrySample .. | .thermalTrip _
  | .powerOn | .reset | .bootCompletes .. | .noImageVerifies | .heartbeatTimeout | .ptpMessage _ | .attestationReport _
  | .createContext | .activate | .suspend | .resume | .recover | .destroy | .createQueue | .preEmptQueue | .resumeQueue
  | .acknowledgeQueueFault | .destroyQueue | .enterTestMode | .enterServiceMode | .unknownOpCommand => true
  | _ => false

/-- One move. Words of the table that are events act by themselves. Stopped clocks move no clocked event. -/
def State.runMove (s : State) : Move → Res
  | .word q => s.runWord q
  | .stepWord q => s.runStepWord q
  | .event i => if i.info.word || (s.clocksStopped && !unclocked i) then .next s else exec i s

/-! ## One word placed for the next move (log 5) -/

/-- An active context with every feature, and addresses within a program's reach. -/
def fetchCtx : Ctx :=
  { (Ctx.ofDescriptor 0 false) with st := .active, root := 2 ^ 63, feat := 0x7F, symlim := 65535, frLog := 4 }

def fetchHank : Hank :=
  { ctx := 0, launch := 0, index := 0, core := 0, braids := [0], strands := 32, regs := 256, affs := 16, scrkb := 0,
    banks := [], nb := none, nbpos := 0, nhank := 1, prio := 0, spawn := none, stopping := false }

/-- The address of the placed clause. -/
def fetchClauseAt : DWord := 0x10000

/-- Lane 0 of braid 0 at the first word of a clause of the two slot words given, as the next move. -/
def State.placeWord (s : State) (w : List DWord) : State :=
  let h := s.uid
  let s := { s with
    uid := h + 1
    ctxs := s.ctxs.set 0 fetchCtx
    hanks := s.hanks.set h fetchHank
    braids := s.braids.set 0 ⟨h, 0, 0, BitVec.allOnes 32, 0, []⟩ }
  let s := s.startStrand 0 h 0 none 256 16 0 fetchClauseAt none 0x100000 16 fun r => { r with pc := ⟨fetchClauseAt, 1⟩ }
  { s with
    quarters := s.quarters.set 0 { Quarter.idle with cur := some ⟨0, 1, fetchClauseAt, w, 1⟩ }
    clocksStopped := false
    agenda := [.word 0] }

end Sys2Proof.Machine
end

