-- ==== Sys2Proof/Machine/Step.lean ====
section
/-! DEFINITION. One step of the machine is one move. `State.withFetchWord` places a word where the next step runs it. -/

namespace Sys2Proof.Machine

def step (s : State) : Host.Outcome State Fault Refusal :=
  let m := s.takeMove
  m.2.runMove m.1

/-- The instruction whose bits are w, as a clause's first slot words (02 R22); log 5. -/
def State.withFetchWord (s : State) (nbits w : Nat) : State :=
  let v := w % 2 ^ nbits
  s.placeWord [BitVec.ofNat 64 v, BitVec.ofNat 64 (v / 2 ^ 64)]

end Sys2Proof.Machine
end

