-- ==== Sys2Proof/Safety.lean ====
section
/-! DEFINITION. What a safe state and a safe run are (memory in canonical form, no step that stops), and when a strand
executes a word: the terms in which statements are made. -/

namespace Sys2Proof.Machine

/-- The invariant of the machine's memory: keys strictly rising, no byte listed that an unlisted key reads as. -/
def State.MemOk (s : State) : Prop := Memory.wf s.mem = true

/-- A step that neither faults nor is refused. -/
def State.goesOn (s : State) : Prop := ∃ t, step s = .next t

/-- A run of n steps that never stops. -/
def State.safeFor : Nat → State → Prop
  | 0, _ => True
  | n + 1, s => ∃ t, step s = .next t ∧ State.safeFor n t

/-- The strand `st` in lane `l` of the issue set `x` executes word `i`: the word passes the checks of R52 of spec 02 for
the set, the strand's predicate holds (02 R32), and its operands pass the format-tag check (03 R73). -/
structure State.Executes (s : State) (x : Issue) (i : Instr) (l : Nat) (st : Strand) : Prop where
  cur : s.cur = some x
  legal : s.illegalHere x i = false
  lane : l < 32 ∧ x.mask.getLsbD l = true
  strand : s.strand? (posOf x.braid l) = some st
  pred : predHolds st.regs i.info.pred = true
  tags : tagFailure st.regs i.info = none

/-- It is the only strand of the set whose predicate holds. -/
structure State.Alone (s : State) (x : Issue) (i : Instr) (l : Nat) (st : Strand) : Prop extends
    State.Executes s x i l st where
  only : s.active x i.info.pred = [(l, st)]

/-- `t` is `s` with the strand at `pos` replaced by `y`, and nothing else changed. -/
structure State.OnlyStrand (s t : State) (pos : Nat) (y : Strand) : Prop where
  here : t.strand? pos = some y
  others : ∀ p, p ≠ pos → t.strand? p = s.strand? p
  rest : t = { s with strands := t.strands }

end Sys2Proof.Machine
end

