-- ==== Sys2Proof/Certificates/Slice0/Obligations.lean ====
section
/-! DEFINITION. The statements for the provers, with the terms they are said in: what a word leaves of a strand, of the
issue set's other strands and of the package. Each statement names the rules of spec/ it formalises. -/

namespace Sys2Proof.Claims

open Sys2Proof Sys2Proof.Machine

/-! ## Terms -/

/-- `i` answers a next state of which `P` holds. -/
def Completes (i : Instr) (s : State) (P : State → Prop) : Prop := ∃ t, exec i s = .next t ∧ P t

/-- A strand that has written the registers `w` in order and ORed the flags `fl`, and captured the first of them into slot
`cap` of its operand file (02 R41). -/
def written (st : Strand) (cap : Option Nat) (w : List (Nat × Reg)) (fl : FFlags) : Strand :=
  { st with regs := { st.regs with
      v := w.foldl (fun v p => v.set p.1 p.2) st.regs.v
      fstat := st.regs.fstat ||| fl
      o := match cap, w with
        | some c, p :: _ => st.regs.o.set c p.2
        | _, _ => st.regs.o } }

/-- In every lane that executes the word i, and whatever the other lanes do, the strand after it is the one before with
the registers `w` written and the flags `fl` set, and nothing else of it changed. -/
def Writes (i : Instr) (w : Lane → List (Nat × Reg)) (fl : Lane → FFlags := fun _ => 0) : Prop :=
  ∀ s x l st, s.Executes x i l st → Completes i s fun t =>
    t.strand? (posOf x.braid l) = some (written st i.info.cap (w (s.lane x l st)) (fl (s.lane x l st)))

/-- A number as an I32 register. -/
def i32 (n : Nat) : Reg := ⟨BitVec.ofNat 32 n, .i32⟩

/-- A truth value as an I32 register: 1 or 0. -/
def truth (b : Bool) : Reg := ⟨if b then 1 else 0, .i32⟩

/-- A 64-bit value as the two W64 registers of a pair from d (00 R5). -/
def pairFrom (d : Nat) (x : DWord) : List (Nat × Reg) :=
  [(d, ⟨x.truncate 32, .w64⟩), (d + 1, ⟨(x >>> 32).truncate 32, .w64⟩)]

/-- A bit operation on three sources whose result keeps the tag of the first. -/
def keepTag (d : Nat) (a b c : Src) (f : Word → Word → Word → Word) (e : Lane) : List (Nat × Reg) :=
  [(d, ⟨f (e.val .any a) (e.val .any b) (e.val .any c), (e.src .any a).tag⟩)]

/-- The word writes a result code, tagged F32, and its flags. -/
def WritesF32 (i : Instr) (d : Nat) (r : Lane → Nat × FFlags) : Prop :=
  Writes i (fun e => [(d, ⟨BitVec.ofNat 32 (r e).1, .f32⟩)]) fun e => (r e).2

/-- The word writes two 16-bit codes, the first in the low half, and the OR of their flags. -/
def WritesHalves (i : Instr) (d : Nat) (t : Tag) (r : Lane → Nat → Nat × FFlags) : Prop :=
  Writes i (fun e => [(d, ⟨BitVec.ofNat 32 ((r e 0).1 % 2 ^ 16 + 2 ^ 16 * ((r e 1).1 % 2 ^ 16)), t⟩)])
    fun e => (r e 0).2 ||| (r e 1).2

/-- Element i of two of a source. -/
def halfOf (e : Lane) (a : Src) (i : Nat) : Nat := e.nat .h16 a / 2 ^ (16 * i) % 2 ^ 16

/-- The code of source a with a sign put on it; a NaN gives the canonical NaN (R158). -/
def signed (e : Lane) (a : Src) (neg : Bool) : Nat :=
  if (e.f32 a).isNan then f32.nan else e.nat .f32 a % 2 ^ 31 + if neg then 2 ^ 31 else 0

/-- The words of groups 0x00 to 0x5F: they have no completion slot, and act lane by lane in one step. -/
def fixedLatency : Instr → Bool
  | .nop | .mov .. | .movi .. | .movx .. | .add .. | .sub .. | .mul .. | .mulh .. | .mad .. | .neg .. | .abs .. | .min ..
  | .max .. | .sel .. | .lea .. | .add64 .. | .sub64 .. | .and .. | .or .. | .xor .. | .not .. | .shl .. | .shr .. | .sar ..
  | .rot .. | .clz .. | .popc .. | .brev .. | .bfe .. | .bfi .. | .cmp .. | .vtag .. | .fadd .. | .fsub .. | .fmul ..
  | .ffma .. | .fmin .. | .fmax .. | .fabs .. | .fneg .. | .fcmp .. | .frnd .. | .fcsgn .. | .fclass .. | .fdiv ..
  | .fsqrt .. | .frcp .. | .frsq .. | .fexp2 .. | .flog2 .. | .ffract .. | .hadd .. | .hsub .. | .hmul .. | .hfma ..
  | .hmin .. | .hmax .. | .hcmp .. | .cvt .. | .cvtb .. | .pack .. | .unpack .. | .rngx .. | .shfl .. | .vote ..
  | .ballot .. | .scan .. | .red .. => true
  | _ => false

/-- Nothing of the package but its strands differs, and of those only strands of the issue set that execute the word: every
byte of memory, every flag and register of every other strand, and every special register reads as before. -/
def OnlyExecuting (s t : State) (x : Issue) (i : Instr) : Prop :=
  t = { s with strands := t.strands } ∧
  ∀ p, (∀ l st, (l, st) ∈ s.passing x i → posOf x.braid l ≠ p) → t.strand? p = s.strand? p

/-- A strand that has issued a long-latency word: its slot is set, and the word is the last of its outstanding
instructions, under the strand's next number (02 R45). -/
def issuing (st : Strand) (l : Long) (at_ : Point) (grp : Nat) (kind : PendKind) (held : Bool) (a : Act) : Strand :=
  { st with
    regs := { st.regs with slots := st.regs.slots ||| if l.slot < 12 then BitVec.twoPow 12 l.slot else 0 }
    outs := st.outs ++ [{ id := st.nextId, slot := l.slot, look := l.look, at_ := at_, held := held, svc := none, group := grp,
                          kind := kind, mute := false, act := a }]
    nextId := st.nextId + 1 }

/-- A strand's registers when an outstanding instruction in slot `slot` completes: it writes `w`, ORs `fl` and clears its
slot (02 R45). -/
def completing (r : Regs) (slot : Nat) (w : List (Nat × Reg)) (fl : FFlags) : Regs :=
  { r with
    v := w.foldl (fun v p => v.set p.1 p.2) r.v
    fstat := r.fstat ||| fl
    slots := r.slots &&& ~~~(if slot < 12 then BitVec.twoPow 12 slot else 0) }

/-- A strand blocked at a long-latency word that its unit will serve, into register and tag `dst`: it goes on at `next`, where `acq`
says so with an acquire of what was released at a place. -/
def blocking (st : Strand) (l : Long) (at_ next : Point) (grp : Nat) (b : Block) (dst : Option (Nat × Tag))
    (acq : Option (Nat × Scope)) : Strand :=
  { issuing st l at_ grp .plain false (.served dst next acq) with run := .blocked b }

/-- A strand that has not exited, in its place; no register that a later word has written keeps that value when an instruction
completes (02 R48; what one that does keeps, `EarlierResultsOutlasted` says). -/
def Runs (pos : Nat) (x : Strand) : Prop := x.run ≠ .exited ∧ x.leaving = [] ∧ x.outlasts = [] ∧ pos < 384 * 2048

/-- A long-latency word of a strand alone, whose results are known when it issues: the package becomes `u`, and the strand
in it has issued the word with the results `w` to write when it completes. -/
def Issues (s : State) (x : Issue) (i : Instr) (k : Nat) (l : Long) (kind : PendKind) (u : State) (w : List (Nat × Reg)) :
    Prop :=
  Completes i s fun t =>
    t = u.modStrand (posOf x.braid k) fun y => issuing y l x.here s.moves kind false (.regs w 0)

/-- A word of a strand alone, neither in a handler nor past a fence, that traps at the word with this cause and detail; the
package is otherwise as before. -/
def TrapsAlone (s : State) (x : Issue) (i : Instr) (k : Nat) (st : Strand) (cause detail : Nat) : Prop :=
  st.handler = false → st.pastFence = false → Completes i s fun t =>
    t = { s with strands := t.strands, braids := t.braids } ∧ (∀ p, p ≠ posOf x.braid k → t.strand? p = s.strand? p) ∧
    t.strand? (posOf x.braid k) =
      some { st with
        run := .trapped, trap := ⟨x.clause, x.word, cause, detail, 0⟩, regs := { st.regs with pc := x.here },
        trapSet := s.moves, heldOn := none }

/-- The bytes [k, k + n) of `t` are those of v, little-endian, and every other byte of memory reads as in `s`. -/
def Stores (s t : State) (k n v : Nat) : Prop :=
  (∀ i, i < n → t.mem.read (k + i) = BitVec.ofNat 8 (v / 256 ^ i)) ∧ ∀ j, j < k ∨ k + n ≤ j → t.mem.read j = s.mem.read j

/-- What a memory word of groups 0x60, 0x70 and 0xB0 asks for: slot and lookahead, the queue its strand waits in, the
access, its order, and what it does with the bytes. -/
structure Ask where
  long : Long
  kind : PendKind
  wants : Wants
  order : Order
  op : MemOp

/-- Does an earlier word of the strand still wait in the queue of a unit that performs its words in order? (16 R299, 17 R319) -/
def queued (st : Strand) (k : PendKind) : Bool := st.outs.any fun p => p.kind == k && decide (p.id < st.nextId)

/-- The accesses of spec 10 and of `ald`, `ast`, `kst` and `kld`: address, bytes, alignment asked of a global address, permission,
SRC. A store of an affine register or of a handle reads it at issue, or
where an earlier word of the unit's queue is not performed yet, when its turn comes. -/
def ask (i : Instr) (e : Lane) (st : Strand) : Option Ask :=
  match i with
  | .ld k os _ l d a => some ⟨l, .plain, ⟨a, k.bytes, 1, .read, 0, .scratch⟩, ⟨os, none⟩, .load k d⟩
  | .ldw t os _ l d a => some ⟨l, .plain, ⟨a, 64, 64, .read, 0, .scratch⟩, ⟨os, none⟩, .loadW t d⟩
  | .ald os l d a => some ⟨l, .affine, ⟨a, 64, 64, .read, 0, .scratch⟩, ⟨os, none⟩, .loadA d⟩
  | .st k os _ l d a => some ⟨l, .plain, ⟨a, k.bytes, 1, .write, 1, .scratch⟩, ⟨none, os⟩,
      .store (runNat (e.words d k.regs) % 2 ^ (8 * k.bytes))⟩
  | .stw os _ l d a => some ⟨l, .plain, ⟨a, 64, 64, .write, 1, .scratch⟩, ⟨none, os⟩, .store (runNat (e.words d 16) % 2 ^ 512)⟩
  | .ast os l y a => some ⟨l, if queued st .affine then .affine else .plain, ⟨a, 64, 64, .write, 1, .scratch⟩, ⟨none, os⟩,
      if queued st .affine then .storeA y else .store (e.affine y).image⟩
  | .kst os l k a => some ⟨l, .closure, ⟨a, 8, 8, .write, 1, .scratch⟩, ⟨none, os⟩,
      if queued st .closure then .storeK k else .store (e.regs.k.getD k 0).toNat⟩
  | .kld os l k a => some ⟨l, .closure, ⟨a, 8, 1, .read, 0, .scratch⟩, ⟨os, none⟩, .loadK k⟩
  | .fset full l a b => some ⟨l, .plain, ⟨.s a b, 4, 4, .write, 1, .scratch⟩, ⟨none, none⟩, .fset full⟩
  | .lline l d a b => some ⟨l, .plain, ⟨.g a b, 1, 1, .read, 0, .scratch⟩, ⟨none, none⟩, .line true d⟩
  | .uline l d a b => some ⟨l, .plain, ⟨.g a b, 1, 1, .read, 0, .scratch⟩, ⟨none, none⟩, .line false d⟩
  | .atom op o l d a b =>
    let n := if b.is64 then 8 else 4
    some ⟨l, .plain, ⟨placeAddr a, n, n, .both, 2, .scratch⟩, atomOrder o, .atom op b.is64 (e.atomArg b) d⟩
  | .cas o l d a b =>
    let n := if b.is64 then 8 else 4
    some ⟨l, .plain, ⟨placeAddr a, n, n, .both, 2, .scratch⟩, atomOrder o, .cas b.is64 (e.atomArg b) (runNat (e.words d (n / 4))) d⟩
  | .atomf rm o l d a b => some ⟨l, .plain, ⟨placeAddr a, 4, 4, .both, 2, .scratch⟩, atomOrder o, .atomf rm (e.nat .f32 b) d⟩
  | .xadd h o l a b => some ⟨l, .plain, ⟨placeAddr a, 64, 64, .both, 2, .scratch⟩, atomOrder o,
      .xadd h (e.nat (if h then .h16 else .f32) b)⟩
  | .xget h rm o l d a => some ⟨l, .plain, ⟨placeAddr a, 64, 64, .read, 0, .scratch⟩, atomOrder o, .xget h rm d⟩
  | .xclr o l a => some ⟨l, .plain, ⟨placeAddr a, 64, 64, .write, 2, .scratch⟩, atomOrder o, .xclr⟩
  | _ => none

end Sys2Proof.Claims

open Sys2Proof Sys2Proof.Machine Sys2Proof.Claims

/-! ## Fixed-latency words (08, 07) -/

/-- mov, movi, movx, sel and vtag give the value and the tag that R144 to R146, R149 and R154 name. -/
def Sys2Proof.Claims.MoveWordsResults : Prop :=
  (∀ x a, Writes (.mov x a) fun e => [(x.d, e.src .any a)]) ∧
  (∀ p d n, n < 2 ^ 25 →
    Writes (.movi .s p d n) (fun _ => [(d, ⟨(BitVec.ofNat 25 n).signExtend 32, .i32⟩)]) ∧
    Writes (.movi .n p d n) (fun _ => [(d, i32 n)]) ∧
    Writes (.movi .f32 p d n) (fun _ => [(d, ⟨BitVec.ofNat 32 n <<< 7, .f32⟩)])) ∧
  (∀ t p d lit, Writes (.movx (.tagged t) p d lit) fun _ => [(d, ⟨lit.truncate 32, t⟩)]) ∧
  (∀ p d lit, Writes (.movx .pair p d lit) fun _ => pairFrom d lit) ∧
  (∀ x a b c, Writes (.sel x a b c) fun e => [(x.d, if e.val .any c ≠ 0 then e.src .any a else e.src .any b)]) ∧
  (∀ t x a, Writes (.vtag t x a) fun e => [(x.d, ⟨e.val .any a, t⟩)])

/-- R147 for every width: each element is computed exactly in the reading of fn[2], saturated where asked, and wrapped. -/
def Sys2Proof.Claims.ElementWordsResults : Prop :=
  ∀ (f : IntForm) (x : DstA) (a b c : Src),
    let u := f.width.use
    Writes (.add f x a b) (fun e => [(x.d, intOp f (fun p q _ => p + q) (e.val u a) (e.val u b) (e.val u a))]) ∧
    Writes (.sub f x a b) (fun e => [(x.d, intOp f (fun p q _ => p - q) (e.val u a) (e.val u b) (e.val u a))]) ∧
    Writes (.mul f x a b) (fun e => [(x.d, intOp f (fun p q _ => p * q) (e.val u a) (e.val u b) (e.val u a))]) ∧
    Writes (.mad f x a b c) (fun e => [(x.d, intOp f (fun p q r => p * q + r) (e.val u a) (e.val u b) (e.val u c))]) ∧
    Writes (.neg f x a) (fun e => [(x.d, intOp f (fun p _ _ => -p) (e.val u a) (e.val u a) (e.val u a))]) ∧
    Writes (.abs f x a) (fun e => [(x.d, intOp f (fun p _ _ => |p|) (e.val u a) (e.val u a) (e.val u a))]) ∧
    Writes (.min f x a b) (fun e => [(x.d, intOp f (fun p q _ => min p q) (e.val u a) (e.val u b) (e.val u a))]) ∧
    Writes (.max f x a b) (fun e => [(x.d, intOp f (fun p q _ => max p q) (e.val u a) (e.val u b) (e.val u a))])

/-- Element i of the register that an R147 word writes, for every width and reading: the exact result of the elements of
its sources, clamped to the range of the reading for .sat, mod 2^w. -/
def Obligations.IntegerElementsWrapOrSaturate : Prop :=
  ∀ (f : IntForm) (op : Int → Int → Int → Int) (a b c : Word) (i : Nat),
    let w := iBits f.width
    let lo : Int := if f.natural then 0 else -2 ^ (w - 1)
    let hi : Int := if f.natural then 2 ^ w - 1 else 2 ^ (w - 1) - 1
    let el : Word → Int := fun v =>
      if f.natural then (v.extractLsb' (w * i) w).toNat else (v.extractLsb' (w * i) w).toInt
    let r := op (el a) (el b) (el c)
    i < 32 / w →
    (intOp f op a b c).tag = iTag f.width ∧
    (intOp f op a b c).val.extractLsb' (w * i) w = BitVec.ofInt w (if f.sat then max lo (min hi r) else r)

/-- The 64-bit and address words: lea extends b and scales it; add64 and sub64 work on 64-bit pairs, mod 2^64; mulh gives
the high word of the product. -/
def Sys2Proof.Claims.WideIntegerResults : Prop :=
  (∀ sh x a b, Writes (.lea false sh x a b) fun e =>
    pairFrom x.d (e.pair a + ((e.val .i32 b).signExtend 64 <<< sh))) ∧
  (∀ sh x a b, Writes (.lea true sh x a b) fun e =>
    pairFrom x.d (e.pair a + ((e.val .i32 b).zeroExtend 64 <<< sh))) ∧
  (∀ x a b, Writes (.add64 x a b) fun e => pairFrom x.d (e.pair a + e.pair b)) ∧
  (∀ x a b, Writes (.sub64 x a b) fun e => pairFrom x.d (e.pair a - e.pair b)) ∧
  (∀ x a b, Writes (.mulh false x a b) fun e =>
    [(x.d, ⟨BitVec.ofInt 32 ((e.val .i32 a).toInt * (e.val .i32 b).toInt / 2 ^ 32), .i32⟩)]) ∧
  (∀ x a b, Writes (.mulh true x a b) fun e => [(x.d, i32 (e.nat .i32 a * e.nat .i32 b / 2 ^ 32))])

/-- The bit operations of R152 in the terms of bit vectors; the results that keep their operand's tag keep tag(a). -/
def Sys2Proof.Claims.BitWordsResults : Prop :=
  ∀ (x : DstA) (a b c : Src),
    Writes (.and x a b) (keepTag x.d a b c fun p q _ => p &&& q) ∧
    Writes (.or x a b) (keepTag x.d a b c fun p q _ => p ||| q) ∧
    Writes (.xor x a b) (keepTag x.d a b c fun p q _ => p ^^^ q) ∧
    Writes (.not x a) (keepTag x.d a b c fun p _ _ => ~~~p) ∧
    Writes (.shl x a b) (keepTag x.d a b c fun p q _ => p <<< q.toNat) ∧
    Writes (.shr x a b) (keepTag x.d a b c fun p q _ => p >>> q.toNat) ∧
    Writes (.sar x a b) (keepTag x.d a b c fun p q _ => p.sshiftRight q.toNat) ∧
    Writes (.rot false x a b) (keepTag x.d a b c fun p q _ => p.rotateLeft (q.toNat % 32)) ∧
    Writes (.rot true x a b) (keepTag x.d a b c fun p q _ => p.rotateRight (q.toNat % 32)) ∧
    Writes (.brev x a) (keepTag x.d a b c fun p _ _ => p.reverse) ∧
    Writes (.bfi x a b c) (keepTag x.d a b c fun p q r =>
      let at_ := (r.extractLsb' 0 8).toNat
      let len := min (r.extractLsb' 8 8).toNat (32 - at_)
      let mask : Word := BitVec.ofNat 32 (2 ^ len - 1) <<< at_
      if (r.extractLsb' 8 8).toNat = 0 ∨ 32 ≤ at_ then p else (p &&& ~~~mask) ||| ((q <<< at_) &&& mask)) ∧
    (∀ sg, Writes (.bfe sg x a b c) fun e =>
      let at_ := e.nat .any b
      let len := min (e.nat .any c) (32 - at_)
      let f := (e.val .any a).extractLsb' at_ len
      [(x.d, ⟨if 32 ≤ at_ ∨ e.val .any c = 0 then 0 else if sg then f.signExtend 32 else f.zeroExtend 32, .i32⟩)]) ∧
    Writes (.clz x a) (fun e => [(x.d, ⟨(e.val .any a).clz, .i32⟩)]) ∧
    Writes (.popc x a) (fun e => [(x.d, i32 ((List.finRange 32).countP fun i => (e.val .any a).getLsb i))])

/-- cmp writes 1 where its condition holds and 0 elsewhere: the ten conditions of R153. -/
def Sys2Proof.Claims.CompareResults : Prop :=
  ∀ (k : Cond) (x : DstA) (a b : Src), Writes (.cmp k x a b) fun e =>
    let p := e.val .i32 a
    let q := e.val .i32 b
    [(x.d, truth (match k with
      | .eq => p == q
      | .ne => p != q
      | .ltS => p.slt q
      | .leS => p.sle q
      | .gtS => q.slt p
      | .geS => q.sle p
      | .ltN => p.ult q
      | .leN => p.ule q
      | .gtN => q.ult p
      | .geN => q.ule p))]

/-- The F32 arithmetic of R156: each word writes the result of the operation under its rounding direction, tagged F32, and
ORs the operation's flags into FSTAT. -/
def Sys2Proof.Claims.FloatArithmeticResults : Prop :=
  ∀ (rm : Rm) (x : DstA) (a b c : Src),
    WritesF32 (.fadd rm x a b) x.d (fun e => fAdd f32 rm (e.f32 a) (e.f32 b)) ∧
    WritesF32 (.fsub rm x a b) x.d (fun e => fAdd f32 rm (e.f32 a) (e.f32 b).negate) ∧
    WritesF32 (.fmul rm x a b) x.d (fun e => fMul f32 rm (e.f32 a) (e.f32 b)) ∧
    WritesF32 (.ffma rm x a b c) x.d (fun e => fFma f32 rm (e.f32 a) (e.f32 b) (e.f32 c)) ∧
    WritesF32 (.fdiv rm x a b) x.d (fun e => fDiv f32 rm (e.f32 a) (e.f32 b)) ∧
    WritesF32 (.fsqrt rm x a) x.d (fun e => fSqrt f32 rm (e.f32 a)) ∧
    WritesF32 (.frcp rm x a) x.d (fun e => fRcp f32 rm (e.f32 a)) ∧
    WritesF32 (.frsq rm x a) x.d (fun e => fRsq f32 rm (e.f32 a)) ∧
    WritesF32 (.fexp2 rm x a) x.d (fun e => fExp2 f32 rm (e.f32 a)) ∧
    WritesF32 (.flog2 rm x a) x.d (fun e => fLog2 f32 rm (e.f32 a))

/-- The F32 words of R157 to R162: minimum and maximum, signs, comparison, rounding to an integer, fraction, class. fabs,
fneg, fcsgn and fclass set no flag. -/
def Sys2Proof.Claims.FloatSelectResults : Prop :=
  ∀ (nan exact : Bool) (rm : Rm) (k : FCond) (x : DstA) (a b : Src),
    WritesF32 (.fmin nan x a b) x.d (fun e => fMinMax f32 false nan (e.nat .f32 a) (e.nat .f32 b)) ∧
    WritesF32 (.fmax nan x a b) x.d (fun e => fMinMax f32 true nan (e.nat .f32 a) (e.nat .f32 b)) ∧
    WritesF32 (.fabs x a) x.d (fun e => (signed e a false, 0)) ∧
    WritesF32 (.fneg x a) x.d (fun e => (signed e a (!(e.nat .f32 a).testBit 31), 0)) ∧
    WritesF32 (.fcsgn x a b) x.d (fun e => (signed e a ((e.nat .f32 b).testBit 31), 0)) ∧
    WritesF32 (.frnd exact rm x a) x.d (fun e => fRnd f32 exact rm (e.nat .f32 a)) ∧
    WritesF32 (.ffract x a) x.d (fun e => fFract f32 (e.nat .f32 a)) ∧
    Writes (.fclass x a) (fun e => [(x.d, i32 (fClass f32 (e.nat .f32 a)))]) ∧
    Writes (.fcmp k x a b) (fun e => [(x.d, truth (fCompare k (e.f32 a) (e.f32 b)).1)])
      (fun e => (fCompare k (e.f32 a) (e.f32 b)).2)

/-- The H16 words of R163: the F32 rule in each binary16 element, element 0 in the low half, and the OR of both elements'
flags. -/
def Sys2Proof.Claims.HalfWordsResults : Prop :=
  ∀ (rm : Rm) (nan : Bool) (k : FCond) (x : DstA) (a b c : Src),
    WritesHalves (.hadd rm x a b) x.d .h16x2 (fun e i => fAdd h16 rm (h16.decode (halfOf e a i)) (h16.decode (halfOf e b i))) ∧
    WritesHalves (.hsub rm x a b) x.d .h16x2
      (fun e i => fAdd h16 rm (h16.decode (halfOf e a i)) (h16.decode (halfOf e b i)).negate) ∧
    WritesHalves (.hmul rm x a b) x.d .h16x2 (fun e i => fMul h16 rm (h16.decode (halfOf e a i)) (h16.decode (halfOf e b i))) ∧
    WritesHalves (.hfma rm x a b c) x.d .h16x2
      (fun e i => fFma h16 rm (h16.decode (halfOf e a i)) (h16.decode (halfOf e b i)) (h16.decode (halfOf e c i))) ∧
    WritesHalves (.hmin nan x a b) x.d .h16x2 (fun e i => fMinMax h16 false nan (halfOf e a i) (halfOf e b i)) ∧
    WritesHalves (.hmax nan x a b) x.d .h16x2 (fun e i => fMinMax h16 true nan (halfOf e a i) (halfOf e b i)) ∧
    WritesHalves (.hcmp k x a b) x.d .i16x2
      (fun e i => ((truth (fCompare k (h16.decode (halfOf e a i)) (h16.decode (halfOf e b i))).1).val.toNat,
        (fCompare k (h16.decode (halfOf e a i)) (h16.decode (halfOf e b i))).2))

/-- Moves, selection, retagging and bit operations: the value and the tag that each word writes. -/
def Obligations.MoveAndBitWordsResults : Prop := MoveWordsResults ∧ BitWordsResults

/-- `sel` and `vtag` as their entries give them (08 R149, R154): sel picks a where c is not zero and b elsewhere, with the value
and tag of the operand chosen, constants reading as I32 (0 to 31) or F32 (32 to 63); vtag keeps the bits of a under the tag of
its fn. Both accept any tag and set no flag. Op 0x0D is sel with fn 0 alone; op 0x1E is vtag, with b and c zero, and fn 10 to 15
name no instruction: such a word traps by UnlistedWordsTrap. -/
def Obligations.SelectAndRetagRules : Prop :=
  (∀ x a b c, Writes (.sel x a b c) fun e => [(x.d, if e.val .any c ≠ 0 then e.src .any a else e.src .any b)]) ∧
  (∀ (e : Lane) n, n < 64 → (e.src .any (.const n)).tag = if n < 32 then .i32 else .f32) ∧
  (∀ t x a, Writes (.vtag t x a) fun e => [(x.d, ⟨e.val .any a, t⟩)]) ∧
  (∀ r t x a b c, tagFailure r (Instr.sel x a b c).info = none ∧ tagFailure r (Instr.vtag t x a).info = none) ∧
  (∀ w y i, decode w y = .ok i →
    (bits w 63 56 = 0x0D → bits w 55 52 = 0 ∧ ∃ x a b c, i = .sel x a b c) ∧
    (bits w 63 56 = 0x1E → bits w 24 15 = 0 ∧ bits w 14 5 = 0 ∧ ∃ t x a, i = .vtag t x a ∧ tagCodes[bits w 55 52]? = some t)) ∧
  (∀ w y, bits w 63 56 = 0x1E → 10 ≤ bits w 55 52 → ∃ e, decode w y = .error e)

/-- Integer words: the results of R147 for every width, the 64-bit and address words, and comparison. -/
def Obligations.IntegerWordsResults : Prop := ElementWordsResults ∧ WideIntegerResults ∧ CompareResults

/-- Floating-point words, in F32 and in the two elements of H16: result, tag and flags. -/
def Obligations.FloatWordsResults : Prop := FloatArithmeticResults ∧ FloatSelectResults ∧ HalfWordsResults

/-- cvt and cvtb round a block of elements in order (R164 to R166), pack and unpack move 16-bit halves and elements (R167,
R168), and rngx writes the draw and advances its counter in one step (R169). -/
def Obligations.ConversionWordsResults : Prop :=
  (∀ (tf ff : CvtFmt) (rm : Rnd) (x : DstA) (a : Src) (q : Nat),
    let n := max tf.elems ff.elems
    let block := fun (e : Lane) => roundBlock tf rm (.fin false 0 0) (runValues ff (cvtSource ff n a e) n)
      ((List.range n).map fun i => (e.regs.reg (q + i / 2)).val.toNat / 2 ^ (16 * (i % 2)) % 2 ^ 16)
    Writes (.cvt tf ff rm x a q) (fun e => regsFrom x.d (elemRegs tf (block e).1 (tf.regs n))) (fun e => (block e).2.1)) ∧
  (∀ (tf : CvtFmt) (x : DstA) (a n q : Nat),
    let block := fun (e : Lane) => roundBlock tf .sr (.fin false 0 0) (runValues .f32 (e.words a n) n)
      ((List.range n).map fun i => (e.regs.reg (q + i / 2)).val.toNat / 2 ^ (16 * (i % 2)) % 2 ^ 16)
    Writes (.cvtb tf .sr false x a n (.v q)) (fun e => regsFrom x.d (elemRegs tf (block e).1 (tf.regs n)))
      (fun e => (block e).2.1)) ∧
  (∀ (tf : CvtFmt) (residual : Bool) (x : DstA) (a n : Nat) (b : Src),
    let block := fun (e : Lane) => efLoop tf (if (e.f32 b).isFin then e.f32 b else .fin false 0 0)
      (runValues .f32 (e.words a n) n)
    Writes (.cvtb tf .ef residual x a n b) (fun e => regsFrom x.d (elemRegs tf (block e).1 (tf.regs n) ++
        if residual then [⟨BitVec.ofNat 32 (f32.round (.rm .rne) (block e).2.2).1, .f32⟩] else []))
      (fun e => (block e).2.1)) ∧
  (∀ (tf : CvtFmt) (rm : Rnd) (x : DstA) (a n : Nat), rm ≠ .ef → rm ≠ .sr →
    let rs := fun (e : Lane) => (runValues .f32 (e.words a n) n).map (cvtRound tf (rndMode rm 0))
    Writes (.cvtb tf rm false x a n (.v 0)) (fun e => regsFrom x.d (elemRegs tf ((rs e).map Prod.fst) (tf.regs n)))
      (fun e => flagsOr ((rs e).map Prod.snd))) ∧
  (∀ f ah bh x a b, Writes (.pack f ah bh x a b) fun e =>
    let half := fun (hi : Bool) (v : Word) => if hi then v.extractLsb' 16 16 else v.extractLsb' 0 16
    [(x.d, ⟨half bh (e.val f.use b) ++ half ah (e.val f.use a), packTag f⟩)]) ∧
  (∀ f x a b, Writes (.unpack f x a b) fun e =>
    let w := match f with | .h16x2 | .i16x2 => 16 | .t8x4 | .i8x4 => 8
    [(x.d, ⟨((e.val f.use a).extractLsb' (w * (e.nat .i32 b % (32 / w))) w).zeroExtend 32, packTag f⟩)]) ∧
  (∀ x a b, Writes (.rngx x a b) fun e =>
    let ctr := runNat (e.words a 4)
    let regs := fun (n : Nat) => (List.range 4).map fun i => i32 (n / 2 ^ (32 * i))
    regsFrom x.d (regs (rngOut ctr (e.regs.pair b).toNat)) ++ regsFrom a (regs (ctr + 1)))

/-- The braid words over their active set (R136 to R140): the lanes of the issue set whose predicate holds and that pass the
format-tag check, in ascending order. -/
def Obligations.BraidWordsResults : Prop :=
  ∀ (s : State) (x : Issue) (l : Nat) (st : Strand) (d : DstA) (a b c : Src),
    let vals := fun (i : Instr) (u : Use) => (s.passing x i).map fun p => (p.1, (s.lane x p.1 p.2).src u a)
    let gives := fun (i : Instr) (w : Reg) (fl : FFlags) => s.Executes x i l st → Completes i s fun t =>
      t.strand? (posOf x.braid l) = some (written st i.info.cap [(d.d, w)] fl)
    let e := s.lane x l st
    let source := fun (m : ShflMode) => (match m with
      | .idx => ((e.nat .i32 b % 32 : Nat) : Int)
      | .up => (l : Int) - e.nat .i32 b
      | .down => (l : Int) + e.nat .i32 b
      | .xor => ((l ^^^ (e.nat .i32 b % 32) : Nat) : Int) : Int)
    let found := fun (m : ShflMode) => (vals (.shfl m d a b c) .any).find? fun p => decide ((p.1 : Int) = source m)
    let words := fun (m : VoteMode) => (vals (.vote m d a) .any).map fun p => p.2.val
    let upTo := fun (i : Instr) (u : Use) (f : Nat → Bool) => ((vals i u).filter fun p => f p.1).map fun p => p.2.val
    (∀ m p, found m = some p → gives (.shfl m d a b c) p.2 0) ∧
    (∀ m, found m = none → gives (.shfl m d a b c) (e.src .any c) 0) ∧
    gives (.vote .all d a) (truth ((words .all).all fun v => v != 0)) 0 ∧
    gives (.vote .any d a) (truth ((words .any).any fun v => v != 0)) 0 ∧
    gives (.vote .uni d a) (truth ((words .uni).all fun v => (words .uni).all fun w => v == w)) 0 ∧
    (∀ r : Word, (∀ k, r.getLsbD k = (vals (.ballot d a) .any).any fun p => p.1 == k && p.2.val != 0) →
      gives (.ballot d a) ⟨r, .i32⟩ 0) ∧
    (∀ op, gives (.scan op false d a)
      ⟨(foldVals op (upTo (.scan op false d a) op.use fun k => decide (k ≤ l))).1, foldTag op⟩
      (foldVals op (upTo (.scan op false d a) op.use fun k => decide (k ≤ l))).2) ∧
    (∀ op, gives (.scan op true d a)
      ⟨(foldVals op (upTo (.scan op true d a) op.use fun k => decide (k < l))).1, foldTag op⟩
      (foldVals op (upTo (.scan op true d a) op.use fun k => decide (k < l))).2) ∧
    (∀ op, gives (.red op d a) ⟨(foldVals op (upTo (.red op d a) op.use fun _ => true)).1, foldTag op⟩
      (foldVals op (upTo (.red op d a) op.use fun _ => true)).2)

/-- Words of groups 0x00 to 0x5F, where no lane fails the format-tag check: they complete, and change no more than the
registers, captures and flags of the strands that execute them. `nop` changes nothing at all. -/
def Obligations.FixedLatencyFrame : Prop :=
  (∀ s x i, fixedLatency i = true → s.cur = some x → s.illegalHere x i = false → s.tagTraps x i = [] →
    Completes i s fun t => OnlyExecuting s t x i) ∧
  (∀ s x, s.cur = some x → s.illegalHere x .nop = false → exec .nop s = .next s)

/-- A strand that is neither in a handler nor past a fence takes the trap: it is trapped with that record, its program
counter at the resume point, its registers as before, and its braid is pending for delivery, in a group of its issue set. -/
def Sys2Proof.Claims.Traps (s t : State) (x : Issue) (l : Nat) (st : Strand) (r : TrapRec) (resume : Point) : Prop :=
  t.strand? (posOf x.braid l) =
    some { st with
      run := .trapped, trap := r, regs := { st.regs with pc := resume }, trapSet := s.moves, heldOn := none } ∧
  ∀ br, s.stepping = false → st.held = false → s.braids.get? x.braid = some br →
    ∃ b, t.braids.get? x.braid = some b ∧
      ∃ g ∈ b.pending, g.mask.getLsbD l = true ∧ g.clause = r.clause ∧ g.depth = st.regs.depth ∧ g.cause = r.cause ∧
        g.set = s.moves ∧ g.cycle = s.cycles

/-- The strands of an issue set stand at one call depth, as R115 forms it. -/
def Sys2Proof.Claims.OneDepth (s : State) (x : Issue) (d : Nat) : Prop :=
  ∀ k y, k < 32 → x.mask.getLsbD k = true → s.strand? (posOf x.braid k) = some y → y.regs.depth = d

/-- The format-tag trap (R73, R74): cause 3, with the number of an operand that fails; the program counter stays at the word.
Where several operands fail, that the lowest is named is the model's reading (log 12): R73, R74 and 18 R325 do not say which. -/
def Sys2Proof.Claims.FormatTagTrap : Prop :=
  ∀ s x i l st o, fixedLatency i = true → s.cur = some x → s.illegalHere x i = false →
    l < 32 → x.mask.getLsbD l = true → s.strand? (posOf x.braid l) = some st → predHolds st.regs i.info.pred = true →
    tagFailure st.regs i.info = some o → st.handler = false → st.pastFence = false → OneDepth s x st.regs.depth →
    Completes i s fun t => Traps s t x l st ⟨x.clause, x.word, 3, o, 0⟩ ⟨x.clause, x.word⟩

/-- The illegal-instruction trap (R52): cause 1, raised for every strand of the issue set, whatever its predicate; for the words of
tiles and copies, whose checks each strand makes whose predicate holds (14 R263, 15 R286), for those strands, and for those that lack
the predicate's register (08 R142). -/
def Sys2Proof.Claims.IllegalWordTrapsTheSet : Prop :=
  ∀ s x i l st, i.info.word = true → s.cur = some x → s.illegalHere x i = true →
    l < 32 → x.mask.getLsbD l = true → s.strand? (posOf x.braid l) = some st → st.handler = false → st.pastFence = false →
    (strandWords i = true → predHolds st.regs i.info.pred = true ∨ i.info.pred.reg ≠ 0 ∧ st.regs.v.length ≤ i.info.pred.reg) → OneDepth s x st.regs.depth →
    Completes i s fun t => Traps s t x l st ⟨x.clause, x.word, 1, 0, 0⟩ ⟨x.clause, x.word⟩

/-- Where a strand resumes that executes `trap` (R326, R335): at the next word, or the next clause after the last word of one. -/
def Sys2Proof.Claims.SoftwareTrapResumes : Prop :=
  ∀ s x k st p code, st.handler = false → st.pastFence = false → OneDepth s x st.regs.depth → s.Executes x (.trap p code) k st →
    Completes (.trap p code) s fun t => Traps s t x k st ⟨x.clause, x.word, 18, code, 0⟩
      (if x.words.length < x.word + 1 then ⟨nextClause x.clause x.words.length, 0⟩ else ⟨x.clause, x.word + 1⟩)

/-- The traps of a word: format tag and illegal instruction, before it acts, at the word; and the software trap, past it. -/
def Obligations.WordTraps : Prop := FormatTagTrap ∧ IllegalWordTrapsTheSet ∧ SoftwareTrapResumes

/-! ## Memory (10, 11, 16) -/

/-- A memory word whose checks pass issues its access: the slot is set, the pieces wait to be performed, and an acquire
makes its own fence. For a strand alone nothing else of the package changes at issue. That a `kst` past a fence is held as a store
is, is the model's reading (log 25). -/
def Obligations.AccessIssues : Prop :=
  ∀ s x i k st a ps, s.Executes x i k st → ask i (s.lane x k st) st = some a →
    s.reach (posOf x.braid k) st (s.lane x k st) a.wants = .ok ps →
    let o : Order := if ps.any (fun p => p.ord == .rc) then a.order else ⟨none, none⟩
    let held := (match a.op with
      | .store _ | .storeA _ | .storeK _ | .atom .. | .cas .. | .atomf .. | .xadd .. | .xclr => true
      | _ => false) && st.pastFence
    let y := issuing st a.long x.here s.moves a.kind held (.mem (pieces a.wants.len ps) 0 o a.op)
    let z := match o.acq with
      | some sc => issuing y ⟨⟨false, 0⟩, 15, 15⟩ x.here s.moves .plain false
          (.fence .acq sc (some st.nextId) { y.regs with pc := x.after i } none [] [])
      | none => y
    (Completes i s fun t => t.strand? (posOf x.braid k) = some z) ∧
    (s.Alone x i k st → Completes i s fun t => s.OnlyStrand t (posOf x.braid k) z)

/-- The address checks of R194 and R105, in their order: a misaligned address traps with cause 4, SRC and the address; a
scratchpad offset outside the hank's windows, or in a bank of another mode, with cause 6. -/
def Sys2Proof.Claims.AccessAddressTraps : Prop :=
  ∀ s x i k st a, s.Executes x i k st → ask i (s.lane x k st) st = some a → st.handler = false → st.pastFence = false →
    OneDepth s x st.regs.depth →
    let ea := (s.lane x k st).ea a.wants.addr
    let misaligned : TrapRec := ⟨x.clause, x.word, 4, 0, ea * 2 ^ 64 + a.wants.src * 2 ^ 8⟩
    (∀ p b, a.wants.addr = .g p b → ea % a.wants.galign ≠ 0 →
      Completes i s fun t => Traps s t x k st misaligned x.here) ∧
    (∀ b c, a.wants.addr = .s b c → ea % a.wants.len ≠ 0 → Completes i s fun t => Traps s t x k st misaligned x.here) ∧
    (∀ b c, a.wants.addr = .s b c → ea % a.wants.len = 0 →
      (∀ bank off, s.scratch st ea = some (bank, off) → (s.bank bank).mode ≠ .scratch) →
      Completes i s fun t => Traps s t x k st ⟨x.clause, x.word, 6, 0, 0⟩ x.here)

/-- An outstanding access of a running strand with one piece left, which may be performed now: in this package or a line instruction, in a bank still
its own if in scratchpad space, free of uncorrectable errors, with no write still on its way, and for a release at .dm or .sy
none of the device's engines in another package; no change of its bank's mode waits that it came behind. -/
structure Sys2Proof.Claims.LastPiece (s : State) (pos id : Nat) (x : Strand) (p : Pend) (off : Nat) (q : Part) (got : Nat)
    (o : Order) (op : MemOp) : Prop where
  strand : s.strand? pos = some x
  pend : s.pend? pos id = some p
  free : p.held = false ∧ p.svc = none ∧ p.mute = false
  act : p.act = .mem [(off, q)] got o op
  turn : s.lowerLaneWaits pos p = false
  may : x.mayPerform p [(off, q)] o 0 q = true
  near : keyPackage q.key = none ∨ ∃ pin d, op = .line pin d
  there : s.stillThere x q = true
  sound : s.busFault op.writes [q] = none
  settled : s.early = []
  before : s.behindSwitch pos id q = false
  far : s.farReady o.rel = true
  running : Runs pos x

/-- What a load leaves in its registers (R193, R196): a bundle is little-endian over its registers. -/
def Sys2Proof.Claims.loaded (k : LdKind) (d v : Nat) : List (Nat × Reg) :=
  match k with
  | .s8 => [(d, ⟨(BitVec.ofNat 8 v).signExtend 32, .i32⟩)]
  | .z8 => [(d, ⟨(BitVec.ofNat 8 v).zeroExtend 32, .i32⟩)]
  | .s16 => [(d, ⟨(BitVec.ofNat 16 v).signExtend 32, .i32⟩)]
  | .z16 => [(d, ⟨(BitVec.ofNat 16 v).zeroExtend 32, .i32⟩)]
  | .b64 => pairFrom d (BitVec.ofNat 64 v)
  | .b32 t => [(d, ⟨BitVec.ofNat 32 v, t⟩)]
  | .b128 t => (List.range 4).map fun i => (d + i, ⟨BitVec.ofNat 32 (v / 2 ^ (32 * i)), t⟩)

/-- The registers of the strand at `pos` after its instruction `id` completes; the instruction is outstanding no more, and
nothing of the package changes but this strand, memory, and what a write does to the reads of other strands past a fence. -/
def Sys2Proof.Claims.Finishes (s t : State) (pos id : Nat) (r : Regs) : Prop :=
  (∃ y, t.strand? pos = some y ∧ y.regs = r ∧ ∀ p ∈ y.outs, p.id ≠ id) ∧
  (∀ p, p ≠ pos → t.strand? p = s.strand? p) ∧ t = { s with strands := t.strands, mem := t.mem, spoiled := t.spoiled }

/-- The instruction `id` of the strand at `pos` has its results: it finishes with them, or, where its completion comes `early`, has
still to write them, or a store its write to be performed at .c (02 R45, 10 R195), and the strand and the rest of the package are
otherwise as where it finishes. -/
def Sys2Proof.Claims.Answers (s t : State) (pos id : Nat) (x : Strand) (p : Pend) (early : Bool) (w : List (Nat × Reg))
    (fl : FFlags) : Prop :=
  Finishes s t pos id (completing x.regs p.slot w fl) ∨
  (early = true ∧ (w ≠ [] ∨ ∃ l g o v, p.act = .mem l g o (.store v)) ∧ (∃ y r, t.strand? pos = some y ∧ y.regs = x.regs ∧ r ∈ y.outs ∧ r.id = id ∧ r.act = .regs w fl) ∧
    (∀ p, p ≠ pos → t.strand? p = s.strand? p) ∧ t = { s with strands := t.strands, mem := t.mem, spoiled := t.spoiled })

/-- A load completes with its last piece: `ld`, `ldw`, `ald`. Memory is as before. -/
def Obligations.LoadCompletes : Prop :=
  ∀ s pos id x p off q got o early,
    let v := got + s.mem.readN q.key q.len * 2 ^ (8 * off)
    let i := Instr.longLatencyCompletion pos id early
    (∀ k d, LastPiece s pos id x p off q got o (.load k d) → v < 2 ^ (8 * k.bytes) →
      Completes i s fun t => Answers s t pos id x p early (loaded k d v) 0 ∧ t.mem = s.mem) ∧
    (∀ tag d, LastPiece s pos id x p off q got o (.loadW tag d) →
      Completes i s fun t => Answers s t pos id x p early
        ((List.range 16).map fun n => (d + n, ⟨BitVec.ofNat 32 (v / 2 ^ (32 * n)), tag⟩)) 0 ∧ t.mem = s.mem) ∧
    (∀ d, LastPiece s pos id x p off q got o (.loadA d) →
      Completes i s fun t =>
        Finishes s t pos id { completing x.regs p.slot [] 0 with a := x.regs.a.set d (AReg.ofImage v) } ∧ t.mem = s.mem)

/-- A write of w to the n bytes from k is readable to the observers `gs` and, but for memory itself, to no other; every other byte
reads as before to all. -/
def Sys2Proof.Claims.ReadableTo (s t : State) (gs : Observers) (k n w : Nat) : Prop :=
  t.mem = s.mem ∧ (∀ c j, gs.has c = true → j < n → t.seen c (k + j) = BitVec.ofNat 8 (w / 256 ^ j)) ∧
  (∀ c j, j < k ∨ k + n ≤ j → t.seen c j = s.mem.read j) ∧ ∀ c j, gs.has c = false → t.seen c j = s.mem.read j

/-- Who can read the write of a piece at once, where it is not performed for all: the strand alone or its core, and where it
releases, the observers of its release scope (R195, R223). -/
def Sys2Proof.Claims.firstReaders (s : State) (pos : Nat) (x : Strand) (o : Order) (q : Part) (alone : Bool) : Observers :=
  let own := if alone then .one (strandAgent pos) else units [coreOf pos]
  match o.rel with
  | some sc => if q.ord = .rc then own.join (s.scopeObservers (strandAgent pos) (x.nb.map Prod.fst) sc) else own
  | none => own

/-- May the write of a piece be readable to some observers before others: in this package's HBM or in scratchpad space, and not on an
SO page (R190, R215, R223)? -/
def Sys2Proof.Claims.MayBeEarly (q : Part) : Prop := (q.key < 2 ^ 47 ∨ 2 ^ 64 ≤ q.key) ∧ q.ord ≠ .so

/-- The instruction `id` has written `new` at its piece's own key, and no other byte, with the answer w and fl: performed at every
scope; or, where its completion comes early, readable to some observers first (R223): to its core, and to the strand alone only where
the instruction is not complete yet; and to all observers of the scope at which it releases (R195). -/
def Sys2Proof.Claims.Lands (s t : State) (pos id : Nat) (x : Strand) (p : Pend) (q : Part) (o : Order) (early : Bool) (new : Nat)
    (w : List (Nat × Reg)) (fl : FFlags) : Prop :=
  Answers s { t with early := [] } pos id x p early w fl ∧
  (Stores s t q.key q.len new ∧ t.early = [] ∨
    early = true ∧ MayBeEarly q ∧ ¬ (q.ord = .rc ∧ o.rel = some .sy) ∧
      ∃ alone, ReadableTo s t (firstReaders s pos x o q alone) q.key q.len new ∧
        (alone = true → ∃ y, t.strand? pos = some y ∧ ∃ r ∈ y.outs, r.id = id))

/-- A store performed at every scope writes the bytes of its piece, at the piece's own key, and no other byte (R197, R198,
R307). One readable to some observers first (R223) leaves memory itself, and once it is complete the strand's core reads it, as do all
observers of the scope at which it releases (R195). -/
def Obligations.StoreCompletes : Prop :=
  ∀ s pos id x p off q o v early, LastPiece s pos id x p off q 0 o (.store v) → s.MemOk →
    Completes (.longLatencyCompletion pos id early) s fun t =>
      Lands s t pos id x p q o early (v / 2 ^ (8 * off) % 2 ^ (8 * q.len)) [] 0

/-- The new value of `atom` (R205), on words of either width. -/
def Sys2Proof.Claims.atomic {w : Nat} (op : AtomOp) (old b : BitVec w) : BitVec w :=
  match op with
  | .add => old + b
  | .sub => old - b
  | .minS => if old.sle b then old else b
  | .minN => if old.ule b then old else b
  | .maxS => if old.sle b then b else old
  | .maxN => if old.ule b then b else old
  | .and => old &&& b
  | .or => old ||| b
  | .xor => old ^^^ b
  | .exch => b
  | .inc => if b.ule old then 0 else old + 1

/-- An atomic or exact-cell instruction is one indivisible step (R195, R205 to R210): what it leaves at its place, and the
old value, the rounded sum or nothing in its registers. Where the completion comes early, some observers may read what it leaves
before others (R223), or its registers have still to be written (02 R45). -/
def Obligations.AtomicCompletes : Prop :=
  ∀ s pos id x p q o early, s.MemOk →
    let v := s.mem.readN q.key q.len
    let i := Instr.longLatencyCompletion pos id early
    let leaves := fun (t : State) (new : Nat) (w : List (Nat × Reg)) (fl : FFlags) => Lands s t pos id x p q o early new w fl
    (∀ op b d, LastPiece s pos id x p 0 q 0 o (.atom op false b d) → q.len = 4 → b < 2 ^ 32 →
      Completes i s fun t => leaves t (atomic op (BitVec.ofNat 32 v) (BitVec.ofNat 32 b)).toNat [(d, i32 v)] 0) ∧
    (∀ op b d, LastPiece s pos id x p 0 q 0 o (.atom op true b d) → q.len = 8 → b < 2 ^ 64 →
      Completes i s fun t => leaves t (atomic op (BitVec.ofNat 64 v) (BitVec.ofNat 64 b)).toNat
        (pairFrom d (BitVec.ofNat 64 v)) 0) ∧
    (∀ a b d, LastPiece s pos id x p 0 q 0 o (.cas false a b d) →
      Completes i s fun t => leaves t (if v = a then b else v) [(d, i32 v)] 0) ∧
    (∀ a b d, LastPiece s pos id x p 0 q 0 o (.cas true a b d) →
      Completes i s fun t => leaves t (if v = a then b else v) (pairFrom d (BitVec.ofNat 64 v)) 0) ∧
    (∀ rm b d, LastPiece s pos id x p 0 q 0 o (.atomf rm b d) →
      let r := fAdd f32 rm (f32.decode v) (f32.decode b)
      Completes i s fun t => leaves t r.1 [(d, ⟨BitVec.ofNat 32 v, .f32⟩)] r.2) ∧
    (∀ b, LastPiece s pos id x p 0 q 0 o (.xadd false b) →
      Completes i s fun t => leaves t (cellAdd v (f32.decode b)) [] 0) ∧
    (∀ b, LastPiece s pos id x p 0 q 0 o (.xadd true b) →
      Completes i s fun t => leaves t (cellAdd v (h16.decode (b % 2 ^ 16))) [] 0) ∧
    (∀ rm d, LastPiece s pos id x p 0 q 0 o (.xget false rm d) →
      Completes i s fun t => Answers s t pos id x p early
        [(d, ⟨BitVec.ofNat 32 (cellGet f32 rm v).1, .f32⟩)] (cellGet f32 rm v).2 ∧ t.mem = s.mem) ∧
    (∀ rm d, LastPiece s pos id x p 0 q 0 o (.xget true rm d) →
      Completes i s fun t => Answers s t pos id x p early
        [(d, ⟨BitVec.ofNat 32 (cellGet h16 rm v).1, .h16x2⟩)] (cellGet h16 rm v).2 ∧ t.mem = s.mem) ∧
    (LastPiece s pos id x p 0 q 0 o .xclr → Completes i s fun t => leaves t 0 [] 0)

/-- Of an outstanding instruction whose completion writes a register that a later word has written (02 R48): where that value
outlasts the completion, a free choice when the later word executed, the register keeps it; every other register takes the value of
the completion. -/
def Sys2Proof.Claims.EarlierResultsOutlasted : Prop :=
  ∀ s pos id x p w fl, s.strand? pos = some x → s.pend? pos id = some p → p.act = .regs w fl → p.held = false →
    p.svc = none → p.mute = false → x.run ≠ .exited → x.leaving = [] → pos < 384 * 2048 →
    Completes (.longLatencyCompletion pos id false) s fun t => ∃ y, t.strand? pos = some y ∧ (∀ q ∈ y.outs, q.id ≠ id) ∧
      ∀ r, r < x.regs.v.length → y.regs.reg r =
        if ∃ e ∈ x.outlasts, id < e.1 ∧ e.1 ≤ x.nextId ∧ e.2 = r then x.regs.reg r else (completing x.regs p.slot w fl).reg r

/-- None of the writes that some observers read first is of this instruction, and none is readable to all. -/
def Sys2Proof.Claims.NoneFirst (s : State) (pos id : Nat) : Prop :=
  ∀ e ∈ s.early, ¬ (e.by_ = .strand pos ∧ e.id = id) ∧ e.reach.full = false

/-- A write of an instruction that some observers read first is readable to all observers of the strand's core once the instruction is
complete (R195), and to no other that did not read it. -/
def Sys2Proof.Claims.WriteCompletes : Prop :=
  ∀ s pos id x p w fl e, s.strand? pos = some x → s.pend? pos id = some p → p.act = .regs w fl → p.held = false →
    p.svc = none → p.mute = false → Runs pos x → s.early = [e] → e.by_ = .strand pos → e.id = id →
    (e.reach.join (units [coreOf pos])).full = false →
    Completes (.longLatencyCompletion pos id false) s fun t => t.mem = s.mem ∧ ∀ c j,
      t.seen c j = if unitOf c = coreOf pos then (partsByte j e.parts e.val).getD (s.mem.read j) else s.seen c j

/-- Results known when their word issued are written, and the slot cleared, when it completes (R45); nothing else of the
package changes, but that what it wrote in memory is performed at .c. Where the completion comes early, registers of its result may
show the value to come before (R48), the word stays outstanding, and nothing else changes. A strand that has exited discards them. -/
def Obligations.IssuedResultsComplete : Prop :=
  EarlierResultsOutlasted ∧ WriteCompletes ∧
  ∀ s pos id x p w fl early, s.strand? pos = some x → s.pend? pos id = some p → p.act = .regs w fl → p.held = false →
    p.svc = none →
    (NoneFirst s pos id → Runs pos x → p.mute = false → early = false → Completes (.longLatencyCompletion pos id early) s fun t =>
      Finishes s t pos id (completing x.regs p.slot w fl) ∧ t.mem = s.mem) ∧
    (Runs pos x → p.mute = false → early = true → Completes (.longLatencyCompletion pos id early) s fun t =>
      t = { s with strands := t.strands } ∧ (∀ p, p ≠ pos → t.strand? p = s.strand? p) ∧
      ∃ y v, t.strand? pos = some y ∧ y.regs = { x.regs with v := v } ∧ v.length = x.regs.v.length ∧
        (∀ r, r ∉ w.map Prod.fst → y.regs.reg r = x.regs.reg r) ∧ ∃ q ∈ y.outs, q.id = id ∧ q.act = .regs w fl) ∧
    (NoneFirst s pos id → x.run = .exited → x.leaving = [] → x.regs.k.all (· == 0) = true → pos < 384 * 2048 →
      Completes (.longLatencyCompletion pos id early) s fun t => Finishes s t pos id x.regs ∧ t.mem = s.mem)

/-- pref changes timing only (R202). `lline` and `uline` answer with the status of R203 and pin or release the line. That
a line belongs to the set of its number mod 2,048 is the model's choice (log 18). -/
def Obligations.PrefetchAndPins : Prop :=
  (∀ s x k st lv l a b, s.Alone x (.pref lv l a b) k st → Completes (.pref lv l a b) s fun t =>
    s.OnlyStrand t (posOf x.braid k) (issuing st l x.here s.moves .plain false (.regs [] 0))) ∧
  (∀ s pos id x p q d pin early ctx,
    LastPiece s pos id x p 0 q 0 ⟨none, none⟩ (.line pin d) → ctx = s.ctxNum x →
    let core := coreOf pos
    let line := q.key / 128
    let held := ∃ w, (⟨ctx, core, line, w⟩ : Pin) ∈ s.pins
    let count := fun (l : List Pin) => (l.filter fun m => m.ctx == ctx && m.core == core).length
    let quota := ((s.ctxs.get? ctx).map Ctx.pinq).getD 0
    let answers := fun (code : Nat) (pins : List Pin) =>
      Completes (.longLatencyCompletion pos id early) s fun t =>
        t = { s with strands := t.strands, pins := pins } ∧ ∃ y, t.strand? pos = some y ∧
          y.regs = completing x.regs p.slot [(d, ⟨BitVec.ofNat 32 (code * 2 ^ 28 + count pins % 2 ^ 16), .stat⟩)] 0
    let cl := clusterOf core
    let inSet := ((s.pins.filter fun m => m.way / 64 == cl && lineSet m.line == lineSet line).map Pin.line).dedup
    (s.mode = .service → answers 2 s.pins) ∧
    (s.mode ≠ .service → q.cached = false → answers 5 s.pins) ∧
    (s.mode ≠ .service → q.cached = true →
      (pin = true → held → answers 0 s.pins) ∧
      (pin = true → ¬ held → quota ≤ count s.pins → answers 1 s.pins) ∧
      (pin = true → ¬ held → count s.pins < quota → (∀ m ∈ s.pins, m.way / 64 = cl → m.line ≠ line) →
        s.cacheWays cl / 2 ≤ inSet.length → answers 4 s.pins) ∧
      (pin = true → s.pins = [] → 0 < quota → 2 ≤ s.cacheWays (clusterOf core) →
        ∃ w, w / 64 = clusterOf core ∧ (s.bank w).mode = .cache ∧ answers 0 [⟨ctx, core, line, w⟩]) ∧
      (pin = false → held →
        answers 0 (s.pins.filter fun m => !(m.ctx == ctx && m.core == core && m.line == line))) ∧
      (pin = false → ¬ held → answers 3 s.pins)))

/-- The word of a bank that a blocking access of a strand alone reaches, none of the strand's earlier accesses going first,
with no early write, no write of an engine on its way to another package, no error and no request waiting. -/
structure Sys2Proof.Claims.AtWord (s : State) (x : Issue) (i : Instr) (k : Nat) (st : Strand) (a b : Src) (m : BankMode)
    (bank off : Nat) : Prop where
  alone : s.Alone x i k st
  aligned : ((s.lane x k st).ea (.s a b)) % 4 = 0
  at_ : s.scratch st ((s.lane x k st).ea (.s a b)) = some (bank, off)
  inside : off < 2 ^ 18
  mode : (s.bank bank).mode = m
  first : st.outs = []
  lowest : s.lowerStalls x k = []
  early : s.early = []
  far : ∀ sc, s.farReady sc = true
  sound : s.upset (bankKey bank off) 4 = false
  quiet : (s.bank bank).words.getD off [] = [] ∧ (s.bank bank).pushes = [] ∧ (s.bank bank).pops = []

/-- A strand whose resume point is another one (10 R199: a blocked access resumes after its word). -/
def Sys2Proof.Claims.past (y : Strand) (next : Point) : Strand := { y with regs := { y.regs with pc := next } }

/-- The full/empty words (R185, R199, R200): `stf` waits for empty, writes and fills; `ldf` waits for full, reads and
empties; `fset` sets the bit when it is performed. A request served comes back as an event of the strand's core; one that is not waits
in the bank. The write of `stf` may be readable to some observers first (R223), a free choice between the strand and its core, and to
those of its release scope. -/
def Sys2Proof.Claims.FullEmptyWords : Prop :=
  ∀ s x k st l a b bank off d tag os,
    let key := bankKey bank off
    let pos := posOf x.braid k
    let core := coreOf pos
    let event := fun (t : State) (e : CoreEvent) => t.events.getD core [] = s.events.getD core [] ++ [e]
    let blocked := fun (i : Instr) (t : State) (dst : Option (Nat × Tag)) =>
      let acq := match i with | .ldf .. => os.map fun sc => (key / 4, sc) | _ => none
      t.strand? pos = some (past (blocking st l x.here (x.after i) s.moves .word dst acq) (x.after i))
    let first := fun (rel : Option Scope) (alone : Bool) => firstReaders s pos st ⟨none, rel⟩ (wordPart key) alone
    (AtWord s x (.stf os l d a b) k st a b .scratch bank off → s.MemOk → key ∉ s.full →
      Completes (.stf os l d a b) s fun t =>
        (Stores s t key 4 (st.regs.reg d).val.toNat ∧ t.early = [] ∨
          os ≠ some .sy ∧ ∃ alone, ReadableTo s t (first os alone) key 4 (st.regs.reg d).val.toNat) ∧ key ∈ t.full ∧
        event t (.service pos st.nextId none false) ∧ blocked (.stf os l d a b) t none) ∧
    (AtWord s x (.stf os l d a b) k st a b .scratch bank off → key ∈ s.full →
      Completes (.stf os l d a b) s fun t => t.mem = s.mem ∧ t.full = s.full ∧ t.events = s.events ∧
        (∃ alone, (t.bank bank).words.getD off [] = [⟨pos, st.nextId, true, (st.regs.reg d).val, first os alone⟩]) ∧
        blocked (.stf os l d a b) t none) ∧
    (AtWord s x (.ldf tag os l d a b) k st a b .scratch bank off → key ∈ s.full →
      Completes (.ldf tag os l d a b) s fun t => t.mem = s.mem ∧ key ∉ t.full ∧
        event t (.service pos st.nextId (some (BitVec.ofNat 32 (s.mem.readN key 4))) false) ∧
        blocked (.ldf tag os l d a b) t (some (d, tag))) ∧
    (AtWord s x (.ldf tag os l d a b) k st a b .scratch bank off → key ∉ s.full →
      Completes (.ldf tag os l d a b) s fun t => t.mem = s.mem ∧ t.full = s.full ∧ t.events = s.events ∧
        (∃ alone, (t.bank bank).words.getD off [] = [⟨pos, st.nextId, false, 0, first none alone⟩]) ∧ blocked (.ldf tag os l d a b) t (some (d, tag))) ∧
    (∀ id y p q full early, LastPiece s pos id y p 0 q 0 ⟨none, none⟩ (.fset full) → q.key = key → off < 2 ^ 18 →
      (s.bank bank).words.getD off [] = [] → Completes (.longLatencyCompletion pos id early) s fun t =>
        t.mem = s.mem ∧ (key ∈ t.full ↔ full = true) ∧ (∀ j, j ≠ key → (j ∈ t.full ↔ j ∈ s.full)) ∧
        ∃ z, t.strand? pos = some z ∧ z.regs = completing y.regs p.slot [] 0 ∧ ∀ o ∈ z.outs, o.id ≠ id)

/-- FIFO banks (R186, R201): a push adds its word at the end, a pop takes the oldest; a pop of an empty FIFO waits. The strand blocks
with the word as its resume point (02 R27). -/
def Sys2Proof.Claims.FifoBanks : Prop :=
  ∀ s x k st l a b bank off d tag os,
    let pos := posOf x.braid k
    let core := coreOf pos
    let event := fun (t : State) (e : CoreEvent) => t.events.getD core [] = s.events.getD core [] ++ [e]
    let blocked := fun (i : Instr) (t : State) (dst : Option (Nat × Tag)) =>
      let acq := match i with | .fpop .. => os.map fun sc => (bankKey bank 0 / 4, sc) | _ => none
      t.strand? pos = some (blocking st l x.here (x.after i) s.moves .fifo dst acq)
    let first := fun (rel : Option Scope) (alone : Bool) => firstReaders s pos st ⟨none, rel⟩ (wordPart 0) alone
    (AtWord s x (.fpush os l d a b) k st a b .fifo bank off → (s.bank bank).fifo.length < 65536 →
      Completes (.fpush os l d a b) s fun t => (t.bank bank).fifo = (s.bank bank).fifo ++ [(st.regs.reg d).val] ∧
        event t (.service pos st.nextId none false) ∧ blocked (.fpush os l d a b) t none) ∧
    (AtWord s x (.fpush os l d a b) k st a b .fifo bank off → (s.bank bank).fifo.length = 65536 →
      Completes (.fpush os l d a b) s fun t => (t.bank bank).fifo = (s.bank bank).fifo ∧
        (∃ alone, (t.bank bank).pushes = [⟨pos, st.nextId, true, (st.regs.reg d).val, first os alone⟩]) ∧ t.events = s.events ∧
        blocked (.fpush os l d a b) t none) ∧
    (∀ v rest, AtWord s x (.fpop tag os l d a b) k st a b .fifo bank off → (s.bank bank).fifo = v :: rest →
      Completes (.fpop tag os l d a b) s fun t => (t.bank bank).fifo = rest ∧
        event t (.service pos st.nextId (some v) false) ∧ blocked (.fpop tag os l d a b) t (some (d, tag))) ∧
    (AtWord s x (.fpop tag os l d a b) k st a b .fifo bank off → (s.bank bank).fifo = [] →
      Completes (.fpop tag os l d a b) s fun t => (t.bank bank).fifo = [] ∧
        (∃ alone, (t.bank bank).pops = [⟨pos, st.nextId, false, 0, first none alone⟩]) ∧ t.events = s.events ∧
        blocked (.fpop tag os l d a b) t (some (d, tag)))

/-- bankset (R183, R204): the word issues behind what has reached the bank, and switches once that is complete: the status is
the code of the old mode; a bank that changes mode forgets its bytes, full/empty bits and FIFO, its waiting requests are refused, and
lines pinned in it leave it where it leaves cache mode (R189); a FIFO emptied takes the pushes that wait. -/
def Sys2Proof.Claims.BankModeChanges : Prop :=
  (∀ s x k st m l d a bank h, s.Alone x (.bankset m l d a) k st → s.hankOf st = some h →
    h.banks[(s.lane x k st).nat .i32 a]? = some bank → Completes (.bankset m l d a) s fun t =>
      t = s.modStrand (posOf x.braid k) fun y =>
        issuing y l x.here s.moves .plain false (.bankset bank m d (s.bankAccesses bank))) ∧
  (∀ s x k st m l d a h, s.Alone x (.bankset m l d a) k st → s.hankOf st = some h →
    h.banks.length ≤ (s.lane x k st).nat .i32 a → TrapsAlone s x (.bankset m l d a) k st 6 0) ∧
  ∀ s pos id x p m d bank after early, s.strand? pos = some x → s.pend? pos id = some p → p.act = .bankset bank m d after →
    p.held = false → p.svc = none → p.mute = false → Runs pos x → (s.bank bank).hank = some x.hank →
    let old := s.bank bank
    ((∃ w ∈ after, (s.strandWith w.1 w.2).isSome = true) → exec (.longLatencyCompletion pos id early) s = .next s) ∧
    ((∀ w ∈ after, s.strandWith w.1 w.2 = none) → Completes (.longLatencyCompletion pos id early) s fun t =>
      let code : Word := match old.mode with | .cache => 0 | .scratch => 1 | .fifo => 2
      (∃ y, t.strand? pos = some y ∧ y.regs = completing x.regs p.slot [(d, ⟨code, .stat⟩)] 0 ∧ ∀ o ∈ y.outs, o.id ≠ id) ∧
      (t.bank bank).mode = m ∧ (m = old.mode → m ≠ .fifo → t = { s with strands := t.strands }) ∧
      (m = .fifo → old.mode = .fifo → old.pops = [] → old.pushes.length ≤ 65536 →
        t.mem = s.mem ∧ t.full = s.full ∧ t.pins = s.pins ∧ (t.bank bank).fifo = old.pushes.map Waiter.val ∧
        (t.bank bank).pushes = [] ∧
        ∀ r ∈ old.pushes, CoreEvent.service r.pos r.id none false ∈ t.events.getD (coreOf r.pos) []) ∧
      (old.mode ≠ .cache → t.pins = s.pins) ∧
      (old.mode = .cache → m ≠ .cache → (∀ q ∈ t.pins, q.way ≠ bank) ∧ ∀ q ∈ s.pins, q.way ≠ bank → q ∈ t.pins) ∧
      (m ≠ old.mode →
        (∀ j, bankKey bank 0 ≤ j → j < bankKey bank 0 + 2 ^ 18 → t.mem.read j = Memory.unlisted ∧ j ∉ t.full) ∧
        (∀ j, j < bankKey bank 0 ∨ bankKey bank 0 + 2 ^ 18 ≤ j → t.mem.read j = s.mem.read j ∧ (j ∈ t.full ↔ j ∈ s.full)) ∧
        (t.bank bank).fifo = [] ∧ (t.bank bank).words = [] ∧ (t.bank bank).pushes = [] ∧ (t.bank bank).pops = [] ∧
        ∀ r, r ∈ old.pushes ∨ r ∈ old.pops ∨ (∃ o w, (o, w) ∈ old.words ∧ r ∈ w) →
          CoreEvent.service r.pos r.id none true ∈ t.events.getD (coreOf r.pos) []))

/-! ## Affine arithmetic (16) -/

/-- The words that write an affine register and never mint (R301, R302), aget and amode (R306): lane by lane, whatever the
other lanes do. Behind an earlier word of the strand's affine queue they join it with their vector operands (R299). `asub` of
one register with itself gives the exact point 0 (log 41). -/
def Sys2Proof.Claims.AffineWordsResults : Prop :=
  ∀ s x k st l d,
    let e := s.lane x k st
    let aff := fun (n : Nat) => st.regs.a.getD n .point0
    let now := queued st .affine = false
    let is := fun (i : Instr) (y : Strand) => Completes i s fun t => t.strand? (posOf x.braid k) = some y
    let joins := fun (i : Instr) (p q : Word) => s.Executes x i k st → queued st .affine = true →
      is i (issuing st l x.here s.moves .affine false (.affine i p q))
    let puts := fun (i : Instr) (v : AReg) => s.Executes x i k st → now →
      is i (issuing { st with regs := { st.regs with a := st.regs.a.set d v } } l x.here s.moves .plain false (.regs [] 0))
    (∀ a b, puts (.aset l d a b) (asetVal (e.val .f32 a) (e.val .f32 b))) ∧
    (∀ y z, puts (.aadd l d y z) (alinear false (aff y) (aff z))) ∧
    (∀ y z, puts (.asub l d y z) (if y = z ∧ (aff y).whole = false then .point0 else alinear true (aff y) (aff z))) ∧
    (∀ y, puts (.aneg l d y) (anegVal (aff y))) ∧
    (∀ y a, puts (.ascl l d y a) (asclVal (aff y) (e.val .f32 a))) ∧
    (∀ y a, puts (.aaddc l d y a) (aaddcVal (aff y) (e.val .f32 a))) ∧
    (∀ f y, s.Executes x (.aget f l d y) k st → now → is (.aget f l d y)
      (issuing st l x.here s.moves .plain false (.regs [(d, ⟨agetVal f (aff y), .f32⟩)] 0))) ∧
    (s.Executes x (.amode .get l d) k st → now → is (.amode .get l d)
      (issuing st l x.here s.moves .plain false (.regs [(d, truth st.regs.noMint)] 0))) ∧
    (∀ a, s.Executes x (.amode (.set a) l d) k st → now → is (.amode (.set a) l d)
      (issuing { st with regs := { st.regs with noMint := (e.val .i32 a).getLsbD 0 } } l x.here s.moves .plain false
        (.regs [(d, truth st.regs.noMint)] 0))) ∧
    (∀ a b, joins (.aset l d a b) (e.val .f32 a) (e.val .f32 b)) ∧
    (∀ y z, joins (.aadd l d y z) 0 0 ∧ joins (.asub l d y z) 0 0) ∧
    (∀ y a, joins (.aneg l d y) 0 0 ∧ joins (.ascl l d y a) (e.val .f32 a) 0 ∧ joins (.aaddc l d y a) (e.val .f32 a) 0) ∧
    (∀ f y, joins (.aget f l d y) 0 0) ∧ joins (.amode .get l d) 0 0 ∧ ∀ a, joins (.amode (.set a) l d) (e.val .i32 a) 0

/-- A queued affine word is performed once every earlier one of its strand is (R299), on the affine registers as they are then;
until then nothing happens. -/
def Sys2Proof.Claims.QueuedAffineWords : Prop :=
  ∀ s pos id x p d l early, s.strand? pos = some x → s.pend? pos id = some p → p.held = false → p.svc = none →
    p.mute = false → Runs pos x → p.kind = .affine → x.frameId ≤ id →
    let aff := fun (n : Nat) => x.regs.a.getD n .point0
    let turn := ∀ q ∈ x.outs, q.kind = .affine → p.id ≤ q.id
    let c := Instr.longLatencyCompletion pos id early
    let puts := fun (i : Instr) (a b : Word) (v : AReg) => p.act = .affine i a b →
      (turn → Completes c s fun t =>
        Finishes s t pos id { completing x.regs p.slot [] 0 with a := x.regs.a.set d v } ∧ t.mem = s.mem) ∧
      (¬ turn → exec c s = .next s)
    (∀ r b a₁ b₁, puts (.aset l d r b) a₁ b₁ (asetVal a₁ b₁)) ∧
    (∀ y z, puts (.aadd l d y z) 0 0 (alinear false (aff y) (aff z))) ∧
    (∀ y, puts (.aneg l d y) 0 0 (anegVal (aff y))) ∧
    (∀ y r a, puts (.ascl l d y r) a 0 (asclVal (aff y) a)) ∧
    (∀ f y, p.act = .affine (.aget f l d y) 0 0 → turn → Completes c s fun t =>
      Finishes s t pos id (completing x.regs p.slot [(d, ⟨agetVal f (aff y), .f32⟩)] 0) ∧ t.mem = s.mem)

/-- The words that may mint (R296, R297, R301, R303 to R305): one that needs a symbol takes the next of its core's block, or
a new block of 64 from SYMC, and traps with cause 9 where the context has none left; one that needs none, or in no-mint
mode, mints none. Behind earlier words of its strand's affine queue, and behind a lower lane of the set that stalls at it, it stalls at
the word: the model's reading of a trap that is raised at it (log 70). asymn counts (R306). -/
def Sys2Proof.Claims.NoiseSymbols : Prop :=
  ∀ s x k st c l d,
    let pos := posOf x.braid k
    let ctx := s.ctxNum st
    let key := coreOf pos * 256 + ctx
    let block := s.symBlocks.getD key (0, 0)
    let e := s.lane x k st
    let aff := fun (n : Nat) => st.regs.a.getD n .point0
    let put := fun (u : State) (v : AReg) =>
      u.modStrand pos fun y => { y with regs := { y.regs with a := y.regs.a.set d v } }
    let stalls := fun (i : Instr) (r : Stall) => Completes i s fun t => t = s.modStrand pos fun y => { y with run := .stalled r }
    let word := fun (i : Instr) (mints : Bool) (val : Option Nat → AReg) =>
      (s.Alone x i k st → queued st .affine = true →
        stalls i (.ops ((st.outs.filter fun p => p.kind == .affine).map Pend.id))) ∧
      (∀ j y, lanesOf x.mask = [j, k] → s.active x i.info.pred = [(j, y), (k, st)] → s.cur = some x → s.illegalHere x i = false →
        tagFailure y.regs i.info = none → tagFailure st.regs i.info = none → queued y .affine = true → queued st .affine = false →
        y.regs.pc = x.here →
        let ids := (y.outs.filter fun p => p.kind == .affine).map Pend.id
        let waits := fun (u : State) (n : Nat) (r : Stall) => u.modStrand (posOf x.braid n) fun z => { z with run := .stalled r }
        Completes i s fun t => t = waits (waits s j (.ops ids)) k (.others (ids.map fun id => (posOf x.braid j, id)))) ∧
      (s.Alone x i k st → queued st .affine = false → s.lowerStalls x k = [] →
      ((mints = false ∨ st.regs.noMint = true) → Issues s x i k l .plain (put s (val none)) []) ∧
      (mints = true → st.regs.noMint = false → block.1 < block.2 → block.1 < c.symlim →
        Issues s x i k l .plain (put { s with symBlocks := s.symBlocks.set key (block.1 + 1, block.2) } (val (some block.1))) []) ∧
      (mints = true → st.regs.noMint = false → block.2 ≤ block.1 → c.symC < c.symlim →
        Issues s x i k l .plain (put { s with
          ctxs := s.ctxs.modify ctx fun c => { c with symC := c.symC + 64 }
          symBlocks := s.symBlocks.set key (c.symC + 1, c.symC + 64) } (val (some c.symC))) []) ∧
      (mints = true → st.regs.noMint = false → (block.2 ≤ block.1 ∨ c.symlim ≤ block.1) → c.symlim ≤ c.symC →
        TrapsAlone s x i k st 9 0))
    s.ctxs.get? ctx = some c →
    (∀ a b, word (.anoise l d a b) (anoiseMints (e.val .f32 a) (e.val .f32 b))
      (anoiseVal (e.val .f32 a) (e.val .f32 b))) ∧
    (∀ y z, word (.amul l d y z) (amulMints (aff y) (aff z)) (amulVal (aff y) (aff z))) ∧
    (∀ f rm y, word (.aquant f rm l d y) (aquantMints f rm (aff y)) (aquantVal f rm (aff y))) ∧
    (∀ y a, word (.acond l d y a) (acondMints (aff y) (e.nat .i32 a)) (acondVal (aff y) (e.nat .i32 a))) ∧
    (s.Alone x (.asymn true l d) k st → queued st .affine = false → Issues s x (.asymn true l d) k l .plain s [(d, i32 c.symC)]) ∧
    (s.Alone x (.asymn false l d) k st → queued st .affine = false →
      Issues s x (.asymn false l d) k l .plain s [(d, i32 ((min block.2 c.symlim - block.1) + (c.symlim - c.symC)))])

/-- The words that a bank serves: full/empty, FIFO, and the change of its mode. The home applies a request in the issuing step (log 6). -/
def Obligations.BankWordsResults : Prop := FullEmptyWords ∧ FifoBanks ∧ BankModeChanges

/-- Affine arithmetic, and the noise symbols that it mints. -/
def Obligations.AffineAndNoiseResults : Prop := AffineWordsResults ∧ QueuedAffineWords ∧ NoiseSymbols

/-! ## Barriers (13) -/

/-- What a barrier of the strand's hank becomes after a request (R250): a phase whose conditions hold ends, the next begins
with nothing arrived, and its waiting strands resume by an event of the core. -/
def Sys2Proof.Claims.barrierAfter (s t : State) (key : Nat) (b : Barrier) : Prop :=
  let met := b.exp ≤ b.arr ∧ (b.mode = 2 → b.rowx ≤ b.rows ∨ b.rowsMet = true)
  (¬ met → t.barriers.get? key = some b ∧ t.events = s.events) ∧
  (met → t.barriers.get? key =
      some { b with phase := (b.phase + 1) % 2 ^ 32, arr := 0, rows := 0, rowsMet := false, waits := [] } ∧
    t.events.getD (key / 128) [] = s.events.getD (key / 128) [] ++ [.barrier b.waits])

/-- The strand may take on one more instruction: it runs, and what it has outstanding has smaller numbers. -/
structure Sys2Proof.Claims.NextInLine (st : Strand) : Prop where
  runs : st.run ≠ .exited
  fresh : st.outlasts = []
  frame : st.frameId ≤ st.nextId
  rising : ∀ q ∈ st.outs, q.id < st.nextId

/-- A strand for which a long-latency word is complete in its step: it has written `w` and its slot is clear (R254: applied). -/
def Sys2Proof.Claims.doneNow (st : Strand) (l : Long) (w : List (Nat × Reg)) : Strand :=
  { st with regs := completing st.regs l.slot w 0, nextId := st.nextId + 1 }

/-- The barrier words of a strand alone (R253 to R256), on a barrier that its hank owns: what each answers and leaves.
ARR stops at the 4,095 that it holds (log 42), and the count of a drop is a natural number (log 69). An arrival that waits for nothing
and a wait for a completed phase are complete at once (R254); a wait without `.x` is an acquire of what was released at its phase. An
arrival without `.x` behind outstanding accesses issues and waits for them, and the strand goes on (R255, 11 R220). A token of a phase
to come, a drop of as many as are expected, and the freeing of a barrier in use trap (R254). -/
def Sys2Proof.Claims.BarrierRequests : Prop :=
  ∀ s x k st l n d a b0,
    let pos := posOf x.braid k
    let key := coreOf pos * 128 + n
    let e := s.lane x k st
    let ages := fun (token : Nat) => (b0.phase + 2 ^ 32 - token) % 2 ^ 32
    let blocked := fun (i : Instr) (t : State) (plain : Bool) =>
      t.strand? pos = some (blocking st l x.here (x.after i) s.moves .barrier none
        (if plain then none else some (barMark key b0.phase, .c)))
    s.barriers.get? key = some b0 → b0.owner = st.hank →
    (∀ plain, s.Alone x (.barArrive plain l n d) k st → NextInLine st → (plain = true ∨ st.accessIds = []) →
      Completes (.barArrive plain l n d) s fun t =>
        t.strand? pos = some (doneNow st l [(d, i32 b0.phase)]) ∧ barrierAfter s t key { b0 with arr := min 4095 (b0.arr + 1) } ∧ t.mem = s.mem) ∧
    (s.Alone x (.barArrive false l n d) k st → st.accessIds ≠ [] → Completes (.barArrive false l n d) s fun t =>
      t = s.modStrand pos fun y => issuing y l x.here s.moves .plain false (.barArrive n d st.accessIds)) ∧
    (∀ plain, s.Alone x (.barWait plain l n a) k st → ages (e.nat .i32 a) = 0 →
      Completes (.barWait plain l n a) s fun t =>
        blocked (.barWait plain l n a) t plain ∧ t.barriers.get? key = some { b0 with waits := b0.waits ++ [(pos, st.nextId)] }) ∧
    (∀ plain, s.Alone x (.barWait plain l n a) k st → NextInLine st → 0 < ages (e.nat .i32 a) → ages (e.nat .i32 a) < 2 ^ 31 →
      Completes (.barWait plain l n a) s fun t =>
        let u := if plain then s else s.acquire pos st .c [barMark key (e.nat .i32 a)]
        t = u.modStrand pos fun _ => doneNow st l []) ∧
    (∀ plain, s.Alone x (.barWait plain l n a) k st → 2 ^ 31 ≤ ages (e.nat .i32 a) →
      TrapsAlone s x (.barWait plain l n a) k st 16 4) ∧
    (∀ plain, s.Alone x (.barSync plain l n) k st → (plain = true ∨ st.accessIds = []) →
      Completes (.barSync plain l n) s fun t => blocked (.barSync plain l n) t plain ∧
        barrierAfter s t key { b0 with waits := b0.waits ++ [(pos, st.nextId)], arr := min 4095 (b0.arr + 1) }) ∧
    (s.Alone x (.barDrop l n a) k st → e.nat .i32 a < b0.exp →
      Completes (.barDrop l n a) s fun t => t.strands = s.strands ∧
        barrierAfter s t key { b0 with exp := b0.exp - e.nat .i32 a }) ∧
    (s.Alone x (.barDrop l n a) k st → b0.exp ≤ e.nat .i32 a → TrapsAlone s x (.barDrop l n a) k st 16 3) ∧
    (s.Alone x (.barTest l n d a) k st → ages (e.nat .i32 a) < 2 ^ 31 →
      Issues s x (.barTest l n d a) k l .plain s [(d, truth (ages (e.nat .i32 a) ≠ 0))]) ∧
    (s.Alone x (.barTest l n d a) k st → 2 ^ 31 ≤ ages (e.nat .i32 a) → TrapsAlone s x (.barTest l n d a) k st 16 4) ∧
    (s.Alone x (.barStat l n d) k st → Issues s x (.barStat l n d) k l .plain s
      [(d, i32 b0.phase),
       (d + 1, ⟨BitVec.ofNat 32 (b0.mode * 2 ^ 30 + (if b0.flt then 2 ^ 29 else 0) + (if b0.ovr then 2 ^ 28 else 0) +
          b0.arr % 4096 * 4096 + b0.exp), .stat⟩),
       (d + 2, i32 b0.rows), (d + 3, i32 b0.rowx)]) ∧
    (s.Alone x (.barFree l n) k st → b0.att = 0 → b0.waits = [] →
      Completes (.barFree l n) s fun t => t = { s with barriers := s.barriers.erase key }) ∧
    (s.Alone x (.barFree l n) k st → b0.att ≠ 0 ∨ b0.waits ≠ [] → TrapsAlone s x (.barFree l n) k st 16 5)

/-- A barrier word other than bar.init on a barrier that the strand's hank does not own traps with detail 1 (R254). -/
def Sys2Proof.Claims.ForeignBarriers : Prop :=
  ∀ s x k st l n d a,
    let foreign := ∀ b, s.barriers.get? (coreOf (posOf x.braid k) * 128 + n) = some b → b.owner ≠ st.hank
    let traps := fun (i : Instr) => s.Alone x i k st → foreign → TrapsAlone s x i k st 16 1
    (∀ plain, traps (.barArrive plain l n d) ∧ traps (.barWait plain l n a) ∧ traps (.barSync plain l n)) ∧
    traps (.barDrop l n a) ∧ traps (.barTest l n d a) ∧ traps (.barStat l n d) ∧ traps (.barFree l n)

/-- An arrival that waited for accesses of its strand is counted once they are performed (R255), and its strand is given the
token; until then nothing happens. -/
def Sys2Proof.Claims.LateArrivals : Prop :=
  ∀ s pos id x p n d after b0 early, s.strand? pos = some x → s.pend? pos id = some p → p.act = .barArrive n d after →
    p.held = false → p.svc = none → p.mute = false → Runs pos x →
    s.barriers.get? (coreOf pos * 128 + n) = some b0 → b0.owner = x.hank →
    ((∃ q ∈ x.outs, q.id ∈ after ∧ q.isAccess = true) → exec (.longLatencyCompletion pos id early) s = .next s) ∧
    ((∀ q ∈ x.outs, q.id ∈ after → q.isAccess = false) → Completes (.longLatencyCompletion pos id early) s fun t =>
      (∃ y, t.strand? pos = some y ∧ y.regs = completing x.regs p.slot [(d, i32 b0.phase)] 0 ∧ ∀ o ∈ y.outs, o.id ≠ id) ∧
      barrierAfter s t (coreOf pos * 128 + n) { b0 with arr := min 4095 (b0.arr + 1) } ∧ t.mem = s.mem)

/-- bar.init claims a free barrier in phase 0 with nothing arrived, or re-arms its own before any arrival (R253), complete in its step
(R254). EXP outside 1 to 4095 or ROWX above 2^24 − 1 traps with detail 3, a barrier of another hank with detail 1, and one in use with
other parameters with detail 2; that detail 1 comes before 3 and 3 before 2 is the model's choice (log 24). -/
def Sys2Proof.Claims.BarrierClaims : Prop :=
  ∀ s x k st l n a c,
    let key := coreOf (posOf x.braid k) * 128 + n
    let e := s.lane x k st
    let exp := e.nat .i32 a
    let rowx := e.nat .i32 c
    let fresh := fun (mode rowx : Nat) => (⟨st.hank, mode, 0, exp, 0, rowx, 0, false, false, 0, [], false⟩ : Barrier)
    (s.Alone x (.barInitArr l n a) k st → s.barriers.get? key = none → 1 ≤ exp → exp ≤ 4095 →
      Completes (.barInitArr l n a) s fun t => t = { s with barriers := s.barriers.set key (fresh 1 0) }) ∧
    (s.Alone x (.barInitRows l n a c) k st → s.barriers.get? key = none → 1 ≤ exp → exp ≤ 4095 → rowx < 2 ^ 24 →
      Completes (.barInitRows l n a c) s fun t => t = { s with barriers := s.barriers.set key (fresh 2 rowx) }) ∧
    (s.Alone x (.barInitRows l n a c) k st → s.barriers.get? key = none → (exp = 0 ∨ 4095 < exp ∨ 2 ^ 24 ≤ rowx) →
      TrapsAlone s x (.barInitRows l n a c) k st 16 3) ∧
    (∀ b, s.Alone x (.barInitArr l n a) k st → s.barriers.get? key = some b → b.owner ≠ st.hank →
      TrapsAlone s x (.barInitArr l n a) k st 16 1) ∧
    (∀ b, s.Alone x (.barInitRows l n a c) k st → s.barriers.get? key = some b → b.owner = st.hank → b.arr = 0 →
      b.waits = [] → 1 ≤ exp → exp ≤ 4095 → rowx < 2 ^ 24 →
      Completes (.barInitRows l n a c) s fun t =>
        t = { s with barriers := s.barriers.set key { b with exp := exp, rowx := rowx, mode := 2, flt := false, ovr := false } }) ∧
    (∀ b, s.Alone x (.barInitArr l n a) k st → s.barriers.get? key = some b → b.owner = st.hank → 1 ≤ exp → exp ≤ 4095 →
      (b.arr ≠ 0 ∨ b.waits ≠ []) → (b.mode ≠ 1 ∨ b.exp ≠ exp ∨ b.rowx ≠ 0) → TrapsAlone s x (.barInitArr l n a) k st 16 2)

/-! ## Knots (12) -/

/-- Membership (R236 to R238, R244): jnew makes a knot of a free entry with the strand as its member of rank 0, join takes
the smallest free rank of a live knot and answers 0xFFFFFFFF for any other identifier, leave withdraws the strand, and jrank
and jsize read the knot. The limits of R243 trap: a full table, an occupied slot, an empty one, a knot held already; that an occupied
slot comes before them is the model's choice (log 65). The home applies the request in the issuing step (log 6). -/
def Obligations.KnotMembership : Prop :=
  ∀ s x k st l n d a,
    let pos := posOf x.braid k
    let e := s.lane x k st
    let slot := fun (u : State) (id : Option Nat) =>
      u.modStrand pos fun y => { y with regs := { y.regs with n := y.regs.n.set n id } }
    (∀ key, s.Alone x (.jnew l n d) k st → st.regs.n.getD n none = none → s.freeEntry (coreOf pos) = some key →
      let serial := ((s.knot key).serial + 1) % 2 ^ 17
      let id := key / 64 * 2 ^ 23 + key % 64 * 2 ^ 17 + serial
      Issues s x (.jnew l n d) k l (.knotSlot n) (slot { s with
        knots := s.knots.set key ⟨true, serial, s.ctxNum st, s.placeOf st, [⟨pos, 0⟩], 0, none, [], none, []⟩ } (some id))
        [(d, i32 id)]) ∧
    (s.Alone x (.jnew l n d) k st → (st.regs.n.getD n none).isSome = true → TrapsAlone s x (.jnew l n d) k st 15 2) ∧
    (s.Alone x (.jnew l n d) k st → st.regs.n.getD n none = none →
      (∀ j < 64, (s.knot (coreOf pos * 64 + j)).live = true) → TrapsAlone s x (.jnew l n d) k st 15 1) ∧
    (s.Alone x (.join l n d a) k st → (st.regs.n.getD n none).isSome = true → TrapsAlone s x (.join l n d a) k st 15 2) ∧
    (s.Alone x (.join l n d a) k st → st.regs.n.getD n none = none → (s.liveKnot st (e.nat .i32 a)).isSome = true →
      some (e.nat .i32 a) ∈ st.regs.n → TrapsAlone s x (.join l n d a) k st 15 4) ∧
    (s.heldKnot st n = none → (s.Alone x (.leave l n) k st → TrapsAlone s x (.leave l n) k st 15 3) ∧
      (s.Alone x (.jrank l n d) k st → TrapsAlone s x (.jrank l n d) k st 15 3) ∧
      ∀ c, s.Alone x (.jsize c l n d) k st → TrapsAlone s x (.jsize c l n d) k st 15 3) ∧
    (∀ key kn r, s.Alone x (.join l n d a) k st → st.regs.n.getD n none = none →
      s.liveKnot st (e.nat .i32 a) = some (key, kn) → some (e.nat .i32 a) ∉ st.regs.n →
      (∀ m ∈ kn.members, m.rank ≠ r) → (∀ q < r, ∃ m ∈ kn.members, m.rank = q) →
      Issues s x (.join l n d a) k l (.knotSlot n) (slot { s with
        knots := s.knots.set key { kn with members := kn.members ++ [⟨pos, r⟩] } } (some (e.nat .i32 a))) [(d, i32 r)]) ∧
    (s.Alone x (.join l n d a) k st → st.regs.n.getD n none = none → s.liveKnot st (e.nat .i32 a) = none →
      Issues s x (.join l n d a) k l (.knotSlot n) s [(d, i32 0xFFFFFFFF)]) ∧
    (∀ key kn, s.Alone x (.leave l n) k st → s.heldKnot st n = some (key, kn) → (∀ m ∈ kn.members, m.pos = pos) →
      Issues s x (.leave l n) k l (.knotSlot n) (slot { s with
        tiles := s.tiles.filter fun p => !(p.1 / 8 == key / 64 && p.2.entry == key % 64 && p.2.serial == kn.serial)
        knots := s.knots.set key ⟨false, kn.serial, 0, 0, [], 0, none, [], none, []⟩ } none) []) ∧
    (∀ key kn, s.Alone x (.leave l n) k st → s.heldKnot st n = some (key, kn) → (∃ m ∈ kn.members, m.pos ≠ pos) →
      kn.kind = none → kn.arrivals = [] →
      Issues s x (.leave l n) k l (.knotSlot n) (slot { s with
        knots := s.knots.set key { kn with members := kn.members.filter fun m => m.pos != pos } } none) []) ∧
    (∀ key kn, s.Alone x (.jrank l n d) k st → s.heldKnot st n = some (key, kn) →
      Issues s x (.jrank l n d) k l .plain s [(d, i32 (kn.rankOf pos))]) ∧
    (∀ key kn, s.Alone x (.jsize false l n d) k st → s.heldKnot st n = some (key, kn) →
      Issues s x (.jsize false l n d) k l .plain s [(d, i32 kn.members.length)]) ∧
    (∀ key kn, s.Alone x (.jsize true l n d) k st → s.heldKnot st n = some (key, kn) →
      Issues s x (.jsize true l n d) k l .plain s [(d, ⟨kn.g, .i32⟩)])

/-- Collectives (R239 to R242, R245): a member that arrives blocks; the arrival of the last closes the collective, the
members of each core are given their results in one event of that core, and G advances. jscan and jred fold the values in rank order.
An empty slot traps with detail 3, another collective than the one in progress with detail 5 (R243). The home applies the request in
the issuing step (log 6). -/
def Obligations.KnotCollectives : Prop :=
  ∀ s x k st l n d a key kn,
    let pos := posOf x.braid k
    let e := s.lane x k st
    let blocked := fun (i : Instr) (t : State) (plain : Bool) =>
      t.strand? pos = some (blocking st l x.here (x.after i) s.moves .knot none
        (if plain then none else some (knotMark key kn.g.toNat, .nb)))
    let arrival := fun (plain : Bool) (val : Word) (dst : Nat) =>
      (⟨pos, st.nextId, plain, val, dst, ⟨0, 0, 0, 0, 0⟩, x.here⟩ : Arrival)
    let arrives := fun (i : Instr) (plain : Bool) (kind : CollKind) (val : Word) (dst : Nat)
        (given : List (Nat × Word) → Nat → Arrival → List (Nat × Reg) × FFlags) =>
      (s.Alone x i k st → s.heldKnot st n = none → TrapsAlone s x i k st 15 3) ∧
      (s.Alone x i k st → s.heldKnot st n = some (key, kn) → (plain = true ∨ st.accessIds = []) → s.early = [] →
      kn.svc = none → kn.queue = [] →
      (kn.kind ≠ none → kn.kind ≠ some kind → TrapsAlone s x i k st 15 5) ∧
      ((kn.kind = none ∨ kn.kind = some kind) →
      let k1 := { kn with kind := some kind, arrivals := kn.arrivals ++ [arrival plain val dst] }
      (¬ (∀ m ∈ kn.members, ∃ b ∈ k1.arrivals, b.pos = m.pos) → Completes i s fun t =>
        blocked i t plain ∧ t.knot key = k1 ∧ t.events = s.events) ∧
      ((∀ m ∈ kn.members, ∃ b ∈ k1.arrivals, b.pos = m.pos) → Completes i s fun t =>
        blocked i t plain ∧ t.knot key = { kn with g := kn.g + 1, kind := none, arrivals := [], svc := none, queue := [] } ∧
        let result := fun (p : Nat × Arrival) =>
          let g := given (k1.byRank.map fun p => (p.1, p.2.val)) p.1 p.2
          (⟨p.2.pos, p.2.id, g.1, g.2, none⟩ : KnotResult)
        ∀ c, t.events.getD c [] = s.events.getD c [] ++ (match k1.byRank.filter fun p => coreOf p.2.pos == c with
          | [] => []
          | l => [.knot (l.map result)]))))
    let folds := fun (op : FoldOp) (vals : List (Nat × Word)) (f : Nat → Bool) (b : Arrival) =>
      let r := foldVals op ((vals.filter fun p => f p.1).map Prod.snd)
      ([(b.dst, (⟨r.1, foldTag op⟩ : Reg))], r.2)
    (∀ plain, arrives (.jbar plain l n) plain .bar 0 0 fun _ _ _ => ([], 0)) ∧
    (∀ op plain, arrives (.jscan op false plain l n d a) plain (.scan op false) (e.val op.use a) d
      fun vals rank b => folds op vals (fun j => decide (j ≤ rank)) b) ∧
    (∀ op plain, arrives (.jscan op true plain l n d a) plain (.scan op true) (e.val op.use a) d
      fun vals rank b => folds op vals (fun j => decide (j < rank)) b) ∧
    (∀ op plain, arrives (.jred op plain l n d a) plain (.red op) (e.val op.use a) d
      fun vals _ b => folds op vals (fun _ => true) b)

/-- The barrier words: claiming, arriving, waiting, dropping, testing, reading and freeing. The unit of the core applies a request in
the issuing step (log 6). -/
def Obligations.BarrierWordsResults : Prop := BarrierRequests ∧ LateArrivals ∧ BarrierClaims ∧ ForeignBarriers

/-! ## Tiles and the contraction (14, 20) -/

/-- tall, tfree and tzero (R262, R266 to R268) of a strand alone that holds the knot. A request that the home rejects issues
and carries its rejection (R263); a strand that holds no knot in the slot traps with cause 14. That another shape is answered before
the format is looked at is the model's choice, the order in which R263 lists the details (log 24); and so is that the home answers in
the issuing step (log 6). -/
def Sys2Proof.Claims.TileWordsResults : Prop :=
  ∀ s x k st l r f shape key kn,
    let pos := posOf x.braid k
    let rejected := fun (i : Instr) (detail : Nat) => Completes i s fun t =>
      t = s.modStrand pos fun y => issuing y l x.here s.moves .plain false (.refused 13 detail none)
    let held := s.heldKnot st r.k = some (key, kn) ∧ kn.svc = none
    (∀ e, s.Alone x (.tall f shape l r) k st → held → s.tileAt key r.t = none → s.freeTileEntry (key / 64) = some e →
      let size := (shapeMNK shape).1 * (shapeMNK shape).2.1
      Issues s x (.tall f shape l r) k l .plain { s with
        tiles := s.tiles.set e ⟨key % 64, kn.serial, r.t, f, shape, false, List.replicate size .zero, false, kn.ctx⟩ } []) ∧
    (∀ e tile, s.Alone x (.tall f shape l r) k st → held → s.tileAt key r.t = some (e, tile) →
      (tile.shape = shape → tile.fmt = f → Issues s x (.tall f shape l r) k l .plain s []) ∧
      (tile.shape ≠ shape → rejected (.tall f shape l r) 1) ∧
      (tile.shape = shape → tile.fmt ≠ f → rejected (.tall f shape l r) 2)) ∧
    (∀ e tile, s.Alone x (.tfree l r) k st → held → s.tileAt key r.t = some (e, tile) →
      Issues s x (.tfree l r) k l .plain { s with tiles := s.tiles.erase e } []) ∧
    (∀ e tile, s.Alone x (.tzero l r) k st → held → s.tileAt key r.t = some (e, tile) →
      Issues s x (.tzero l r) k l .plain
        { s with tiles := s.tiles.set e { tile with els := tile.els.map fun _ => .zero, ovf := false } } []) ∧
    (s.Alone x (.tfree l r) k st → held → s.tileAt key r.t = none → rejected (.tfree l r) 3) ∧
    (s.Alone x (.tzero l r) k st → held → s.tileAt key r.t = none → rejected (.tzero l r) 3) ∧
    (s.Alone x (.tall f shape l r) k st → s.heldKnot st r.k = none → TrapsAlone s x (.tall f shape l r) k st 14 0) ∧
    (s.Alone x (.tfree l r) k st → s.heldKnot st r.k = none → TrapsAlone s x (.tfree l r) k st 14 0) ∧
    (s.Alone x (.tzero l r) k st → s.heldKnot st r.k = none → TrapsAlone s x (.tzero l r) k st 14 0)

/-- A rejection reaches its strand when it completes (R263): a running strand, neither in a handler nor held nor past a fence,
traps where it stands, or at a rejected closure word itself (R320), with the clause and word of the rejected instruction in its
record, and the slot clears. The closure words behind one that is to run again are not performed (R319; log 70). -/
def Sys2Proof.Claims.RejectionTraps : Prop :=
  ∀ s pos id x p cause detail early, s.strand? pos = some x → s.pend? pos id = some p →
    p.act = .refused cause detail none → p.held = false → p.svc = none → p.mute = false → x.run = .candidate →
    Runs pos x → x.handler = false → x.held = false → x.deferred = none → (∀ q ∈ x.outs, q.isFence = false) →
    Completes (.longLatencyCompletion pos id early) s fun t =>
      t = { s with strands := t.strands, braids := t.braids } ∧ ∃ y, t.strand? pos = some y ∧ y.run = .trapped ∧
        y.trap = ⟨p.at_.clause, p.at_.word, cause, detail, 0⟩ ∧ y.trapSet = p.group ∧
        y.regs.pc = (if p.kind = .closure ∧ 10 ≤ cause ∧ cause ≤ 12 then p.at_ else x.regs.pc) ∧
        ((∀ q ∈ x.outs, q.kind = .closure → q.id ≤ id) → y.regs = { completing x.regs p.slot [] 0 with pc := y.regs.pc }) ∧
        (p.kind = .closure → 10 ≤ cause → cause ≤ 12 → ∀ q ∈ y.outs, q.kind = .closure → q.id < id) ∧
        ∀ q ∈ y.outs, q.id ≠ id

/-- tload (R269): the word issues with the pieces of every row, and once all may be performed the tile holds the F32 values
read, row by row, all in one step. An address, stride or stride below a row that does not fit is refused with cause 6. Where the tile
has other dimensions by then, as `tfree` and `tall` may give it, its rows are read anew; a frozen tile waits (R258). -/
def Sys2Proof.Claims.TileLoads : Prop :=
  (∀ s x k st l r a b key kn e tile, s.Alone x (.tload l r a b) k st → s.heldKnot st r.k = some (key, kn) → kn.svc = none →
    s.tileAt key r.t = some (e, tile) →
    let pos := posOf x.braid k
    let n := (shapeMNK tile.shape).2.1
    let addr := (st.regs.pair a).toNat
    let stride := (s.lane x k st).nat .i32 b
    let rows := (List.range (shapeMNK tile.shape).1).map fun j => (j * (4 * n), (addr + j * stride) % 2 ^ 64)
    (∀ ps, addr % 4 = 0 → stride % 4 = 0 → 4 * n ≤ stride → s.tloadPieces (key / 64) (s.ctxNum st) (4 * n) rows = .ok ps → (∀ q ∈ st.outs, q.id < st.nextId) →
      Completes (.tload l r a b) s fun t => t = s.modStrand pos fun y =>
        issuing y l x.here s.moves (.contribution (key / 64)) false (.mem ps 0 ⟨none, none⟩
          (.tload key r.t addr stride (shapeMNK tile.shape).1 n))) ∧
    ((∀ q ∈ st.outs, q.id < st.nextId) → (addr % 4 ≠ 0 ∨ stride % 4 ≠ 0 ∨ stride < 4 * n) → Completes (.tload l r a b) s fun t =>
      t = s.modStrand pos fun y => issuing y l x.here s.moves (.contribution (key / 64)) false (.refused 6 0 none))) ∧
  (∀ s pos id x p ps o key tslot e tile addr stride m n early, s.strand? pos = some x → s.pend? pos id = some p → p.held = false →
    p.svc = none → p.mute = false → Runs pos x → s.lowerLaneWaits pos p = false → s.farReady o.rel = true → s.early = [] →
    s.busFault false (ps.map Prod.snd) = none →
    p.act = .mem ps 0 o (.tload key tslot addr stride m n) → s.tileAt key tslot = some (e, tile) →
    (∀ j q, ps[j]? = some q → x.mayPerform p ps o j q.2 = true ∧ keyPackage q.2.key = none ∧ s.behindSwitch pos id q.2 = false) →
    (tile.frozen = true → Completes (.longLatencyCompletion pos id early) s fun t => t = s) ∧
    (tile.frozen = false → ((shapeMNK tile.shape).1, (shapeMNK tile.shape).2.1) ≠ (m, n) →
      let n' := (shapeMNK tile.shape).2.1
      let rows := (List.range (shapeMNK tile.shape).1).map fun j => (j * (4 * n'), (addr + j * stride) % 2 ^ 64)
      ∀ qs, addr % 4 = 0 → stride % 4 = 0 → 4 * n' ≤ stride → s.tloadPieces (key / 64) x.ctx (4 * n') rows = .ok qs →
      Completes (.longLatencyCompletion pos id early) s fun t =>
        let again := Act.mem qs 0 ⟨none, none⟩ (.tload key tslot addr stride (shapeMNK tile.shape).1 n')
        t.pend? pos id = some { p with act := again } ∧ t.tiles = s.tiles) ∧
    (tile.frozen = false → ((shapeMNK tile.shape).1, (shapeMNK tile.shape).2.1) = (m, n) →
    Completes (.longLatencyCompletion pos id early) s fun t =>
      let got := (ps.map fun q => s.mem.readN q.2.key q.2.len * 2 ^ (8 * q.1)).sum
      let els := (List.range tile.els.length).map fun j => TileEl.ofF32 (got / 2 ^ (32 * j) % 2 ^ 32)
      t = { s with strands := t.strands
                   tiles := s.tiles.set e { tile with els := els.map Prod.fst, ovf := els.any Prod.snd } } ∧
      ∃ y, t.strand? pos = some y ∧ y.regs = completing x.regs p.slot [] 0))

/-- ctr (R264, R265): every lane that executes it issues, and for each knot that the lanes hold in the slot the braid sends one exact
block of those lanes' operands to it, in the order of the knots' lowest lanes, by the list of the die's governor, in order of arrival
and within one cycle by ascending core. CONTRACTION_START applies the head of the list to the tile, and every strand whose block it
is has its result; or the home rejects it, where there is no such tile or another format or shape (R263); or behind a drain held for
device replay, behind others there, or at a frozen tile (R258), it is set aside there: where the spacing allows it and the slew limit, a free value, does (20 R359). The home
applies a block in the step that starts it (log 6). -/
def Obligations.Contractions : Prop :=
  (∀ s x f shape an bn l r a b,
    let i := Instr.ctr f shape an bn l r a b
    let n := ctrRegs f shape
    let core := coreOf (posOf x.braid 0)
    let g := s.governors.getD (core / 48) governorIdle
    let ops := fun (st : Strand) =>
      (⟨runNat ((st.regs.run a n.1).map Reg.val), runNat ((st.regs.run b n.2).map Reg.val)⟩ : CtrOps)
    let keyOf := fun (st : Strand) => ((s.heldKnot st r.k).map Prod.fst).getD 0
    let keys := ((s.passing x i).map fun p => keyOf p.2).reverse.dedup.reverse
    let block := fun (key : Nat) =>
      let mine := (s.passing x i).filter fun p => keyOf p.2 == key
      (⟨key, r.t, f, shape, ctrBlock f shape an bn (mine.map fun p => ops p.2),
        mine.map fun p => (posOf x.braid p.1, p.2.nextId), x.clause, x.word⟩ : CtrBlock)
    s.cur = some x → s.illegalHere x i = false → s.tagTraps x i = [] → s.passing x i ≠ [] →
    (∀ k st, (k, st) ∈ s.passing x i → (∀ q ∈ st.outs, q.isFence = false ∧ q.held = false) ∧ s.heldKnot st r.k ≠ none) →
    Completes i s fun t =>
      t = { s with
        strands := t.strands
        governors := s.governors.set (core / 48) { g with
          starts := keys.foldl (fun starts key => insertStart ⟨s.cycles, core, block key⟩ starts) g.starts } } ∧
      ∀ k st, (k, st) ∈ s.passing x i → t.strand? (posOf x.braid k) =
        some (issuing st l x.here s.moves (.contribution (keyOf st / 64)) false .waiting)) ∧
  (∀ s die g core b rest cy, s.governors.get? die = some g → g.starts = ⟨cy, core, b⟩ :: rest →
    (∀ c, g.last = some c → c + g.spacing ≤ s.cycles) →
    let may := Config.slewAllows (min 400 (max 10 g.slew)) s.moves
    let left := s.governors.set die { g with starts := rest, last := some s.cycles }
    ((s.knot b.knot).svc ≠ none ∨ (s.knot b.knot).queue ≠ [] ∨
        (∃ e tile, s.tileAt b.knot b.tslot = some (e, tile) ∧ tile.frozen = true) → Completes (.contractionStart die) s fun t =>
      let behind := { s.knot b.knot with queue := (s.knot b.knot).queue ++ [b] }
      t = if may then { s with governors := left, knots := s.knots.set b.knot behind } else s) ∧
    let applied := fun (tiles : AMap Tile) (a : Act) => Completes (.contractionStart die) s fun t =>
      if may then t = { s with governors := left, tiles := tiles, strands := t.strands, saved := t.saved } ∧
        ∀ pos id p, (pos, id) ∈ b.from_ → s.pend? pos id = some p → t.pend? pos id = some { p with act := a }
      else t = s
    (∀ e tile, (s.knot b.knot).svc = none → (s.knot b.knot).queue = [] → s.tileAt b.knot b.tslot = some (e, tile) →
      tile.frozen = false →
      (tile.fmt = b.fmt → tile.shape = b.shape →
        let els := List.zipWith TileEl.apply tile.els b.els
        applied (s.tiles.set e { tile with els := els.map Prod.fst, ovf := tile.ovf || els.any Prod.snd }) (.regs [] 0)) ∧
      (tile.fmt ≠ b.fmt ∨ tile.shape ≠ b.shape → applied s.tiles (.refused 13 4 none))) ∧
    ((s.knot b.knot).svc = none → (s.knot b.knot).queue = [] → s.tileAt b.knot b.tslot = none → applied s.tiles (.refused 13 3 none))) ∧
  (∀ x y : Start, insertStart x [y] = if y.cycle = x.cycle ∧ x.core < y.core then [x, y] else [y, x]) ∧
  ∀ s die g y rest c, s.governors.get? die = some g → g.starts = y :: rest → g.last = some c → s.cycles < c + g.spacing →
    exec (.contractionStart die) s = .next s

/-- tdrain (R270 to R273). A member that arrives blocks. The arrival of the last closes the drain, with the arguments of the arrived
member of lowest rank: every row of the destination is written, for all observers or for those of the home's neighbourhood first
(R274, R223), the tile is cleared unless .keep, and the members of each core are given the status word and the flags in one event of
that core. Where checks fail, the lowest failing code is reported and nothing is written but the fault record: 1 for a translation, 2
for a permission, 3 for the scales, 4 for the descriptor. A strand that holds no knot in the slot, a knot without the tile and another
collective trap; that the want of the tile comes before another collective is the model's choice (log 24). The home performs the drain
in the issuing step (log 6). -/
def Obligations.Drains : Prop :=
  ∀ s x k st f rm keep l r d a q,
    let i := Instr.tdrain f rm keep l r d a q
    let pos := posOf x.braid k
    let v := fun n => (st.regs.reg n).val.toNat
    let given : DrainArgs := ⟨st.regs.pair a, v (a + 2), v (a + 3), if rm = .sr then runNat ((s.lane x k st).words q 4) else 0,
      if rm = .sr then (st.regs.pair (q + 4)).toNat else 0⟩
    let mine : Arrival := ⟨pos, st.nextId, false, 0, d, given, x.here⟩
    let blocked := fun (key : Nat) (kn : Knot) (t : State) => t.strand? pos =
      some (blocking st l x.here (x.after i) s.moves .knot none (some (knotMark key kn.g.toNat, .nb)))
    (s.Alone x i k st → s.heldKnot st r.k = none → TrapsAlone s x i k st 14 0) ∧
    (∀ key kn, s.Alone x i k st → s.heldKnot st r.k = some (key, kn) → s.tileAt key r.t = none → TrapsAlone s x i k st 13 3) ∧
    ∀ key kn e tile, s.Alone x i k st → s.heldKnot st r.k = some (key, kn) → s.tileAt key r.t = some (e, tile) →
      kn.svc = none → kn.queue = [] → st.accessIds = [] → s.early = [] →
      (kn.kind ≠ none → kn.kind ≠ some (.drain f rm keep r.t) → TrapsAlone s x i k st 15 5) ∧
      ((kn.kind = none ∨ kn.kind = some (.drain f rm keep r.t)) →
        let k1 := { kn with kind := some (.drain f rm keep r.t), arrivals := kn.arrivals ++ [mine] }
        (¬ (∀ m ∈ kn.members, ∃ b ∈ k1.arrivals, b.pos = m.pos) → Completes i s fun t =>
          blocked key kn t ∧ t.knot key = k1 ∧ t.events = s.events ∧ t.mem = s.mem ∧ t.tiles = s.tiles) ∧
        ∀ r0 b0 more w, (∀ m ∈ kn.members, ∃ b ∈ k1.arrivals, b.pos = m.pos) → k1.byRank = (r0, b0) :: more →
          (∀ y ∈ s.strands, samePlace y.1 pos = true → y.1 = pos) →
          (b0 = mine ∧ w = st ∨ samePlace b0.pos pos = false ∧ s.strandWith b0.pos b0.id = some w) →
          tile.frozen = false → (∀ y ∈ s.saved, y.uid = w.hank → y.swap = true) →
          let m := (shapeMNK tile.shape).1
          let n := (shapeMNK tile.shape).2.1
          let addr := b0.args.addr.toNat
          let scales := s.scales w b0.args.scales (m + n)
          let checked := s.rowParts (key / 64) w.ctx addr b0.args.stride (drainRowBytes f n) m
          let failed := fun (l : List Nat) => (failures checked.flatten).find? fun y => l.contains y.cause
          let recorded := fun (y : XFault) (mem : Memory) => ∃ u : State, u = { s with strands := u.strands, knots := u.knots } ∧
            mem = ((u.recordFault w.ctx (key / 64) w.index 8 y).1).mem
          let fits := addr % drainAlign f = 0 ∧ b0.args.stride % drainAlign f = 0 ∧ drainRowBytes f n ≤ b0.args.stride
          let told := fun (t : State) (code : Nat) (fl : FFlags) =>
            let stat : Reg := ⟨BitVec.ofNat 32 ((if tile.ovf then 2 ^ 27 else 0) + code), .stat⟩
            blocked key kn t ∧ t.knot key = { kn with g := kn.g + 1, kind := none, arrivals := [], svc := none, queue := [] } ∧
            ∀ c, t.events.getD c [] = s.events.getD c [] ++ (match k1.byRank.filter fun p => coreOf p.2.pos == c with
              | [] => []
              | l => [.knot (l.map fun p => ⟨p.2.pos, p.2.id, [(p.2.dst, stat)], fl, none⟩)])
          let fails := fun (code : Nat) (mem : Memory → Prop) => Completes i s fun t =>
            told t (code * 2 ^ 28 + 2 ^ 26) 0 ∧ mem t.mem ∧ t.tiles = s.tiles
          (∀ keys, fits → scales = some keys → failures checked.flatten = [] → (∀ k ∈ keys, s.upset k 4 = false) →
            (∀ ps ∈ checked, (∀ p ∈ found ps, keyPackage p.key = none) ∧
              (found ps).Pairwise fun p q => p.key + p.len ≤ q.key ∨ q.key + q.len ≤ p.key) →
            let words := if b0.args.scales = 0xFFFFFFFF then List.replicate (m + n) 0x3F800000
              else keys.map fun k => s.mem.readN k 4
            let rows := drainRows f rm tile.els n (words.take m) (words.drop m) b0.args.ctr b0.args.key
            Completes i s fun t => told t ((if keep then 2 ^ 26 else 0) + m * n) (flagsOr (rows.map Prod.snd)) ∧
              (∀ c k, (s.homeScope (key / 64) w).has c = true →
                t.seen c k = ((checked.zip rows).foldl (fun m p => Memory.writeParts p.2.1 (found p.1) m) s.mem).read k) ∧
              (∀ c k, (∀ ps ∈ checked, ∀ p ∈ found ps, k < p.key ∨ p.key + p.len ≤ k) → t.seen c k = s.mem.read k) ∧
              t.tiles = if keep then s.tiles else s.tiles.set e { tile with els := tile.els.map fun _ => .zero, ovf := false }) ∧
          (∀ y, failed [1, 6] = some y → fails 1 (recorded y)) ∧
          (∀ y, failed [1, 6] = none → failed [3, 4, 5] = some y → fails 2 (recorded y)) ∧
          (failed [1, 3, 4, 5, 6] = none → scales = none → fails 3 (· = s.mem)) ∧
          (failed [1, 3, 4, 5, 6] = none → scales ≠ none → ¬ fits → fails 4 (· = s.mem)))

/-- Tiles: allocating, freeing, clearing and loading, and what a rejected request does. -/
def Obligations.TileWordsAndLoads : Prop := TileWordsResults ∧ RejectionTraps ∧ TileLoads

/-! ## The copy engine (15) -/

/-- A copy command as its strand gives it (R279, R285 to R289), before it is accepted. -/
def Sys2Proof.Claims.command (s : State) (pos : Nat) (st : Strand) (kind : CopyKind) (d : Nat) (recAddr : DWord) (c : List Nat)
    (att : Attach) : CopyCmd :=
  { uid := 0, kind := kind, ctx := s.ctxNum st, hank := st.hank, launch := ((s.hankOf st).map Hank.launch).getD 0,
    opener := st.opener, nb := st.nb.map Prod.fst, pos := pos, index := st.index, pend := st.nextId, dst := d, recAddr := recAddr, c := c, att := att, attached := false, handle := 0,
    joins := [], record := none, done := 0, bytes := 0, rows := 0, row := none, code := 0, svc := none, finished := false,
    prio := s.prioOf pos }

/-- A copy word with nothing attached of a strand alone, past no fence and behind nothing held (R279, R286 to R289): with room in its
class, of 32 entries, those of a suspended context among them, the command joins the end of the queue under a number of its own
and the word waits for it; the layout record as it stands now is noted, which a write after acceptance may not change for the command
(R292). Where the class is full the strand blocks at the word. A word that attaches a barrier of its hank also raises
the barrier's count of attached commands (13 R252), and a foreign or free one leaves it not attached; a word that attaches a closure
counts a reference to it (R291), and an empty register traps. -/
def Obligations.CopyWordsQueue : Prop :=
  ∀ s x k st l cls d r c mask,
    let pos := posOf x.braid k
    let core := coreOf pos
    let e := s.engine core
    let args := fun (n : Nat) => ((s.lane x k st).words c n).map BitVec.toNat
    let joins := fun (kind : CopyKind) => if kind = .fence then
      ((List.range 4).filter fun q => mask.testBit q || q == cls).flatMap (s.copiesOpen core) else []
    let clear := ∀ q ∈ st.outs, q.isFence = false ∧ q.held = false
    let old := fun (kind : CopyKind) (recAddr : DWord) (a : List Nat) => s.recordNow core (command s pos st kind d recAddr a .nothing)
    let was := old .box (st.regs.pair r) (args 6)
    let used := (e.queue cls).length + (s.parkedCopies core cls).length
    let queues := fun (i : Instr) (kind : CopyKind) (recAddr : DWord) (a : List Nat) =>
      s.Alone x i k st → clear →
      (used < 32 → Completes i s fun t => t = { s with
        uid := s.uid + 1
        copyEngines := s.copyEngines.set core { e with queues := e.queues.set cls (e.queue cls ++
          [{ command s pos st kind d recAddr a .nothing with uid := s.uid, joins := joins kind, old := old kind recAddr a }]) }
        strands := s.strands.modify pos fun y => issuing y l x.here s.moves .plain false .waiting }) ∧
      (32 ≤ used → Completes i s fun t =>
        t = s.modStrand pos fun y => { y with run := .blocked (.copyQueue cls) })
    queues (.cpb cls .nothing l d r c) .box (st.regs.pair r) (args 6) ∧
    queues (.cpg cls .nothing l d r c) .gather (st.regs.pair r) (args 3) ∧
    queues (.cps cls .nothing l d r c) .scatter (st.regs.pair r) (args 3) ∧
    queues (.cpf cls .nothing l d r c) .fill (st.regs.pair r) (args 6) ∧
    queues (.cqf cls mask l d) .fence 0 [mask] ∧
    (∀ kk env, let h := st.regs.k.getD kk 0
      s.Alone x (.cpb cls (.closure kk) l d r c) k st →
      (h = 0 → TrapsAlone s x (.cpb cls (.closure kk) l d r c) k st 12 1) ∧
      (h ≠ 0 → clear → used < 32 → s.env (envKey h) = env → env.st ≠ .free → env.check = bits h.toNat 47 32 → env.refs < 65535 →
        Completes (.cpb cls (.closure kk) l d r c) s fun t => t = { s with
          uid := s.uid + 1
          envs := s.envs.set (envKey h) { env with refs := env.refs + 1 }
          copyEngines := s.copyEngines.set core { e with queues := e.queues.set cls (e.queue cls ++
            [{ command s pos st .box d (st.regs.pair r) (args 6) (.closure kk) with uid := s.uid, attached := true, handle := h, old := was }]) }
          strands := s.strands.modify pos fun y => issuing y l x.here s.moves .plain false .waiting })) ∧
    (∀ b, s.Alone x (.cpb cls (.barrier b) l d r c) k st → clear → used < 32 →
      (∀ bar, s.barriers.get? (core * 128 + b) = some bar → bar.owner ≠ st.hank) →
      Completes (.cpb cls (.barrier b) l d r c) s fun t => t = { s with
        uid := s.uid + 1
        copyEngines := s.copyEngines.set core { e with queues := e.queues.set cls (e.queue cls ++
          [{ command s pos st .box d (st.regs.pair r) (args 6) (.barrier b) with uid := s.uid, old := was }]) }
        strands := s.strands.modify pos fun y => issuing y l x.here s.moves .plain false .waiting }) ∧
    (∀ b bar, s.Alone x (.cpb cls (.barrier b) l d r c) k st → clear → used < 32 →
      s.barriers.get? (core * 128 + b) = some bar → bar.owner = st.hank →
      Completes (.cpb cls (.barrier b) l d r c) s fun t => t = { s with
        uid := s.uid + 1
        barriers := s.barriers.set (core * 128 + b) { bar with att := bar.att + 1 }
        copyEngines := s.copyEngines.set core { e with queues := e.queues.set cls (e.queue cls ++
          [{ command s pos st .box d (st.regs.pair r) (args 6) (.barrier b) with uid := s.uid, attached := true, old := was }]) }
        strands := s.strands.modify pos fun y => issuing y l x.here s.moves .plain false .waiting })

/-- COMMAND_START (R282, R283): the head of a class reads its record at one address, as it stands or, a free choice, as it stood when
the command was accepted (R292), and a record that fails a check ends the
command with its code; that a record address which is not a multiple of 64 ends it with code 4 is the model's choice (log 27). -/
def Sys2Proof.Claims.CopyCommandStarts : Prop :=
  ∀ s core cls c, ((s.engine core).queue cls).head? = some c → c.kind ≠ .fence → c.record = none → c.finished = false →
    c.svc = none →
    let e := s.engine core
    let becomes := fun (c' : CopyCmd) => Completes (.commandStart core cls) s fun t =>
      t = { s with
        copyEngines := s.copyEngines.set core { e with queues := e.queues.set cls (c' :: (e.queue cls).drop 1) } }
    (c.recAddr.toNat % 64 ≠ 0 → becomes { c with code := 4, finished := true }) ∧
    (∀ q, c.recAddr.toNat % 64 = 0 → s.early = [] → s.parts core c.ctx .read c.recAddr.toNat 64 = .ok [q] → q.len = 64 →
      s.reachFault false [q] = none →
      let now := s.mem.readN q.key 64
      let r := if s.freeBit 4 then c.old.getD now else now
      (c.check r = 0 → becomes { c with record := some r }) ∧ (c.check r ≠ 0 → becomes { c with code := c.check r, finished := true }))

/-- CHUNK (R280, R287, R288): the class being visited, with the credit for it, moves the next units of its head command; the
last unit of a command from global memory to the scratchpad is written there and nowhere else, or, a free choice, is readable by the
command's engine or its core before it is performed for all (11 R223), and finishes the command. A gather notes the index word of its row as the
row begins. -/
def Sys2Proof.Claims.CopyChunkMoves : Prop :=
  ∀ s core c r e cls a base off v ps sp, s.engine core = e → e.visit = cls → e.credited = true →
    (e.queue cls).head? = some c → s.hasWork core c = true → c.record = some r → c.kind ≠ .fence → c.att = .nothing →
    c.chunkUnits r = 1 → c.total r = c.done + 1 → recUnit r ≤ e.deficits.getD cls 0 → s.early = [] →
    let c' := s.noteRow core c r c.done
    s.copyMove core c' r c.done = (.global a, .scratch base off) → s.copyParts core c false a (recUnit r) = .ok ps →
    s.copyScratch c r base off = .ok sp → (∀ x, c.indexed = true → s.copyIndex core c' (c.done / recBox r 0) = some x → s.busFault false x.1 = none) →
    v = s.seenParts core ps → Completes (.chunk core) s fun t =>
      t = { s with mem := t.mem, early := t.early, copyEngines := t.copyEngines, spoiled := t.spoiled } ∧
      (s.freeBit 2 = true → t.mem = Memory.writeParts v sp s.mem ∧ t.early = []) ∧
      (s.freeBit 2 = false → t.mem = s.mem ∧ t.early =
        [{ reach := if s.freeBit 3 then .one (coreAgent core) else units [core], ctx := c.ctx, launch := c.opener, by_ := .copy core
           id := c.uid, parts := sp, val := v, known := [copyKey core cls] }]) ∧
      (∀ j, (∀ p ∈ sp, j < p.key ∨ p.key + p.len ≤ j) → t.mem.read j = s.mem.read j) ∧
      ((t.engine core).queue cls).head? = some { c' with
        done := c.done + 1, bytes := c.bytes + recUnit r, rows := (c.done + 1) / recBox r 0, finished := true } ∧
      (t.engine core).deficits = e.deficits.set cls (e.deficits.getD cls 0 - recUnit r)

/-- COPY_COMPLETION (R279, R284, R290, R291): a finished head, its writes in other packages acknowledged, leaves its queue, strands
blocked for room in the class go on, and its status goes to the arbiter; with a barrier attached, the barrier has one arrival more and
one attached command fewer. A closure attached is spawned with the status word, and loses the command's reference; where the test of
its span meets an uncorrectable error the context faults instead (01 R19, 17 R313). What could not be attached, or spawned, has code 5
or 6; that a command which has another code by then keeps that is the model's choice (log 27). -/
def Sys2Proof.Claims.CopyCompletes : Prop :=
  ∀ s core cls c, ((s.engine core).queue cls).head? = some c → cls < (s.engine core).queues.length → c.finished = true →
    s.early = [] → s.unacked copyFlit c.uid = false →
    let done := fun (t : State) =>
      (t.engine core).queue cls = ((s.engine core).queue cls).drop 1 ∧
      (∀ pos y, s.strand? pos = some y → coreOf pos = core → y.run = .blocked (.copyQueue cls) →
        t.strand? pos = some { y with run := .candidate }) ∧
      (∀ pos y, s.strand? pos = some y → (coreOf pos ≠ core ∨ y.run ≠ .blocked (.copyQueue cls)) → t.strand? pos = some y) ∧
      t.mem = s.mem
    let coded := fun (n : Nat) => { c with code := if c.code = 0 then n else c.code }
    (∀ b, c.att = .barrier b → c.attached = false → Completes (.copyCompletion core cls) s fun t => done t ∧
      t.barriers = s.barriers ∧ t.events.getD core [] = s.events.getD core [] ++ [.copy cls (coded 5)]) ∧
    (∀ n, c.att = .closure n → c.attached = false → Completes (.copyCompletion core cls) s fun t => done t ∧
      t.envs = s.envs ∧ t.events.getD core [] = s.events.getD core [] ++ [.copy cls (coded 6)]) ∧
    (∀ n f, c.att = .closure n → c.attached = true → s.spansFault (s.env (envKey c.handle)) = some f →
      Completes (.copyCompletion core cls) s fun t => t = s.upsetFault c.ctx core c.index 4 f) ∧
    (∀ n, c.att = .closure n → c.attached = true → s.spansFault (s.env (envKey c.handle)) = none →
      Completes (.copyCompletion core cls) s fun t => ∃ u : State, u = { s with copyEngines := u.copyEngines } ∧
        let status := BitVec.ofNat 64 (c.code * 2 ^ 28 + cls * 2 ^ 24 + (c.bytes + 63) / 64 % 2 ^ 24)
        let r := u.spawn c.ctx c.handle status c.prio c.opener [copyMark c.uid]
        t.envs = (r.1.dropRef (envKey c.handle)).envs ∧ t.braids = r.1.braids ∧ t.hanks = r.1.hanks ∧
        t.events.getD core [] = s.events.getD core [] ++ [.copy cls (if r.2 / 2 ^ 28 = 0 then c else coded 6)]) ∧
    (c.att = .nothing → Completes (.copyCompletion core cls) s fun t => done t ∧ t.barriers = s.barriers ∧
      t.events.getD core [] = s.events.getD core [] ++ [.copy cls c]) ∧
    (∀ b bar, c.att = .barrier b → c.attached = true → s.barriers.get? (core * 128 + b) = some bar → bar.owner = c.hank →
      Completes (.copyCompletion core cls) s fun t => done t ∧
        CoreEvent.copy cls c ∈ t.events.getD core [] ∧
        (min 4095 (bar.arr + 1) < bar.exp → t.barriers.get? (core * 128 + b) = some { bar with
          att := bar.att - 1, arr := min 4095 (bar.arr + 1), flt := bar.flt || c.code != 0
          rowsMet := bar.rowsMet || c.code != 0 }))

/-! ## Control transfers (07) -/

/-- Branches and jumps of every lane that executes them (R129, R130, R134): the strand goes to the target at word 0; `.y`
and `yield` park it, watching the candidates outside the issue set. -/
def Sys2Proof.Claims.BranchResults : Prop :=
  ∀ s x k st p disp hint t0,
    let goes := fun (i : Instr) (run : Run) (a : DWord) => s.Executes x i k st → Completes i s fun t =>
      t.strand? (posOf x.braid k) = some { st with run := run, regs := { st.regs with pc := ⟨a, 0⟩ } }
    let target := x.clause + ((BitVec.ofNat 32 disp).signExtend 64 <<< 3)
    let watch := s.candMask x.braid &&& ~~~x.mask
    goes (.bra false p disp hint) st.run target ∧
    goes (.bra true p disp hint) (.parked watch) target ∧
    goes (.jmp p t0 hint) st.run (st.regs.pair t0) ∧
    goes (.yield p) (.parked watch) (nextClause x.clause x.words.length)

/-- call, calli and ret (R123, R124, R131, R132): a call pushes the linkage and makes the new frame current at depth + 1, a return
restores both; a call past the stack region traps with cause 8, a return at depth 0 with cause 7. Past the hardware stack of 32
entries a call stores the oldest one at its place in the stack region, and a return reads one back; either stalls behind earlier
accesses of the strand to those bytes. That the spill and the refill are performed with the word is the model's choice (log 43). -/
def Sys2Proof.Claims.CallsAndReturns : Prop :=
  ∀ s x k st p size disp t0,
    let r := st.regs
    let called := fun (target : DWord) => { st with
      spilled := if r.depth < 32 then [] else st.spilled.take (r.depth - 32) ++ r.calls.getLast?.toList
      regs := { r with
        calls := (⟨nextClause x.clause x.words.length, r.fp, r.size, r.serial⟩ :: r.calls).take 32
        fp := r.fp + BitVec.ofNat 64 r.size, size := 64 * size, fs := r.fs + 1, serial := r.fs + 1, depth := r.depth + 1
        pc := ⟨target, 0⟩ } }
    let pos := posOf x.braid k
    let slotAt := fun (j : Nat) => (st.stackE - BitVec.ofNat 64 (32 * j)).toNat
    let spills := fun (i : Instr) (a : DWord) (ps : List Part) => s.Alone x i k st → 32 ≤ r.depth →
      r.fp.toNat + r.size + 64 * size + 32 * (r.depth - 31) ≤ st.stackE.toNat →
      s.parts (coreOf pos) st.ctx .write (slotAt (r.depth - 31)) 32 = .ok ps → s.reachFault true ps = none →
      ((∀ q ∈ st.outs, ∀ y ∈ q.pieces, ∀ z ∈ ps, y.meets z = false) → s.early = [] →
        (∀ z ∈ ps, keyPackage z.key = none) →
        ∀ c, r.calls.getLast? = some c → Completes i s fun t =>
          t = { s with strands := t.strands, mem := t.mem, spoiled := t.spoiled } ∧
          (∀ p, p ≠ pos → t.strand? p = s.strand? p) ∧ t.strand? pos = some (called a) ∧
          t.mem = Memory.writeParts
            (c.link.toNat + c.fp.toNat * 2 ^ 64 + c.serial.toNat * 2 ^ 128 + c.size / 64 * 2 ^ 160) ps s.mem) ∧
      ((∃ q ∈ st.outs, ∃ y ∈ q.pieces, ∃ z ∈ ps, y.meets z = true) → Completes i s fun t =>
        ∃ ids, (t = s.modStrand pos fun y => { y with run := .stalled (.ops ids) }) ∧
          ∀ n, n ∈ ids ↔ ∃ q ∈ st.outs, q.id = n ∧ ∃ y ∈ q.pieces, ∃ z ∈ ps, y.meets z = true)
    let target := x.clause + ((BitVec.ofNat 32 disp).signExtend 64 <<< 3)
    let fits := r.fp.toNat + r.size + 64 * size ≤ st.stackE.toNat
    (s.Alone x (.call p size disp) k st → r.depth < 32 → fits → Completes (.call p size disp) s fun t =>
      s.OnlyStrand t (posOf x.braid k) (called target)) ∧
    (s.Alone x (.calli p t0 size) k st → r.depth < 32 → fits → Completes (.calli p t0 size) s fun t =>
      s.OnlyStrand t (posOf x.braid k) (called (r.pair t0))) ∧
    (∀ c rest, s.Alone x (.ret p) k st → 0 < r.depth → r.depth ≤ 32 → r.calls = c :: rest →
      Completes (.ret p) s fun t => s.OnlyStrand t (posOf x.braid k) { st with regs := { r with
        calls := rest, fp := c.fp, size := c.size, serial := c.serial, depth := r.depth - 1, pc := ⟨c.link, 0⟩ } }) ∧
    (∀ ps, spills (.call p size disp) target ps ∧ spills (.calli p t0 size) (r.pair t0) ps) ∧
    (∀ c rest q v, s.Alone x (.ret p) k st → 32 < r.depth → r.calls = c :: rest →
      s.parts (coreOf pos) st.ctx .read (slotAt (r.depth - 32)) 32 = .ok [q] → q.len = 32 → s.reachFault false [q] = none →
      (∀ a ∈ st.outs, ∀ y ∈ a.pieces, y.meets q = false) → s.early = [] → v = s.mem.readN q.key 32 →
      Completes (.ret p) s fun t => s.OnlyStrand t pos { st with regs := { r with
        calls := rest ++ [⟨BitVec.ofNat 64 v, BitVec.ofNat 64 (v / 2 ^ 64), v / 2 ^ 160 % 65536 * 64, BitVec.ofNat 32 (v / 2 ^ 128)⟩]
        fp := c.fp, size := c.size, serial := c.serial, depth := r.depth - 1, pc := ⟨c.link, 0⟩ } }) ∧
    (s.Alone x (.call p size disp) k st → 32 ≤ r.depth →
      st.stackE.toNat < r.fp.toNat + r.size + 64 * size + 32 * (r.depth - 31) → TrapsAlone s x (.call p size disp) k st 8 0) ∧
    (s.Alone x (.call p size disp) k st → r.depth < 32 → ¬ fits → TrapsAlone s x (.call p size disp) k st 8 0) ∧
    (s.Alone x (.calli p t0 size) k st → r.depth < 32 → ¬ fits → TrapsAlone s x (.calli p t0 size) k st 8 0) ∧
    (s.Alone x (.ret p) k st → r.depth = 0 → TrapsAlone s x (.ret p) k st 7 0)

/-- exit (R133): the strand is exited, its affine registers and linkage are gone, and what it issued stays outstanding. Its handles
are released as `kdrop` releases them, or, behind closure words of the strand that are to be performed yet, stay until then (17
R319); and it leaves the knots that it holds. What it issued goes on to read the registers that it had. -/
def Sys2Proof.Claims.ExitResults : Prop :=
  ∀ s x k st p, s.Alone x (.exit p) k st → Runs (posOf x.braid k) st →
    let pos := posOf x.braid k
    let gone := fun (ks : List DWord) => { st with
      run := .exited, held := false, handler := false, frame := none, deferred := none, past := some st.regs
      regs := { st.regs with n := st.regs.n.map fun _ => none, a := st.regs.a.map fun _ => .point0, calls := [], k := ks } }
    let idle := ∀ q ∈ st.outs, q.kind ≠ .closure
    let released := (st.regs.k.foldl State.release s).envs
    (st.regs.n = [none, none, none, none] → idle → Completes (.exit p) s fun t =>
      t = { s with strands := t.strands, envs := released } ∧ (∀ q, q ≠ pos → t.strand? q = s.strand? q) ∧
      t.strand? pos = some (gone (st.regs.k.map fun _ => 0))) ∧
    (st.regs.n = [none, none, none, none] → (∃ q ∈ st.outs, q.kind = .closure ∧ q.id < st.nextId) → Completes (.exit p) s fun t =>
      s.OnlyStrand t pos (gone st.regs.k)) ∧
    (idle → (∀ q ∈ st.outs, ∀ h, q.kind ≠ .contribution h) →
      (∀ id, some id ∈ st.regs.n → (s.knot (knotKey id)).queue = []) → Completes (.exit p) s fun t =>
        t.envs = released ∧ t.strand? pos = some (gone (st.regs.k.map fun _ => 0)) ∧
        ∀ id, some id ∈ st.regs.n → (s.knot (knotKey id)).live = true → ∀ m ∈ (t.knot (knotKey id)).members, m.pos ≠ pos)

/-- brk and trap (R135, R335): each strand that executes the word takes the trap at once, with cause 17, or 18, and its code as detail;
after `brk` it resumes at the next clause. (Where it resumes after `trap`, R326, `SoftwareTrapResumes` says.) -/
def Obligations.BreakAndTrapWords : Prop :=
  ∀ s x k st p code, st.handler = false → st.pastFence = false → OneDepth s x st.regs.depth →
    (s.Executes x (.brk p code) k st → Completes (.brk p code) s fun t =>
      Traps s t x k st ⟨x.clause, x.word, 17, code, 0⟩
        ⟨nextClause x.clause x.words.length, 0⟩) ∧
    (s.Executes x (.trap p code) k st → Completes (.trap p code) s fun t =>
      ∃ resume, Traps s t x k st ⟨x.clause, x.word, 18, code, 0⟩ resume)

/-- The copy engine: a command starts, its chunks move, and it completes. -/
def Obligations.CopyEngineEvents : Prop := CopyCommandStarts ∧ CopyChunkMoves ∧ CopyCompletes

/-- Branches, calls, returns and exit. -/
def Obligations.ControlTransfers : Prop := BranchResults ∧ CallsAndReturns ∧ ExitResults

/-! ## Closures (17) -/

/-- The closure words of a strand alone (R309 to R314, R321, R323): cap makes an environment of values in the lowest free
entry of its core and holds its handle, capr adds a span of the current frame, kdup counts a reference more, kdrop one fewer
and the last frees the environment, kinfo reads. What the register written held before is released, as kdrop releases it; kdrop of an
empty register completes and changes nothing. A null handle traps with cause 12 and detail 1. The model's choices: that the home's
environment changes in the issuing step (log 6); that capr looks at the references, the span, the frame and the number of spans in this
order (log 24); and that kinfo.s of an empty register reads 0 (log 25). Behind an earlier closure word of the strand a word joins its
queue (R319), to which the step lets cap, capr and kdup come only when it is empty (log 70). -/
def Sys2Proof.Claims.ClosureWordsResults : Prop :=
  ∀ s x k st l n m d f cnt a b,
    let pos := posOf x.braid k
    let core := coreOf pos
    let e := s.lane x k st
    let h := st.regs.k.getD n 0
    let key := envKey h
    let env := s.env key
    let hold := fun (u : State) (n : Nat) (h : DWord) =>
      u.modStrand pos fun y => { y with regs := { y.regs with k := y.regs.k.set n h } }
    let joins := fun (i : Instr) (v : List Reg) => s.Alone x i k st → queued st .closure = true → Completes i s fun t =>
      t = s.modStrand pos fun y => issuing y l x.here s.moves .closure st.pastFence (.closure i v none (s.prioOf pos))
    (∀ en, joins (.cap l n en f cnt) ((match en with
      | .pair p => st.regs.run p 2
      | .literal w => (pairFrom 0 w).map Prod.snd) ++ st.regs.run f cnt)) ∧
    joins (.capr l n a b) ([e.src .i32 a, e.src .i32 b] ++ (pairFrom 0 st.regs.fp).map Prod.snd ++
      [⟨st.regs.serial, .i32⟩, i32 st.regs.size]) ∧
    joins (.kdup l m n) [] ∧ joins (.kdrop l n) [] ∧ (∀ g, joins (.kinfo g l d n) []) ∧
    (queued st .closure = false → st.pastFence = false → st.regs.size < 2 ^ 32 →
    (∀ en fresh, s.Alone x (.cap l n en f cnt) k st → s.freeEnv core = some fresh →
      let entry := match en with
        | .pair p => st.regs.pair p
        | .literal w => w
      let check := ((s.env fresh).check + 1) % 2 ^ 16
      let new : Env := ⟨.live, entry, 0, 0, 1, check, s.ctxNum st, st.regs.run f cnt, [], 0, 0, 0⟩
      Issues s x (.cap l n en f cnt) k l .plain (hold ({ s with envs := s.envs.set fresh new }.release h) n
        (BitVec.ofNat 64 (2 ^ 63 + s.ctxNum st * 2 ^ 48 + check * 2 ^ 32 + fresh / 2048 * 2 ^ 23 + fresh % 2048 * 2 ^ 12))) []) ∧
    (∀ en, s.Alone x (.cap l n en f cnt) k st → s.freeEnv core = none → TrapsAlone s x (.cap l n en f cnt) k st 10 1) ∧
    (s.Alone x (.capr l n a b) k st → h ≠ 0 → env.refs ≤ 1 → env.spans = [] → 0 < e.nat .i32 b →
      e.nat .i32 a + e.nat .i32 b ≤ st.regs.size →
      Issues s x (.capr l n a b) k l .plain { s with envs := s.envs.set key { env with
        spans := [(e.nat .i32 a, e.nat .i32 b)], fbase := st.regs.fp, fserial := st.regs.serial, ownerCore := core
        ownerPos := pos % places % 2048, ownerInc := st.inc } } []) ∧
    (s.Alone x (.capr l n a b) k st → h ≠ 0 → env.refs ≤ 1 → env.spans ≠ [] → 0 < e.nat .i32 b →
      e.nat .i32 a + e.nat .i32 b ≤ st.regs.size →
      let ours := env.fbase = st.regs.fp ∧ env.fserial = st.regs.serial ∧ env.ownerCore = core ∧
        env.ownerPos = pos % places % 2048 ∧ env.ownerInc = st.inc
      (ours → env.spans.length ≠ 4 → Issues s x (.capr l n a b) k l .plain { s with envs := s.envs.set key { env with
        spans := env.spans ++ [(e.nat .i32 a, e.nat .i32 b)] } } []) ∧
      (ours → env.spans.length = 4 → TrapsAlone s x (.capr l n a b) k st 10 3) ∧
      (¬ ours → TrapsAlone s x (.capr l n a b) k st 11 3)) ∧
    (s.Alone x (.capr l n a b) k st → h ≠ 0 → 1 < env.refs → TrapsAlone s x (.capr l n a b) k st 12 5) ∧
    (s.Alone x (.capr l n a b) k st → h = 0 → TrapsAlone s x (.capr l n a b) k st 12 1) ∧
    (s.Alone x (.capr l n a b) k st → h ≠ 0 → env.refs ≤ 1 → (e.nat .i32 b = 0 ∨ st.regs.size < e.nat .i32 a + e.nat .i32 b) →
      TrapsAlone s x (.capr l n a b) k st 11 2) ∧
    (s.Alone x (.kdup l m n) k st → h ≠ 0 → env.refs < 65535 →
      Issues s x (.kdup l m n) k l .plain
        (hold ({ s with envs := s.envs.set key { env with refs := env.refs + 1 } }.release (st.regs.k.getD m 0)) m h) []) ∧
    (s.Alone x (.kdup l m n) k st → h ≠ 0 → 65535 ≤ env.refs → TrapsAlone s x (.kdup l m n) k st 10 2) ∧
    (s.Alone x (.kdup l m n) k st → h = 0 → TrapsAlone s x (.kdup l m n) k st 12 1) ∧
    (s.Alone x (.kdrop l n) k st → h ≠ 0 → 1 < env.refs →
      Issues s x (.kdrop l n) k l .plain (hold { s with envs := s.envs.set key { env with refs := env.refs - 1 } } n 0) []) ∧
    (s.Alone x (.kdrop l n) k st → h ≠ 0 → env.refs ≤ 1 →
      Issues s x (.kdrop l n) k l .plain (hold { s with
        envs := s.envs.set key ⟨.free, 0, 0, 0, 0, env.check, 0, [], [], 0, 0, 0⟩ } n 0) []) ∧
    (s.Alone x (.kdrop l n) k st → h = 0 → Issues s x (.kdrop l n) k l .plain (hold s n 0) []) ∧
    (s.Alone x (.kinfo .h l d n) k st → Issues s x (.kinfo .h l d n) k l .plain s (pairFrom d h)) ∧
    (s.Alone x (.kinfo .e l d n) k st → Issues s x (.kinfo .e l d n) k l .plain s (pairFrom d (if h = 0 then 0 else env.entry))) ∧
    (s.Alone x (.kinfo .s l d n) k st → h = 0 → Issues s x (.kinfo .s l d n) k l .plain s [(d, ⟨0, .stat⟩)]) ∧
    (s.Alone x (.kinfo .s l d n) k st → h ≠ 0 → s.spansFault env = none → Issues s x (.kinfo .s l d n) k l .plain s
      [(d, ⟨BitVec.ofNat 32 (2 ^ 31 + (if s.spansLive env then 2 ^ 30 else 0) + env.vals.length * 2 ^ 25 +
        env.spans.length * 2 ^ 22 + env.refs), .stat⟩)]))

/-- A queued closure word is performed once every earlier one of its strand is (R319), on the closure registers as they are then. -/
def Sys2Proof.Claims.QueuedClosureWords : Prop :=
  ∀ s pos id x p l n prio early, s.strand? pos = some x → s.pend? pos id = some p → p.held = false → p.svc = none →
    p.mute = false → Runs pos x → p.kind = .closure → x.frameId ≤ id →
    let h := x.regs.k.getD n 0
    let env := s.env (envKey h)
    let turn := ∀ q ∈ x.outs, q.kind = .closure → p.id ≤ q.id
    let c := Instr.longLatencyCompletion pos id early
    (∀ i v q, p.act = .closure i v q prio → ¬ turn → exec c s = .next s) ∧
    (p.act = .closure (.kdrop l n) [] none prio → turn → h ≠ 0 → 1 < env.refs → Completes c s fun t =>
      t = { s with strands := t.strands, envs := s.envs.set (envKey h) { env with refs := env.refs - 1 } } ∧
      ∃ y, t.strand? pos = some y ∧ y.regs = { completing x.regs p.slot [] 0 with k := x.regs.k.set n 0 } ∧ ∀ q ∈ y.outs, q.id ≠ id) ∧
    (∀ d, p.act = .closure (.kinfo .h l d n) [] none prio → turn → Completes c s fun t =>
      Finishes s t pos id (completing x.regs p.slot (pairFrom d h) 0) ∧ t.mem = s.mem) ∧
    (∀ m, p.act = .closure (.kdup l m n) [] none prio → turn → h = 0 → Completes c s fun t =>
      t.pend? pos id = some { p with act := .refused 12 1 none } ∧ t = { s with strands := t.strands })

/-- apply (R314, R322): a call to the entry of a live closure, with its captures in the registers from v0; the spans of a closure that
is dead trap, and captures past the strand's registers are an illegal word. A capture overwrites what an earlier instruction is still to
write, or, a free choice, not (02 R48; log 50). spawn (R315, R323): a new strand of the closure's home core
in a free lane of a spawn braid of the context, with the argument in v0:v1, the captures from v2 and the closure in k0, and the
status in the spawner's register, and, where the context has none with a free lane there, in a new spawn braid; code 2 where the
closure's spans are dead, and 3 where no reference or no strand is left. That code 2 comes before 3 is the model's choice (log 24), and
that the home starts the strand in the issuing step (log 6). -/
def Sys2Proof.Claims.ApplyAndSpawn : Prop :=
  ∀ s x k st l n d a size p,
    let pos := posOf x.braid k
    let r := st.regs
    let h := r.k.getD n 0
    let env := s.env (envKey h)
    let needs := (env.vals.length + 1) / 2 * 2 + 2 * env.spans.length
    let looked := h ≠ 0 ∧ s.spansFault env = none
    (s.Alone x (.apply p n size) k st → st.pastFence = false → looked → s.spansLive env = true →
      needs ≤ r.v.length → r.depth < 32 → r.fp.toNat + r.size + 64 * size ≤ st.stackE.toNat →
      let w := env.captures 0
      let stays := (w.map Prod.fst).filter fun q => s.freeBit (256 * k + q)
      Completes (.apply p n size) s fun t => s.OnlyStrand t pos { st with
        spilled := []
        outlasts := st.outlasts ++ (if st.outs = [] then [] else stays.map fun q => (st.nextId, q))
        outs := st.outs.map fun o => { o with shown := o.shown.filter fun y => !(w.map Prod.fst).contains y.1 }
        regs := { r with
        v := w.foldl (fun v q => v.set q.1 q.2) r.v
        calls := (⟨nextClause x.clause x.words.length, r.fp, r.size, r.serial⟩ :: r.calls).take 32
        fp := r.fp + BitVec.ofNat 64 r.size, size := 64 * size, fs := r.fs + 1, serial := r.fs + 1, depth := r.depth + 1
        pc := ⟨env.entry, 0⟩ } }) ∧
    (s.Alone x (.apply p n size) k st → st.pastFence = false → h = 0 → TrapsAlone s x (.apply p n size) k st 12 1) ∧
    (s.Alone x (.apply p n size) k st → looked → s.spansLive env = false → TrapsAlone s x (.apply p n size) k st 11 1) ∧
    (s.Alone x (.apply p n size) k st → looked → s.spansLive env = true → r.v.length < needs →
      TrapsAlone s x (.apply p n size) k st 1 0) ∧
    (∀ code, s.Alone x (.spawn l d n a) k st → st.pastFence = false → queued st .closure = false → looked →
      (code = 2 ∧ s.spansLive env = false ∨ code = 3 ∧ s.spansLive env = true ∧ (65535 ≤ env.refs ∨
        (s.spawnBraids (envKey h / 2048)).length = 4 ∧ ∀ y ∈ s.spawnBraids (envKey h / 2048), s.freeLane y.2.2 = none)) →
      Issues s x (.spawn l d n a) k l .plain s [(d, ⟨BitVec.ofNat 32 (code * 2 ^ 28 + envKey h / 2048 * 2 ^ 7), .stat⟩)]) ∧
    (∀ idx hank hk b lane c, s.Alone x (.spawn l d n a) k st → st.pastFence = false → queued st .closure = false → h ≠ 0 →
      env.spans = [] → pos < 384 * 2048 → posOf b lane < 384 * 2048 →
      env.refs < 65535 → s.spawnBraids (envKey h / 2048) = [(idx, hank, b)] → s.hanks.get? hank = some hk →
      hk.ctx = s.ctxNum st → s.freeLane b = some lane → s.ctxs.get? (s.ctxNum st) = some c → posOf b lane ≠ pos →
      (∀ o ∈ st.outs, o.id ≠ st.nextId) →
      Completes (.spawn l d n a) s fun t =>
        t.strand? pos = some (issuing st l x.here s.moves .plain false
          (.regs [(d, ⟨BitVec.ofNat 32 (envKey h / 2048 * 2 ^ 7 + (32 * idx + lane)), .stat⟩)] 0)) ∧
        t.env (envKey h) = { env with refs := env.refs + 1 } ∧
        ∃ y, t.strand? (posOf b lane) = some y ∧ y.hank = hank ∧ y.index = 32 * idx + lane ∧ y.run = .candidate ∧
          y.opener = st.opener ∧
          let start := Regs.start 64 0 ((s.lane x k st).pair a) env.entry
            (stackBase c.spBase.toNat c.spSize (posOf b lane)) none
          y.regs = { start with
            v := (env.captures 2).foldl (fun v q => v.set q.1 q.2) start.v, k := start.k.set 0 h }) ∧
    (∀ slot c, let core := envKey h / 2048
      let b := core * 64 + slot
      s.Alone x (.spawn l d n a) k st → st.pastFence = false → queued st .closure = false → h ≠ 0 → env.spans = [] →
      env.refs < 65535 → pos < 384 * 2048 → posOf b 0 < 384 * 2048 → posOf b 0 ≠ pos → s.strand? (posOf b 0) = none →
      s.spawnBraids core = [] → s.freeSlots core = [slot] → s.regsFit core 2048 0 = true →
      s.residencyFits core (s.ctxNum st) = true → s.ctxs.get? (s.ctxNum st) = some c → (∀ o ∈ st.outs, o.id ≠ st.nextId) →
      Completes (.spawn l d n a) s fun t =>
        t.strand? pos = some (issuing st l x.here s.moves .plain false (.regs [(d, ⟨BitVec.ofNat 32 (core * 2 ^ 7), .stat⟩)] 0)) ∧
        (∃ br hank, t.braids.get? b = some br ∧ br.lanes = 1 ∧ br.prio = s.prioOf pos ∧ t.hanks.get? br.hank = some hank ∧
          hank.ctx = s.ctxNum st ∧ hank.core = core ∧ hank.spawn = some 0 ∧ hank.regs = 64 ∧ hank.affs = 0) ∧
        ∃ y, t.strand? (posOf b 0) = some y ∧ y.index = 0 ∧ y.run = .candidate ∧ y.opener = st.opener ∧ y.regs.pc = ⟨env.entry, 0⟩ ∧
          y.regs.k.head? = some h) ∧
    (s.Alone x (.spawn l d n a) k st → queued st .closure = false → h = 0 → TrapsAlone s x (.spawn l d n a) k st 12 1)

/-- A `kld` that has its 8 bytes (R309, R320): a null handle or a live one of the context, which is counted, goes into the register, and
what this held is released. The home rejects a malformed handle with detail 4, one of another context with detail 2, a dead one
with detail 3, and one that cannot be counted; its strand traps then, at the word (`RejectionTraps`). That any value without bit 63 is
null is the model's reading (log 25), and that the checks come in this order its choice (log 24). -/
def Sys2Proof.Claims.HandleLoads : Prop :=
  ∀ s pos id x p q got o n early,
    LastPiece s pos id x p 0 q got o (.loadK n) → x.frameId ≤ id →
    let v := got + s.mem.readN q.key q.len
    let h := BitVec.ofNat 64 v
    let env := s.env (envKey h)
    let i := Instr.longLatencyCompletion pos id early
    let takes := fun (u : State) (h : DWord) => Completes i s fun t =>
      t = { s with strands := t.strands, envs := (u.release (x.regs.k.getD n 0)).envs } ∧
      ∃ y, t.strand? pos = some y ∧ y.regs = { completing x.regs p.slot [] 0 with k := x.regs.k.set n h } ∧ ∀ r ∈ y.outs, r.id ≠ id
    let refuses := fun (cause detail : Nat) => Completes i s fun t =>
      t = { s with strands := t.strands } ∧ t.pend? pos id = some { p with act := .refused cause detail none }
    let formed := bits v 62 56 = 0 ∧ bits v 11 0 = 0 ∧ bits v 31 23 ≤ 383
    let ours := bits v 55 48 = s.ctxNum x ∧ (env.st = .free ∨ env.ctx = s.ctxNum x)
    let live := env.st = .live ∧ env.check = bits v 47 32
    (v.testBit 63 = false → takes s 0) ∧
    (v < 2 ^ 64 → v.testBit 63 = true →
      (¬ formed → refuses 12 4) ∧
      (formed → ¬ ours → refuses 12 2) ∧
      (formed → ours → ¬ live → refuses 12 3) ∧
      (formed → ours → live → env.refs < 65535 → takes { s with envs := s.envs.set (envKey h) { env with refs := env.refs + 1 } } h) ∧
      (formed → ours → live → 65535 ≤ env.refs → refuses 10 2))

/-! ## Traps, system words (18) -/

/-- TRAP_DELIVERY (R327 to R329): the first pending group of a braid none of whose strands is in a handler enters the handler
that the trap table names: each member's registers are kept in its frame, it runs at the handler's address in handler mode,
and the group is pending no more. What the bytes of a frame hold is open (log 9). -/
def Sys2Proof.Claims.TrapDeliveryEntersHandler : Prop :=
  let entered := fun (st : Strand) (h : DWord) => { st with
    frame := some st.regs, frameId := st.nextId + 1, nextId := st.nextId + 1, handler := true, run := .candidate
    regs := { st.regs with pc := ⟨h, 0⟩ } }
  (∀ s b br g rest pos0 st0 more c h u,
    s.braids.get? b = some br → br.pending = g :: rest → (∀ p ∈ s.braidStrands b, p.2.handler = true → p.2.run = .exited) →
    let members := (lanesOf g.mask).filterMap fun l => (s.strand? (posOf b l)).map fun x => (posOf b l, x)
    members = (pos0, st0) :: more → s.ctxs.get? (s.ctxNum st0) = some c → c.st = .active → c.stopping = false →
    s.handlerFor (coreOf pos0) (s.ctxNum st0) c st0.trap.cause = .ok h →
    members.foldl (fun (a : Except XFault State) y => a.bind fun u => u.writeFrame (s.ctxNum st0) c y.1) (.ok s) = .ok u →
    Completes (.trapDelivery b) s fun t =>
      (∀ l st, g.mask.getLsbD l = true → s.strand? (posOf b l) = some st → t.strand? (posOf b l) = some (entered st h)) ∧
      (∀ q, (∀ l, g.mask.getLsbD l = true → posOf b l ≠ q) → t.strand? q = s.strand? q) ∧
      t.braids.get? b = some { br with pending := rest } ∧ t.mem = u.mem) ∧
  ∀ s b br g rest pos st c h parts,
    s.braids.get? b = some br → br.pending = g :: rest → (∀ p ∈ s.braidStrands b, p.2.handler = true → p.2.run = .exited) →
    lanesOf g.mask = [laneOf pos] → braidOf pos = b → s.strand? pos = some st → s.ctxs.get? (s.ctxNum st) = some c →
    c.st = .active → c.stopping = false → s.handlerFor (coreOf pos) (s.ctxNum st) c st.trap.cause = .ok h →
    s.devParts (coreOf pos) (s.ctxNum st) .write 2 ((c.tfBase.toNat + pos * 4096) % 2 ^ 64) 4096 = .ok parts →
    s.reachFault true parts = none → s.early = [] →
    Completes (.trapDelivery b) s fun t =>
      t.strand? pos = some (entered st h) ∧
      (∀ q, q ≠ pos → t.strand? q = s.strand? q) ∧
      t.braids.get? b = some { br with pending := rest } ∧
      ∀ j, (∀ q ∈ parts, j < q.key ∨ q.key + q.len ≤ j) → t.mem.read j = s.mem.read j

/-- The handler address of a cause is entry `cause` of the context's trap table, whose bit 0 marks it valid and whose bits
2 to 1 are zero, where the fetch of the clause there meets no fault (R327). -/
def Sys2Proof.Claims.TrapTableNamesHandler : Prop :=
  ∀ (s : State) (core ctx : Nat) (c : Ctx) (cause w : Nat) (q : Part),
    let entry := (c.trapBase.toNat + 8 * cause) % 2 ^ 64
    s.parts core ctx .read entry 8 = .ok [q] → q.len = 8 → s.reachFault false [q] = none → entry % 8 = 0 → s.early = [] →
    w = s.mem.readN q.key 8 →
    let h : DWord := BitVec.ofNat 64 (w - 1)
    (w % 8 ≠ 1 → s.handlerFor core ctx c cause = .bad none) ∧
    (w % 8 = 1 → s.fetchStop core ctx h = none → s.handlerFor core ctx c cause = .ok h) ∧
    (∀ f, w % 8 = 1 → s.fetchStop core ctx h = some f → f.cause ≠ 0 → s.handlerFor core ctx c cause = .bad (some (3, f))) ∧
    (∀ f, s.fetch8 core ctx h = .error f → s.fetchStop core ctx h = some f) ∧
    ∀ n f, s.fetch8 core ctx h = .ok n → bits n 63 60 = 13 → bits n 39 0 = 0 →
      s.fetchWords core ctx (h + 8) (bits n 59 56 + 1) = .error f → s.fetchStop core ctx h = some f

/-- rte (R336): the frame is restored and the strand is a candidate outside the handler at the frame's program counter; what
the handler issued writes no register any more. `rte.w` on a held record stalls the strand until it is served; one whose held
operation was refused at its replay stands at that word until it traps there. -/
def Obligations.ReturnFromHandler : Prop :=
  ∀ s x k st p f, s.Executes x (.rte false p) k st → s.Executes x (.rte true p) k st → st.frame = some f →
    st.systemIds = [] →
    let back := { st with
      regs := f, frame := none, handler := false, run := .candidate, past := some st.regs
      outlasts := st.outlasts.filter fun e => decide (e.1 < st.frameId)
      outs := st.outs.map fun q => if st.frameId ≤ q.id then { q with mute := true } else q }
    let refused := fun (o : Pend) => o.at_ = ⟨st.trap.clause, st.trap.word⟩ ∧ ∃ c d g, o.act = .refused c d g
    (Completes (.rte false p) s fun t => t.strand? (posOf x.braid k) = some back) ∧
    (∀ q, st.heldOn = some q → s.inServiceSeq (s.ctxNum st) q = true → Completes (.rte true p) s fun t =>
      t.strand? (posOf x.braid k) = some { back with run := .stalled (.service q) }) ∧
    (∀ q, st.heldOn = some q → s.inServiceSeq (s.ctxNum st) q = false → (∀ o ∈ st.outs, ¬ refused o) →
      Completes (.rte true p) s fun t => t.strand? (posOf x.braid k) = some back) ∧
    (∀ q o, st.heldOn = some q → s.inServiceSeq (s.ctxNum st) q = false → back.outs = [o] → refused o →
      Completes (.rte true p) s fun t => t.strand? (posOf x.braid k) =
        some { back with run := .stalled (.ops [o.id]), regs := { f with pc := o.at_ } }) ∧
    (st.heldOn = none → Completes (.rte true p) s fun t => t.strand? (posOf x.braid k) = some back)

/-- csrr and csrw (R337, R338): every register a strand may name, by number. csrw answers the old value; flags are cleared by
ones. -/
def Obligations.ControlRegisters : Prop :=
  ∀ s x k st l d a c br,
    let pos := posOf x.braid k
    let core := coreOf pos
    let v := (s.lane x k st).val .i32 a
    let reads := fun (csr : Nat) (w : Word) => s.Alone x (.csrr l d csr) k st →
      Issues s x (.csrr l d csr) k l .system s [(d, ⟨w, .i32⟩)]
    let writes := fun (csr : Nat) (u : State) (w : Word) => s.Alone x (.csrw l d csr a) k st →
      Issues s x (.csrw l d csr a) k l .system u [(d, ⟨w, .i32⟩)]
    s.ctxs.get? (s.ctxNum st) = some c → s.braids.get? x.braid = some br → k < 32 →
    reads 0x001 (st.regs.fstat.setWidth 32) ∧
    reads 0x002 (if st.regs.noMint then 1 else 0) ∧
    reads 0x010 (BitVec.ofNat 32 c.symlim) ∧
    reads 0x011 (BitVec.ofNat 32 c.symC) ∧
    reads 0x012 (BitVec.ofNat 32 c.pinq) ∧
    reads 0x020 (s.rollbacks.getD core 0) ∧
    (s.Alone x (.csrr l d 0x021) k st → Issues s x (.csrr l d 0x021) k l .system
      (s.modStrand pos fun y => { y with cychi := BitVec.ofNat 32 (s.clock core / 2 ^ 32) })
      [(d, ⟨BitVec.ofNat 32 (s.clock core), .i32⟩)]) ∧
    reads 0x022 st.cychi ∧
    reads 0x030 (if st.handler then 1 else 0) ∧
    reads 0x031 st.ttarget ∧
    reads 0x032 (BitVec.ofNat 32 br.pending.length) ∧
    writes 0x001 (s.modStrand pos fun y => { y with regs := { y.regs with fstat := y.regs.fstat &&& ~~~(v.setWidth 6) } })
      (st.regs.fstat.setWidth 32) ∧
    writes 0x002 (s.modStrand pos fun y => { y with regs := { y.regs with noMint := v.getLsbD 0 } })
      (if st.regs.noMint then 1 else 0) ∧
    writes 0x010 { s with ctxs := s.ctxs.modify (s.ctxNum st) fun c => { c with symlim := v.toNat % 2 ^ 16 } }
      (BitVec.ofNat 32 c.symlim) ∧
    writes 0x031 (s.modStrand pos fun y => { y with ttarget := v }) st.ttarget

/-- Closures: made, counted, applied, spawned, and loaded from memory. -/
def Obligations.ClosuresAndStrands : Prop := ClosureWordsResults ∧ QueuedClosureWords ∧ ApplyAndSpawn ∧ HandleLoads

/-- A pending trap group enters the handler that the trap table names. -/
def Obligations.TrapDelivery : Prop := TrapDeliveryEntersHandler ∧ TrapTableNamesHandler

/-- The target of a handler's word is the strand of its hank that TTARGET numbers. -/
structure Sys2Proof.Claims.Targets (s : State) (st : Strand) (pos : Nat) (y : Strand) : Prop where
  found : s.strands.find? (fun p => p.2.hank == st.hank && p.2.index == st.ttarget.toNat) = some (pos, y)
  there : s.strand? pos = some y

/-- A status word of `tins`, `tset`, `tres` and `tstep` (R333). -/
def Sys2Proof.Claims.answer (code state : Nat) : Reg := ⟨BitVec.ofNat 32 (code * 2 ^ 28 + state * 2 ^ 24), .stat⟩

/-- tins and tset (R331 to R333, R339) on a strand held by a handler: its registers, latch, operand file, flags, slots, program
counter, depth and trap record, by selector, and the writes that the selectors permit. -/
def Sys2Proof.Claims.HandlerTouchesHeldTarget : Prop :=
  ∀ s x k st l d a tp y,
    let w := (s.lane x k st).src .any a
    let reads := fun (sel : Nat) (r : Reg) => s.Alone x (.tins l d sel) k st →
      Issues s x (.tins l d sel) k l .system s [(d, r), (d + 1, answer 0 6)]
    let writes := fun (sel : Nat) (r : Regs) => s.Alone x (.tset l d sel a) k st →
      Issues s x (.tset l d sel a) k l .system (s.setStrand tp { y with regs := r }) [(d, answer 0 6)]
    Targets s st tp y → tp ≠ posOf x.braid k → y.held = true → y.handler = false → y.run ≠ .exited →
    let r := y.regs
    (∀ n v, n < 256 → r.v[n]? = some v → reads n v) ∧
    (∀ n, n < 8 → reads (0x100 + n) (r.o.getD n .zero)) ∧
    reads 0x108 r.ll ∧ reads 0x110 (i32 r.fstat.toNat) ∧ reads 0x111 (i32 r.slots.toNat) ∧
    reads 0x112 ⟨r.pc.clause.truncate 32, .i32⟩ ∧ reads 0x113 ⟨(r.pc.clause >>> 32).truncate 32, .i32⟩ ∧
    reads 0x114 (i32 r.pc.word) ∧ reads 0x115 (i32 r.depth) ∧ reads 0x116 (truth r.noMint) ∧ reads 0x117 (i32 6) ∧
    reads 0x118 ⟨r.fs, .i32⟩ ∧
    (∀ n, n < 8 → reads (0x120 + n) (i32 (y.trap.toNat / 2 ^ (32 * n) % 2 ^ 32))) ∧
    (∀ n, n < r.v.length → n < 256 → writes n { r with v := r.v.set n w }) ∧
    (∀ n, n < 8 → writes (0x100 + n) { r with o := r.o.set n w }) ∧
    writes 0x108 { r with ll := w } ∧
    writes 0x110 { r with fstat := w.val.setWidth 6 } ∧
    writes 0x112 { r with pc := ⟨r.pc.clause.extractLsb' 32 32 ++ w.val, r.pc.word⟩ } ∧
    writes 0x113 { r with pc := ⟨w.val ++ r.pc.clause.extractLsb' 0 32, r.pc.word⟩ } ∧
    writes 0x114 { r with pc := ⟨r.pc.clause, w.val.toNat⟩ } ∧
    writes 0x116 { r with noMint := w.val.getLsbD 0 }

/-- A running target may not be read or written: `tins` and `tset` answer CODE 3 and leave it. A selector that is not
permitted answers CODE 4 (R332, R333). -/
def Sys2Proof.Claims.HandlerMayNotTouchRunning : Prop :=
  ∀ s x k st l d a sel tp y, Targets s st tp y → tp ≠ posOf x.braid k → y.handler = false →
    (y.held = false → y.run = .candidate →
      (s.Alone x (.tins l d sel) k st → Issues s x (.tins l d sel) k l .system s [(d, ⟨0, .raw⟩), (d + 1, answer 3 0)]) ∧
      (s.Alone x (.tset l d sel a) k st → Issues s x (.tset l d sel a) k l .system s [(d, answer 3 0)])) ∧
    (y.held = true → y.run ≠ .exited → (sel = 0x111 ∨ sel = 0x115 ∨ sel = 0x117 ∨ sel = 0x118) →
      s.Alone x (.tset l d sel a) k st → Issues s x (.tset l d sel a) k l .system s [(d, answer 4 6)])

/-- tres (R340) on a trapped, a held or a running target: `go` lets a trapped or held strand go on, a trapped one as a candidate, and
leaves a running one; `hold` holds it, `kill` ends it as `exit` does; each that does something takes it out of its braid's pending
groups, and answers the state that it found. On the handler itself, or another handler, each answers CODE 5. -/
def Sys2Proof.Claims.HandlerDecidesTarget : Prop :=
  ∀ s x k st l d tp y,
    let pos := posOf x.braid k
    let out := fun (t : State) (f : Strand → Prop) =>
      (∃ z, t.strand? tp = some z ∧ f z) ∧
      (∀ b, t.braids.get? (braidOf tp) = some b → ∀ g ∈ b.pending, g.mask.getLsbD (laneOf tp) = false)
    let tells := fun (t : State) (r : Reg) =>
      t.strand? pos = some (issuing st l x.here s.moves .system false (.regs [(d, r)] 0))
    let state := if y.held then 6 else match y.run with
      | .candidate => 0
      | .stalled _ => 1
      | .blocked _ => 2
      | .parked _ => 3
      | .trapped => 4
      | .exited => 7
    Targets s st tp y → tp ≠ pos → y.handler = false → y.run ≠ .exited → (∀ w, y.run ≠ .parked w) → st.run = .candidate →
    (s.Alone x (.tresGo l d) k st → y.held = true ∨ y.run = .trapped → Completes (.tresGo l d) s fun t =>
      tells t (answer 0 state) ∧ out t fun z =>
        z = { y with held := false, run := if y.run = .trapped then .candidate else y.run }) ∧
    (s.Alone x (.tresGo l d) k st → y.held = false → y.run ≠ .trapped →
      Issues s x (.tresGo l d) k l .system s [(d, answer 0 state)]) ∧
    (s.Alone x (.tresHold l d) k st → Completes (.tresHold l d) s fun t =>
      tells t (answer 0 state) ∧ out t fun z => z = { y with held := true }) ∧
    (s.Alone x (.tresKill l d) k st → Runs tp y → y.regs.k = List.replicate 8 0 →
      y.regs.n = [none, none, none, none] → y.outs = [] → Completes (.tresKill l d) s fun t =>
      tells t (answer 0 state) ∧ out t fun z => z.run = .exited ∧ z.held = false ∧ z.regs.calls = [])

/-- A handler's word on its own strand: `tres` answers CODE 5, `tstep` CODE 3. -/
def Sys2Proof.Claims.HandlerWordsOnSelf : Prop :=
  ∀ s x k st l d, Targets s st (posOf x.braid k) st → st.handler = true → st.run = .candidate →
    (s.Alone x (.tresGo l d) k st → Issues s x (.tresGo l d) k l .system s [(d, answer 5 5)]) ∧
    (s.Alone x (.tresHold l d) k st → Issues s x (.tresHold l d) k l .system s [(d, answer 5 5)]) ∧
    (s.Alone x (.tresKill l d) k st → Issues s x (.tresKill l d) k l .system s [(d, answer 5 5)]) ∧
    (s.Alone x (.tstep l d) k st → Issues s x (.tstep l d) k l .system s [(d, answer 3 5)])

/-- tstep, tswap, gettime and sleep (R341 to R343): a step of a stopped braid is asked of its quarter; tswap stops the hank and
asks its arbiter for the swap; gettime answers device time; sleep blocks until a deadline not yet reached, and SLEEP_WAKEUP
ends it then. -/
def Sys2Proof.Claims.StepSwapAndTime : Prop :=
  ∀ s x k st l d p,
    let pos := posOf x.braid k
    let now := s.time (coreOf pos / 48)
    (∀ tp y, s.Alone x (.tstep l d) k st → Targets s st tp y → tp ≠ pos → y.held = true → y.handler = false →
      y.run ≠ .exited → (∀ z ∈ s.braidStrands (braidOf tp), z.2.run = .exited ∨ z.2.held = true) →
      (s.quarter (tp / 512)).step = none → Completes (.tstep l d) s fun t =>
        (t.quarter (tp / 512)).step = some ⟨⟨braidOf tp, 0, 0, [], 0⟩, 0, [(pos, st.nextId, d)], 0⟩ ∧
        t.strand? pos = some (issuing st l x.here s.moves .system false .waiting)) ∧
    (∀ h, s.Alone x (.tswap p) k st → s.hanks.get? st.hank = some h → h.stopping = false → Completes (.tswap p) s fun t =>
      t.hanks.get? st.hank = some { h with stopping := true } ∧
      t.events.getD h.core [] = s.events.getD h.core [] ++ [.swap st.hank] ∧
      t.strand? pos = some { st with run := .stalled .swap, regs := { st.regs with pc := x.after (.tswap p) } }) ∧
    (s.Alone x (.gettime l d) k st →
      Issues s x (.gettime l d) k l .system s (pairFrom d (BitVec.ofNat 64 now))) ∧
    (∀ a, s.Alone x (.sleep l (.rel a)) k st → 0 < (s.lane x k st).nat .i32 a → Completes (.sleep l (.rel a)) s fun t =>
      s.OnlyStrand t pos
        { issuing st l x.here s.moves .system false (.served none (x.after (.sleep l (.rel a))) none) with
          run := .blocked (.sleep (now + (s.lane x k st).nat .i32 a)) }) ∧
    (∀ a, s.Alone x (.sleep l (.abs a)) k st → ((s.lane x k st).pair a).toNat ≤ now →
      Issues s x (.sleep l (.abs a)) k l .system s [])

/-- SLEEP_WAKEUP (R343): once device time has reached the deadline, the wake goes to the core's arbiter, once. -/
def Sys2Proof.Claims.SleepersWake : Prop :=
  ∀ s pos y dl q rest next acq, s.strand? pos = some y → y.run = .blocked (.sleep dl) → y.outs = q :: rest →
    q.act = .served none next acq →
    let now := s.time (coreOf pos / 48)
    (dl ≤ now → CoreEvent.wake pos q.id ∉ s.events.getD (coreOf pos) [] → Completes (.sleepWakeup pos) s fun t =>
      t = { s with events := s.events.set (coreOf pos) (s.events.getD (coreOf pos) [] ++ [.wake pos q.id]) }) ∧
    (now < dl → exec (.sleepWakeup pos) s = .next s)

/-- tins and tset: on a strand that a handler holds, and on one that it may not touch. -/
def Obligations.HandlerReadsAndWritesTarget : Prop := HandlerTouchesHeldTarget ∧ HandlerMayNotTouchRunning

/-- tres and tstep: on a trapped strand, and on the handler itself. -/
def Obligations.HandlerResumesTarget : Prop := HandlerDecidesTarget ∧ HandlerWordsOnSelf

/-- Single steps, hank swaps, device time and sleep. -/
def Obligations.StepSwapTimeAndSleep : Prop := StepSwapAndTime ∧ SleepersWake

/-! ## Fences, speculation and the hold buffer (11) -/

/-- fence issues with the strand's checkpoint, at the word after it (R225, R229), and one that acquires takes over the releases
handed to its strand (R219); it completes once the accesses it waits for are performed, its own and those of the releases
handed over, no word read past it has been written since by another observer, and, for a release at .dm or .sy, what the device's
engines have written in other packages is acknowledged (19 R354); and not before (R226). -/
def Sys2Proof.Claims.FencesIssueAndComplete : Prop :=
  (∀ s x k st kind sc l, s.Executes x (.fence kind sc l) k st → Completes (.fence kind sc l) s fun t =>
    let y := (issuing st l x.here s.moves .plain false .apply).regs
    let hand := if kind = .rel then [] else st.handed
    t.strand? (posOf x.braid k) = some (issuing { st with handed := if kind = .rel then st.handed else [] } l x.here s.moves
      .plain false (.fence kind sc none { y with pc := x.after (.fence kind sc l) } none [] hand))) ∧
  (∀ s pos id x p kind sc ck w rd hand, s.strand? pos = some x → s.pend? pos id = some p →
    p.act = .fence kind sc none ck w rd hand → p.mute = false → x.run = .candidate → Runs pos x → x.deferred = none →
    s.early = [] →
    ((∀ q ∈ x.outs, q.id < id → q.isAccess = false ∧ q.isRead = false) → (∀ h ∈ hand, s.gone h.1 h.2 = true) →
      (pos, id) ∉ s.spoiled → (kind ≠ .acq → s.farReady (some sc) = true) → Completes (.fenceCompletion pos id) s fun t =>
        Finishes s t pos id (completing x.regs p.slot [] 0) ∧ t.mem = s.mem) ∧
    (kind ≠ .acq → s.farReady (some sc) = false → exec (.fenceCompletion pos id) s = .next s) ∧
    ((∃ q ∈ x.outs, q.id < id ∧ q.isRead = true) → exec (.fenceCompletion pos id) s = .next s) ∧
    (kind ≠ .acq → (∃ q ∈ x.outs, q.id < id ∧ q.isAccess = true) → exec (.fenceCompletion pos id) s = .next s) ∧
    (kind ≠ .rel → (pos, id) ∈ s.spoiled → exec (.fenceCompletion pos id) s = .next s) ∧
    (∀ h z f k sc ck w rd hd q, h ∈ hand → s.strandWith h.1 h.2 = some z → f ∈ z.outs → f.id = h.2 → q ∈ z.outs →
      f.act = .fence k sc none ck w rd hd → q.id < f.id → q.isAccess = true → q.isRead = true →
      exec (.fenceCompletion pos id) s = .next s))

/-- A deferred trap is delivered when the last fence before it completes (R230): the strand is trapped with that record and
its braid pending, in a group of the clause where it trapped and of its issue set (18 R328). -/
def Sys2Proof.Claims.DeferredTrapFollowsFence : Prop :=
  ∀ s pos id x p sc ck w r br, s.strand? pos = some x → s.pend? pos id = some p → p.act = .fence .acq sc none ck w [] [] →
    p.mute = false → x.run = .stalled (.ops [id]) → Runs pos x → (pos, id) ∉ s.spoiled → x.deferred = some r → x.outs = [p] →
    x.handler = false → x.held = false → s.braids.get? (braidOf pos) = some br →
    Completes (.fenceCompletion pos id) s fun t =>
      (∃ y, t.strand? pos = some y ∧ y.run = .trapped ∧ y.trap = r ∧ y.deferred = none ∧ y.outs = []) ∧
      ∃ b, t.braids.get? (braidOf pos) = some b ∧ ∃ g ∈ b.pending, g.mask.getLsbD (laneOf pos) = true ∧ g.clause = r.clause ∧
        g.cause = r.cause ∧ g.set = x.trapSet

/-- HOLD_BUFFER_LEAVE (R227, R228): an entry leaves only after every earlier fence of its strand is complete and every earlier
entry gone; a store, atomic or exact-cell instruction may then be performed, a copy command joins its queue, and strands
blocked for room in the buffer go on. -/
def Sys2Proof.Claims.HoldBufferDrains : Prop :=
  ∀ s pos id x p, s.strand? pos = some x → s.pend? pos id = some p → p.held = true →
    ((∃ q ∈ x.outs, q.id < id ∧ (q.isFence = true ∨ q.held = true)) →
      exec (.holdBufferLeave pos id) s = .next s) ∧
    ((∀ q ∈ x.outs, q.id < id → q.isFence = false ∧ q.held = false) →
      (∀ ps got o op, p.act = .mem ps got o op → Completes (.holdBufferLeave pos id) s fun t =>
        t.pend? pos id = some { p with held := false } ∧ t = { s with strands := t.strands } ∧
        ∀ q y, q ≠ pos → s.strand? q = some y → braidOf q = braidOf pos → y.run = .blocked .holdBuffer →
          t.strand? q = some { y with run := .candidate }) ∧
      (∀ cls c, p.act = .copy cls c → Runs pos x → c.att = .nothing → c.kind ≠ .fence →
        ((s.engine (coreOf pos)).queue cls).length + (s.parkedCopies (coreOf pos) cls).length < 32 → cls < (s.engine (coreOf pos)).queues.length →
        Completes (.holdBufferLeave pos id) s fun t =>
          t.pend? pos id = some { p with held := false, act := .waiting } ∧
          (t.engine (coreOf pos)).queue cls = (s.engine (coreOf pos)).queue cls ++
            [{ c with uid := s.uid, attached := false, joins := [], old := s.recordNow (coreOf pos) c }]))

/-- ROLLBACK (R229, R231): where another observer has written a word that a strand read past an acquire fence, every strand of
its issue set returns to the fence's checkpoint, what it issued since is dropped, and the core counts the rollback; where none
has, nothing happens. A deferred trap of a word issued since is dropped with it, and one of the acquire itself stays (R230). That a
word is watched whole is the model's reading (log 8). -/
def Sys2Proof.Claims.RollbackReturnsToCheckpoint : Prop :=
  ∀ s b grp,
    (∀ pos x p sc only ck rd hand, braidOf pos = b → s.strand? pos = some x → x.fenceOf grp = some p →
      p.act = .fence .acq sc only ck none rd hand → (pos, p.id) ∈ s.spoiled →
      Completes (.rollback b grp) s fun t =>
        (∃ y, t.strand? pos = some y ∧ y.regs = ck ∧ (∀ q ∈ y.outs, q.id ≤ p.id) ∧
          (x.deferred = none ∨ p.id < x.deferNum → y.run = .candidate ∧ y.deferred = none) ∧
          (x.deferNum ≤ p.id → y.deferred = x.deferred)) ∧
        (∀ q, braidOf q ≠ b → t.strand? q = s.strand? q) ∧
        (pos, p.id) ∉ t.spoiled ∧
        t = { s with strands := t.strands, spoiled := t.spoiled
                     rollbacks := s.rollbacks.set (b / 64) (s.rollbacks.getD (b / 64) 0 + 1) }) ∧
    ((∀ pos x p, (pos, x) ∈ s.braidStrands b → x.fenceOf grp = some p → (pos, p.id) ∉ s.spoiled) →
      exec (.rollback b grp) s = .next s)

/-! ## Schedulers and the arbiter (07, 11) -/

/-- SCHEDULER_ROUND (R118, R119): a free issue slot takes, among the eligible braids, the one of the highest priority class
where no braid is aged and no strand is in a handler; its issue set stands at word 1 of its clause, and the braids passed over
count a round. A quarter whose slot is taken does nothing. -/
def Sys2Proof.Claims.RoundChoosesHighestClass : Prop :=
  (∀ s q, (s.quarter q).cur.isSome = true → exec (.schedulerRound q) s = .next s) ∧
  ∀ s q b br m st c, q < 1536 → s.clocksStopped = false → (s.quarter q).cur = none → (s.quarter q).aged = [] →
    (quarterBraids q).foldl State.settleBraid s = s → b / 16 = q → s.braids.get? b = some br → br.prio < 4 →
    s.issueSet b = some (m, st) → st.handler = false →
    (∀ d y, d ∈ quarterBraids q → s.braids.get? d = some y → y.unchosen < 48) →
    (∀ d n y, d ∈ quarterBraids q → d ≠ b → s.issueSet d = some (n, y) → y.handler = false ∧
      ∃ z, s.braids.get? d = some z ∧ z.prio < br.prio) →
    s.fetchClause (b / 64) (s.ctxNum st) st.regs.pc.clause = .ok c → st.regs.pc.word = 0 →
    Completes (.schedulerRound q) s fun t =>
      (t.quarter q).cur = some ⟨b, m, st.regs.pc.clause, c.words, 1⟩ ∧ t.mem = s.mem ∧
      t.braids.get? b = some { br with unchosen := 0 } ∧
      (∀ d n y z, d ∈ quarterBraids q → d ≠ b → s.issueSet d = some (n, y) → s.braids.get? d = some z →
        t.braids.get? d = some { z with unchosen := z.unchosen + 1 }) ∧
      ∀ l y, l < 32 → m.getLsbD l = true → s.strand? (posOf b l) = some y → y.run = .candidate →
        t.strand? (posOf b l) = some { y with regs := { y.regs with pc := ⟨st.regs.pc.clause, 1⟩ } }

/-- BRAID_AGED (R118): an eligible braid unchosen for 48 rounds joins the aged list of its quarter; one with fewer does not. -/
def Sys2Proof.Claims.BraidsAge : Prop :=
  ∀ s b br, s.braids.get? b = some br →
    (48 ≤ br.unchosen → (s.issueSet b).isSome = true → Completes (.braidAged b) s fun t =>
      b ∈ (t.quarter (b / 16)).aged ∧ t = { s with quarters := t.quarters }) ∧
    (br.unchosen < 48 → exec (.braidAged b) s = .next s)

/-- SLACK_RETURN and GATHER_POINT_RELEASE (R121, R137): a parked strand is a candidate again once no strand that it watches is
one, and a strand stalled at a gather point once no other strand of its braid stands before the point. Other strands keep
their state. -/
def Sys2Proof.Claims.ParkedAndGatheredReturn : Prop :=
  ∀ s b pos x, s.strand? pos = some x → braidOf pos = b →
    (∀ w, x.run = .parked w → w &&& s.candMask b = 0 → Completes (.slackReturn b) s fun t =>
      t.strand? pos = some { x with run := .candidate } ∧ t = { s with strands := t.strands }) ∧
    (∀ w, x.run = .parked w → w &&& s.candMask b ≠ 0 → Completes (.slackReturn b) s fun t =>
      t.strand? pos = some { x with run := .parked (w &&& s.candMask b) } ∧ t = { s with strands := t.strands }) ∧
    (x.run = .stalled .gather → s.gatherBlocked b 0 x x.regs.pc.clause x.regs.pc.word = false →
      Completes (.gatherPointRelease b) s fun t =>
        t.strand? pos = some { x with run := .candidate } ∧ t = { s with strands := t.strands }) ∧
    (x.run = .candidate → Completes (.gatherPointRelease b) s fun t => t.strand? pos = some x)

/-- EVENT_APPLICATION (R235): the oldest event of the next of the six sources is applied and gone. What it brings completes the
instruction of its strand, which goes on, past the word where it still stood at it: a barrier's phase, a knot's result, a copy's status
word, a bank's word, a wake. Where no write is readable to some observers first, memory reads as before. -/
def Sys2Proof.Claims.ArbiterEventsApply : Prop :=
  ∀ s core pos id x p e, s.events.getD core [] = [e] → s.strand? pos = some x → s.pend? pos id = some p → p.mute = false →
    x.outlasts = [] →
    let resumes := fun (b : Block) (w : List (Nat × Reg)) (fl : FFlags) => x.run = .blocked b →
      Completes (.eventApplication core) s fun t =>
        (∃ y, t.strand? pos = some y ∧ y.run = .candidate ∧ y.regs = 
            (if x.regs.pc = p.at_ then { completing x.regs p.slot w fl with pc := p.next } else completing x.regs p.slot w fl) ∧
          ∀ q ∈ y.outs, q.id ≠ id) ∧
        t.events.getD core [] = [] ∧ (s.early = [] → t.mem = s.mem) ∧ ∀ q, q ≠ pos → t.strand? q = s.strand? q
    (e = .barrier [(pos, id)] → resumes .barrier [] 0) ∧
    (∀ w fl, e = .knot [⟨pos, id, w, fl, none⟩] → resumes .knot w fl) ∧
    (∀ v d n a, e = .service pos id (some v) false → p.act = .served (some d) n a → resumes .word [(d.1, ⟨v, d.2⟩)] 0) ∧
    (∀ v d n a, e = .service pos id (some v) false → p.act = .served (some d) n a → resumes .fifo [(d.1, ⟨v, d.2⟩)] 0) ∧
    (∀ n a, e = .service pos id none false → p.act = .served none n a → resumes .word [] 0) ∧
    (∀ n a, e = .service pos id none false → p.act = .served none n a → resumes .fifo [] 0) ∧
    (∀ dl, e = .wake pos id → resumes (.sleep dl) [] 0) ∧
    (∀ cls c, e = .copy cls c → c.pos = pos → c.pend = id → x.run = .candidate → Completes (.eventApplication core) s fun t =>
      t.events.getD core [] = [] ∧ ∃ y, t.strand? pos = some y ∧ y.regs = completing x.regs p.slot
        [(c.dst, ⟨BitVec.ofNat 32 (c.code * 2 ^ 28 + cls * 2 ^ 24 + (c.bytes + 63) / 64 % 2 ^ 24), .stat⟩)] 0)

/-- SWAP_IN (18 R344, R345): the first saved hank of a core's list that has room, and whose images pass their checks, returns,
with its strands at the places they had (log 10), its barriers and banks kept; an image that fails its checks faults the context with
code 7, and the hank stays saved, which for the image of a hank is the model's choice (log 9); the reading of an image waits for a port
to the package it lies in (19 R352); where none may return, nothing happens. A hank that was saved at the instruction level brings
its barriers, its banks and their bytes back (04 R79). -/
def Sys2Proof.Claims.SavedHanksReturn : Prop :=
  (∀ s core v c, s.nextIn core = some v → s.ctxs.get? v.hank.ctx = some c →
    (∀ i ∈ s.imagesOf c v, s.imageBad v.hank.ctx c i = false) → v.events = [] → v.copies = [] →
    (∀ i ∈ s.imagesOf c v, s.imageLink v.hank.ctx c i = none) →
    (∀ y ∈ v.strands, Runs y.1 y.2 ∧ ∀ p ∈ y.2.outs, p.held = false ∧ p.pieces = []) → s.hankStrands v.uid = [] →
    Completes (.swapIn core) s fun t =>
      t.hanks.get? v.uid = some { v.hank with stopping := false } ∧
      (v.swap = true → (s.early = [] → t.mem = s.mem) ∧ t.banks = s.banks ∧ t.barriers = s.barriers) ∧
      (v.swap = false → (∀ k b, v.barriers = [(k, b)] → t.barriers.get? k = some b) ∧
        (∀ k b, v.banks = [(k, b)] → t.bank k = b) ∧
        ∀ a x, v.bytes = [(a, x)] → s.early = [] → s.MemOk → t.mem.read a = x) ∧
      (∀ w ∈ t.saved, w.uid ≠ v.uid) ∧
      (∀ c, v.uid ∉ t.swapIn.getD c []) ∧
      ∀ pos y, v.strands = [(pos, y)] → y.outs = [] → t.strand? pos = some { y with awaits := [] }) ∧
  (∀ s core v c i, s.nextIn core = some v → s.ctxs.get? v.hank.ctx = some c → i ∈ s.imagesOf c v →
    (∀ j ∈ s.imagesOf c v, s.imageLink v.hank.ctx c j = none) → s.imageBad v.hank.ctx c i = true → Completes (.swapIn core) s fun t =>
      t.strands = s.strands ∧ t.saved = s.saved ∧ t.hanks = s.hanks ∧
      ∃ d, t.ctxs.get? v.hank.ctx = some d ∧ d.st = .faulted ∧ d.faultCode = 7) ∧
  (∀ s core v c g, s.nextIn core = some v → s.ctxs.get? v.hank.ctx = some c →
    (s.imagesOf c v).findSome? (s.imageLink v.hank.ctx c) = some g → Completes (.swapIn core) s fun t =>
      t = s.awaitLink (.engine core) v.hank.ctx core g) ∧
  (∀ s core, s.nextIn core = none → exec (.swapIn core) s = .next s)

/-- The arbiter's decision to swap a hank out (18 R344) is applied once the hank is quiet, and not before: the hank and its strands are
saved and leave the core, its barriers and banks stay, and it joins the list of its core's hanks that are to come back. Where the
save area does not take its image, the context faults with code 8, as R84 of 04 has it for a suspend and an instruction-level
pre-emption: that a swap does so too is the model's choice (log 29). An uncorrectable error there faults it with code 1, or with code 9
where the ring does not take the record (04 R85, 09 R176); want of a port lets the event wait (19 R352). -/
def Sys2Proof.Claims.HanksSwapOut : Prop :=
  ∀ s core h hank, s.events.getD core [] = [.swap h] → s.hanks.get? h = some hank →
    (s.hankQuiet h = false → exec (.eventApplication core) s = .next s) ∧
    (s.hankQuiet h = true → (∀ y ∈ s.hankStrands h, y.2.outs = [] ∧ ∀ b, y.2.run ≠ .blocked b) →
      let s1 := { s with events := s.events.set core [], lastSource := s.lastSource.set core 4 }
      let image := s1.writeImage hank.core hank.ctx (.hank h) (Config.saveSize s.draws) 0 0
      (∀ u, image = .ok u → Completes (.eventApplication core) s fun t =>
        t.hanks = s.hanks.erase h ∧ (∀ y ∈ t.strands, y.2.hank ≠ h) ∧ (∀ y ∈ t.braids, y.2.hank ≠ h) ∧
        t.barriers = s.barriers ∧ t.banks = s.banks ∧ t.mem = u.mem ∧ h ∈ t.swapIn.getD hank.core [] ∧
        ∃ v ∈ t.saved, v.uid = h ∧ v.swap = true ∧ v.hank = hank ∧ v.strands = s.hankStrands h) ∧
      (∀ c stop, image = .error stop → (∀ g, stop ≠ .wait g) → s.ctxs.get? hank.ctx = some c → c.st = .active →
        let upset := ∃ f, stop = .fault f ∧ f.cause = 7
        Completes (.eventApplication core) s fun t => t.hanks = s.hanks ∧ t.saved = s.saved ∧
          ∃ d, t.ctxs.get? hank.ctx = some d ∧ d.st = .faulted ∧ (¬ upset → d.faultCode = 8) ∧
            (upset → d.faultCode = 1 ∨ d.faultCode = 9)) ∧
      (∀ g, image = .error (.wait g) → Completes (.eventApplication core) s fun t =>
        t = s.awaitLink (.engine core) hank.ctx core g))

/-- Fences, and the traps that wait for them. -/
def Obligations.FencesAndDeferredTraps : Prop := FencesIssueAndComplete ∧ DeferredTrapFollowsFence

/-- What a strand did past a fence: held writes leave the buffer, or a rollback undoes it. -/
def Obligations.SpeculationDrainsOrRollsBack : Prop := HoldBufferDrains ∧ RollbackReturnsToCheckpoint

/-- The group scheduler: its round, ageing, and the strands that return to it. -/
def Obligations.SchedulerRounds : Prop := RoundChoosesHighestClass ∧ BraidsAge ∧ ParkedAndGatheredReturn

/-- A core's arbiter applies events and swaps hanks out, and saved hanks return. -/
def Obligations.ArbiterAndSwapIn : Prop := ArbiterEventsApply ∧ HanksSwapOut ∧ SavedHanksReturn

/-! ## Hanks and launches (06) -/

/-- The hank `h` stands on a seat: its banks are its own in scratchpad mode, its braids are full, and strand i is at the start
state of R107 in lane i mod 32 of braid i / 32. -/
def Sys2Proof.Claims.Placed (t : State) (h : Nat) (hk : Hank) (l : Launch) (seat : Seat) (n0 : Option Nat) : Prop :=
  let k := l.kobj
  let braid := fun (i : Nat) => (seat.slots.map fun b => seat.core * 64 + b)[i]?
  t.hanks.get? h = some hk ∧
  (∀ b ∈ seat.banks, t.bank b = ⟨.scratch, some h, [], [], [], []⟩) ∧
  (∀ i b, braid i = some b → t.braids.get? b = some ⟨h, i, l.prio, BitVec.allOnes 32, 0, []⟩) ∧
  ∀ i b, braid (i / 32) = some b →
    let pos := b * 32 + i % 32
    let stack : DWord := BitVec.ofNat 64 (bits k 191 128 + pos * bits k 255 240 * 256)
    ∃ y, t.strand? pos = some y ∧ y.hank = h ∧ y.index = i ∧ y.run = .candidate ∧ y.outs = [] ∧ y.held = false ∧
      y.handler = false ∧ y.launch = hk.launch ∧ y.opener = some hk.launch ∧ y.nb = (hk.nb.map fun n => (n, hk.nbpos)) ∧
      y.stackB = stack ∧ y.stackE = stack + BitVec.ofNat 64 (bits k 255 240 * 256) ∧
      y.regs = Regs.start (16 * bits k 84 80) (kAffs k) l.arg (BitVec.ofNat 64 (k % 2 ^ 64)) stack n0

/-- The hank of a launch on a seat. -/
def Sys2Proof.Claims.hankOn (launch : Nat) (l : Launch) (seat : Seat) (index : Nat) (nb : Option Nat) (nbpos : Nat) : Hank :=
  let k := l.kobj
  { ctx := l.ctx, launch := launch, index := index, core := seat.core, braids := seat.slots.map fun b => seat.core * 64 + b
    strands := 32 * bits k 98 92, regs := 16 * bits k 84 80, affs := kAffs k, scrkb := bits k 116 104, banks := seat.banks
    nb := nb, nbpos := nbpos, nhank := l.count, prio := l.prio, spawn := none, stopping := false }

/-- HANK_PLACEMENT and NEIGHBOURHOOD_PLACEMENT (R102 to R107): the next hank of a launch, or the hanks of its next
neighbourhood together with their launch knot, stand on seats that fit; no byte outside their banks changes. A launch waits
while a queue of its die with a higher QPRI has hanks to place that fit (05 R97); the unit of the round robin, which
`dispatched` notes, is the model's choice (log 59). -/
def Sys2Proof.Claims.HanksArePlaced : Prop :=
  (∀ s launch seat l, s.launches.get? launch = some l → l.nbsize = 1 → s.dispatches launch l = true →
    s.seatFits l.ctx l.kobj seat = true → s.turnOf l = true → Completes (.hankPlacement launch seat) s fun t =>
      t.launches.get? launch = some { l with next := l.next + 1 } ∧
      (∀ x, s.queues.get? l.queue = some x → t.dispatched.get? (x.die * 4 + x.pri) = some l.queue) ∧
      Placed t s.uid (hankOn launch l seat l.next none 0) l seat none ∧
      ∀ j, (∀ b ∈ seat.banks, j < bankKey b 0 ∨ bankKey b 0 + 2 ^ 18 ≤ j) → t.mem.read j = s.mem.read j) ∧
  (∀ s launch seats origin rest l key, s.launches.get? launch = some l → 2 ≤ l.nbsize → seats.length = l.nbsize →
    s.dispatches launch l = true → rectangle seats = true → seats.map Seat.core = origin :: rest →
    (∀ seat ∈ seats, s.seatFits l.ctx l.kobj seat = true) → s.turnOf l = true → s.freeEntry origin = some key →
    let n := 32 * bits l.kobj 98 92
    let serial := ((s.knot key).serial + 1) % 2 ^ 17
    Completes (.neighbourhoodPlacement launch seats) s fun t =>
      t.launches.get? launch =
        some { l with next := l.next + l.nbsize, nbs := l.nbs ++ [(s.uid, seats.map Seat.core)] } ∧
      (∀ j seat, seats[j]? = some seat →
        Placed t (s.uid + 1 + j * (n + 1)) (hankOn launch l seat (l.next + j) (some s.uid) j) l seat
          (some (key / 64 * 2 ^ 23 + key % 64 * 2 ^ 17 + serial)) ∧
        ∀ i b, (seat.slots.map fun b => seat.core * 64 + b)[i / 32]? = some b →
          ⟨b * 32 + i % 32, j * n + i⟩ ∈ (t.knot key).members) ∧
      (t.knot key).members.length = l.nbsize * n ∧ (t.knot key).live = true ∧ (t.knot key).serial = serial ∧
      (t.knot key).place = s.uid ∧ (t.knot key).g = 0 ∧ (t.knot key).kind = none) ∧
  (∀ s launch l x r y m lm, s.launches.get? launch = some l → s.queues.get? l.queue = some x → (r, y) ∈ s.queues →
    r ≠ l.queue → y.die = x.die → x.pri < y.pri → (m, lm) ∈ s.launches → lm.queue = r → s.dispatches m lm = true →
    s.launchFits lm = true → (∀ seat, exec (.hankPlacement launch seat) s = .next s) ∧
      ∀ seats, exec (.neighbourhoodPlacement launch seats) s = .next s)

/-- HANK_RETIREMENT and LAUNCH_COMPLETION (R103, R112, 07 R114): a hank whose strands have all exited leaves its core, its banks
back in cache mode, and its launch counts it, while accesses of an exited strand go on apart from it; one of spawn braids counts for
no launch. A pre-empt at hank depth ends with the last hank of its queue, with the launch record of R110 written, and not before (R109).
A launch all of whose hanks are retired, and whose copy commands and writes are performed, completes, with its writes performed at .p;
when the engine sees that is open in time (log 6). -/
def Sys2Proof.Claims.HanksRetireAndLaunchesComplete : Prop :=
  (∀ s h hank l, s.hanks.get? h = some hank → hank.spawn = none → s.launches.get? hank.launch = some l →
    (∀ x, s.queues.get? l.queue = some x → x.preempting = none) →
    ((∀ p ∈ s.hankStrands h, p.2.run = .exited) → Completes (.hankRetirement h) s fun t =>
      t.hanks.get? h = none ∧ t.launches.get? hank.launch = some { l with retired := l.retired + 1 } ∧
      (∀ p y, t.strand? p = some y → y.hank ≠ h) ∧
      (∀ p, p < 384 * 2048 → (∀ q ∈ s.hankStrands h, q.1 ≠ p) → t.strand? p = s.strand? p) ∧
      (∀ p x, s.hankStrands h = [(p, x)] → p < 384 * 2048 → h ≠ s.uid → x.outs ≠ [] → (∀ a ∈ x.outs, a.isAccess = true) →
        t.strand? (p + 384 * 2048 * (s.uid + 1)) = some { x with hank := s.uid }) ∧
      (∀ b y, t.braids.get? b = some y → y.hank ≠ h) ∧ (∀ k y, t.barriers.get? k = some y → y.owner ≠ h) ∧
      (∀ b ∈ hank.banks, t.bank b = ⟨.cache, none, [], [], [], []⟩) ∧
      ∀ j, (∀ b ∈ hank.banks, j < bankKey b 0 ∨ bankKey b 0 + 2 ^ 18 ≤ j) → t.mem.read j = s.mem.read j) ∧
    ((∃ p ∈ s.hankStrands h, p.2.run ≠ .exited) → exec (.hankRetirement h) s = .next s)) ∧
  (∀ s h hank, s.hanks.get? h = some hank → hank.spawn ≠ none → s.launches.get? hank.launch = none →
    (∀ p ∈ s.hankStrands h, p.2.run = .exited) → Completes (.hankRetirement h) s fun t =>
      t.hanks.get? h = none ∧ t.launches = s.launches ∧ t.queues = s.queues ∧ (∀ p y, t.strand? p = some y → y.hank ≠ h) ∧
      ∀ b y, t.braids.get? b = some y → y.hank ≠ h) ∧
  (∀ s h hank l x w, s.hanks.get? h = some hank → hank.spawn = none → hank.banks = [] → s.launches.get? hank.launch = some l →
    s.queues.get? l.queue = some x → x.preempting = some 0 → x.svc = none → (∀ p ∈ s.hankStrands h, p.2.run = .exited) →
    s.early = [] → s.launchesOf l.queue = [(hank.launch, l)] → s.queueSaved l.queue = [] → l.retired + 1 < l.count → l.next ≠ l.count →
    s.devParts x.core x.ctx .write 2 ((x.desc.toNat + 64) % 2 ^ 64) 64 = .ok [w] → w.len = 64 → keyPackage w.key = none →
    s.busFault true [w] = none →
    (s.queueHanks l.queue = [h] → Completes (.hankRetirement h) s fun t =>
      t.queues.get? l.queue = some { x with st := .preempted, thread := false, preempting := none } ∧
      Stores s t w.key 64 (Launch.image { l with retired := l.retired + 1 })) ∧
    ((∃ g ∈ s.queueHanks l.queue, g ≠ h) → Completes (.hankRetirement h) s fun t => t.queues = s.queues ∧ t.mem = s.mem)) ∧
  (∀ s launch l c, s.launches.get? launch = some l → s.ctxs.get? l.ctx = some c → c.st = .active →
    (∀ x, s.queues.get? l.queue = some x → x.preempting = none) → s.launchCopies launch = false →
    (l.retired = l.count → (∀ p ∈ s.strands, p.2.launch = launch → ∀ o ∈ p.2.outs, o.toWrite = false) →
      Completes (.launchCompletion launch) s fun t =>
        (∀ w ∈ t.early, w.launch = some launch → ∀ g, g < 392 → w.reach.far.getLsbD g = true) ∧
        t = { s with
          mem := t.mem, early := t.early, spoiled := t.spoiled, launches := s.launches.erase launch
          queues := s.queues.modify l.queue fun x =>
            { x with started := x.started.filter fun p => p.launch != some launch } } ∧
        (s.early = [] → t.mem = s.mem)) ∧
    (l.retired ≠ l.count → exec (.launchCompletion launch) s = .next s) ∧
    ((∃ p ∈ s.strands, p.2.launch = launch ∧ ∃ o ∈ p.2.outs, o.toWrite = true) → exec (.launchCompletion launch) s = .next s))

/-! ## Queues and packets (05) -/

/-- A part that the engines of the device reach: in this package or its host, and free of errors. -/
def Sys2Proof.Claims.Reached (s : State) (w : Part) : Prop := keyPackage w.key = none ∧ ∀ write, s.busFault write [w] = none

/-- A queue with a thread, past its waits, at whose head the packet `p` stands, and the part that holds its RDIDX; no early
write is on its way, and none of the engines' to another package. -/
structure Sys2Proof.Claims.AtHead (s : State) (q : Nat) (x : Queue) (p : Packet) (w : Part) : Prop where
  queue : s.queues.get? q = some x
  takes : s.takes x = true
  free : s.timedHolds q = false
  past : x.waiting = none
  head : s.head x = .packet p
  whole : x.over = false
  sync : p.sync = false ∨ p.kind = 0 ∨ x.started = []
  rdidx : s.devParts x.core x.ctx .write 2 ((x.desc.toNat + 24) % 2 ^ 64) 8 = .ok [w]
  eight : w.len = 8
  reached : Reached s w
  settled : s.early = []
  /-- the writes of the device's engines to other packages are acknowledged, as the release at .sy asks (19 R354) -/
  far : s.farReady (some .sy) = true

/-- The queue past a packet of `len` slots (R90, R97). -/
def Sys2Proof.Claims.passed (x : Queue) (len : Nat) : Queue :=
  let rd := x.rdidx + BitVec.ofNat 64 len
  { x with rdidx := rd, st := if rd = x.wridx then .mapped else .running }

/-- Packets (R92 to R94): the one at the head starts, RDIDX passes it, and it does what its kind says. A launch waits for its
start time, reads its kernel object when it starts (06 R100), and a wait for its signal with the queue blocked. That a skip
does not wait for what its SYNC bit names is the model's choice (log 47). -/
def Sys2Proof.Claims.PacketsRun : Prop :=
  ∀ s q x p w, AtHead s q x p w → s.MemOk →
    let rd := x.rdidx.toNat + p.len
    let moved := fun (t : State) (y : Queue) =>
      Stores s t w.key 8 (rd % 2 ^ 64) ∧ t.queues.get? q = some y ∧ ∀ r, r ≠ q → t.queues.get? r = s.queues.get? r
    let y := passed x p.len
    let due := p.timed = true → p.bytes 32 39 ≤ s.time x.die
    let reads := fun (k : Nat) => s.devRead x.core x.ctx (p.bytes 8 15) 64 = .ok k ∧ launchCode (s.featOf x) p k = none
    let launched := fun (k : Nat) (t : State) =>
      moved t { y with started := x.started ++ [⟨x.rdidx.toNat, some s.uid⟩], slice := 0 } ∧
      t.launches.get? s.uid = some
        { queue := q, ctx := x.ctx, packet := x.rdidx.toNat, kaddr := BitVec.ofNat 64 (p.bytes 8 15), kobj := k
          arg := BitVec.ofNat 64 (p.bytes 16 23), count := p.bytes 24 27, next := 0, retired := 0, nbsize := p.bytes 28 28
          prio := p.bytes 29 29 % 4, timed := p.timed, stopped := false, nbs := [] }
    let later := fun (t : State) (v : Part) (n val : Nat) =>
      t.mem = Memory.writeN v.key val n (Memory.writeN w.key (rd % 2 ^ 64) 8 s.mem) ∧ t.queues.get? q = some y
    (p.kind = 0 → Completes (.skipPacket q) s fun t => moved t y ∧ t = { s with mem := t.mem, queues := t.queues, spoiled := t.spoiled }) ∧
    (p.kind = 5 → x.started = [] → Completes (.fencePacket q) s fun t =>
      moved t y ∧ t = { s with mem := t.mem, queues := t.queues, spoiled := t.spoiled }) ∧
    (p.kind = 5 → x.started ≠ [] → exec (.fencePacket q) s = .next s) ∧
    (∀ k, p.kind = 1 → reads k → due → Completes (.launchPacket q) s (launched k)) ∧
    (∀ k, p.kind = 1 → reads k → p.timed = true → due → Completes (.timedLaunchStart q) s (launched k)) ∧
    (p.kind = 1 → p.timed = true → (s.featOf x).testBit 6 = true → s.time x.die < p.bytes 32 39 →
      exec (.launchPacket q) s = .next s ∧ exec (.timedLaunchStart q) s = .next s) ∧
    (∀ v, p.kind = 3 → p.bytes 24 24 ≤ 2 → v.len = 8 → Reached s v →
      s.devParts x.core x.ctx (if p.bytes 24 24 = 0 then .write else .both) 2 (p.bytes 8 15) 8 = .ok [v] →
      Completes (.signalPacket q) s fun t =>
        let old : DWord := BitVec.ofNat 64 ((Memory.writeN w.key (rd % 2 ^ 64) 8 s.mem).readN v.key 8)
        let b : DWord := BitVec.ofNat 64 (p.bytes 16 23)
        later t v 8 (if p.bytes 24 24 = 0 then b else if p.bytes 24 24 = 1 then old + b else old - b).toNat ∧
        t.msix = s.msix ++ if (p.bytes 25 25).testBit 7 then [p.bytes 25 25 % 64] else []) ∧
    (∀ v, p.kind = 4 → p.bytes 24 31 ≠ 0 → v.len = 4 → Reached s v → s.devParts x.core x.ctx .write 2 (p.bytes 24 31) 4 = .ok [v] →
      (p.bytes 8 15).testBit 63 = false → Completes (.applyPacket q) s fun t =>
        later t v 4 (2 ^ 28 + bits (p.bytes 8 15) 31 23 * 2 ^ 7)) ∧
    (∀ v, p.kind = 2 → v.len = 8 → Reached s v → (v.key + 8 ≤ w.key ∨ w.key + 8 ≤ v.key) →
      (∀ m, ({ s with mem := m } : State).devParts x.core x.ctx .read 2 (p.bytes 8 15) 8 = .ok [v]) →
      let wt : Waiting := ⟨x.rdidx.toNat, p.bytes 8 15, p.bytes 16 23, p.bytes 24 24⟩
      (waitHolds wt.cond (s.mem.readN v.key 8) wt.cmp = true → Completes (.waitPacket q) s fun t => moved t y) ∧
      (waitHolds wt.cond (s.mem.readN v.key 8) wt.cmp = false → Completes (.waitPacket q) s fun t =>
        moved t { y with st := .blocked, blockedAt := s.devTime, waiting := some wt }))

/-- apply packets (R316): a live closure with room for a strand on its home core starts there with its argument, and its handle
in k0. Where the test of its spans meets an uncorrectable error the context faults instead (01 R19, 17 R313). -/
def Sys2Proof.Claims.ApplyPacketSpawns : Prop :=
  ∀ s q x p w idx hank hk b lane, AtHead s q x p w → p.kind = 4 → p.bytes 24 31 = 0 →
    let h := p.bytes 8 15
    let key := bits h 31 23 * 2048 + bits h 22 12
    let env := s.env key
    h.testBit 63 = true → bits h 62 56 = 0 → bits h 11 0 = 0 → bits h 31 23 ≤ 383 → bits h 55 48 = x.ctx → env.st = .live →
    env.ctx = x.ctx → env.check = bits h 47 32 →
    (∀ f, s.spansFault env = some f → Completes (.applyPacket q) s fun t => t = s.upsetFault x.ctx x.core 0 4 f) ∧
    (0 < env.refs → env.refs < 65535 → env.spans = [] → s.spawnBraids (bits h 31 23) = [(idx, hank, b)] → s.hanks.get? hank = some hk → hk.ctx = x.ctx → s.freeLane b = some lane →
    Completes (.applyPacket q) s fun t =>
      t.queues.get? q = some (passed x p.len) ∧ t.env key = { env with refs := env.refs + 1 } ∧
      ∃ y, t.strand? (posOf b lane) = some y ∧ y.hank = hank ∧ y.index = 32 * idx + lane ∧ y.run = .candidate ∧
        y.regs.pc = ⟨env.entry, 0⟩ ∧ y.regs.k = BitVec.ofNat 64 h :: List.replicate 7 0 ∧
        y.regs.v = ((env.captures 2).foldl (fun v r => v.set r.1 r.2)
          (Regs.start 64 0 (BitVec.ofNat 64 (p.bytes 16 23)) 0 0 none).v))

/-- A packet that fails a check (R95): whichever event finds it, or the launch packet's own once it has read the kernel object,
the queue is faulted with the code, its FAULTREC names code and index, and its thread is free. At an empty head nothing
happens. -/
def Obligations.PacketFaults : Prop :=
  ∀ s q x, s.queues.get? q = some x → s.takes x = true → s.timedHolds q = false → x.waiting = none → s.early = [] →
    let faults := fun (i : Instr) (code : Nat) => ∀ w, w.len = 8 → Reached s w → s.MemOk → code < 8 →
      s.devParts x.core x.ctx .write 2 ((x.desc.toNat + 56) % 2 ^ 64) 8 = .ok [w] → Completes i s fun t =>
        Stores s t w.key 8 (code * 2 ^ 56 + x.rdidx.toNat % 2 ^ 56) ∧
        t.queues.get? q = some { x with st := .faulted code, thread := false }
    (∀ i ∈ [Instr.skipPacket q, .launchPacket q, .waitPacket q, .signalPacket q, .applyPacket q, .fencePacket q],
      (∀ code, s.head x = .faulty code → faults i code) ∧ (s.head x = .nothing → exec i s = .next s)) ∧
    ∀ p k code, s.head x = .packet p → p.kind = 1 → (p.sync = false ∨ x.started = []) → p.timed = false →
      s.farReady (some .sy) = true → s.devRead x.core x.ctx (p.bytes 8 15) 64 = .ok k → launchCode (s.featOf x) p k = some code →
      faults (.launchPacket q) code

/-- Threads and the write index (R88, R91, R97, R98, R355): a doorbell, a write to a page of BAR 2, reads WRIDX, writes DOORVAL, and maps a queue where a thread is
free and none waits before it; a poll sees WRIDX; QUEUE_MAP hands a thread to the first of the list that may run, QUEUE_UNMAP
takes that of the queue blocked longest. That the list passes over a queue whose context does not run is the model's reading (log
35). -/
def Sys2Proof.Claims.QueueThreads : Prop :=
  (∀ s ctx die page byte va q x r w, page / 8 = ctx → page % 8 = die → byte < 65536 → s.queueAt ctx va = some (q, x) →
    s.queues.get? q = some x → x.die = die → x.ctx = ctx → x.bell = none → s.MemOk → s.early = [] → r.len = 8 → w.len = 8 →
    Reached s r → Reached s w →
    s.devParts x.core ctx .read 2 ((x.desc.toNat + 16) % 2 ^ 64) 8 = .ok [r] →
    s.devParts x.core ctx .write 2 ((x.desc.toNat + 32) % 2 ^ 64) 8 = .ok [w] →
    let n := s.mem.readN r.key 8
    let y := { x with wridx := BitVec.ofNat 64 n, doorval := BitVec.ofNat 64 n }
    let idle := x.st = .created ∨ x.st = .unmapped
    (¬ idle → Completes (.doorbell page byte va) s fun t => Stores s t w.key 8 n ∧ t.queues.get? q = some y) ∧
    (idle → s.threadFree x = true → s.mapList die = [] → Completes (.doorbell page byte va) s fun t =>
      Stores s t w.key 8 n ∧ t.queues.get? q = some { y with st := .mapped, thread := true }) ∧
    (idle → s.threadFree x = false → q ∉ s.mapList die → Completes (.doorbell page byte va) s fun t =>
      Stores s t w.key 8 n ∧ t.queues.get? q = some y ∧ t.mapList die = s.mapList die ++ [q])) ∧
  (∀ s q x r, s.queues.get? q = some x → x.thread = true → s.ctxRuns x.ctx = true →
    (x.st = .mapped ∨ x.st = .running ∨ x.st = .blocked) → x.bell = none → s.early = [] → r.len = 8 → Reached s r →
    s.devParts x.core x.ctx .read 2 ((x.desc.toNat + 16) % 2 ^ 64) 8 = .ok [r] → Completes (.wridxPoll q) s fun t =>
      t = { s with queues := s.queues.modify q fun x => { x with wridx := BitVec.ofNat 64 (s.mem.readN r.key 8) } }) ∧
  (∀ s die q x, s.nextMapped die = some q → s.queues.get? q = some x → Completes (.queueMap die) s fun t =>
    t.queues.get? q = some { x with st := .mapped, thread := true } ∧ q ∉ t.mapList die ∧
    (∀ l, s.launches.get? l = none → t.launches.get? l = none) ∧
    ∀ l y, s.launches.get? l = some y → t.launches.get? l = some (if y.queue = q then { y with stopped := false } else y)) ∧
  (∀ s die, s.nextMapped die = none → exec (.queueMap die) s = .next s) ∧
  (∀ s die q x, s.mapList die ≠ [] → 32 ≤ s.threads die → (q, x) ∈ s.queues → s.queues.get? q = some x → x.die = die →
    x.st = .blocked → x.preempting = none → q ∉ s.mapList die →
    (∀ r y, (r, y) ∈ s.queues → (r, y) ≠ (q, x) → y.die = die → y.st = .blocked → y.preempting = none →
      x.blockedAt < y.blockedAt) → Completes (.queueUnmap die) s fun t =>
      t.queues.get? q = some { x with st := .unmapped, thread := false } ∧ t.mapList die = s.mapList die ++ [q]) ∧
  (∀ s die, s.threads die < 32 → exec (.queueUnmap die) s = .next s)

/-- A blocked queue goes on once its signal meets the condition (R97, R98), and not before; a time slice that has passed
pre-empts its queue, at once where nothing of it is resident and at hank depth after its hanks, and deepens a pre-empt under
way (R99, R109). That a pre-empt that finds no hank to wait for is complete in its step is the model's reading (log 35). -/
def Sys2Proof.Claims.SignalsAndSlices : Prop :=
  (∀ s q x wt v, s.queues.get? q = some x → x.st = .blocked → x.waiting = some wt → s.ctxRuns x.ctx = true →
    x.preempting = none → s.early = [] → v.len = 8 → Reached s v → s.devParts x.core x.ctx .read 2 wt.addr 8 = .ok [v] →
    (waitHolds wt.cond (s.mem.readN v.key 8) wt.cmp = true → Completes (.signalChange q) s fun t =>
      t = { s with queues := t.queues } ∧
      t.queues.get? q = some { x with st := if x.rdidx = x.wridx then .mapped else .running, waiting := none }) ∧
    (waitHolds wt.cond (s.mem.readN v.key 8) wt.cmp = false → exec (.signalChange q) s = .next s)) ∧
  (∀ s q x, s.queues.get? q = some x → x.preempting = none → x.svc = none → x.tslice ≠ 0 →
    (x.st = .mapped ∨ x.st = .running ∨ x.st = .blocked) →
    (x.tslice * 1000 ≤ x.slice → s.queueHanks q = [] → s.queueSaved q = [] → s.queueSpawned q = [] → s.launchesOf q = [] →
      Completes (.timeSliceExpiry q) s fun t => t.mem = s.mem ∧
        t.queues.get? q = some { x with st := .preempted, thread := false }) ∧
    (x.tslice * 1000 ≤ x.slice → x.tsdepth = 0 → s.queueHanks q ≠ [] → Completes (.timeSliceExpiry q) s fun t =>
      t.mem = s.mem ∧ t.queues.get? q = some { x with preempting := some 0 } ∧
      ∀ l y, s.launches.get? l = some y → t.launches.get? l = some (if y.queue = q then { y with stopped := true } else y)) ∧
    (x.slice < x.tslice * 1000 → exec (.timeSliceExpiry q) s = .next s)) ∧
  (∀ s q x, s.queues.get? q = some x → x.preempting = some 0 → x.tsdepth = 1 → x.tslice ≠ 0 → x.tslice * 1000 ≤ x.slice →
    (x.st = .mapped ∨ x.st = .running ∨ x.st = .blocked) → (∃ h ∈ s.queueHanks q, s.hankQuiet h = false) →
    Completes (.timeSliceExpiry q) s fun t => t.queues.get? q = some { x with preempting := some 1 } ∧
      ∀ h hk, h ∈ s.queueHanks q → s.hanks.get? h = some hk → t.hanks.get? h = some { hk with stopping := true })

/-- Hanks from placement to retirement, and launches to completion. -/
def Obligations.HanksPlacedAndRetired : Prop := HanksArePlaced ∧ HanksRetireAndLaunchesComplete

/-- The packets of a queue, each by its kind. -/
def Obligations.PacketsRunAndSpawn : Prop := PacketsRun ∧ ApplyPacketSpawns

/-- Queues and the threads of an engine: doorbells, polls, mapping, signals and time slices. -/
def Obligations.QueuesShareThreads : Prop := QueueThreads ∧ SignalsAndSlices

/-! ## Translation and its faults (09) -/

/-- TLB_MISS_WALK (R174): a walk to a resident leaf fills the core's and the cluster's TLB, and the core translates by it from
then on; what the cluster's TLB holds fills the core's without a walk, whatever the tables say by then; a walk that meets an
uncorrectable error faults the context (R176), and one that fails otherwise leaves no translation. R174 gives the sizes of the TLBs
alone: that a walk fills both, and that the core's fills from the cluster's, is the model's reading (log 13). -/
def Sys2Proof.Claims.TlbFills : Prop :=
  ∀ s (w : WalkReq) c, s.ctxs.get? w.ctx = some c →
    let va := w.va.toNat
    (∀ e, s.tlb.find? (fun e => e.hits w.core w.ctx va) = none →
      s.clusterTlb.find? (fun e => e.hits (clusterOf w.core) w.ctx va) = some e → w.cold = false →
      Completes (.tlbMissWalk w) s fun t => t = { s with tlb := t.tlb } ∧ { e with core := w.core } ∈ t.tlb) ∧
    (s.tlbEntry w.core w.ctx va = none → s.pointers = [] → w.depth = 0 →
      (∀ x, s.walk (dieOf w.core) w.ctx c.root va = .ok x → Completes (.tlbMissWalk w) s fun t =>
        t = { s with tlb := t.tlb, clusterTlb := t.clusterTlb, pointers := t.pointers } ∧
        ⟨w.core, w.ctx, x.page, x.size, x.leaf⟩ ∈ t.tlb ∧ ⟨clusterOf w.core, w.ctx, x.page, x.size, x.leaf⟩ ∈ t.clusterTlb ∧
        t.translate w.core w.ctx va = .ok x ∧
        ((s.tlb.filter fun e => e.core == w.core).length < 128 → ∀ e ∈ s.tlb, e ∈ t.tlb)) ∧
      (∀ f, s.walk (dieOf w.core) w.ctx c.root va = .fail f → f.cause ≠ 7 → Completes (.tlbMissWalk w) s fun t =>
        t = { s with pointers := t.pointers }) ∧
      (∀ f, s.walk (dieOf w.core) w.ctx c.root va = .fail f → f.cause = 7 → c.st = .active →
        Completes (.tlbMissWalk w) s fun t =>
          ∃ d, t.ctxs.get? w.ctx = some d ∧ d.st = .faulted ∧ d.seq = c.seq + 1))

/-- The invalidations (R175): one drops the entries of its page, its context, or all from every TLB, with the pointers that
the walkers hold to their tables, and is over at once where no access is under way; while one is busy another changes
nothing, and it ends, with the entries dropped at the latest then, once no access is under way: whether they are dropped when it
begins is a free choice. -/
def Sys2Proof.Claims.TlbInvalidates : Prop :=
  (∀ s ctx va, s.tlbinv = none → (∀ p ∈ s.strands, p.2.outs = []) → s.early = [] →
    let at_ := va % 2 ^ 39 * 2 ^ 16
    let drops := fun (d : TlbEntry → Bool) (p : PtrEntry → Bool) (t : State) => t = { s with
      tlb := s.tlb.filter fun e => !d e
      clusterTlb := s.clusterTlb.filter fun e => !d e
      pointers := s.pointers.filter fun e => !p e }
    let region := fun (e : PtrEntry) => 29 + 13 * e.level
    Completes (.tlbinvPage ctx va) s (drops
      (fun e => e.ctx == ctx && decide (e.page % 2 ^ 55 ≤ at_ ∧ at_ < e.page % 2 ^ 55 + e.size))
      fun e => e.ctx == ctx && e.pre % 2 ^ (55 - region e) == at_ / 2 ^ region e) ∧
    Completes (.tlbinvContext ctx) s (drops (fun e => e.ctx == ctx) fun e => e.ctx == ctx) ∧
    Completes .tlbinvAll s (drops (fun _ => true) fun _ => true)) ∧
  (∀ s n pos x p q ps got o op, s.tlbinv = none → (pos, x) ∈ s.strands → p ∈ x.outs → p.svc = none →
    p.act = .mem ps got o op → q ∈ ps → q.2.key < 2 ^ 64 → n = s.ctxNum x →
    (Completes .tlbinvAll s fun t => t.tlbinv ≠ none ∧ t.tlb = (if s.freeBit 3 then [] else s.tlb) ∧
      exec .tlbinvAll t = .next t) ∧
    (n < 256 → Completes (.tlbinvContext n) s fun t => t.tlbinv ≠ none ∧ ∀ m, m < 256 → exec (.tlbinvContext m) t = .next t)) ∧
  (∀ s w, s.tlbinv = none → w ∈ s.early → w.parts ≠ [] → Completes .tlbinvAll s fun t => t.tlbinv ≠ none) ∧
  (∀ s, s.tlbinv = some (2 * 2 ^ 61) → (∀ p ∈ s.strands, p.2.outs = []) → s.early = [] →
    exec .tlbinvAll s = .next { s with tlb := [], clusterTlb := [], pointers := [], tlbinv := none })

/-- The ring of a context's fault records lies, for a core, at a memory key that the device reaches, and reads and writes reach
it there. -/
def Sys2Proof.Claims.RingAt (s : State) (core ctx : Nat) (c : Ctx) (base : Nat) : Prop :=
  c.frBase.toNat + 64 + 16 * 2 ^ c.frLog ≤ 2 ^ 64 ∧ s.early = [] ∧ c.ringSent = false ∧
  ∀ m n off len, 0 < len → len ≤ 24 → off + len ≤ 64 + 16 * 2 ^ c.frLog →
    ∃ q, ({ s with mem := m } : State).devParts core ctx n 2 (c.frBase.toNat + off) len = .ok [q] ∧ q.key = base + off ∧
      q.len = len ∧ Reached s q

/-- Fault records (R176, R178): a record of the ring holds the address, the number, core, strand, source, cause and level; the
device writes it at the slot of FRWR and advances FRWR, with a release at .sy, which waits until what the engines have written in other
packages is acknowledged (19 R354); in a full ring a record of cause 2 stays pending, and another only counts in OVERRUN.
FAULT_RING_SPACE_FREED writes what was pending. -/
def Sys2Proof.Claims.FaultRecordsReachTheRing : Prop :=
  ∀ s ctx c base core, s.ctxs.get? ctx = some c → RingAt s core ctx c base →
    let wr := s.mem.readN base 8
    let rd := s.mem.readN (base + 8) 8
    let full := (wr + 2 ^ 64 - rd) % 2 ^ 64 = 2 ^ c.frLog
    let far := s.farReady (some .sy)
    let put := fun (r : Nat) =>
      let m := Memory.writeN (base + 64 + 16 * (wr % 2 ^ c.frLog)) r 16 s.mem
      if far then Memory.writeN base (wr + 1) 8 m else m
    let after := fun (d : Ctx) (seq r : Nat) => if far then d else { d with pendingRecs := [(seq, r)], ringSent := true }
    let overrun := Memory.writeN (base + 16) (s.mem.readN (base + 16) 8 + 1) 8 s.mem
    (∀ strand src (f : XFault), f.va < 2 ^ 64 → strand < 2048 → src < 16 → core < 512 → f.cause ≠ 0 → f.cause ≠ 7 →
      f.cause < 8 → f.level < 4 → f.link = false → c.pendingRecs = [] →
      let r := s.recordFault ctx core strand src f
      let fields := bits r.2.1 127 64 = f.va ∧ bits r.2.1 63 32 = c.seq.toNat ∧ bits r.2.1 31 23 = core ∧
        bits r.2.1 22 12 = strand ∧ bits r.2.1 11 8 = src ∧ bits r.2.1 7 4 = f.cause ∧ bits r.2.1 3 2 = f.level
      (f.cause ≠ 2 → fields ∧ r.2.2 = none ∧ bits r.2.1 1 0 = 0 ∧
        (¬ full → r.1.mem = put r.2.1 ∧
          r.1.ctxs.get? ctx = some (after { c with seq := c.seq + 1 } c.seq.toNat r.2.1)) ∧
        (full → r.1.mem = overrun ∧ r.1.ctxs.get? ctx = some { c with seq := c.seq + 1 })) ∧
      (f.cause = 2 → (∀ p ∈ c.inService, p.page ≠ f.page) →
        (f.page + f.size ≤ c.frBase.toNat ∨ c.frBase.toNat + 64 + 16 * 2 ^ c.frLog ≤ f.page) →
        let held := c.inService ++ [⟨f.page, f.size, c.seq.toNat, r.2.1, []⟩]
        fields ∧ r.2.2 = some c.seq.toNat ∧ bits r.2.1 1 0 = 2 ∧
        (¬ full → r.1.mem = put r.2.1 ∧
          r.1.ctxs.get? ctx = some (after { c with seq := c.seq + 1, inService := held } c.seq.toNat r.2.1)) ∧
        (full → r.1.mem = s.mem ∧ r.1.ctxs.get? ctx =
          some { c with seq := c.seq + 1, inService := held, pendingRecs := [(c.seq.toNat, r.2.1)] }))) ∧
    (∀ seq r, c.pendingRecs = [(seq, r)] → c.faultRec = none → r / 2 ^ 23 % 512 = core →
      (¬ full → Completes (.faultRingSpaceFreed ctx) s fun t => t = { s with
        mem := put r, spoiled := t.spoiled, ctxs := s.ctxs.modify ctx fun c => after { c with pendingRecs := [] } seq r }) ∧
      (full → r.testBit 1 = false → Completes (.faultRingSpaceFreed ctx) s fun t => t = { s with
        mem := overrun, spoiled := t.spoiled, ctxs := s.ctxs.modify ctx fun c => { c with pendingRecs := [] } }) ∧
      (full → r.testBit 1 = true → exec (.faultRingSpaceFreed ctx) s = .next s))

/-- FAULTDONE (R177, R179; 18 R347): a record whose page is resident again is served: the page leaves service, an access held
on it is translated anew and may be performed, a strand that `rte.w` stalled waits for that access, and a queue returns to the
state it left; a page still not resident gets a new record, by which what waited goes on waiting; an uncorrectable error met on the
way faults the context; a context that is not active is served when it is. -/
def Sys2Proof.Claims.FaultsAreServed : Prop :=
  ∀ s ctx seq c, s.ctxs.get? ctx = some c → c.pendingRecs = [] →
    let i := Instr.faultdone ctx seq
    ((c.st ≠ .active ∨ c.stopping = true) → Completes i s fun t => t = { s with replays := s.replays ++ [(ctx, seq)] }) ∧
    (c.st = .active → c.stopping = false → (∀ p ∈ c.inService, p.seq ≠ seq) → exec i s = .next s) ∧
    (∀ page x, c.st = .active → c.stopping = false → c.inService.find? (fun p => p.seq == seq) = some page →
      s.walk (dieOf (page.image / 2 ^ 23 % 512)) ctx c.root page.page = .ok x →
      let u := s.modCtx ctx fun c => { c with inService := c.inService.filter fun p => p.seq != seq }
      (page.held = [] → exec i s = .next u) ∧
      (∀ pos y p off q got o op q', page.held = [.op p.id] → s.strands = [(pos, y)] → y.outs = [p] →
        p.act = .mem [(off, q)] got o op → (∀ key t a d m n, op ≠ .tload key t a d m n) → p.svc = some seq → s.ctxNum y = ctx → q.len ≤ 8 →
        u.devParts (coreOf pos) ctx op.reach.2 3 q.va q.len = .ok [q'] → q'.len = q.len → Completes i s fun t =>
          t = { u with strands := t.strands } ∧ ∃ z, t.strand? pos = some z ∧ z.regs = y.regs ∧
            (y.run = .stalled (.service seq) → (y.heldOn = none ∨ y.heldOn = some seq) → z.run = .stalled (.ops [p.id])) ∧
            (y.run ≠ .stalled (.service seq) → z.run = y.run) ∧
            z.outs.map Pend.svc = [none] ∧ z.outs.map Pend.slot = [p.slot]) ∧
      (∀ q y, page.held = [.queue q] → s.queues.get? q = some y → y.svc = some seq → y.st = .faulted 0 → y.preempting = none →
        Completes i s fun t => t = { u with queues := t.queues } ∧
          t.queues.get? q = some { y with st := y.before, svc := none })) ∧
    (∀ page f, c.st = .active → c.stopping = false → c.inService.find? (fun p => p.seq == seq) = some page →
      s.walk (dieOf (page.image / 2 ^ 23 % 512)) ctx c.root page.page = .fail f → f.cause = 7 → Completes i s fun t =>
        t.replays = s.replays ++ [(ctx, seq)] ∧ ∃ d, t.ctxs.get? ctx = some d ∧ d.st = .faulted) ∧
    (∀ page f, c.st = .active → c.stopping = false → c.inService = [page] → page.seq = seq →
      s.walk (dieOf (page.image / 2 ^ 23 % 512)) ctx c.root page.page = .fail f → f.cause = 2 → Completes i s fun t =>
        (∃ d, t.ctxs.get? ctx = some d ∧ d.seq = c.seq + 1 ∧ d.inService =
          [⟨page.page, page.size, c.seq.toNat, page.image / 2 ^ 64 * 2 ^ 64 + c.seq.toNat * 2 ^ 32 +
            bits page.image 31 4 * 2 ^ 4 + f.level * 2 ^ 2 + page.image % 4, page.held⟩]) ∧
        ∀ pos y, s.strand? pos = some y → y.ctx = ctx → y.heldOn = some seq →
          ∃ z, t.strand? pos = some z ∧ z.regs = y.regs ∧ z.heldOn = some c.seq.toNat ∧
            (y.run = .stalled (.service seq) → z.run = .stalled (.service c.seq.toNat)))

/-- TLBs: how they fill, and how they are invalidated. -/
def Obligations.TlbFillsAndInvalidates : Prop := TlbFills ∧ TlbInvalidates

/-- Fault records, from the ring to their service. -/
def Obligations.FaultRecordsAndService : Prop := FaultRecordsReachTheRing ∧ FaultsAreServed

/-! ## The driver's commands (04, 05, 20) -/

/-- The command block is busy with operation `op`, none of whose unused bytes is set (R86, R87). -/
def Sys2Proof.Claims.Commanded (s : State) (op : Nat) (used : List Nat) : Prop :=
  s.cmd.busy = true ∧ s.cmd.byte 0 = op ∧ s.cmd.stray used = false

/-- A command that completes over `u` (R86): STATUS, RESULT, one more in SEQ, BUSY clear, and the interrupt if it was asked. -/
def Sys2Proof.Claims.completed (u : State) (status result : Nat) : State :=
  { u with
    cmd := { u.cmd with busy := false, started := false, seq := (u.cmd.seq + 1) % 2 ^ 16, status := status, result := result }
    msix := u.msix ++ if (u.cmd.byte 1).testBit 0 then [0] else [] }

/-- The driver's commands, by operation (R87): 1 to 13. -/
def Sys2Proof.Claims.commands : List Instr :=
  [.createContext, .activate, .suspend, .resume, .recover, .destroy, .createQueue, .preEmptQueue, .resumeQueue,
   .acknowledgeQueueFault, .destroyQueue, .enterTestMode, .enterServiceMode]

/-- A command acts only while the block is busy with its operation; one that completes with a nonzero status has changed
nothing but the command block and the interrupt (R86). A stray byte is refused with status 1, an unknown operation too, and a
context that does not exist with status 2 (R87). R86 and R87 do not order the statuses: that a stray byte's 1 comes before 2, and 2
before the 8 of a mode, is the order of log 31. -/
def Obligations.RefusedCommandsChangeNothing : Prop :=
  (∀ s i, i ∈ commands → s.cmd.busy = false → exec i s = .next s) ∧
  (∀ s i t, i ∈ Instr.unknownOpCommand :: commands → s.cmd.busy = true → exec i s = .next t → t.cmd.busy = false →
    t.cmd.status ≠ 0 → t = completed s t.cmd.status 0) ∧
  (∀ s i n, commands[n]? = some i → s.cmd.busy = true → s.cmd.byte 0 = n + 1 → 2 ≤ s.cmd.byte 1 →
    exec i s = .next (completed s 1 0)) ∧
  (∀ s, s.cmd.busy = true → (s.cmd.byte 0 = 0 ∨ 14 ≤ s.cmd.byte 0) →
    exec .unknownOpCommand s = .next (completed s 1 0)) ∧
  (∀ s i n, commands[n]? = some i → 1 ≤ n → n ≤ 5 → Commanded s (n + 1) [8] → s.ctxs.get? (s.cmd.byte 8) = none →
    exec i s = .next (completed s 2 0))

/-- create and activate (R77, R84): a descriptor that passes its checks makes a context of a free number, in created; a trap
table that can be read makes it active. The refusals carry the status of R87; that a create that fails several checks is refused with
8 before 3, and with 3 before 5 and 7, is the model's reading (log 31). A trap table in another package is read once a port to it
is open (19 R352). -/
def Sys2Proof.Claims.ContextsAreCreated : Prop :=
  (∀ s, Commanded s 1 [8, 9, 10, 11, 12, 13, 14, 15] → s.early = [] →
    let a := s.cmd.bytes 8 15
    let key := if a.testBit 47 then 2 ^ 47 + a % 2 ^ 47 else a
    let d := s.mem.readN key 128
    let sound := s.busFault false [⟨key, 128, .rc, 0, false, false, 0⟩] = none
    let legal := a % 128 = 0 ∧ (a.testBit 47 = true ∨ a < 1280 * 10 ^ 9)
    let allowed := s.modeRefuses s.cmd.firmware = false ∧ bits s.featAgreed.toNat 15 8 = 1
    (allowed → legal → sound → descriptorBad d s.featAgreed.toNat = false → (∃ n, n < 256 ∧ s.ctxs.get? n = none) →
      Completes .createContext s fun t => ∃ n, n < 256 ∧ s.ctxs.get? n = none ∧
        t = completed { s with ctxs := s.ctxs.set n (Ctx.ofDescriptor d s.cmd.firmware) } 0 n) ∧
    (allowed → (∀ n, n < 256 → (s.ctxs.get? n).isSome = true) → exec .createContext s = .next (completed s 3 0)) ∧
    (allowed → (∃ n, n < 256 ∧ s.ctxs.get? n = none) → (¬ legal ∨ sound ∧ descriptorBad d s.featAgreed.toNat = true) →
      exec .createContext s = .next (completed s 5 0)) ∧
    (allowed → (∃ n, n < 256 ∧ s.ctxs.get? n = none) → legal → ¬ sound →
      exec .createContext s = .next (completed s 7 0)) ∧
    (¬ allowed → exec .createContext s = .next (completed s 8 0))) ∧
  (∀ d fw, let c := Ctx.ofDescriptor d fw
    c.st = .created ∧ c.firmware = fw ∧ c.root = bits d 63 0 ∧ c.feat = bits d 135 128 ∧ c.symlim = bits d 175 160 ∧
    c.pinq = bits d 191 176 ∧ c.trapBase.toNat = bits d 255 192 ∧ c.frBase.toNat = bits d 319 256 ∧
    c.frLog = bits d 324 320 ∧ c.tfBase.toNat = bits d 447 384 ∧ c.saveBase.toNat = bits d 511 448 ∧
    c.saveSize = bits d 575 512 ∧ c.faultAddr.toNat = bits d 639 576 ∧ c.spBase.toNat = bits d 703 640 ∧
    c.spSize = bits d 719 704 ∧ c.symC = 1 ∧ c.seq = 0 ∧ c.inService = [] ∧ c.images = [] ∧ c.copies = [] ∧
    c.stopping = false ∧ c.ringSent = false ∧ c.faultRec = none) ∧
  (∀ s c, Commanded s 2 [8] → s.ctxs.get? (s.cmd.byte 8) = some c → s.modeRefuses c.firmware = false →
    let n := s.cmd.byte 8
    let agreed := c.feat &&& (255 - s.featAgreed.toNat % 128) = 0
    (∀ v, c.st = .created → agreed → s.devRead 0 n c.trapBase.toNat 256 = .ok v → (∀ p ∈ s.replays, p.1 ≠ n) →
      Completes .activate s fun t =>
      t = completed { s with ctxs := s.ctxs.modify n fun c => { c with st := .active } } 0 0) ∧
    (∀ f, c.st = .created → agreed → s.devRead 0 n c.trapBase.toNat 256 = .error f →
      (f.cause ≠ 0 → exec .activate s = .next (completed s 5 0)) ∧
      (f.cause = 0 → exec .activate s = .next (s.awaitLink (.engine 0) n 0 f.page))) ∧
    (c.st ≠ .created → exec .activate s = .next (completed s 4 0)))

/-- The hank `h` is saved at the instruction level (R79, 18 R346): it has left its core with its strands, braids and barriers, its
banks are idle, and it stands on its core's list of hanks that are to come back. What is saved is all that it held: strands, braids,
barriers, banks with their bytes as memory `m` has them and their full words, and the copy commands that it had queued. -/
def Sys2Proof.Claims.HankSaved (s t : State) (h : Nat) (hank : Hank) (m : Memory) : Prop :=
  t.hanks = s.hanks.erase h ∧ (∀ y ∈ t.strands, y.2.hank ≠ h) ∧ (∀ y ∈ t.braids, y.2.hank ≠ h) ∧
  (∀ y ∈ t.barriers, y.2.owner ≠ h) ∧ (∀ b ∈ hank.banks, t.bank b = .idle) ∧ h ∈ t.swapIn.getD hank.core [] ∧
  ∃ v ∈ t.saved, v.uid = h ∧ v.swap = false ∧ v.hank = { hank with stopping := true } ∧ v.strands = s.hankStrands h ∧
    v.braids = s.braids.filter (fun p => p.2.hank == h) ∧ v.barriers = s.hankBarriers h ∧
    v.banks = hank.banks.map (fun b => (b, (s.bank b).unlisted)) ∧ v.bytes = m.filter (fun x => inBanks hank.banks x.1) ∧
    v.fulls = s.full.filter (inBanks hank.banks) ∧
    ∀ cls x, x ∈ (s.engine hank.core).queue cls → x.hank = h → (cls, x) ∈ v.copies

/-- The save that the instruction `i`, a suspend or a recover, begins: what it leaves before anything is saved, the hanks of
the context stopping, is `u`. -/
def Sys2Proof.Claims.BeginsSave (i : Instr) (s : State) (n : Nat) (c : Ctx) (u : State) : Prop :=
  (i = .suspend ∧ Commanded s 3 [8] ∧ c.st = .active ∧
    u = ({ s with
      cmd := { s.cmd with started := true }
      ctxs := s.ctxs.modify n fun c => { c with stopping := true } } : State).stopHanks (s.ctxHanks n)) ∨
  (i = .recover ∧ Commanded s 5 [8] ∧ c.st = .faulted ∧ c.recorded = true ∧ c.faultCode ≠ 8 ∧
    (∃ v, s.devRead 0 n c.faultAddr.toNat 8 = .ok v ∧ v.testBit 0 = true) ∧ u = s.stopHanks (s.ctxHanks n))

/-- A suspend, and a recover of what the fault found unsaved, save at the instruction level (R77, R79, 18 R346): a resident hank stops,
and is saved once it is quiet, not before; a live tile is frozen, the first 16 bytes of its image the header of 14 R277: version,
length, format, shape, OVF, slot and knot; and a context that is suspended has nothing live left. A save area that does not take an image
faults a suspended context with code 8 (R84); a recover is refused with status 4, and changes nothing (log 44). Where in the save area
an image stands is the model's choice (log 9). -/
def Sys2Proof.Claims.ContextsAreSaved : Prop :=
  ∀ s c i u, s.ctxs.get? (s.cmd.byte 8) = some c → BeginsSave i s (s.cmd.byte 8) c u →
    let n := s.cmd.byte 8
    let told := fun (t : State) => t.cmd = (completed s 0 0).cmd ∧ t.msix = (completed s 0 0).msix
    let atRest := (∀ p ∈ s.strands, p.1 < 384 * 2048 ∨ p.2.ctx ≠ n) ∧ (∀ e ∈ s.envs, e.2.ctx = n → e.2.st ≠ .live) ∧
      s.early = [] ∧ ∀ q x, (q, x) ∈ s.queues → x.ctx = n → s.launchesOf q = []
    let suspended := fun (t : State) (o : ImageOwner) (len : Nat) => ∃ d, t.ctxs.get? n = some d ∧ d.st = .suspended ∧
      d.stopping = false ∧ ∃ off draw, d.images = c.images ++ [⟨o, off, len, draw⟩]
    let stopped := fun (t : State) => told t ∧ t.saved = s.saved ∧ ∃ d, t.ctxs.get? n = some d ∧ d.st = .faulted ∧ d.faultCode = 8
    (∀ t d, exec i s = .next t → t.ctxs.get? n = some d → d.st = .suspended → (∀ p ∈ t.hanks, p.2.ctx ≠ n) ∧
      (∀ p ∈ t.tiles, p.2.ctx = n → p.2.frozen = true) ∧ ∀ e ∈ t.envs, e.2.ctx = n → e.2.st ≠ .live) ∧
    (∀ h hank, s.ctxHanks n = [h] → s.hanks.get? h = some hank → hank.ctx = n →
      (u.hankQuiet h = false → exec i s = .next u) ∧
      (u.hankQuiet h = true → (∀ y ∈ s.hankStrands h, y.2.outs = [] ∧ ∀ b, y.2.run ≠ .blocked b) →
        (∃ y ∈ s.hankStrands h, y.2.run ≠ .exited) → (∀ p ∈ s.tiles, p.2.ctx = n → p.2.frozen = true) → atRest →
        let len := Config.saveSize s.draws
        let image := u.writeImage hank.core n (.hank h) len 0 0
        (∀ w, image = .ok w → Completes i s fun t => told t ∧ HankSaved s t h hank w.mem ∧ suspended t (.hank h) len) ∧
        (image = .error .full → i = .suspend → Completes i s fun t => stopped t ∧ (t.hanks.get? h).isSome = true) ∧
        (image = .error .full → i = .recover → exec i s = .next (completed s 4 0)))) ∧
    (∀ e tl, s.ctxHanks n = [] → s.tiles.Pairwise (fun a b => a.1 < b.1) → (s.tiles.filter fun p => p.2.ctx == n && !p.2.frozen) = [(e, tl)] → atRest →
      let kib := Config.saveSize s.draws % 96 + 1
      let key := e / 8 * 64 + tl.entry
      let header := 1 + kib * 2 ^ 16 + tileFmtCodes.idxOf tl.fmt * 2 ^ 24 + tl.shape * 2 ^ 32 +
        (if tl.ovf = true then 2 ^ 37 else 0) + tl.tslot * 2 ^ 38 + knotId key (s.knot key).serial * 2 ^ 96
      let image := u.writeImage (e / 8) n (.tile e) (1024 * kib) 16 header
      (∀ w, image = .ok w → (Completes i s fun t => told t ∧ t.tiles = s.tiles.set e { tl with frozen := true } ∧ t.mem = w.mem ∧
          suspended t (.tile e) (1024 * kib)) ∧
        ∀ off q ps, c.saveRoom (1024 * kib) = some off → let at_ := (c.saveBase.toNat + off) % 2 ^ 64
          (∀ m, ({ s with mem := m } : State).devParts (e / 8) n .write 2 at_ 16 = .ok [q]) → q.len = 16 → Reached s q →
          s.devParts (e / 8) n .write (1024 * kib / 2 ^ 16 + 2) at_ (1024 * kib) = .ok ps →
          (∀ p ∈ ps, keyPackage p.key = none) → s.MemOk → w.mem.readN q.key 16 = header % 2 ^ 128) ∧
      (image = .error .full → i = .suspend → Completes i s fun t => stopped t ∧ t.tiles = s.tiles) ∧
      (image = .error .full → i = .recover → exec i s = .next (completed s 4 0)))

/-- suspend, resume, recover and destroy (R77, R79, R85, 17 R311): the moves of a context between its states. A suspend writes the
record of each live environment to the save area, and one that does not fit faults the context with code 8; hanks and tiles are saved
as `ContextsAreSaved` says. At a resume the saved hanks stay on their cores' lists, from which SWAP_IN brings them back (18 R344), and a
frozen tile that no saved hank's knot has goes on, with the OVF that its image holds (14 R258, R276); an image that fails its checks
faults the context with code 7, and RESULT is 7; what lies in another package is read once a port to it is open (19 R352). The copy
commands of retired hanks are kept while it is suspended. What a destroyed context owns is gone. Where in the save area an image
stands, and what it is checked for, are the model's choice (log 9); the order of the statuses is its reading (log 31). -/
def Sys2Proof.Claims.ContextsMoveBetweenStates : Prop :=
  ∀ s c, s.ctxs.get? (s.cmd.byte 8) = some c →
    let n := s.cmd.byte 8
    let noTiles := ∀ t ∈ s.tiles, t.2.ctx ≠ n
    let noHanks := s.ctxHanks n = [] ∧ noTiles ∧ (∀ q x, (q, x) ∈ s.queues → x.ctx = n → s.launchesOf q = []) ∧
      ∀ p ∈ s.strands, p.1 < 384 * 2048 ∨ p.2.ctx ≠ n
    let bare := noHanks ∧ ∀ e ∈ s.envs, e.2.ctx = n → e.2.st ≠ .live
    let told := fun (t : State) (result : Nat) => t.cmd = (completed s 0 result).cmd ∧ t.msix = (completed s 0 result).msix
    let parked := fun (t : State) (l : List (Nat × Nat × CopyCmd)) =>
      (∀ k e cls x, (k, e) ∈ s.copyEngines → cls < 4 → x ∈ e.queue cls → x.ctx = n → (k, cls, x) ∈ l) ∧
      ∀ k e, t.copyEngines.get? k = some e → ∀ q ∈ e.queues, ∀ x ∈ q, x.ctx ≠ n
    (Commanded s 3 [8] → c.st = .active → bare → Completes .suspend s fun t => told t 0 ∧
      (∃ l, t.ctxs.get? n = some { c with st := .suspended, stopping := false, copies := l } ∧ parked t l) ∧ t.envs = s.envs ∧ t.mem = s.mem ∧
      ∀ q x, s.queues.filter (fun p => p.1 == q) = [(q, x)] → t.queues.get? q = some
        (if x.ctx = n ∧ (x.st = .mapped ∨ x.st = .running ∨ x.st = .blocked) then
          { x with before := if x.preempting.isSome then .preempted else x.st, st := .preempted, thread := false
                   preempting := none, susp := true }
        else x)) ∧
    (∀ k e, Commanded s 3 [8] → c.st = .active → noHanks → s.envs = [(k, e)] → e.ctx = n → e.st = .live → s.early = [] →
      (∀ off q, c.saveRoom 128 = some off →
        (∀ m, ({ s with mem := m } : State).devParts (k / 2048) n .write 2 ((c.saveBase.toNat + off) % 2 ^ 64) 128 = .ok [q]) →
        q.len = 128 → Reached s q → s.MemOk → Completes .suspend s fun t => told t 0 ∧
          (∃ d, t.ctxs.get? n = some d ∧ d.st = .suspended ∧ d.images.map (fun i => (i.owner, i.off, i.len)) =
            c.images.map (fun i => (i.owner, i.off, i.len)) ++ [(.env k, off, 128)]) ∧
          t.envs = [(k, { e with st := .held })] ∧ Stores s t q.key 128 e.image) ∧
      (c.saveSize < 128 → Completes .suspend s fun t => told t 0 ∧ t.envs = s.envs ∧
        ∃ d, t.ctxs.get? n = some d ∧ d.st = .faulted ∧ d.faultCode = 8)) ∧
    (Commanded s 3 [8] → c.st ≠ .active → s.cmd.started = false → exec .suspend s = .next (completed s 4 0)) ∧
    (∀ e tl j v, Commanded s 4 [8] → c.st = .suspended → s.modeRefuses c.firmware = false →
      (s.tiles.filter fun p => p.2.ctx == n && p.2.frozen) = [(e, tl)] →
      (∀ x ∈ s.saved, x.swap = true ∨ x.hank.nb.getD x.uid ≠ (s.knot (e / 8 * 64 + tl.entry)).place) →
      (s.knot (e / 8 * 64 + tl.entry)).queue = [] → s.imagesLink n c = none →
      (∀ i ∈ c.images, s.imageBad n c i = false) → (∀ p ∈ s.replays, p.1 ≠ n) → c.images.find? (fun i => i.owner == .tile e) = some j →
      s.devRead (e / 8) n ((c.saveBase.toNat + j.off) % 2 ^ 64) 16 = .ok v → Completes .resume s fun t => told t 0 ∧
        t.tiles.get? e = some { tl with frozen := false, ovf := v.testBit 37 } ∧ t.mem = s.mem ∧
        ∃ d, t.ctxs.get? n = some d ∧ d.st = .active ∧ ∀ i ∈ d.images, i.owner ≠ .tile e) ∧
    (∀ g, Commanded s 4 [8] → c.st = .suspended → s.modeRefuses c.firmware = false → s.imagesLink n c = some g →
      exec .resume s = .next (s.awaitLink (.engine 0) n 0 g)) ∧
    (Commanded s 4 [8] → c.st = .suspended → s.modeRefuses c.firmware = false → noTiles → s.imagesLink n c = none →
      (∀ i ∈ c.images, s.imageBad n c i = false) → (∀ p ∈ s.replays, p.1 ≠ n) → Completes .resume s fun t => told t 0 ∧
        (∃ d, t.ctxs.get? n = some d ∧ d.st = .active ∧ d.stopping = false ∧ ∀ i ∈ d.images, ∀ k, i.owner ≠ .env k) ∧
        t.saved = s.saved ∧ t.swapIn = s.swapIn ∧ t.hanks = s.hanks ∧
        (∀ k e, s.envs.get? k = some e →
          t.envs.get? k = some (if e.ctx = n ∧ e.st = .held then { e with st := .live } else e)) ∧ t.mem = s.mem ∧
        ∀ q x, s.queues = [(q, x)] → x.ctx = n → x.susp = true → x.st = .preempted → x.before ≠ .preempted →
          c.firmware = false → s.engines = true → bits s.featAgreed.toNat 15 8 = 1 →
          t.queues = [(q, { x with st := x.before, thread := true, slice := 0, susp := false })]) ∧
    (Commanded s 4 [8] → c.st = .suspended → s.modeRefuses c.firmware = false → s.imagesLink n c = none →
      (∃ i ∈ c.images, s.imageBad n c i = true) →
      Completes .resume s fun t => told t 7 ∧ (∃ d, t.ctxs.get? n = some d ∧ d.st = .faulted ∧ d.faultCode = 7) ∧
        t.saved = s.saved ∧ t.envs = s.envs ∧ t.queues = s.queues ∧ t.tiles = s.tiles) ∧
    (Commanded s 4 [8] → c.st ≠ .suspended → s.modeRefuses c.firmware = false → exec .resume s = .next (completed s 4 0)) ∧
    (∀ v, Commanded s 5 [8] → c.st = .faulted → c.recorded = true → s.devRead 0 n c.faultAddr.toNat 8 = .ok v →
      (v.testBit 0 = true → c.faultCode ≠ 8 → bare → Completes .recover s fun t => told t 0 ∧
        (∃ l, t.ctxs.get? n = some { c with st := .suspended, stopping := false, copies := l } ∧ parked t l) ∧
        t.mem = s.mem) ∧
      ((v.testBit 0 = false ∨ c.faultCode = 8) → exec .recover s = .next (completed s 4 0))) ∧
    (Commanded s 5 [8] → c.st = .faulted → c.recorded = false → exec .recover s = .next (completed s 7 0)) ∧
    (∀ f, Commanded s 5 [8] → c.st = .faulted → c.recorded = true → s.devRead 0 n c.faultAddr.toNat 8 = .error f →
      (f.cause ≠ 0 → exec .recover s = .next (completed s 7 0)) ∧
      (f.cause = 0 → exec .recover s = .next (s.awaitLink (.engine 0) n 0 f.page))) ∧
    (Commanded s 5 [8] → c.st ≠ .faulted → exec .recover s = .next (completed s 4 0)) ∧
    (Commanded s 6 [8] → Completes .destroy s fun t => told t 0 ∧ t.ctxs.get? n = none ∧
      (∀ m, m ≠ n → t.ctxs.get? m = s.ctxs.get? m) ∧ (∀ q ∈ t.queues, q.2.ctx ≠ n) ∧ (∀ l ∈ t.launches, l.2.ctx ≠ n) ∧
      (∀ p ∈ t.strands, p.2.ctx ≠ n) ∧
      (∀ h x, t.hanks.get? h = some x → x.ctx ≠ n) ∧ (∀ k ∈ t.knots, k.2.live = true → k.2.ctx ≠ n) ∧
      (∀ e ∈ t.tiles, e.2.ctx ≠ n) ∧ (∀ e ∈ t.envs, e.2.ctx = n → e.2.st = .free) ∧ (∀ p ∈ t.pins, p.ctx ≠ n) ∧
      (∀ v ∈ t.saved, v.hank.ctx ≠ n) ∧ ∀ b ∈ t.symBlocks, b.1 % 256 ≠ n)

/-- The commands about queues (R87, R89, R97) and about modes (20 R364): what each answers and leaves. That the mode refuses with 8
before 4, 6 and 7 is the model's reading (log 31), and so is that a destroyed queue places no further hank and that a pre-empt with
nothing resident completes at once (log 35). -/
def Obligations.QueueAndModeCommands : Prop :=
  (∀ s c, Commanded s 7 (8 :: [16, 17, 18, 19, 20, 21, 22, 23]) → s.ctxs.get? (s.cmd.byte 8) = some c →
    let n := s.cmd.byte 8
    ((s.modeRefuses c.firmware = true ∨ bits s.featAgreed.toNat 15 8 ≠ 1) → exec .createQueue s = .next (completed s 8 0)) ∧
    (s.modeRefuses c.firmware = false → bits s.featAgreed.toNat 15 8 = 1 →
    let a := s.cmd.bytes 16 23
    let desc : DWord := BitVec.ofNat 64 a
    (a % 64 ≠ 0 → exec .createQueue s = .next (completed s 6 0)) ∧
    (a % 64 = 0 → (s.queueAt n desc).isSome = true → exec .createQueue s = .next (completed s 4 0)) ∧
    (∀ d, a % 64 = 0 → s.queueAt n desc = none → s.devRead 0 n a 64 = .ok d →
      let valid := 8 ≤ bits d 95 91 ∧ bits d 95 91 ≤ 20 ∧ bits d 63 0 % (2 ^ bits d 95 91 * 16) = 0
      (¬ valid → exec .createQueue s = .next (completed s 6 0)) ∧
      (valid → Completes .createQueue s fun t =>
        t = completed { s with uid := s.uid + 1, queues := s.queues.set s.uid (Queue.ofDescriptor n desc d) } 0 0)) ∧
    (∀ f, a % 64 = 0 → s.queueAt n desc = none → s.devRead 0 n a 64 = .error f →
      (f.cause ≠ 0 → exec .createQueue s = .next (completed s 7 0)) ∧
      (f.cause = 0 → exec .createQueue s = .next (s.awaitLink (.engine 0) n 0 f.page))))) ∧
  (∀ s q x, (s.ctxs.get? (s.cmd.byte 8)).isSome = true →
    s.queueAt (s.cmd.byte 8) (BitVec.ofNat 64 (s.cmd.bytes 16 23)) = some (q, x) → s.queues.get? q = some x →
    let quad := [16, 17, 18, 19, 20, 21, 22, 23]
    let runs := x.st = .mapped ∨ x.st = .running ∨ x.st = .blocked
    let told := fun (t : State) => t.cmd = (completed s 0 0).cmd ∧ t.msix = (completed s 0 0).msix
    let firmware := (s.ctxs.get? x.ctx).any Ctx.firmware
    (Commanded s 8 (8 :: 9 :: quad) → s.cmd.byte 9 ≤ 1 → s.cmd.started = false → runs → x.preempting = none →
      x.svc = none → s.queueHanks q = [] → s.queueSaved q = [] → s.queueSpawned q = [] → s.launchesOf q = [] →
      Completes .preEmptQueue s fun t =>
        told t ∧ t.queues.get? q = some { x with st := .preempted, thread := false } ∧ t.mem = s.mem) ∧
    (Commanded s 8 (8 :: 9 :: quad) → 1 < s.cmd.byte 9 → exec .preEmptQueue s = .next (completed s 1 0)) ∧
    (Commanded s 8 (8 :: 9 :: quad) → s.cmd.byte 9 ≤ 1 → s.cmd.started = false → ¬ runs →
      exec .preEmptQueue s = .next (completed s 4 0)) ∧
    (Commanded s 9 (8 :: quad) → s.modeRefuses firmware = false → x.st = .preempted → s.mapList x.die = [] →
      let y := { x with st := .unmapped, slice := 0 }
      let u : State := { s with queues := s.queues.set q y }
      (u.threadFree y = true → Completes .resumeQueue s fun t =>
        told t ∧ t.queues.get? q = some { x with st := .mapped, thread := true, slice := 0 }) ∧
      (u.threadFree y = false → Completes .resumeQueue s fun t =>
        told t ∧ t.queues.get? q = some { x with st := .unmapped, slice := 0 } ∧ t.mapList x.die = [q])) ∧
    (Commanded s 9 (8 :: quad) → s.modeRefuses firmware = false → x.st ≠ .preempted →
      exec .resumeQueue s = .next (completed s 4 0)) ∧
    (∀ code rd, Commanded s 10 (8 :: quad) → x.st = .faulted code → code ≠ 0 → Queue.read s x 24 8 = .ok rd →
      Completes .acknowledgeQueueFault s fun t =>
        t = completed { s with queues := s.queues.modify q fun x => { x with st := .unmapped, rdidx := BitVec.ofNat 64 rd } } 0 0) ∧
    (∀ code f, Commanded s 10 (8 :: quad) → x.st = .faulted code → code ≠ 0 → Queue.read s x 24 8 = .error f →
      (f.cause ≠ 0 → exec .acknowledgeQueueFault s = .next (completed s 7 0)) ∧
      (f.cause = 0 → exec .acknowledgeQueueFault s = .next (s.awaitLink (.engine x.core) x.ctx x.core f.page))) ∧
    (Commanded s 10 (8 :: quad) → (∀ code, x.st ≠ .faulted code) → exec .acknowledgeQueueFault s = .next (completed s 4 0)) ∧
    (Commanded s 11 (8 :: quad) → Completes .destroyQueue s fun t => told t ∧ t.queues.get? q = none ∧ q ∉ t.mapList x.die ∧
      (∀ l y, s.launches.get? l = some y →
        t.launches.get? l = some (if y.queue = q then { y with count := y.next, stopped := true } else y)) ∧
      ∀ r, r ≠ q → t.queues.get? r = s.queues.get? r)) ∧
  (∀ s, Commanded s 12 [] → (∀ c ∈ s.ctxs, c.2.st ≠ .active) → s.mode = .service →
    Completes .enterTestMode s fun t => t = completed { s with mode := .test } 0 0) ∧
  (∀ s, Commanded s 12 [] → (s.mode ≠ .service ∨ ∃ c ∈ s.ctxs, c.2.st = .active) →
    exec .enterTestMode s = .next (completed s 8 0)) ∧
  (∀ s, Commanded s 13 [] → s.mode = .test →
    Completes .enterServiceMode s fun t => t = completed { s with mode := .service } 0 0) ∧
  (∀ s, Commanded s 13 [] → s.mode ≠ .test → exec .enterServiceMode s = .next (completed s 8 0))

/-- The life of a context, by the driver's commands. -/
def Obligations.ContextLifeCycle : Prop := ContextsAreCreated ∧ ContextsMoveBetweenStates ∧ ContextsAreSaved

/-! ## The host (19, 04) -/

/-- Registers of BAR 0 (R80, R86, R188, R352, R356 to R358, R362; whose a command in recovery is, log 66), once they are open: each offset by an aligned access of its
width writes its register; an access of another width or alignment completes with Unsupported Request and changes nothing. The
events for single registers do the same. -/
def Sys2Proof.Claims.HostRegistersAreWritten : Prop :=
  ∀ s (v : DWord), s.regsOpen = true →
    let n := v.toNat
    let writes := fun (off width : Nat) (t : State) => Completes (.hostRegisterWrite off width v) s fun u => u = t
    let both := fun (i : Instr) (off : Nat) (t : State) => writes off 8 t ∧ Completes i s fun u => u = t
    let offer := bits n 15 8 * 256 + (bits n 6 0 ||| 1)
    both (.featofferWrite v) 0x0000 { s with
      featOffer := BitVec.ofNat 64 offer
      featAgreed := BitVec.ofNat 64 ((bits n 6 0 ||| 1) + if bits n 15 8 = 1 then 256 else 0) } ∧
    both (.pkgidWrite v) 0x0010
      (if (∃ p ∈ s.ports, p.2.en = true) ∨ s.ctxs ≠ [] ∨ 9215 < bits n 13 0 then s else { s with pkgid := bits n 13 0 }) ∧
    writes 0x0030 8 { s with linkTmo := bits n 31 0 } ∧
    writes 0x0038 8 { s with telctl := BitVec.ofNat 64 (bits n 63 12 * 2 ^ 12 + bits n 11 8 * 2 ^ 8 + bits n 0 0) } ∧
    (∀ d, d < 8 → writes (0x0200 + 8 * d) 8 { s with copyq := s.copyq.set d v }) ∧
    (∀ d, d < 8 →
      let g := s.governors.getD d governorIdle
      writes (0x0100 + 8 * d) 8 { s with governors := s.governors.set d { g with spacing := bits n 47 32, slew := bits n 24 16 } }) ∧
    (s.tlbinv = none →
      (bits n 62 61 = 0 → exec (.hostRegisterWrite 0x20 8 v) s = exec (.tlbinvPage (bits n 60 53) (bits n 38 0)) s) ∧
      (bits n 62 61 = 1 → exec (.hostRegisterWrite 0x20 8 v) s = exec (.tlbinvContext (bits n 60 53)) s) ∧
      (bits n 62 61 = 2 → exec (.hostRegisterWrite 0x20 8 v) s = exec .tlbinvAll s) ∧
      (bits n 62 61 = 3 → writes 0x20 8 s)) ∧
    exec (.hostRegisterWrite 0x28 8 v) s = exec (.faultdone (bits n 63 56) (bits n 31 0)) s ∧
    (s.cmd.busy = true → writes 0x0880 8 s ∧ ∀ i, i < 8 → writes (0x0800 + 8 * i) 8 s) ∧
    (s.cmd.busy = false → s.mode = .service → writes 0x0880 8
      { s with cmd := { s.cmd with busy := true, firmware := false, started := false } }) ∧
    (s.cmd.busy = false → Completes (.hostRegisterWrite 0x0880 8 v) s fun t => ∃ firmware,
      t = { s with cmd := { s.cmd with busy := true, firmware := firmware, started := false } } ∧
      (s.mode ≠ .recovery → firmware = false)) ∧
    (∀ i, s.cmd.busy = false → i < 8 → Completes (.hostRegisterWrite (0x0800 + 8 * i) 8 v) s fun t =>
      t = { s with cmd := { s.cmd with buf := t.cmd.buf } } ∧ t.cmd.bytes (8 * i) (8 * i + 7) = n ∧
      ∀ j, j < 8 * i ∨ 8 * i + 8 ≤ j → t.cmd.byte j = s.cmd.byte j) ∧
    (∀ c r, c < 96 → r < 8 →
      let k := c * 8 + r
      let old := s.ranges.getD k ⟨0, 0⟩
      both (.rangeRegisterWrite c r false v) (0x10000 + 256 * c + 16 * r)
        { s with ranges := s.ranges.set k { old with low := n } } ∧
      both (.rangeRegisterWrite c r true v) (0x10000 + 256 * c + 16 * r + 8)
        { s with ranges := s.ranges.set k { old with val := rangeValue (old.low + n * 2 ^ 64) } }) ∧
    (∀ r, r < 16384 → s.routes = [] → (∀ p ∈ s.ports, p.2.buffer = []) →
      writes (0x100000 + 4 * r) 4 { s with routes := [(r, bits n 17 0)] }) ∧
    (∀ off ∈ [0x04, 0x0C, 0x14, 0x24, 0x2C, 0x34, 0x3C],
      writes off 4 { s with unsupported := s.unsupported + 1 } ∧ writes off 8 { s with unsupported := s.unsupported + 1 } ∧
      Completes (.unsupportedRequest 0 off 8) s fun t => t = { s with unsupported := s.unsupported + 1 }) ∧
    (∀ off, off < 2 ^ 26 → off % 8 = 0 → 0x8A0 ≤ off → off < 0x1000 → writes off 8 s ∧ writes off 4 s)

/-- What BAR 0 reads as (R350, R356, 10 R188): its registers; the fields of LINKCS; both halves of a range register, which keep
the old value until the high half is written; zero at an offset outside the table; and Unsupported Request for an access of
another width or alignment. -/
def Sys2Proof.Claims.HostRegistersAreRead : Prop :=
  ∀ s : State,
    s.readReg 0x0000 8 = some s.featOffer.toNat ∧ s.readReg 0x0008 8 = some s.featAgreed.toNat ∧
    s.readReg 0x0010 8 = some s.pkgid ∧ s.readReg 0x0030 8 = some s.linkTmo ∧ s.readReg 0x0038 8 = some s.telctl.toNat ∧
    (∀ p, p < 18 → let x := s.ports.getD p portDown
      x.lanes < 16 → x.peerPkg < 2 ^ 14 → x.peerPort < 32 → x.replays < 2 ^ 16 → x.crcErr < 2 ^ 16 →
      ∃ v, s.readReg (0x1000 + 8 * p) 8 = some v ∧ v.testBit 63 = x.en ∧
        [PortState.down, .training, .active, .degraded, .retraining, .failed][bits v 62 60]? = some x.st ∧
        bits v 59 56 = x.lanes ∧ bits v 55 42 = x.peerPkg ∧ bits v 41 37 = x.peerPort ∧ bits v 36 32 = 0 ∧
        bits v 31 16 = x.replays ∧ bits v 15 0 = x.crcErr) ∧
    (∀ c r (v : DWord), c < 96 → r < 8 → Completes (.rangeRegisterWrite c r false v) s fun t =>
      ∀ off width, t.readReg off width = s.readReg off width) ∧
    (∀ off ∈ [0x04, 0x0C, 0x14, 0x24, 0x2C, 0x34, 0x3C], s.readReg off 4 = none ∧ s.readReg off 8 = none) ∧
    (∀ off, off % 8 = 0 → 0x8A0 ≤ off → off < 0x1000 → s.readReg off 8 = some 0 ∧ s.readReg off 4 = some 0)

/-- BAR 4 and completion timeouts (R355): a host access within the 1,280 × 10^9 bytes of HBM reaches them, a read returning what the
host observes there, one beyond completes with Unsupported Request and changes nothing, and a completion timeout faults the context with code 1. -/
def Sys2Proof.Claims.HostAccessesAndTimeouts : Prop :=
  (∀ s addr data, addr + data.length ≤ 1280 * 10 ^ 9 → s.early = [] → s.MemOk →
    Completes (.hostHbmAccess (.write addr data)) s fun t => t = { s with mem := t.mem, spoiled := t.spoiled } ∧
      (∀ i, i < data.length → data[i]? = some (t.mem.read (addr + i))) ∧
      ∀ j, j < addr ∨ addr + data.length ≤ j → t.mem.read j = s.mem.read j) ∧
  (∀ (s : State) addr len, addr + len ≤ 1280 * 10 ^ 9 → exec (.hostHbmAccess (.read addr len)) s = .next s ∧
    s.readHbm addr len = some (s.seenN hostAgent addr len) ∧ (s.early = [] → s.readHbm addr len = some (s.mem.readN addr len))) ∧
  (∀ (s : State) addr len, 1280 * 10 ^ 9 < addr + len → s.readHbm addr len = none) ∧
  (∀ s addr data len, 1280 * 10 ^ 9 < addr + data.length → 1280 * 10 ^ 9 < addr + len →
    (Completes (.hostHbmAccess (.write addr data)) s fun t => t = { s with unsupported := s.unsupported + 1 }) ∧
    (Completes (.hostHbmAccess (.read addr len)) s fun t => t = { s with unsupported := s.unsupported + 1 }) ∧
    (addr < 2 ^ 41 → Completes (.unsupportedRequest 4 addr len) s fun t => t = { s with unsupported := s.unsupported + 1 })) ∧
  (∀ s ctx core strand va src c, s.ctxs.get? ctx = some c → c.st = .active →
    Completes (.pcieCompletionTimeout ctx core strand va src) s fun t =>
      ∃ d, t.ctxs.get? ctx = some d ∧ d.st = .faulted ∧ d.seq = c.seq + 1)

/-! ## Links (19) -/

/-- The events of a port (R348 to R351), for a package without routes, none of whose other ports has failed or been disabled, and
whose replay buffer holds its own flits: what each makes of it, and nothing else changed, but that an accepted flit may
acknowledge flits of the replay buffer and have its request performed (which and what, log 40). A flit that arrives stands in the
sequence of the port to which its sender numbered it, here or, where the sender has moved it (R352), another one: what is accepted once
there is a duplicate wherever it arrives (log 40). That a port without a peer reads PEERPKG and PEERPORT as 0 and that a disabled port
keeps its sequence numbers are log 32. -/
def Sys2Proof.Claims.PortEvents : Prop :=
  ∀ s p x, p < 18 → s.routes = [] → s.ports.getD p portDown = x → (∀ f ∈ x.buffer, f.port = p) →
    (∀ q ∈ s.ports, q.1 ≠ p → q.2.st ≠ .failed ∧ q.2.st ≠ .down) →
    let becomes := fun (i : Instr) (y : Port) => Completes i s fun t => t = { s with ports := s.ports.set p y }
    let at_ := fun (y : Port) (st : PortState) =>
      { y with st := st, lanes := 0, peerPkg := 0, peerPort := 0, counted := none, consecutive := 0, since := s.devTime }
    let usable := x.st = .active ∨ x.st = .degraded
    let trains := x.st = .training ∨ x.st = .retraining
    let out := x.since + 100000000 ≤ s.devTime
    (s.regsOpen = true →
      (x.st = .down ∨ x.st = .failed → becomes (.linkEnable p) (at_ { x with en := true } .training)) ∧
      (x.st = .degraded → becomes (.linkEnable p) (at_ { x with en := true } .retraining)) ∧
      (x.st = .active ∨ trains → becomes (.linkEnable p) { x with en := true }) ∧
      (x.st = .down → becomes (.linkDisable p) { x with en := false }) ∧
      (x.st ≠ .down → becomes (.linkDisable p) (at_ { x with en := false } .down))) ∧
    (∀ o seq crc, ¬ usable ∨ 18 ≤ o → exec (.flitReceived p ⟨o, seq⟩ crc) s = .next s) ∧
    (∀ o seq, usable → o < 18 → let from_ := s.ports.getD o portDown
      becomes (.flitReceived p ⟨o, seq⟩ false) { x with crcErr := min (x.crcErr + 1) 0xFFFF, replays := min (x.replays + 1) 0xFFFF } ∧
      (seq = from_.rxSeq → Completes (.flitReceived p ⟨o, seq⟩ true) s fun t => t.strands = s.strands ∧ ∃ k,
        let y := { x with buffer := x.buffer.drop k }
        let counts := 8 ≤ x.consecutive ∨ ∃ f ∈ x.buffer.drop k, x.counted = some (f.port, f.seq)
        let takes := fun (y : Port) => (o = p → t.ports = s.ports.set p { y with rxSeq := seq + 1 }) ∧
          (o ≠ p → t.ports = (s.ports.set p y).set o { from_ with rxSeq := seq + 1 })
        (counts → takes y) ∧ (¬ counts → takes { y with counted := none, consecutive := 0 })) ∧
      (from_.rxSeq < seq → becomes (.flitReceived p ⟨o, seq⟩ true) { x with replays := min (x.replays + 1) 0xFFFF }) ∧
      (seq < from_.rxSeq → exec (.flitReceived p ⟨o, seq⟩ true) s = .next s)) ∧
    (∀ o seq, o ≠ p → exec (.replayRequest p ⟨o, seq⟩) s = .next s) ∧
    (∀ seq, usable →
      ∀ l f r, x.buffer = l ++ f :: r → f.seq = seq → (∀ g ∈ l, g.seq < seq) → (∀ g ∈ r, seq ≤ g.seq) →
        becomes (.replayRequest p ⟨p, seq⟩) (if 8 ≤ x.consecutive then { x with buffer := f :: r } else
          { x with buffer := f :: r, counted := some (p, seq)
                   consecutive := if x.counted = some (p, seq) then x.consecutive + 1 else 1 })) ∧
    (usable → 8 ≤ x.consecutive → becomes (.replayLimit p) (at_ x .retraining)) ∧
    (x.consecutive < 8 → exec (.replayLimit p) s = .next s) ∧
    (∀ lanes, usable → lanes < x.lanes → becomes (.laneLoss p lanes) (at_ x .retraining)) ∧
    (∀ lanes, x.lanes ≤ lanes → exec (.laneLoss p lanes) s = .next s) ∧
    (∀ lanes pkg port, trains → pkg < 2 ^ 14 →
      let up := fun (st : PortState) (n : Nat) => becomes (.trainingEnds p lanes pkg port)
        { x with st := st, lanes := n, peerPkg := pkg, peerPort := port, consecutive := 0 }
      (port < 18 → ¬ out → (8 ≤ lanes → up .active 8) ∧ (4 ≤ lanes → lanes < 8 → up .degraded 4) ∧
        (2 ≤ lanes → lanes < 4 → up .degraded 2)) ∧
      (lanes < 2 ∨ out → becomes (.trainingEnds p lanes pkg port) (at_ x .failed))) ∧
    (trains → out → becomes (.trainingTimeout p) (at_ x .failed)) ∧
    (¬ trains ∨ ¬ out → exec (.trainingTimeout p) s = .next s)

/-- LINK_TIMEOUT (R352): a request that has waited for a port longer than LINKTMO faults its context with code 5, the code that the
table of 04 R85 has for it, where R352 says cause 7 (log 32); one that has not changes nothing. Unacknowledged flits of a port that fails move to the only other usable port of their route. -/
def Sys2Proof.Claims.LinksFailOver : Prop :=
  (∀ s ctx core pkg, let waits := s.linkWaits.filter fun w => w.ctx == ctx && w.core == core && w.pkg == pkg
    (∀ w c, w ∈ waits → s.linkTmo * 1000 < s.devTime - w.since → s.ctxs.get? ctx = some c → c.st = .active →
      Completes (.linkTimeout ctx core pkg) s fun t => t.strands = s.strands ∧
        ∃ d, t.ctxs.get? ctx = some d ∧ d.st = .faulted ∧ d.faultCode = 5) ∧
    ((∀ w ∈ waits, s.devTime - w.since ≤ s.linkTmo * 1000) → exec (.linkTimeout ctx core pkg) s = .next s)) ∧
  (∀ s p q x y f, s.ports = [(p, x), (q, y)] → p < q → q < 18 → s.routes = [(f.pkg, 2 ^ p + 2 ^ q)] →
    x.st = .retraining → x.since + 100000000 ≤ s.devTime → y.st = .active → y.buffer.length < 512 → x.buffer = [f] →
    Completes (.trainingTimeout p) s fun t => t = { s with ports := [
      (p, { x with st := .failed, lanes := 0, peerPkg := 0, peerPort := 0, counted := none, consecutive := 0, since := s.devTime
                   buffer := [] }),
      (q, { y with buffer := y.buffer ++ [f] })] })

/-! ## Power, boot, management (20) -/

/-- TELEMETRY_SAMPLE and THERMAL_TRIP (R360 to R362): the record of a sample and its slot in the ring, where its words become
readable one by one, and stand once they are performed; where BASE is no host address, the model's own place; the fourth hot sample in a
row trips the package, and then every active context faults with code 4, the clocks stop and the package is in recovery. -/
def Sys2Proof.Claims.TelemetryAndTrip : Prop :=
  (∀ s die (x : Sensors) g, die < 8 → s.governors.get? die = some g → x.power < 2 ^ 16 → x.current < 2 ^ 16 → x.volt < 2 ^ 16 →
    -2 ^ 15 ≤ x.temp → x.temp < 2 ^ 15 →
    let hot := if 1840 ≤ x.temp then g.hot + 1 else 0
    let trips := hot = 4 ∧ s.mode ≠ .recovery ∧ ∀ d ∈ s.governors, d.2.tripped = false
    let seq := max s.samples g.samples
    Completes (.telemetrySample die x) s fun t => ∃ r, t.reports = s.reports ++ [r] ∧
      bits r 255 192 = s.time die ∧ bits r 191 160 = seq % 2 ^ 32 ∧ bits r 159 157 = die ∧
      bits r 156 156 = (if g.throt then 1 else 0) ∧ (bits r 155 155 = 1 ↔ trips) ∧ bits r 154 128 = 0 ∧
      bits r 127 96 = min g.stall (2 ^ 32 - 1) ∧ bits r 95 80 = x.power ∧ bits r 79 64 = x.current ∧ bits r 63 48 = x.volt ∧
      (BitVec.ofNat 16 (bits r 47 32)).toInt = x.temp ∧ bits r 31 0 = 0 ∧
      t.samples = seq ∧
      (∃ h, t.governors.get? die =
        some { g with hot := hot, tripped := h, stall := 0, throt := false, samples := seq + 1 } ∧ (h = true ↔ g.tripped ∨ trips)) ∧
      (s.telctl.toNat.testBit 0 = false → t.mem = s.mem) ∧
      (s.telctl.toNat.testBit 0 = true → s.early = [] → bits s.telctl.toNat 11 8 ≤ 10 →
        let n := 2 ^ bits s.telctl.toNat 11 8 * 4096 / 32
        let slot := (bits s.telctl.toNat 63 12 * 4096 + 32 * ((8 * seq + die) % n)) % 2 ^ 64
        let key := if slot < 2 ^ 47 then 2 ^ 47 + slot else 2 ^ 80 + slot
        t.mem = s.mem ∧ t.early.map EarlyWrite.parts = (List.range 8).map (fun i => [⟨key + 4 * i, 4, .rc, 0, false, false, 0⟩]) ∧
        t.early.map EarlyWrite.val = (List.range 8).map (fun i => r / 2 ^ (32 * i)) ∧
        t.settleAll.mem = Memory.writeN key r 32 s.mem)) ∧
  (∀ s die g, s.governors.get? die = some g → g.tripped = true → s.mode ≠ .recovery →
    (∀ q ∈ s.quarters, q.2.cur = none ∧ q.2.step = none) → Completes (.thermalTrip die) s fun t =>
      t.clocksStopped = true ∧ t.mode = .recovery ∧ t.strands = s.strands ∧ t.hanks = s.hanks ∧ t.queues = s.queues ∧
      (∀ n c, s.ctxs.get? n = some c → c.st = .active → ∃ d, t.ctxs.get? n = some d ∧ d.st = .faulted ∧ d.faultCode = 4) ∧
      (∀ n c, s.ctxs.get? n = some c → c.st ≠ .active → t.ctxs.get? n = some c)) ∧
  (∀ s die, (s.governors.getD die governorIdle).tripped = false → exec (.thermalTrip die) s = .next s)

/-- Power-on, reset, boot, the heartbeat, device time and attestation (R363 to R368): what each leaves. An image that fails one check of
R366 is not loaded, and those of the queue engines are loaded after Gladin's; that the boot has steps with work of their own is the
model's (log 66), and so is what memory and scratchpads read as after power-on or reset (log 3). -/
def Sys2Proof.Claims.BootAndManagement : Prop :=
  (∀ s, Completes .powerOn s fun t => t.mode = .startUp ∧ t.mem = [] ∧ t.ctxs = [] ∧ t.queues = [] ∧ t.strands = [] ∧
    t.pins = [] ∧ t.regsOpen = false ∧ t.clocksStopped = false ∧ t.featAgreed = 0x017F ∧ t.linkTmo = 10000 ∧ t.fuse = s.fuse) ∧
  (∀ s, s.early = [] → Completes .reset s fun t => t.mode = .startUp ∧ t.ctxs = [] ∧ t.queues = [] ∧ t.strands = [] ∧
    t.hanks = [] ∧ t.pins = [] ∧ t.regsOpen = false ∧ t.clocksStopped = false ∧ t.devTime = s.devTime ∧
    (∀ k, k < 2 ^ 64 → t.mem.read k = s.mem.read k) ∧
    ∀ b, b < 6144 → ∀ i, i < 2 ^ 18 → t.mem.read (bankKey b i) = Memory.unlisted) ∧
  (∀ s locations n l, s.mode = .startUp → s.ctxs = [] → s.boot = 4 → Config.bootNeeds s.moves ≤ s.bootWork → n < 4 → locations[n]? = some l → l ≠ [] →
    (∀ x ∈ l, x.ed25519 = true ∧ x.mlDsa = true ∧ s.fuse ≤ x.version) →
    (∀ k < n, ∀ m, locations[k]? = some m → ∃ x ∈ m, x.ed25519 = false ∨ x.mlDsa = false ∨ x.version < s.fuse) →
    Completes (.bootCompletes locations n) s fun t =>
      t = { s with
        mode := .service, engines := true, regsOpen := true, boot := 0, bootWork := 0
        images := ((l.filter fun x => !x.engine) ++ l.filter fun x => x.engine).map BootImage.digest }) ∧
  (∀ s locations n, (s.mode ≠ .startUp ∨ s.boot ≠ 4 ∨ ∃ l, locations[n]? = some l ∧
      ∃ x ∈ l, x.ed25519 = false ∨ x.mlDsa = false ∨ x.version < s.fuse) →
    exec (.bootCompletes locations n) s = .next s) ∧
  (∀ s, s.mode = .startUp → s.ctxs = [] → s.boot = 3 →
    (∀ l ∈ (Config.bootLocations s.moves).take 4, l = [] ∨ ∃ x ∈ l, x.ed25519 = false ∨ x.mlDsa = false ∨ x.version < s.fuse) →
    Completes .noImageVerifies s fun t => t = { s with mode := .recovery, boot := 0, bootWork := 0 }) ∧
  (∀ s, (s.mode ≠ .startUp ∨ s.boot ≠ 3 ∨ ∃ l ∈ (Config.bootLocations s.moves).take 4, l ≠ [] ∧
      ∀ x ∈ l, x.ed25519 = true ∧ x.mlDsa = true ∧ s.fuse ≤ x.version) →
    exec .noImageVerifies s = .next s) ∧
  (∀ s, 50000000 ≤ s.silence → s.manager ≠ 4 → Completes .heartbeatTimeout s fun t => t = { s with manager := 4, bootWork := 0 }) ∧
  (∀ s, (s.silence < 50000000 ∨ s.manager = 4) → exec .heartbeatTimeout s = .next s) ∧
  (∀ s n, n < 2 ^ 64 → (s.mode = .startUp → Completes (.ptpMessage n) s fun t => t = { s with devTime := n }) ∧
    (s.mode ≠ .startUp → Completes (.ptpMessage n) s fun t => s.devTime ≤ t.devTime)) ∧
  (∀ s nonce, nonce < 2 ^ 256 → Completes (.attestationReport nonce) s fun t => t = { s with reports := t.reports } ∧
    ∃ a b, t.reports = s.reports ++ s.images ++ [s.featAgreed.toNat, s.fuse, nonce, a, b])

/-- The host's accesses to BAR 0 and BAR 4. -/
def Obligations.HostAccess : Prop := HostRegistersAreWritten ∧ HostRegistersAreRead ∧ HostAccessesAndTimeouts

/-- Ports, links and requests that wait for them. -/
def Obligations.LinksAndPorts : Prop := PortEvents ∧ LinksFailOver

/-- Telemetry, the thermal trip, boot, time and attestation. -/
def Obligations.PowerBootAndManagement : Prop := TelemetryAndTrip ∧ BootAndManagement

/-! ## Fetching, words and steps -/

/-- The checks of R194 past alignment: an access whose translation fails traps with its fault record (09 R176, 18 R325, R326):
causes 1 and 6 with cause 5, causes 3 to 5 with cause 6, at the word; cause 2 with cause 5 and HELD, past the word, the access
outstanding on the record, which holds it, an acquire's own as any other (11 R230); cause 7 faults the context, and no trap is taken. -/
def Sys2Proof.Claims.AccessTranslationTraps : Prop :=
  ∀ s x i k st a f c, s.Alone x i k st → ask i (s.lane x k st) st = some a → st.handler = false → st.pastFence = false →
    s.reach (posOf x.braid k) st (s.lane x k st) a.wants = .error (.inr f) → s.ctxs.get? (s.ctxNum st) = some c →
    let pos := posOf x.braid k
    let record := fun (held : Bool) => faultRecord f.va c.seq.toNat (coreOf pos) st.index
      (if f.link then 7 else a.wants.src) f.cause f.level held
    (f.cause ∈ [1, 3, 4, 5, 6] → Completes i s fun t =>
      t.strand? pos = some { st with
        run := .trapped, regs := { st.regs with pc := x.here }
        trap := ⟨x.clause, x.word, if f.cause = 1 ∨ f.cause = 6 then 5 else 6, f.cause, record false⟩
        trapSet := s.moves, heldOn := none } ∧
      ∃ d, t.ctxs.get? (s.ctxNum st) = some d ∧ d.seq = c.seq + 1) ∧
    (f.cause = 2 → (∀ p ∈ c.inService, p.page ≠ f.page) → (∀ p ∈ c.inService, p.seq ≠ c.seq.toNat) →
      (∀ o ∈ st.outs, o.id ≠ st.nextId) → Completes i s fun t =>
      (∃ z, t.strand? pos = some z ∧ z.regs.pc = x.after i ∧ z.heldOn = some c.seq.toNat ∧
        (∃ o ∈ z.outs, o.id = st.nextId ∧ o.slot = a.long.slot ∧ o.svc = some c.seq.toNat) ∧
        z.run = .trapped ∧ z.trap = ⟨x.clause, x.word, 5, 18, record true⟩ ∧ z.trapSet = s.moves ∧ z.deferred = st.deferred) ∧
      ∃ d, t.ctxs.get? (s.ctxNum st) = some d ∧ d.seq = c.seq + 1 ∧
        d.inService = c.inService ++ [⟨f.page, f.size, c.seq.toNat, record true, [.op st.nextId]⟩]) ∧
    (f.cause = 7 → c.st = .active → Completes i s fun t => t.strand? pos = some { st with run := .stalled (.ops []) } ∧
      ∃ d, t.ctxs.get? (s.ctxNum st) = some d ∧ d.st = .faulted ∧ d.seq = c.seq + 1)

/-- A clause is fetched from memory (R22 to R26): the header at its address gives the count, the class and the wait mask, and the
slot words are the next doublewords. A misaligned address, a header that is none, or a word that its clause does not admit is
an illegal clause: cause 2, at the clause start. -/
def Obligations.ClausesAreFetchedFromMemory : Prop :=
  ∀ (s : State) core ctx (a : DWord) k, s.early = [] →
    let word := fun (i : Nat) => s.mem.readN (k + 8 * i) 8
    let h := word 0
    (∀ i, i ≤ bits h 59 56 + 1 → ∃ q, s.parts core ctx .exec (a + BitVec.ofNat 64 (8 * i)).toNat 8 = .ok [q] ∧
      q.key = k + 8 * i ∧ q.len = 8 ∧ Reached s q) →
    let c : Clause := ⟨bits h 55 53, bits h 52 41, (List.range (bits h 59 56 + 1)).map fun i => BitVec.ofNat 64 (word (i + 1))⟩
    let bad := fun (t : TrapReq) => t.cause = 2 ∧ t.point = some ⟨a, 0⟩ ∧ t.resume = some ⟨a, 0⟩
    let header := bits h 63 60 = 0xD ∧ bits h 39 0 = 0
    (a.toNat % 8 = 0 → header → clauseOk c = true → s.fetchClause core ctx a = .ok c) ∧
    (a.toNat % 8 = 0 → header → clauseOk c = false → ∃ t, s.fetchClause core ctx a = .error t ∧ bad t) ∧
    (a.toNat % 8 = 0 → ¬ header → ∃ t, s.fetchClause core ctx a = .error t ∧ bad t) ∧
    (a.toNat % 8 ≠ 0 → ∃ t, s.fetchClause core ctx a = .error t ∧ bad t)

/-- A step of a quarter runs the word at which its issue set stands: where the slot words there decode to i, and no lane that
reaches it stalls or blocks at it, step is exec of i for the lanes that reach it; a strand that the word leaves a candidate
there, outside a step of the debugger, stands at the word after it, but where `rte` has brought it back to that very point (18 R336). A step of an event is exec of the event, once its time has
passed; stopped clocks move no event but those from outside the dies (20 R360; log 46). -/
def Sys2Proof.Claims.QuarterAndEventSteps : Prop :=
  (∀ s q x i, s.agenda.head? = some (.word q) → q < 1536 → s.clocksStopped = false →
    let m := s.takeMove.2
    let r := ({ m with focus := q, stepping := false } : State).settleCur
    r.cur = some x →
    let x' := { x with mask := maskOf ((r.reaching x).map Prod.fst) }
    let w := (x.words.getD (x.word - 1) 0).toNat
    let size := if takesExt (bits w 63 56) (bits w 55 52) then 2 else 1
    let u := r.setCur x'
    decode w (x.words.getD x.word 0).toNat = .ok i → r.reaching x ≠ [] →
    (∀ p ∈ r.reaching x, ∀ room,
      r.gate x' (.ok i) p.1 p.2 room = none) →
    ∀ v, exec i u = .next v → ∃ t, step s = .next t ∧ t.mem = v.mem ∧ t.ctxs = v.ctxs ∧ t.events = v.events ∧
      ∀ l y, x'.mask.getLsbD l = true → v.strand? (posOf x.braid l) = some y → v.cur = some x' → v.stepping = false →
        y.run = .candidate → y.regs.pc = ⟨x.clause, x.word⟩ →
        (∀ y0, u.strand? (posOf x.braid l) = some y0 → y0.handler = true → y.handler = true) →
        ∃ z, t.strand? (posOf x.braid l) = some z ∧ z.run = .candidate ∧ z.regs.v = y.regs.v ∧
          z.regs.pc = if x.words.length < x.word + size then ⟨nextClause x.clause x.words.length, 0⟩ else ⟨x.clause, x.word + size⟩) ∧
  (∀ s i, s.agenda.head? = some (.event i) → i.info.word = false →
    ((s.clocksStopped = false ∨ unclocked i = true) → step s = exec i s.takeMove.2) ∧
    (s.clocksStopped = true → unclocked i = false → step s = .next s.takeMove.2)) ∧
  (∀ s q, s.agenda.head? = some (.word q) → q < 1536 → s.clocksStopped = true → step s = .next s.takeMove.2)

/-- The word of a `tstep` (18 R341): once no issue set is inside a clause of the quarter, the set that the step forms executes the
one word at which it stands; each strand that it leaves a candidate stands at the word after it, held again, with the trap record
of cause 19, and the step is over. Without a step asked, or while a set is inside a clause, nothing happens. -/
def Sys2Proof.Claims.SteppedWordRuns : Prop :=
  ∀ s q, s.agenda.head? = some (.stepWord q) → q < 1536 →
    let m := s.takeMove.2
    ((s.clocksStopped = true ∨ (m.quarter q).step = none ∨ (m.quarter q).cur ≠ none) → step s = .next m) ∧
    ∀ r x i, s.clocksStopped = false → (m.quarter q).step = some r → (m.quarter q).cur = none →
      let f := ({ m with focus := q, stepping := false } : State).formStep r
      let n := f.settleCur
      f.stepping = true → n.cur = some x →
      let x' := { x with mask := maskOf ((n.reaching x).map Prod.fst) }
      let w := (x.words.getD (x.word - 1) 0).toNat
      let size := if takesExt (bits w 63 56) (bits w 55 52) then 2 else 1
      let u := n.setCur x'
      decode w (x.words.getD x.word 0).toNat = .ok i → n.reaching x ≠ [] →
      (∀ p ∈ n.reaching x, ∀ room, n.gate x' (.ok i) p.1 p.2 room = none) →
      ∀ v, exec i u = .next v → v.cur = some x' → v.stepping = true → v.focus = q → (v.quarter q).step ≠ none →
        ∃ t, step s = .next t ∧ t.mem = v.mem ∧ t.ctxs = v.ctxs ∧ t.events = v.events ∧
          ∀ l y, x'.mask.getLsbD l = true → v.strand? (posOf x.braid l) = some y → y.run = .candidate → y.deferred = none →
            y.regs.pc = ⟨x.clause, x.word⟩ →
            (∀ y0, u.strand? (posOf x.braid l) = some y0 → y0.handler = true → y.handler = true) →
            (t.quarter q).step = none ∧ t.stepping = false ∧
            ∃ z, t.strand? (posOf x.braid l) = some z ∧ z.held = true ∧ z.trap = ⟨x.clause, x.word, 19, 0, 0⟩ ∧ z.regs.pc =
              if x.words.length < x.word + size then ⟨nextClause x.clause x.words.length, 0⟩ else ⟨x.clause, x.word + size⟩

/-- A step runs the decoded word, of a quarter or of a debugger's step, or the event. -/
def Obligations.StepRunsDecodedWord : Prop := QuarterAndEventSteps ∧ SteppedWordRuns

/-- An encoding that no instruction has is none (00 R9): a slot word decodes only where it encodes a well-formed instruction,
and a step of a quarter at a word that does not decode raises the illegal-instruction trap, cause 1, in every lane that reaches
it (in ops 0x90 to 0x95 and 0xA0 to 0xA4, which each strand checks whose predicate holds, in those: 14 R263, 15 R286; that an
encoding of theirs that no instruction has is among these checks, log 55): the lane stands trapped at the word, its registers as before, and memory is as before. -/
def Obligations.UnlistedWordsTrap : Prop :=
  (∀ w x, (∀ i e, i.wf = true → encode i = some e → e.word = w → takesExt (bits w 63 56) (bits w 55 52) = true ∧ e.ext ≠ x) →
    ∃ err, decode w x = .error err) ∧
  ∀ s q x err, s.agenda.head? = some (.word q) → q < 1536 → s.clocksStopped = false →
    let m := s.takeMove.2
    let r := ({ m with focus := q, stepping := false } : State).settleCur
    r.cur = some x → r.reaching x ≠ [] →
    let w := (x.words.getD (x.word - 1) 0).toNat
    decode w (x.words.getD x.word 0).toNat = .error err →
    (∀ p ∈ r.reaching x, p.2.handler = false ∧ p.2.pastFence = false ∧ (∀ o ∈ p.2.outs, o.look ≠ 0) ∧ p.2.awaits = []) →
    ∃ t, step s = .next t ∧ t.mem = m.mem ∧ t.ctxs = m.ctxs ∧
      ∀ l st, (l, st) ∈ r.reaching x →
        ((0x90 ≤ bits w 63 56 ∧ bits w 63 56 ≤ 0x95) ∨ (0xA0 ≤ bits w 63 56 ∧ bits w 63 56 ≤ 0xA4) → predHolds st.regs ⟨bits w 51 51 == 1, bits w 50 43⟩ = true) →
        ∃ z, t.strand? (posOf x.braid l) = some z ∧ z = { st with run := .trapped, trap := ⟨x.clause, x.word, 1, 0, 0⟩, trapSet := m.moves, heldOn := none }

/-- Memory words whose address fails a check trap, in the order of R194. That SRC of the record is 0 for xget and 1 for fset is the
model's reading (log 26). -/
def Obligations.AccessTraps : Prop := AccessAddressTraps ∧ AccessTranslationTraps

/-! ## The whole machine -/

/-- Encoding and decoding agree (02 R31 to R52, 00 R9): every well-formed instruction has a word, and an extension word where it
takes one, that decodes to it; and a word that decodes is the encoding of a well-formed instruction, no bit of it dropped. -/
def Obligations.EncodeDecodeRoundTrip : Prop :=
  (∀ i : Instr, i.wf = true →
    ∃ e, encode i = some e ∧ e.word < 2 ^ 64 ∧ e.ext < 2 ^ 64 ∧ decode e.word e.ext = .ok i) ∧
  (∀ w x i, decode w x = .ok i → i.wf = true ∧ ∃ e, encode i = some e ∧ e.word = w ∧
    (takesExt (bits w 63 56) (bits w 55 52) = true → e.ext = x))

/-- Words that the spec writes out decode to the instructions that they stand for (R31 to R43, R147, R200, R205, R225, R262,
R285, R302). -/
def Obligations.SpecWordsDecode : Prop :=
  decode 0x04A0002806020000 0 = .ok (.add ⟨true, false, .w8⟩ ⟨⟨false, 0⟩, 5, none⟩ (.v 3) (.v 4)) ∧
  decode 0x6520_0048_0D82_0032 0 = .ok (.stf (some .cl) ⟨⟨false, 0⟩, 3, 2⟩ 9 (.v 6) (.const 4)) ∧
  decode 0x70A0_0050_098E_002F 0 = .ok (.atom .inc .plain ⟨⟨false, 0⟩, 2, 15⟩ 10 (.g 4) (.b32 (.const 28))) ∧
  decode 0x8020_0000_0000_04FF 0 = .ok (.fence .ar .d ⟨⟨false, 0⟩, 15, 15⟩) ∧
  decode 0x9010_0030_0000_0200 0 = .ok (.tall .t8 2 ⟨⟨false, 0⟩, 0, 0⟩ ⟨1, 2⟩) ∧
  decode 0xA050_00A0_0404_053F 0 = .ok (.cpb 1 (.barrier 5) ⟨⟨false, 0⟩, 3, 15⟩ 20 2 8) ∧
  decode 0xB700_0098_0000_10FF 0 = .ok (.amul ⟨⟨false, 0⟩, 15, 15⟩ 3 1 2) ∧
  decode 0xF100_0000_0000_00FF 0 = .ok (.rte false ⟨false, 0⟩)

/-- The invariant of memory (log 3): every step keeps the canonical form of `State.mem`, so that equal memories are equal data. -/
def Obligations.EveryStepKeepsMemoryCanonical : Prop := ∀ s t, s.MemOk → step s = .next t → t.MemOk

/-- The package at power-on (20 R364, 04 R80, 19 R352, R357): start-up, nothing placed, memory in canonical form (log 3), and the values
that the spec gives its registers. A port that is down, and values that log 4 names, are the model's choice. -/
def Obligations.ResetState : Prop :=
  State.reset.MemOk ∧ State.reset.mode = .startUp ∧ State.reset.strands = [] ∧ State.reset.ctxs = [] ∧ State.reset.queues = [] ∧
  State.reset.hanks = [] ∧ State.reset.pins = [] ∧ State.reset.featOffer = 0x017F ∧ State.reset.linkTmo = 10000 ∧
  State.reset.pkgid = 0 ∧ State.reset.telctl = 0 ∧ State.reset.cmd.busy = false ∧ State.reset.cmd.seq = 0 ∧
  State.reset.tlbinv = none ∧ (State.reset.port 0).en = false ∧ (State.reset.port 0).st = .down ∧
  (State.reset.bank 0).mode = .cache

/-- No instruction and no event stops the machine: each answers a next state, whatever the state. -/
def Sys2Proof.Claims.EveryInstructionCompletes : Prop := ∀ i s, ∃ t, exec i s = .next t

/-- A step stops only for a move that names a quarter the package does not have (01 R14: 384 cores of 4 quarters). -/
def Sys2Proof.Claims.StepStopsOnlyWithoutQuarter : Prop :=
  ∀ s, (∃ t, step s = .next t) ∨
    (step s = .fault .noSuchQuarter ∧ ∃ q, 1536 ≤ q ∧ (s.takeMove.1 = .word q ∨ s.takeMove.1 = .stepWord q))

/-- The package changes its mode only by the events that have a row in the mode table (20 R364). -/
def Obligations.ModeChangesOnlyByItsEvents : Prop :=
  ∀ s t, step s = .next t → t.mode ≠ s.mode →
    s.takeMove.1 ∈ [Move.event .powerOn, .event .reset, .event .noImageVerifies, .event .enterTestMode, .event .enterServiceMode] ∨
    (∃ d v, s.takeMove.1 = .event (.bootCompletes d v)) ∨ ∃ die, s.takeMove.1 = .event (.thermalTrip die)

/-- No instruction stops the machine, and a step only where it names a quarter that does not exist. -/
def Obligations.StepsAlwaysComplete : Prop := EveryInstructionCompletes ∧ StepStopsOnlyWithoutQuarter
end

