-- ==== Sys2Proof/Laws/Dispatch.lean ====
section
/-! SUPPORT. `exec` at each constructor is that instruction's meaning. -/

namespace Sys2Proof.Machine

@[simp] theorem exec_nop : ∀ s, exec .nop s = execNop s :=
  fun _ => rfl
@[simp] theorem exec_mov : ∀ x a s, exec (.mov x a) s = execMov x a s :=
  fun _ _ _ => rfl
@[simp] theorem exec_movi : ∀ f p d imm s, exec (.movi f p d imm) s = execMovi f p d imm s :=
  fun _ _ _ _ _ => rfl
@[simp] theorem exec_movx : ∀ f p d lit s, exec (.movx f p d lit) s = execMovx f p d lit s :=
  fun _ _ _ _ _ => rfl
@[simp] theorem exec_add : ∀ f x a b s, exec (.add f x a b) s = execAdd f x a b s :=
  fun _ _ _ _ _ => rfl
@[simp] theorem exec_sub : ∀ f x a b s, exec (.sub f x a b) s = execSub f x a b s :=
  fun _ _ _ _ _ => rfl
@[simp] theorem exec_mul : ∀ f x a b s, exec (.mul f x a b) s = execMul f x a b s :=
  fun _ _ _ _ _ => rfl
@[simp] theorem exec_mulh : ∀ natural x a b s, exec (.mulh natural x a b) s = execMulh natural x a b s :=
  fun _ _ _ _ _ => rfl
@[simp] theorem exec_mad : ∀ f x a b c s, exec (.mad f x a b c) s = execMad f x a b c s :=
  fun _ _ _ _ _ _ => rfl
@[simp] theorem exec_neg : ∀ f x a s, exec (.neg f x a) s = execNeg f x a s :=
  fun _ _ _ _ => rfl
@[simp] theorem exec_abs : ∀ f x a s, exec (.abs f x a) s = execAbs f x a s :=
  fun _ _ _ _ => rfl
@[simp] theorem exec_min : ∀ f x a b s, exec (.min f x a b) s = execMin f x a b s :=
  fun _ _ _ _ _ => rfl
@[simp] theorem exec_max : ∀ f x a b s, exec (.max f x a b) s = execMax f x a b s :=
  fun _ _ _ _ _ => rfl
@[simp] theorem exec_sel : ∀ x a b c s, exec (.sel x a b c) s = execSel x a b c s :=
  fun _ _ _ _ _ => rfl
@[simp] theorem exec_lea : ∀ natural sh x a b s, exec (.lea natural sh x a b) s = execLea natural sh x a b s :=
  fun _ _ _ _ _ _ => rfl
@[simp] theorem exec_add64 : ∀ x a b s, exec (.add64 x a b) s = execAdd64 x a b s :=
  fun _ _ _ _ => rfl
@[simp] theorem exec_sub64 : ∀ x a b s, exec (.sub64 x a b) s = execSub64 x a b s :=
  fun _ _ _ _ => rfl
@[simp] theorem exec_and : ∀ x a b s, exec (.and x a b) s = execAnd x a b s :=
  fun _ _ _ _ => rfl
@[simp] theorem exec_or : ∀ x a b s, exec (.or x a b) s = execOr x a b s :=
  fun _ _ _ _ => rfl
@[simp] theorem exec_xor : ∀ x a b s, exec (.xor x a b) s = execXor x a b s :=
  fun _ _ _ _ => rfl
@[simp] theorem exec_not : ∀ x a s, exec (.not x a) s = execNot x a s :=
  fun _ _ _ => rfl
@[simp] theorem exec_shl : ∀ x a b s, exec (.shl x a b) s = execShl x a b s :=
  fun _ _ _ _ => rfl
@[simp] theorem exec_shr : ∀ x a b s, exec (.shr x a b) s = execShr x a b s :=
  fun _ _ _ _ => rfl
@[simp] theorem exec_sar : ∀ x a b s, exec (.sar x a b) s = execSar x a b s :=
  fun _ _ _ _ => rfl
@[simp] theorem exec_rot : ∀ right x a b s, exec (.rot right x a b) s = execRot right x a b s :=
  fun _ _ _ _ _ => rfl
@[simp] theorem exec_clz : ∀ x a s, exec (.clz x a) s = execClz x a s :=
  fun _ _ _ => rfl
@[simp] theorem exec_popc : ∀ x a s, exec (.popc x a) s = execPopc x a s :=
  fun _ _ _ => rfl
@[simp] theorem exec_brev : ∀ x a s, exec (.brev x a) s = execBrev x a s :=
  fun _ _ _ => rfl
@[simp] theorem exec_bfe : ∀ signed x a b c s, exec (.bfe signed x a b c) s = execBfe signed x a b c s :=
  fun _ _ _ _ _ _ => rfl
@[simp] theorem exec_bfi : ∀ x a b c s, exec (.bfi x a b c) s = execBfi x a b c s :=
  fun _ _ _ _ _ => rfl
@[simp] theorem exec_cmp : ∀ cond x a b s, exec (.cmp cond x a b) s = execCmp cond x a b s :=
  fun _ _ _ _ _ => rfl
@[simp] theorem exec_vtag : ∀ t x a s, exec (.vtag t x a) s = execVtag t x a s :=
  fun _ _ _ _ => rfl
@[simp] theorem exec_fadd : ∀ rm x a b s, exec (.fadd rm x a b) s = execFadd rm x a b s :=
  fun _ _ _ _ _ => rfl
@[simp] theorem exec_fsub : ∀ rm x a b s, exec (.fsub rm x a b) s = execFsub rm x a b s :=
  fun _ _ _ _ _ => rfl
@[simp] theorem exec_fmul : ∀ rm x a b s, exec (.fmul rm x a b) s = execFmul rm x a b s :=
  fun _ _ _ _ _ => rfl
@[simp] theorem exec_ffma : ∀ rm x a b c s, exec (.ffma rm x a b c) s = execFfma rm x a b c s :=
  fun _ _ _ _ _ _ => rfl
@[simp] theorem exec_fmin : ∀ nan x a b s, exec (.fmin nan x a b) s = execFmin nan x a b s :=
  fun _ _ _ _ _ => rfl
@[simp] theorem exec_fmax : ∀ nan x a b s, exec (.fmax nan x a b) s = execFmax nan x a b s :=
  fun _ _ _ _ _ => rfl
@[simp] theorem exec_fabs : ∀ x a s, exec (.fabs x a) s = execFabs x a s :=
  fun _ _ _ => rfl
@[simp] theorem exec_fneg : ∀ x a s, exec (.fneg x a) s = execFneg x a s :=
  fun _ _ _ => rfl
@[simp] theorem exec_fcmp : ∀ cond x a b s, exec (.fcmp cond x a b) s = execFcmp cond x a b s :=
  fun _ _ _ _ _ => rfl
@[simp] theorem exec_frnd : ∀ exact rm x a s, exec (.frnd exact rm x a) s = execFrnd exact rm x a s :=
  fun _ _ _ _ _ => rfl
@[simp] theorem exec_fcsgn : ∀ x a b s, exec (.fcsgn x a b) s = execFcsgn x a b s :=
  fun _ _ _ _ => rfl
@[simp] theorem exec_fclass : ∀ x a s, exec (.fclass x a) s = execFclass x a s :=
  fun _ _ _ => rfl
@[simp] theorem exec_fdiv : ∀ rm x a b s, exec (.fdiv rm x a b) s = execFdiv rm x a b s :=
  fun _ _ _ _ _ => rfl
@[simp] theorem exec_fsqrt : ∀ rm x a s, exec (.fsqrt rm x a) s = execFsqrt rm x a s :=
  fun _ _ _ _ => rfl
@[simp] theorem exec_frcp : ∀ rm x a s, exec (.frcp rm x a) s = execFrcp rm x a s :=
  fun _ _ _ _ => rfl
@[simp] theorem exec_frsq : ∀ rm x a s, exec (.frsq rm x a) s = execFrsq rm x a s :=
  fun _ _ _ _ => rfl
@[simp] theorem exec_fexp2 : ∀ rm x a s, exec (.fexp2 rm x a) s = execFexp2 rm x a s :=
  fun _ _ _ _ => rfl
@[simp] theorem exec_flog2 : ∀ rm x a s, exec (.flog2 rm x a) s = execFlog2 rm x a s :=
  fun _ _ _ _ => rfl
@[simp] theorem exec_ffract : ∀ x a s, exec (.ffract x a) s = execFfract x a s :=
  fun _ _ _ => rfl
@[simp] theorem exec_hadd : ∀ rm x a b s, exec (.hadd rm x a b) s = execHadd rm x a b s :=
  fun _ _ _ _ _ => rfl
@[simp] theorem exec_hsub : ∀ rm x a b s, exec (.hsub rm x a b) s = execHsub rm x a b s :=
  fun _ _ _ _ _ => rfl
@[simp] theorem exec_hmul : ∀ rm x a b s, exec (.hmul rm x a b) s = execHmul rm x a b s :=
  fun _ _ _ _ _ => rfl
@[simp] theorem exec_hfma : ∀ rm x a b c s, exec (.hfma rm x a b c) s = execHfma rm x a b c s :=
  fun _ _ _ _ _ _ => rfl
@[simp] theorem exec_hmin : ∀ nan x a b s, exec (.hmin nan x a b) s = execHmin nan x a b s :=
  fun _ _ _ _ _ => rfl
@[simp] theorem exec_hmax : ∀ nan x a b s, exec (.hmax nan x a b) s = execHmax nan x a b s :=
  fun _ _ _ _ _ => rfl
@[simp] theorem exec_hcmp : ∀ cond x a b s, exec (.hcmp cond x a b) s = execHcmp cond x a b s :=
  fun _ _ _ _ _ => rfl
@[simp] theorem exec_cvt : ∀ tf ff rm x a q s, exec (.cvt tf ff rm x a q) s = execCvt tf ff rm x a q s :=
  fun _ _ _ _ _ _ _ => rfl
@[simp] theorem exec_cvtb : ∀ tf rm residual x a n b s, exec (.cvtb tf rm residual x a n b) s = execCvtb tf rm residual x a n b s :=
  fun _ _ _ _ _ _ _ _ => rfl
@[simp] theorem exec_pack : ∀ f ah bh x a b s, exec (.pack f ah bh x a b) s = execPack f ah bh x a b s :=
  fun _ _ _ _ _ _ _ => rfl
@[simp] theorem exec_unpack : ∀ f x a b s, exec (.unpack f x a b) s = execUnpack f x a b s :=
  fun _ _ _ _ _ => rfl
@[simp] theorem exec_rngx : ∀ x a b s, exec (.rngx x a b) s = execRngx x a b s :=
  fun _ _ _ _ => rfl
@[simp] theorem exec_shfl : ∀ m x a b c s, exec (.shfl m x a b c) s = execShfl m x a b c s :=
  fun _ _ _ _ _ _ => rfl
@[simp] theorem exec_vote : ∀ m x a s, exec (.vote m x a) s = execVote m x a s :=
  fun _ _ _ _ => rfl
@[simp] theorem exec_ballot : ∀ x a s, exec (.ballot x a) s = execBallot x a s :=
  fun _ _ _ => rfl
@[simp] theorem exec_scan : ∀ op ex x a s, exec (.scan op ex x a) s = execScan op ex x a s :=
  fun _ _ _ _ _ => rfl
@[simp] theorem exec_red : ∀ op x a s, exec (.red op x a) s = execRed op x a s :=
  fun _ _ _ _ => rfl
@[simp] theorem exec_gatherPointRelease : ∀ braid s, exec (.gatherPointRelease braid) s = execGatherPointRelease braid s :=
  fun _ _ => rfl
@[simp] theorem exec_ld : ∀ k os h l d a s, exec (.ld k os h l d a) s = execLd k os h l d a s :=
  fun _ _ _ _ _ _ _ => rfl
@[simp] theorem exec_st : ∀ k os h l d a s, exec (.st k os h l d a) s = execSt k os h l d a s :=
  fun _ _ _ _ _ _ _ => rfl
@[simp] theorem exec_ldw : ∀ t os h l d a s, exec (.ldw t os h l d a) s = execLdw t os h l d a s :=
  fun _ _ _ _ _ _ _ => rfl
@[simp] theorem exec_stw : ∀ os h l d a s, exec (.stw os h l d a) s = execStw os h l d a s :=
  fun _ _ _ _ _ _ => rfl
@[simp] theorem exec_ldf : ∀ t os l d a b s, exec (.ldf t os l d a b) s = execLdf t os l d a b s :=
  fun _ _ _ _ _ _ _ => rfl
@[simp] theorem exec_stf : ∀ os l d a b s, exec (.stf os l d a b) s = execStf os l d a b s :=
  fun _ _ _ _ _ _ => rfl
@[simp] theorem exec_fset : ∀ full l a b s, exec (.fset full l a b) s = execFset full l a b s :=
  fun _ _ _ _ _ => rfl
@[simp] theorem exec_fpush : ∀ os l d a b s, exec (.fpush os l d a b) s = execFpush os l d a b s :=
  fun _ _ _ _ _ _ => rfl
@[simp] theorem exec_fpop : ∀ t os l d a b s, exec (.fpop t os l d a b) s = execFpop t os l d a b s :=
  fun _ _ _ _ _ _ _ => rfl
@[simp] theorem exec_pref : ∀ lv l a b s, exec (.pref lv l a b) s = execPref lv l a b s :=
  fun _ _ _ _ _ => rfl
@[simp] theorem exec_lline : ∀ l d a b s, exec (.lline l d a b) s = execLline l d a b s :=
  fun _ _ _ _ _ => rfl
@[simp] theorem exec_uline : ∀ l d a b s, exec (.uline l d a b) s = execUline l d a b s :=
  fun _ _ _ _ _ => rfl
@[simp] theorem exec_bankset : ∀ m l d a s, exec (.bankset m l d a) s = execBankset m l d a s :=
  fun _ _ _ _ _ => rfl
@[simp] theorem exec_atom : ∀ op o l d a b s, exec (.atom op o l d a b) s = execAtom op o l d a b s :=
  fun _ _ _ _ _ _ _ => rfl
@[simp] theorem exec_cas : ∀ o l d a b s, exec (.cas o l d a b) s = execCas o l d a b s :=
  fun _ _ _ _ _ _ => rfl
@[simp] theorem exec_atomf : ∀ rm o l d a b s, exec (.atomf rm o l d a b) s = execAtomf rm o l d a b s :=
  fun _ _ _ _ _ _ _ => rfl
@[simp] theorem exec_xadd : ∀ half o l a b s, exec (.xadd half o l a b) s = execXadd half o l a b s :=
  fun _ _ _ _ _ _ => rfl
@[simp] theorem exec_xget : ∀ half rm o l d a s, exec (.xget half rm o l d a) s = execXget half rm o l d a s :=
  fun _ _ _ _ _ _ _ => rfl
@[simp] theorem exec_xclr : ∀ o l a s, exec (.xclr o l a) s = execXclr o l a s :=
  fun _ _ _ _ => rfl
@[simp] theorem exec_fence : ∀ k x l s, exec (.fence k x l) s = execFence k x l s :=
  fun _ _ _ _ => rfl
@[simp] theorem exec_fenceCompletion : ∀ pos id s, exec (.fenceCompletion pos id) s = execFenceCompletion pos id s :=
  fun _ _ _ => rfl
@[simp] theorem exec_holdBufferLeave : ∀ pos id s, exec (.holdBufferLeave pos id) s = execHoldBufferLeave pos id s :=
  fun _ _ _ => rfl
@[simp] theorem exec_rollback : ∀ braid grp s, exec (.rollback braid grp) s = execRollback braid grp s :=
  fun _ _ _ => rfl
@[simp] theorem exec_barInitArr : ∀ l bar a s, exec (.barInitArr l bar a) s = execBarInitArr l bar a s :=
  fun _ _ _ _ => rfl
@[simp] theorem exec_barInitRows : ∀ l bar a b s, exec (.barInitRows l bar a b) s = execBarInitRows l bar a b s :=
  fun _ _ _ _ _ => rfl
@[simp] theorem exec_barArrive : ∀ x l bar d s, exec (.barArrive x l bar d) s = execBarArrive x l bar d s :=
  fun _ _ _ _ _ => rfl
@[simp] theorem exec_barWait : ∀ x l bar a s, exec (.barWait x l bar a) s = execBarWait x l bar a s :=
  fun _ _ _ _ _ => rfl
@[simp] theorem exec_barSync : ∀ x l bar s, exec (.barSync x l bar) s = execBarSync x l bar s :=
  fun _ _ _ _ => rfl
@[simp] theorem exec_barDrop : ∀ l bar a s, exec (.barDrop l bar a) s = execBarDrop l bar a s :=
  fun _ _ _ _ => rfl
@[simp] theorem exec_barTest : ∀ l bar d a s, exec (.barTest l bar d a) s = execBarTest l bar d a s :=
  fun _ _ _ _ _ => rfl
@[simp] theorem exec_barStat : ∀ l bar d s, exec (.barStat l bar d) s = execBarStat l bar d s :=
  fun _ _ _ _ => rfl
@[simp] theorem exec_barFree : ∀ l bar s, exec (.barFree l bar) s = execBarFree l bar s :=
  fun _ _ _ => rfl
@[simp] theorem exec_jnew : ∀ l k d s, exec (.jnew l k d) s = execJnew l k d s :=
  fun _ _ _ _ => rfl
@[simp] theorem exec_join : ∀ l k d a s, exec (.join l k d a) s = execJoin l k d a s :=
  fun _ _ _ _ _ => rfl
@[simp] theorem exec_leave : ∀ l k s, exec (.leave l k) s = execLeave l k s :=
  fun _ _ _ => rfl
@[simp] theorem exec_jrank : ∀ l k d s, exec (.jrank l k d) s = execJrank l k d s :=
  fun _ _ _ _ => rfl
@[simp] theorem exec_jsize : ∀ count l k d s, exec (.jsize count l k d) s = execJsize count l k d s :=
  fun _ _ _ _ _ => rfl
@[simp] theorem exec_jbar : ∀ x l k s, exec (.jbar x l k) s = execJbar x l k s :=
  fun _ _ _ _ => rfl
@[simp] theorem exec_jscan : ∀ op ex x l k d a s, exec (.jscan op ex x l k d a) s = execJscan op ex x l k d a s :=
  fun _ _ _ _ _ _ _ _ => rfl
@[simp] theorem exec_jred : ∀ op x l k d a s, exec (.jred op x l k d a) s = execJred op x l k d a s :=
  fun _ _ _ _ _ _ _ => rfl
@[simp] theorem exec_tall : ∀ f shape l r s, exec (.tall f shape l r) s = execTall f shape l r s :=
  fun _ _ _ _ _ => rfl
@[simp] theorem exec_tfree : ∀ l r s, exec (.tfree l r) s = execTfree l r s :=
  fun _ _ _ => rfl
@[simp] theorem exec_tzero : ∀ l r s, exec (.tzero l r) s = execTzero l r s :=
  fun _ _ _ => rfl
@[simp] theorem exec_tload : ∀ l r a b s, exec (.tload l r a b) s = execTload l r a b s :=
  fun _ _ _ _ _ => rfl
@[simp] theorem exec_ctr : ∀ f shape an bn l r a b s, exec (.ctr f shape an bn l r a b) s = execCtr f shape an bn l r a b s :=
  fun _ _ _ _ _ _ _ _ _ => rfl
@[simp] theorem exec_contractionStart : ∀ die s, exec (.contractionStart die) s = execContractionStart die s :=
  fun _ _ => rfl
@[simp] theorem exec_tdrain : ∀ f rm keep l r d a q s, exec (.tdrain f rm keep l r d a q) s = execTdrain f rm keep l r d a q s :=
  fun _ _ _ _ _ _ _ _ _ => rfl
@[simp] theorem exec_cpb : ∀ cls att l d r c s, exec (.cpb cls att l d r c) s = execCpb cls att l d r c s :=
  fun _ _ _ _ _ _ _ => rfl
@[simp] theorem exec_cpg : ∀ cls att l d r c s, exec (.cpg cls att l d r c) s = execCpg cls att l d r c s :=
  fun _ _ _ _ _ _ _ => rfl
@[simp] theorem exec_cps : ∀ cls att l d r c s, exec (.cps cls att l d r c) s = execCps cls att l d r c s :=
  fun _ _ _ _ _ _ _ => rfl
@[simp] theorem exec_cpf : ∀ cls att l d r c s, exec (.cpf cls att l d r c) s = execCpf cls att l d r c s :=
  fun _ _ _ _ _ _ _ => rfl
@[simp] theorem exec_cqf : ∀ cls mask l d s, exec (.cqf cls mask l d) s = execCqf cls mask l d s :=
  fun _ _ _ _ _ => rfl
@[simp] theorem exec_commandStart : ∀ core cls s, exec (.commandStart core cls) s = execCommandStart core cls s :=
  fun _ _ _ => rfl
@[simp] theorem exec_chunk : ∀ core s, exec (.chunk core) s = execChunk core s :=
  fun _ _ => rfl
@[simp] theorem exec_copyCompletion : ∀ core cls s, exec (.copyCompletion core cls) s = execCopyCompletion core cls s :=
  fun _ _ _ => rfl
@[simp] theorem exec_aset : ∀ l d a b s, exec (.aset l d a b) s = execAset l d a b s :=
  fun _ _ _ _ _ => rfl
@[simp] theorem exec_anoise : ∀ l d a b s, exec (.anoise l d a b) s = execAnoise l d a b s :=
  fun _ _ _ _ _ => rfl
@[simp] theorem exec_aadd : ∀ l d x y s, exec (.aadd l d x y) s = execAadd l d x y s :=
  fun _ _ _ _ _ => rfl
@[simp] theorem exec_asub : ∀ l d x y s, exec (.asub l d x y) s = execAsub l d x y s :=
  fun _ _ _ _ _ => rfl
@[simp] theorem exec_aneg : ∀ l d x s, exec (.aneg l d x) s = execAneg l d x s :=
  fun _ _ _ _ => rfl
@[simp] theorem exec_ascl : ∀ l d x a s, exec (.ascl l d x a) s = execAscl l d x a s :=
  fun _ _ _ _ _ => rfl
@[simp] theorem exec_aaddc : ∀ l d x a s, exec (.aaddc l d x a) s = execAaddc l d x a s :=
  fun _ _ _ _ _ => rfl
@[simp] theorem exec_amul : ∀ l d x y s, exec (.amul l d x y) s = execAmul l d x y s :=
  fun _ _ _ _ _ => rfl
@[simp] theorem exec_aquant : ∀ f rm l d x s, exec (.aquant f rm l d x) s = execAquant f rm l d x s :=
  fun _ _ _ _ _ _ => rfl
@[simp] theorem exec_acond : ∀ l d x a s, exec (.acond l d x a) s = execAcond l d x a s :=
  fun _ _ _ _ _ => rfl
@[simp] theorem exec_aget : ∀ f l d y s, exec (.aget f l d y) s = execAget f l d y s :=
  fun _ _ _ _ _ => rfl
@[simp] theorem exec_ald : ∀ os l d a s, exec (.ald os l d a) s = execAld os l d a s :=
  fun _ _ _ _ _ => rfl
@[simp] theorem exec_ast : ∀ os l y a s, exec (.ast os l y a) s = execAst os l y a s :=
  fun _ _ _ _ _ => rfl
@[simp] theorem exec_asymn : ∀ ctr l d s, exec (.asymn ctr l d) s = execAsymn ctr l d s :=
  fun _ _ _ _ => rfl
@[simp] theorem exec_amode : ∀ f l d s, exec (.amode f l d) s = execAmode f l d s :=
  fun _ _ _ _ => rfl
@[simp] theorem exec_cap : ∀ l k e f n s, exec (.cap l k e f n) s = execCap l k e f n s :=
  fun _ _ _ _ _ _ => rfl
@[simp] theorem exec_capr : ∀ l k a b s, exec (.capr l k a b) s = execCapr l k a b s :=
  fun _ _ _ _ _ => rfl
@[simp] theorem exec_kdup : ∀ l kd ks s, exec (.kdup l kd ks) s = execKdup l kd ks s :=
  fun _ _ _ _ => rfl
@[simp] theorem exec_kdrop : ∀ l k s, exec (.kdrop l k) s = execKdrop l k s :=
  fun _ _ _ => rfl
@[simp] theorem exec_kst : ∀ os l k a s, exec (.kst os l k a) s = execKst os l k a s :=
  fun _ _ _ _ _ => rfl
@[simp] theorem exec_kld : ∀ os l k a s, exec (.kld os l k a) s = execKld os l k a s :=
  fun _ _ _ _ _ => rfl
@[simp] theorem exec_apply : ∀ p k size s, exec (.apply p k size) s = execApply p k size s :=
  fun _ _ _ _ => rfl
@[simp] theorem exec_spawn : ∀ l d k a s, exec (.spawn l d k a) s = execSpawn l d k a s :=
  fun _ _ _ _ _ => rfl
@[simp] theorem exec_kinfo : ∀ f l d k s, exec (.kinfo f l d k) s = execKinfo f l d k s :=
  fun _ _ _ _ _ => rfl
@[simp] theorem exec_bra : ∀ y p disp hint s, exec (.bra y p disp hint) s = execBra y p disp hint s :=
  fun _ _ _ _ _ => rfl
@[simp] theorem exec_jmp : ∀ p t hint s, exec (.jmp p t hint) s = execJmp p t hint s :=
  fun _ _ _ _ => rfl
@[simp] theorem exec_call : ∀ p size disp s, exec (.call p size disp) s = execCall p size disp s :=
  fun _ _ _ _ => rfl
@[simp] theorem exec_calli : ∀ p t size s, exec (.calli p t size) s = execCalli p t size s :=
  fun _ _ _ _ => rfl
@[simp] theorem exec_ret : ∀ p s, exec (.ret p) s = execRet p s :=
  fun _ _ => rfl
@[simp] theorem exec_exit : ∀ p s, exec (.exit p) s = execExit p s :=
  fun _ _ => rfl
@[simp] theorem exec_yield : ∀ p s, exec (.yield p) s = execYield p s :=
  fun _ _ => rfl
@[simp] theorem exec_brk : ∀ p code s, exec (.brk p code) s = execBrk p code s :=
  fun _ _ _ => rfl
@[simp] theorem exec_trap : ∀ p code s, exec (.trap p code) s = execTrap p code s :=
  fun _ _ _ => rfl
@[simp] theorem exec_rte : ∀ w p s, exec (.rte w p) s = execRte w p s :=
  fun _ _ _ => rfl
@[simp] theorem exec_csrr : ∀ l d csr s, exec (.csrr l d csr) s = execCsrr l d csr s :=
  fun _ _ _ _ => rfl
@[simp] theorem exec_csrw : ∀ l d csr a s, exec (.csrw l d csr a) s = execCsrw l d csr a s :=
  fun _ _ _ _ _ => rfl
@[simp] theorem exec_tins : ∀ l d sel s, exec (.tins l d sel) s = execTins l d sel s :=
  fun _ _ _ _ => rfl
@[simp] theorem exec_tset : ∀ l d sel a s, exec (.tset l d sel a) s = execTset l d sel a s :=
  fun _ _ _ _ _ => rfl
@[simp] theorem exec_tresGo : ∀ l d s, exec (.tresGo l d) s = execTresGo l d s :=
  fun _ _ _ => rfl
@[simp] theorem exec_tresHold : ∀ l d s, exec (.tresHold l d) s = execTresHold l d s :=
  fun _ _ _ => rfl
@[simp] theorem exec_tresKill : ∀ l d s, exec (.tresKill l d) s = execTresKill l d s :=
  fun _ _ _ => rfl
@[simp] theorem exec_tstep : ∀ l d s, exec (.tstep l d) s = execTstep l d s :=
  fun _ _ _ => rfl
@[simp] theorem exec_tswap : ∀ p s, exec (.tswap p) s = execTswap p s :=
  fun _ _ => rfl
@[simp] theorem exec_gettime : ∀ l d s, exec (.gettime l d) s = execGettime l d s :=
  fun _ _ _ => rfl
@[simp] theorem exec_sleep : ∀ l t s, exec (.sleep l t) s = execSleep l t s :=
  fun _ _ _ => rfl
@[simp] theorem exec_sleepWakeup : ∀ pos s, exec (.sleepWakeup pos) s = execSleepWakeup pos s :=
  fun _ _ => rfl
@[simp] theorem exec_schedulerRound : ∀ quarter s, exec (.schedulerRound quarter) s = execSchedulerRound quarter s :=
  fun _ _ => rfl
@[simp] theorem exec_braidAged : ∀ braid s, exec (.braidAged braid) s = execBraidAged braid s :=
  fun _ _ => rfl
@[simp] theorem exec_longLatencyCompletion : ∀ pos id early s, exec (.longLatencyCompletion pos id early) s = execLongLatencyCompletion pos id early s :=
  fun _ _ _ _ => rfl
@[simp] theorem exec_slackReturn : ∀ braid s, exec (.slackReturn braid) s = execSlackReturn braid s :=
  fun _ _ => rfl
@[simp] theorem exec_eventApplication : ∀ core s, exec (.eventApplication core) s = execEventApplication core s :=
  fun _ _ => rfl
@[simp] theorem exec_trapDelivery : ∀ braid s, exec (.trapDelivery braid) s = execTrapDelivery braid s :=
  fun _ _ => rfl
@[simp] theorem exec_swapIn : ∀ core s, exec (.swapIn core) s = execSwapIn core s :=
  fun _ _ => rfl
@[simp] theorem exec_doorbell : ∀ page byte va s, exec (.doorbell page byte va) s = execDoorbell page byte va s :=
  fun _ _ _ _ => rfl
@[simp] theorem exec_wridxPoll : ∀ queue s, exec (.wridxPoll queue) s = execWridxPoll queue s :=
  fun _ _ => rfl
@[simp] theorem exec_queueMap : ∀ die s, exec (.queueMap die) s = execQueueMap die s :=
  fun _ _ => rfl
@[simp] theorem exec_queueUnmap : ∀ die s, exec (.queueUnmap die) s = execQueueUnmap die s :=
  fun _ _ => rfl
@[simp] theorem exec_skipPacket : ∀ queue s, exec (.skipPacket queue) s = execSkipPacket queue s :=
  fun _ _ => rfl
@[simp] theorem exec_launchPacket : ∀ queue s, exec (.launchPacket queue) s = execLaunchPacket queue s :=
  fun _ _ => rfl
@[simp] theorem exec_waitPacket : ∀ queue s, exec (.waitPacket queue) s = execWaitPacket queue s :=
  fun _ _ => rfl
@[simp] theorem exec_signalPacket : ∀ queue s, exec (.signalPacket queue) s = execSignalPacket queue s :=
  fun _ _ => rfl
@[simp] theorem exec_applyPacket : ∀ queue s, exec (.applyPacket queue) s = execApplyPacket queue s :=
  fun _ _ => rfl
@[simp] theorem exec_fencePacket : ∀ queue s, exec (.fencePacket queue) s = execFencePacket queue s :=
  fun _ _ => rfl
@[simp] theorem exec_signalChange : ∀ queue s, exec (.signalChange queue) s = execSignalChange queue s :=
  fun _ _ => rfl
@[simp] theorem exec_timedLaunchStart : ∀ queue s, exec (.timedLaunchStart queue) s = execTimedLaunchStart queue s :=
  fun _ _ => rfl
@[simp] theorem exec_timeSliceExpiry : ∀ queue s, exec (.timeSliceExpiry queue) s = execTimeSliceExpiry queue s :=
  fun _ _ => rfl
@[simp] theorem exec_hankPlacement : ∀ launch seat s, exec (.hankPlacement launch seat) s = execHankPlacement launch seat s :=
  fun _ _ _ => rfl
@[simp] theorem exec_neighbourhoodPlacement : ∀ launch seats s, exec (.neighbourhoodPlacement launch seats) s = execNeighbourhoodPlacement launch seats s :=
  fun _ _ _ => rfl
@[simp] theorem exec_hankRetirement : ∀ hank s, exec (.hankRetirement hank) s = execHankRetirement hank s :=
  fun _ _ => rfl
@[simp] theorem exec_launchCompletion : ∀ launch s, exec (.launchCompletion launch) s = execLaunchCompletion launch s :=
  fun _ _ => rfl
@[simp] theorem exec_tlbMissWalk : ∀ w s, exec (.tlbMissWalk w) s = execTlbMissWalk w s :=
  fun _ _ => rfl
@[simp] theorem exec_faultRingSpaceFreed : ∀ ctx s, exec (.faultRingSpaceFreed ctx) s = execFaultRingSpaceFreed ctx s :=
  fun _ _ => rfl
@[simp] theorem exec_faultdone : ∀ ctx seq s, exec (.faultdone ctx seq) s = execFaultdone ctx seq s :=
  fun _ _ _ => rfl
@[simp] theorem exec_tlbinvPage : ∀ ctx va s, exec (.tlbinvPage ctx va) s = execTlbinvPage ctx va s :=
  fun _ _ _ => rfl
@[simp] theorem exec_tlbinvContext : ∀ ctx s, exec (.tlbinvContext ctx) s = execTlbinvContext ctx s :=
  fun _ _ => rfl
@[simp] theorem exec_tlbinvAll : ∀ s, exec .tlbinvAll s = execTlbinvAll s :=
  fun _ => rfl
@[simp] theorem exec_createContext : ∀ s, exec .createContext s = execCreateContext s :=
  fun _ => rfl
@[simp] theorem exec_activate : ∀ s, exec .activate s = execActivate s :=
  fun _ => rfl
@[simp] theorem exec_suspend : ∀ s, exec .suspend s = execSuspend s :=
  fun _ => rfl
@[simp] theorem exec_resume : ∀ s, exec .resume s = execResume s :=
  fun _ => rfl
@[simp] theorem exec_recover : ∀ s, exec .recover s = execRecover s :=
  fun _ => rfl
@[simp] theorem exec_destroy : ∀ s, exec .destroy s = execDestroy s :=
  fun _ => rfl
@[simp] theorem exec_createQueue : ∀ s, exec .createQueue s = execCreateQueue s :=
  fun _ => rfl
@[simp] theorem exec_preEmptQueue : ∀ s, exec .preEmptQueue s = execPreEmptQueue s :=
  fun _ => rfl
@[simp] theorem exec_resumeQueue : ∀ s, exec .resumeQueue s = execResumeQueue s :=
  fun _ => rfl
@[simp] theorem exec_acknowledgeQueueFault : ∀ s, exec .acknowledgeQueueFault s = execAcknowledgeQueueFault s :=
  fun _ => rfl
@[simp] theorem exec_destroyQueue : ∀ s, exec .destroyQueue s = execDestroyQueue s :=
  fun _ => rfl
@[simp] theorem exec_enterTestMode : ∀ s, exec .enterTestMode s = execEnterTestMode s :=
  fun _ => rfl
@[simp] theorem exec_enterServiceMode : ∀ s, exec .enterServiceMode s = execEnterServiceMode s :=
  fun _ => rfl
@[simp] theorem exec_featofferWrite : ∀ value s, exec (.featofferWrite value) s = execFeatofferWrite value s :=
  fun _ _ => rfl
@[simp] theorem exec_pkgidWrite : ∀ value s, exec (.pkgidWrite value) s = execPkgidWrite value s :=
  fun _ _ => rfl
@[simp] theorem exec_rangeRegisterWrite : ∀ cluster reg high value s, exec (.rangeRegisterWrite cluster reg high value) s = execRangeRegisterWrite cluster reg high value s :=
  fun _ _ _ _ _ => rfl
@[simp] theorem exec_hostRegisterWrite : ∀ off width value s, exec (.hostRegisterWrite off width value) s = execHostRegisterWrite off width value s :=
  fun _ _ _ _ => rfl
@[simp] theorem exec_unsupportedRequest : ∀ bar off width s, exec (.unsupportedRequest bar off width) s = execUnsupportedRequest bar off width s :=
  fun _ _ _ _ => rfl
@[simp] theorem exec_hostHbmAccess : ∀ a s, exec (.hostHbmAccess a) s = execHostHbmAccess a s :=
  fun _ _ => rfl
@[simp] theorem exec_pcieCompletionTimeout : ∀ ctx core strand va src s, exec (.pcieCompletionTimeout ctx core strand va src) s = execPcieCompletionTimeout ctx core strand va src s :=
  fun _ _ _ _ _ _ => rfl
@[simp] theorem exec_linkEnable : ∀ port s, exec (.linkEnable port) s = execLinkEnable port s :=
  fun _ _ => rfl
@[simp] theorem exec_linkDisable : ∀ port s, exec (.linkDisable port) s = execLinkDisable port s :=
  fun _ _ => rfl
@[simp] theorem exec_flitReceived : ∀ port seq crcOk s, exec (.flitReceived port seq crcOk) s = execFlitReceived port seq crcOk s :=
  fun _ _ _ _ => rfl
@[simp] theorem exec_replayRequest : ∀ port seq s, exec (.replayRequest port seq) s = execReplayRequest port seq s :=
  fun _ _ _ => rfl
@[simp] theorem exec_replayLimit : ∀ port s, exec (.replayLimit port) s = execReplayLimit port s :=
  fun _ _ => rfl
@[simp] theorem exec_laneLoss : ∀ port lanes s, exec (.laneLoss port lanes) s = execLaneLoss port lanes s :=
  fun _ _ _ => rfl
@[simp] theorem exec_trainingEnds : ∀ port lanes peerPkg peerPort s, exec (.trainingEnds port lanes peerPkg peerPort) s = execTrainingEnds port lanes peerPkg peerPort s :=
  fun _ _ _ _ _ => rfl
@[simp] theorem exec_trainingTimeout : ∀ port s, exec (.trainingTimeout port) s = execTrainingTimeout port s :=
  fun _ _ => rfl
@[simp] theorem exec_linkTimeout : ∀ ctx core pkg s, exec (.linkTimeout ctx core pkg) s = execLinkTimeout ctx core pkg s :=
  fun _ _ _ _ => rfl
@[simp] theorem exec_telemetrySample : ∀ die x s, exec (.telemetrySample die x) s = execTelemetrySample die x s :=
  fun _ _ _ => rfl
@[simp] theorem exec_thermalTrip : ∀ die s, exec (.thermalTrip die) s = execThermalTrip die s :=
  fun _ _ => rfl
@[simp] theorem exec_powerOn : ∀ s, exec .powerOn s = execPowerOn s :=
  fun _ => rfl
@[simp] theorem exec_reset : ∀ s, exec .reset s = execReset s :=
  fun _ => rfl
@[simp] theorem exec_bootCompletes : ∀ locations n s, exec (.bootCompletes locations n) s = execBootCompletes locations n s :=
  fun _ _ _ => rfl
@[simp] theorem exec_noImageVerifies : ∀ s, exec .noImageVerifies s = execNoImageVerifies s :=
  fun _ => rfl
@[simp] theorem exec_heartbeatTimeout : ∀ s, exec .heartbeatTimeout s = execHeartbeatTimeout s :=
  fun _ => rfl
@[simp] theorem exec_ptpMessage : ∀ master s, exec (.ptpMessage master) s = execPtpMessage master s :=
  fun _ _ => rfl
@[simp] theorem exec_attestationReport : ∀ nonce s, exec (.attestationReport nonce) s = execAttestationReport nonce s :=
  fun _ _ => rfl
@[simp] theorem exec_unknownOpCommand : ∀ s, exec .unknownOpCommand s = execUnknownOpCommand s :=
  fun _ => rfl

end Sys2Proof.Machine
end

