-- ==== Sys2Proof/Laws/Maps.lean ====
section
/-! SUPPORT. What a lookup in a finite map answers after each of the map's operations. No order of the keys is assumed. -/

namespace Sys2Proof.Machine

@[simp] theorem AMap.get?_nil {α : Type} (k : Nat) : AMap.get? ([] : AMap α) k = none := rfl

theorem AMap.get?_set {α : Type} (m : AMap α) (k j : Nat) (v : α) :
    AMap.get? (AMap.set k v m) j = if k = j then some v else AMap.get? m j := by
  induction m with
  | nil => simp [AMap.set, AMap.get?]
  | cons p m ih =>
    simp only [AMap.set]
    split_ifs with h h2 h3 h4 h5 <;> simp_all [AMap.get?]

@[simp] theorem AMap.get?_set_self {α : Type} (m : AMap α) (k : Nat) (v : α) :
    AMap.get? (AMap.set k v m) k = some v := by simp [AMap.get?_set]

theorem AMap.get?_set_ne {α : Type} (m : AMap α) {k j : Nat} (v : α) (h : k ≠ j) :
    AMap.get? (AMap.set k v m) j = AMap.get? m j := by simp [AMap.get?_set, h]

theorem AMap.get?_mapVals {α : Type} (f : Nat → α → α) (m : AMap α) (k : Nat) :
    AMap.get? (AMap.mapVals f m) k = (AMap.get? m k).map (f k) := by
  induction m with
  | nil => rfl
  | cons p m ih =>
    show AMap.get? ((p.1, f p.1 p.2) :: AMap.mapVals f m) k = _
    by_cases h : p.1 = k
    · subst h; simp [AMap.get?]
    · simp [AMap.get?, h, ih]

theorem AMap.get?_modify {α : Type} (m : AMap α) (k j : Nat) (f : α → α) :
    AMap.get? (AMap.modify k f m) j = if k = j then (AMap.get? m j).map f else AMap.get? m j := by
  have h : AMap.modify k f m = AMap.mapVals (fun i v => if i = k then f v else v) m := by
    simp only [AMap.modify, AMap.mapVals]
    congr 1; funext p; split <;> rfl
  rw [h, AMap.get?_mapVals]
  by_cases hk : k = j
  · subst hk; simp
  · have : ¬ j = k := fun e => hk e.symm
    simp [hk, this]

theorem AMap.get?_modify_ne {α : Type} (m : AMap α) {k j : Nat} (f : α → α) (h : k ≠ j) :
    AMap.get? (AMap.modify k f m) j = AMap.get? m j := by simp [AMap.get?_modify, h]

theorem AMap.get?_erase {α : Type} (m : AMap α) (k j : Nat) :
    AMap.get? (AMap.erase k m) j = if k = j then none else AMap.get? m j := by
  induction m with
  | nil => simp [AMap.erase]
  | cons p m ih =>
    simp only [AMap.erase, List.filter_cons] at ih ⊢
    by_cases hp : p.1 = k
    · by_cases hk : k = j
      · subst hk; simp [hp, ih]
      · have : ¬ p.1 = j := by omega
        simp [hp, hk, ih, AMap.get?]
    · by_cases hk : k = j
      · subst hk; simp [hp, ih, AMap.get?]
      · simp [hp, hk, ih, AMap.get?]

/-! ## Strands by position -/

theorem State.strand?_setStrand (s : State) (k j : Nat) (x : Strand) :
    (s.setStrand k x).strand? j = if k = j then some x else s.strand? j := AMap.get?_set _ _ _ _

@[simp] theorem State.strand?_setStrand_self (s : State) (k : Nat) (x : Strand) :
    (s.setStrand k x).strand? k = some x := by simp [State.strand?_setStrand]

theorem State.strand?_modStrand (s : State) (k j : Nat) (f : Strand → Strand) :
    (s.modStrand k f).strand? j = if k = j then (s.strand? j).map f else s.strand? j := AMap.get?_modify _ _ _ _

@[simp] theorem State.strand?_modStrand_self (s : State) (k : Nat) (f : Strand → Strand) :
    (s.modStrand k f).strand? k = (s.strand? k).map f := by simp [State.strand?_modStrand]

theorem State.strand?_modStrand_ne (s : State) {k j : Nat} (f : Strand → Strand) (h : k ≠ j) :
    (s.modStrand k f).strand? j = s.strand? j := by simp [State.strand?_modStrand, h]

end Sys2Proof.Machine
end

