-- ==== Sys2Proof/Laws/Memory.lean ====
section
/-! SUPPORT. Every memory operation keeps the canonical form; what a byte reads as after a write. -/

namespace Sys2Proof.Machine

/-- The canonical form, said of all entries at once. -/
theorem Memory.wf_iff (m : Memory) :
    Memory.wf m = true ↔ m.Pairwise (fun a b => a.1 < b.1) ∧ ∀ c ∈ m, c.2 ≠ Memory.unlisted := by
  induction m with
  | nil => simp [Memory.wf]
  | cons c m ih =>
    cases m with
    | nil => simp [Memory.wf]
    | cons d m =>
      simp only [Memory.wf, Bool.and_eq_true, bne_iff_ne, decide_eq_true_eq, List.forall_mem_cons] at ih ⊢
      rw [ih]
      constructor
      · rintro ⟨⟨hc, hlt⟩, hp, hd, hm⟩
        refine ⟨List.pairwise_cons.2 ⟨?_, hp⟩, hc, hd, hm⟩
        intro e he
        rcases List.mem_cons.1 he with rfl | he
        · exact hlt
        · exact hlt.trans ((List.pairwise_cons.1 hp).1 e he)
      · rintro ⟨hp, hc, hd, hm⟩
        have h := List.pairwise_cons.1 hp
        exact ⟨⟨hc, h.1 d (List.mem_cons_self ..)⟩, h.2, hd, hm⟩

/-- A write adds no key but its own, and no byte but the one written. -/
theorem Memory.mem_write {k : Nat} {b : Byte} {m : Memory} {c : Host.Cell} (h : c ∈ Memory.write k b m) :
    c ∈ m ∨ (c = (k, b) ∧ b ≠ Memory.unlisted) := by
  induction m with
  | nil =>
    simp only [Memory.write] at h
    split at h <;> simp_all
  | cons d m ih =>
    simp only [Memory.write] at h
    split_ifs at h with h1 h2 h3 h4
    · rcases List.mem_cons.1 h with rfl | h
      · simp
      · rcases ih h with h | h <;> simp_all
    · exact Or.inl (List.mem_cons_of_mem _ h)
    · rcases List.mem_cons.1 h with rfl | h <;> simp_all
    · exact Or.inl h
    · rcases List.mem_cons.1 h with rfl | h
      · exact Or.inr ⟨rfl, h4⟩
      · exact Or.inl h

theorem Memory.wf_write {m : Memory} (k : Nat) (b : Byte) (h : Memory.wf m = true) :
    Memory.wf (Memory.write k b m) = true := by
  rw [Memory.wf_iff] at h ⊢
  refine ⟨?_, fun c hc => ?_⟩
  · obtain ⟨hp, -⟩ := h
    induction m with
    | nil => simp only [Memory.write]; split <;> simp
    | cons d m ih =>
      obtain ⟨hd, hm⟩ := List.pairwise_cons.1 hp
      simp only [Memory.write]
      split_ifs with h1 h2 h3 h4
      · refine List.pairwise_cons.2 ⟨fun c hc => ?_, ih hm⟩
        rcases Memory.mem_write hc with hc | ⟨rfl, -⟩
        · exact hd c hc
        · exact h1
      · exact hm
      · refine List.pairwise_cons.2 ⟨fun c hc => ?_, hm⟩
        have := hd c hc
        simp only; omega
      · exact hp
      · refine List.pairwise_cons.2 ⟨fun c hc => ?_, hp⟩
        rcases List.mem_cons.1 hc with rfl | hc
        · simp only; omega
        · have := hd c hc
          simp only; omega
  · rcases Memory.mem_write hc with hc | ⟨rfl, hb⟩
    · exact h.2 c hc
    · exact hb

theorem Memory.wf_filter {m : Memory} (f : Host.Cell → Bool) (h : Memory.wf m = true) : Memory.wf (m.filter f) = true := by
  rw [Memory.wf_iff] at h ⊢
  exact ⟨h.1.filter f, fun c hc => h.2 c (List.mem_filter.1 hc).1⟩

theorem Memory.wf_clear {m : Memory} (lo hi : Nat) (h : Memory.wf m = true) : Memory.wf (m.clear lo hi) = true :=
  Memory.wf_filter _ h

theorem Memory.wf_writeN {m : Memory} (k v n : Nat) (h : Memory.wf m = true) : Memory.wf (Memory.writeN k v n m) = true := by
  induction n generalizing m k v with
  | zero => exact h
  | succ n ih => exact ih _ _ (Memory.wf_write _ _ h)

theorem Memory.wf_writeParts {m : Memory} (v : Nat) (l : List Part) (h : Memory.wf m = true) :
    Memory.wf (Memory.writeParts v l m) = true := by
  induction l generalizing m v with
  | nil => exact h
  | cons p l ih => exact ih _ (Memory.wf_writeN _ _ _ h)

theorem Memory.wf_scribble {m : Memory} (k d n : Nat) (h : Memory.wf m = true) :
    Memory.wf (Memory.scribble m k d n) = true := by
  induction n with
  | zero => exact h
  | succ n ih => exact Memory.wf_write _ _ ih

/-- A fold over any list keeps what each of its steps keeps. -/
theorem foldl_keeps {α β : Type} {P : β → Prop} (f : β → α → β) (hf : ∀ b a, P b → P (f b a)) (l : List α) {b : β}
    (h : P b) : P (l.foldl f b) := by
  induction l generalizing b with
  | nil => exact h
  | cons a l ih => exact ih (hf _ _ h)

theorem Memory.wf_restore {m : Memory} (l : Memory) (h : Memory.wf m = true) : Memory.wf (m.restore l) = true :=
  foldl_keeps (P := fun m => Memory.wf m = true) _ (fun _ _ h => Memory.wf_write _ _ h) l h

/-- Early writes performed in a row. -/
theorem Memory.wf_settle {m : Memory} (l : List EarlyWrite) (h : Memory.wf m = true) :
    Memory.wf (l.foldl (fun m w => Memory.writeParts w.val w.parts m) m) = true :=
  foldl_keeps (P := fun m => Memory.wf m = true) _ (fun _ _ h => Memory.wf_writeParts _ _ h) l h

/-! ## Writes that become readable to more observers -/

/-- What writes to memory change of a state: memory, the early writes and the speculation they spoil. -/
def State.withWrites (s : State) (m : Memory) (e : List EarlyWrite) (x : List (Nat × Nat)) : State :=
  { s with mem := m, early := e, spoiled := x }

/-- Only that has changed, and memory has kept its canonical form. -/
def OnlyWrites (s t : State) : Prop :=
  ∃ m e x, t = s.withWrites m e x ∧ (Memory.wf s.mem = true → Memory.wf m = true)

theorem OnlyWrites.refl (s : State) : OnlyWrites s s := ⟨s.mem, s.early, s.spoiled, rfl, id⟩

theorem OnlyWrites.trans {s t u : State} (h : OnlyWrites s t) (k : OnlyWrites t u) : OnlyWrites s u := by
  obtain ⟨m, e, x, rfl, h⟩ := h
  obtain ⟨n, f, y, rfl, k⟩ := k
  exact ⟨n, f, y, rfl, fun w => k (h w)⟩

theorem State.spoil_only (s : State) (w : Writer) (new : Nat → Bool) (ps : List Part) :
    OnlyWrites s (s.spoil w new ps) := ⟨s.mem, s.early, _, rfl, id⟩

theorem State.widen_only (s : State) (p : EarlyWrite → Bool) (gs : Observers) : OnlyWrites s (s.widen p gs) := by
  unfold State.widen
  dsimp only
  refine (foldl_keeps (P := OnlyWrites s) (fun (s : State) (q : EarlyWrite × EarlyWrite) =>
    if q.1.reach = q.2.reach then s else s.spoil q.1.by_ (fun n => q.2.reach.has n && !q.1.reach.has n) q.1.parts)
    (fun t q h => ?_) (s.early.zip (widenList gs p s.early).1) (.refl s)).trans ⟨_, _, _, rfl, fun w => Memory.wf_settle _ w⟩
  split
  · exact h
  · exact h.trans (State.spoil_only ..)

theorem State.land_only (s : State) (ps : List Part) : OnlyWrites s (s.land ps) := State.widen_only ..

theorem State.settleAll_only (s : State) : OnlyWrites s s.settleAll := State.widen_only ..

theorem State.putParts_only (s : State) (w : Writer) (v : Nat) (ps : List Part) : OnlyWrites s (s.putParts w v ps) := by
  refine (State.land_only s ps).trans (OnlyWrites.trans ?_ (State.spoil_only _ w (fun _ => true) ps))
  exact ⟨_, _, _, rfl, fun w => Memory.wf_writeParts _ _ w⟩

/-- A write that some observers see first leaves memory in its canonical form. -/
theorem State.putEarly_only (s : State) (w : EarlyWrite) : OnlyWrites s (s.putEarly w) :=
  (State.widen_only ..).trans (OnlyWrites.trans ⟨_, _, _, rfl, fun w => w⟩ (State.spoil_only ..))

theorem State.putFirst_only (s : State) (w : EarlyWrite) : OnlyWrites s (s.putFirst w) := by
  unfold State.putFirst
  split
  · exact State.putEarly_only ..
  · exact State.putParts_only ..

/-- What is known of early writes, and carried with them, is no write to memory. -/
theorem State.withEarly_only (s : State) (e : List EarlyWrite) : OnlyWrites s { s with early := e } :=
  ⟨s.mem, e, s.spoiled, rfl, id⟩

theorem State.learn_only (s : State) (pos : Nat) (p : EarlyWrite → Bool) : OnlyWrites s (s.learn pos p) := s.withEarly_only _

theorem State.bring_only (s : State) (p : EarlyWrite → Bool) (who : Nat) (dest : Observers) (l : List Nat) :
    OnlyWrites s (s.bring p who dest l) := s.withEarly_only _

theorem State.passOn_only (s : State) (l at_ : List Nat) : OnlyWrites s (s.passOn l at_) := s.withEarly_only _

theorem State.settleFor_only (s : State) (pos : Nat) (x : Strand) (sc : Option Scope) (l : List Nat) :
    OnlyWrites s (s.settleFor pos x sc l) := by
  cases sc with
  | none => exact .refl s
  | some sc => exact (State.widen_only ..).trans (State.bring_only ..)

theorem State.acquire_only (s : State) (pos : Nat) (x : Strand) (sc : Scope) (l : List Nat) :
    OnlyWrites s (s.acquire pos x sc l) := (State.widen_only ..).trans (State.learn_only ..)

theorem State.writeDone_only (s : State) (pos id : Nat) : OnlyWrites s (s.writeDone pos id) := State.widen_only ..

theorem State.strandWrite_only (s : State) (pos : Nat) (x : Strand) (id v : Nat) (ps : List Part) (o : Observers) :
    OnlyWrites s (s.strandWrite pos x id v ps o) := (State.passOn_only ..).trans (State.putFirst_only ..)

theorem State.learnRead_only (s : State) (pos : Nat) (ps : List Part) : OnlyWrites s (s.learnRead pos ps) :=
  (State.learn_only ..).trans (State.passOn_only ..)

theorem OnlyWrites.mem {s t : State} (h : OnlyWrites s t) (w : Memory.wf s.mem = true) : Memory.wf t.mem = true := by
  obtain ⟨m, e, x, rfl, h⟩ := h
  exact h w

/-! ## Reading after writing -/

theorem Memory.read_write_ne (m : Memory) {k j : Nat} (b : Byte) (h : j ≠ k) :
    (Memory.write k b m).read j = m.read j := by
  induction m with
  | nil => simp only [Memory.write]; split <;> simp [Memory.read, h.symm]
  | cons c m ih =>
    simp only [Memory.write]
    split_ifs with h1 h2 h3 h4 <;> simp only [Memory.read]
    · rw [ih]
    · rw [if_neg (by omega)]
    · rw [if_neg h.symm, if_neg (by omega)]
    · rw [if_neg h.symm]

theorem Memory.read_of_forall_ne {m : Memory} {k : Nat} (h : ∀ c ∈ m, c.1 ≠ k) : m.read k = Memory.unlisted := by
  induction m with
  | nil => rfl
  | cons c m ih =>
    simp only [Memory.read]
    rw [if_neg (h c (List.mem_cons_self ..))]
    exact ih fun d hd => h d (List.mem_cons_of_mem _ hd)

theorem Memory.read_write_self {m : Memory} (k : Nat) (b : Byte) (h : Memory.wf m = true) :
    (Memory.write k b m).read k = b := by
  rw [Memory.wf_iff] at h
  obtain ⟨hp, -⟩ := h
  induction m with
  | nil => simp only [Memory.write]; split <;> simp_all [Memory.read]
  | cons c m ih =>
    obtain ⟨hc, hm⟩ := List.pairwise_cons.1 hp
    simp only [Memory.write]
    split_ifs with h1 h2 h3 h4
    · simp only [Memory.read]
      rw [if_neg (by omega)]
      exact ih hm
    · rw [h3]
      exact Memory.read_of_forall_ne fun d hd => by have := hc d hd; omega
    · simp [Memory.read]
    · rw [h4]
      refine Memory.read_of_forall_ne fun d hd => ?_
      rcases List.mem_cons.1 hd with rfl | hd
      · omega
      · have := hc d hd; omega
    · simp [Memory.read]

theorem Memory.read_write {m : Memory} (k j : Nat) (b : Byte) (h : Memory.wf m = true) :
    (Memory.write k b m).read j = if j = k then b else m.read j := by
  split
  · subst j; exact Memory.read_write_self k b h
  · rename_i hj; exact Memory.read_write_ne m b hj

/-- A byte outside [k, k + n) reads as before. -/
theorem Memory.read_writeN_of_outside (m : Memory) {k n j : Nat} (v : Nat) (h : j < k ∨ k + n ≤ j) :
    (Memory.writeN k v n m).read j = m.read j := by
  induction n generalizing m k v with
  | zero => rfl
  | succ n ih =>
    simp only [Memory.writeN]
    rw [ih _ _ (by omega), Memory.read_write_ne _ _ (by omega)]

/-- A byte inside reads as its byte of the value. -/
theorem Memory.read_writeN_of_inside {m : Memory} {k n : Nat} (v i : Nat) (hi : i < n) (h : Memory.wf m = true) :
    (Memory.writeN k v n m).read (k + i) = BitVec.ofNat 8 (v / 256 ^ i) := by
  induction n generalizing m k v i with
  | zero => omega
  | succ n ih =>
    simp only [Memory.writeN]
    cases i with
    | zero =>
      rw [Memory.read_writeN_of_outside _ _ (by omega), Nat.add_zero, Memory.read_write_self _ _ h]
      simp
    | succ i =>
      have := ih (k := k + 1) (v / 256) i (by omega) (Memory.wf_write k (BitVec.ofNat 8 v) h)
      rw [show k + (i + 1) = k + 1 + i by omega, this, Nat.div_div_eq_div_mul, pow_succ']

end Sys2Proof.Machine
end

