-- ==== Sys2Proof/Laws/Faults.lean ====
section
/-! SUPPORT. Everything that recording a fault, faulting a context and raising traps can change: memory, contexts, braids,
and the strands that trap; and memory keeps its canonical form. -/

namespace Sys2Proof.Machine

/-- What writes to a context's own structures change of a state: memory and what stands with it, contexts, the replay buffers of
ports, and waits for a port. -/
def State.withFaults (s : State) (m : Memory) (e : List EarlyWrite) (x : List (Nat × Nat)) (c : AMap Ctx) (p : AMap Port)
    (w : List LinkWait) : State := { s with mem := m, early := e, spoiled := x, ctxs := c, ports := p, linkWaits := w }

/-- What faulting leaves of a state: all else, and the canonical form of memory. -/
def OnlyMemCtxs (s t : State) : Prop :=
  ∃ m e x c p w, t = s.withFaults m e x c p w ∧ (Memory.wf s.mem = true → Memory.wf m = true)

theorem OnlyMemCtxs.refl (s : State) : OnlyMemCtxs s s := ⟨s.mem, s.early, s.spoiled, s.ctxs, s.ports, s.linkWaits, rfl, id⟩

theorem OnlyMemCtxs.trans {s t u : State} (h : OnlyMemCtxs s t) (k : OnlyMemCtxs t u) : OnlyMemCtxs s u := by
  obtain ⟨m, e, x, c, p, v, rfl, h⟩ := h
  obtain ⟨n, f, y, d, q, v', rfl, k⟩ := k
  exact ⟨n, f, y, d, q, v', rfl, fun w => k (h w)⟩

theorem OnlyMemCtxs.mem {s t : State} (h : OnlyMemCtxs s t) (w : Memory.wf s.mem = true) : Memory.wf t.mem = true := by
  obtain ⟨m, e, x, c, p, v, rfl, h⟩ := h
  exact h w

theorem OnlyMemCtxs.strands {s t : State} (h : OnlyMemCtxs s t) : t.strands = s.strands := by
  obtain ⟨m, e, x, c, p, v, rfl, -⟩ := h
  rfl

theorem OnlyWrites.faults {s t : State} (h : OnlyWrites s t) : OnlyMemCtxs s t := by
  obtain ⟨m, e, x, rfl, h⟩ := h
  exact ⟨m, e, x, s.ctxs, s.ports, s.linkWaits, rfl, h⟩

theorem State.modCtx_only (s : State) (n : Nat) (f : Ctx → Ctx) : OnlyMemCtxs s (s.modCtx n f) :=
  ⟨s.mem, s.early, s.spoiled, s.ctxs.modify n f, s.ports, s.linkWaits, rfl, id⟩

theorem State.awaitLink_only (s : State) (o : Holder) (ctx core pkg : Nat) : OnlyMemCtxs s (s.awaitLink o ctx core pkg) := by
  unfold State.awaitLink
  split
  · exact .refl s
  · exact ⟨s.mem, s.early, s.spoiled, s.ctxs, s.ports, _, rfl, id⟩

theorem State.sendFlit_only (s : State) (pkg pos id ctx core : Nat) : OnlyMemCtxs s (s.sendFlit pkg pos id ctx core) := by
  unfold State.sendFlit
  dsimp only
  split
  · exact ⟨s.mem, s.early, s.spoiled, s.ctxs, _, s.linkWaits, rfl, fun w => w⟩
  · exact .refl s

theorem State.sendParts_only (s : State) (pos id ctx core : Nat) (ps : List Part) : OnlyMemCtxs s (s.sendParts pos id ctx core ps) := by
  refine foldl_keeps (P := OnlyMemCtxs s) _ (fun t p h => ?_) ps (.refl s)
  split
  · exact h.trans (State.sendFlit_only ..)
  · exact h

theorem State.devWrite_only {s t : State} {core ctx va len v : Nat} (h : s.devWrite core ctx va len v = .ok t) :
    OnlyMemCtxs s t := by
  unfold State.devWrite at h
  split at h
  · cases h
  · split at h
    · cases h
    · cases h
      exact (State.sendParts_only ..).trans (State.putParts_only ..).faults

theorem State.dieRelease_only (s : State) (die : Nat) : OnlyMemCtxs s (s.dieRelease die) := (State.widen_only ..).faults

theorem State.writeFaultRec_only (s : State) (ctx : Nat) : OnlyMemCtxs s (s.writeFaultRec ctx) := by
  unfold State.writeFaultRec
  split
  · exact .refl s
  · dsimp only
    split
    · exact .refl s
    · split
      · rename_i h
        exact ((State.dieRelease_only ..).trans (State.devWrite_only h)).trans (State.modCtx_only ..)
      · split
        · exact State.awaitLink_only ..
        · exact State.modCtx_only ..

theorem State.ctxFault_only (s : State) (ctx code die f r : Nat) : OnlyMemCtxs s (s.ctxFault ctx code die f r) := by
  unfold State.ctxFault
  split
  · exact .refl s
  · split
    · exact (State.modCtx_only ..).trans (State.writeFaultRec_only ..)
    · exact .refl s

theorem State.ringFail_only (s : State) (core ctx r : Nat) : OnlyMemCtxs s (s.ringFail core ctx r) := State.ctxFault_only ..

/-- What one write to the ring area leaves. -/
def RingWrite.Only (s : State) : RingWrite → Prop
  | .done t | .wait t => OnlyMemCtxs s t
  | .failed => True

theorem RingWrite.Only.trans {s t : State} (h : OnlyMemCtxs s t) {r : RingWrite} (k : r.Only t) : r.Only s := by
  cases r with
  | failed => trivial
  | done => exact h.trans k
  | wait => exact h.trans k

theorem State.ringArea_only (s : State) (core ctx a len v : Nat) : (s.ringArea core ctx a len v).Only s := by
  unfold State.ringArea
  split
  · rename_i h; exact State.devWrite_only h
  · split
    · exact State.awaitLink_only ..
    · trivial

/-- One write of a record's three: its bytes, FRWR, or OVERRUN. -/
theorem State.ringStep_only (s : State) (core ctx : Nat) (c : Ctx) (h r : Nat) : (s.ringStep core ctx c h r).Only s := by
  unfold State.ringStep
  dsimp only
  split
  · split
    · exact .trans (State.dieRelease_only ..) (State.ringArea_only ..)
    · exact OnlyMemCtxs.refl s
  · split
    · exact State.ringArea_only ..
    · split
      · exact OnlyMemCtxs.refl s
      · exact State.ringArea_only ..

theorem State.ringStep_done {s t : State} {core ctx h r : Nat} {c : Ctx} (e : s.ringStep core ctx c h r = .done t) :
    OnlyMemCtxs s t := by have := State.ringStep_only s core ctx c h r; rwa [e] at this

theorem State.ringStep_wait {s t : State} {core ctx h r : Nat} {c : Ctx} (e : s.ringStep core ctx c h r = .wait t) :
    OnlyMemCtxs s t := by have := State.ringStep_only s core ctx c h r; rwa [e] at this

theorem State.writePending_only (s : State) (ctx n : Nat) : OnlyMemCtxs s (s.writePending ctx n) := by
  induction n generalizing s with
  | zero => exact .refl s
  | succ n ih =>
    unfold State.writePending
    split
    · exact .refl s
    · split
      · exact .refl s
      · dsimp only
        split
        · split
          · exact State.awaitLink_only ..
          · exact (State.modCtx_only ..).trans (State.ringFail_only ..)
        · split
          · exact (State.modCtx_only ..).trans (State.ringFail_only ..)
          · rename_i h; exact State.ringStep_wait h
          · rename_i h
            split <;> exact ((State.ringStep_done h).trans (State.modCtx_only ..)).trans (ih _)

theorem State.rereadRing_only (s : State) (ctx : Nat) : OnlyMemCtxs s (s.rereadRing ctx) := State.writePending_only ..

theorem State.ringWrite_only (s : State) (core ctx seq r : Nat) (c2 : Bool) :
    OnlyMemCtxs s (s.ringWrite core ctx seq r c2) := by
  have pend : ∀ t : State, ∀ f : Ctx → Ctx, OnlyMemCtxs t ((t.modCtx ctx f).rereadRing ctx) :=
    fun t f => (State.modCtx_only ..).trans (State.rereadRing_only ..)
  unfold State.ringWrite
  refine (State.rereadRing_only s ctx).trans ?_
  dsimp only
  split
  · exact .refl _
  · split
    · exact pend ..
    · split
      · exact pend ..
      · split
        · rename_i h; exact State.ringStep_done h
        · exact pend ..
        · exact State.ringFail_only ..

theorem State.recordFault_only (s : State) (ctx core strand src : Nat) (f : XFault) :
    OnlyMemCtxs s (s.recordFault ctx core strand src f).1 := by
  unfold State.recordFault
  dsimp only
  split
  · exact .refl s
  · split
    · exact .refl s
    · by_cases h : f.cause = 7
      · rw [if_pos h]
        exact ((State.modCtx_only s ctx _).trans (State.ringWrite_only _ core ctx _ _ _)).trans (State.ctxFault_only ..)
      · rw [if_neg h]
        exact (State.modCtx_only s ctx _).trans (State.ringWrite_only _ core ctx _ _ _)

theorem State.upsetFault_only (s : State) (ctx core strand src : Nat) (f : XFault) :
    OnlyMemCtxs s (s.upsetFault ctx core strand src f) := by
  unfold State.upsetFault
  split
  · exact State.recordFault_only ..
  · exact .refl s

/-! ## Raising -/

/-- What raising traps changes of a state: what faulting does, waits for a port, strands and braids. -/
def State.withTraps (s : State) (m : Memory) (e : List EarlyWrite) (u : List (Nat × Nat)) (c : AMap Ctx) (p : AMap Port)
    (w : List LinkWait) (x : AMap Strand) (b : AMap Braid) : State :=
  { s with mem := m, early := e, spoiled := u, ctxs := c, ports := p, linkWaits := w, strands := x, braids := b }

/-- Only that has changed, and of the strands only those at `l`. -/
def OnlyTraps (l : List Nat) (s t : State) : Prop :=
  ∃ m e u c p w x b, t = s.withTraps m e u c p w x b ∧
    (Memory.wf s.mem = true → Memory.wf m = true) ∧ ∀ p, p ∉ l → AMap.get? x p = AMap.get? s.strands p

theorem OnlyTraps.refl (l : List Nat) (s : State) : OnlyTraps l s s :=
  ⟨s.mem, s.early, s.spoiled, s.ctxs, s.ports, s.linkWaits, s.strands, s.braids, rfl, id, fun _ _ => rfl⟩

theorem OnlyTraps.trans {l : List Nat} {s t u : State} (h : OnlyTraps l s t) (k : OnlyTraps l t u) : OnlyTraps l s u := by
  obtain ⟨m, e, v, c, p, w, x, b, rfl, hm, hx⟩ := h
  obtain ⟨m', e', v', c', p', w', x', b', rfl, km, kx⟩ := k
  exact ⟨m', e', v', c', p', w', x', b', rfl, fun w => km (hm w), fun p hp => (kx p hp).trans (hx p hp)⟩

theorem OnlyMemCtxs.traps {s t : State} (l : List Nat) (h : OnlyMemCtxs s t) : OnlyTraps l s t := by
  obtain ⟨m, e, v, c, p, w, rfl, h⟩ := h
  exact ⟨m, e, v, c, p, w, s.strands, s.braids, rfl, h, fun _ _ => rfl⟩

theorem OnlyTraps.mono {l l' : List Nat} {s t : State} (hl : ∀ p ∈ l, p ∈ l') (h : OnlyTraps l s t) : OnlyTraps l' s t := by
  obtain ⟨m, e, v, c, p, w, x, b, rfl, hm, hx⟩ := h
  exact ⟨m, e, v, c, p, w, x, b, rfl, hm, fun p hp => hx p fun hp' => hp (hl p hp')⟩

theorem OnlyTraps.strand? {l : List Nat} {s t : State} (h : OnlyTraps l s t) {p : Nat} (hp : p ∉ l) :
    t.strand? p = s.strand? p := by
  obtain ⟨m, e, v, c, q, w, x, b, rfl, -, hx⟩ := h
  exact hx p hp

theorem OnlyTraps.mem {l : List Nat} {s t : State} (h : OnlyTraps l s t) (w : Memory.wf s.mem = true) :
    Memory.wf t.mem = true := by
  obtain ⟨m, e, v, c, p, q, x, b, rfl, hm, -⟩ := h
  exact hm w

theorem State.modStrand_traps (s : State) (pos : Nat) (f : Strand → Strand) : OnlyTraps [pos] s (s.modStrand pos f) := by
  refine ⟨s.mem, s.early, s.spoiled, s.ctxs, s.ports, s.linkWaits, s.strands.modify pos f, s.braids, rfl, id, fun p hp => ?_⟩
  exact AMap.get?_modify_ne _ _ (by simp at hp; exact fun h => hp h.symm)

theorem State.modBraid_traps (s : State) (l : List Nat) (b : Nat) (f : Braid → Braid) : OnlyTraps l s (s.modBraid b f) :=
  ⟨s.mem, s.early, s.spoiled, s.ctxs, s.ports, s.linkWaits, s.strands, s.braids.modify b f, rfl, id, fun _ _ => rfl⟩

theorem State.awaitLink_traps (s : State) (l : List Nat) (o : Holder) (ctx core pkg : Nat) :
    OnlyTraps l s (s.awaitLink o ctx core pkg) := (State.awaitLink_only ..).traps l

theorem State.recordTrap_only (s : State) (pos : Nat) (x : Strand) (t : TrapReq) :
    OnlyMemCtxs s (s.recordTrap pos x t).1 := by
  unfold State.recordTrap
  split
  · exact State.recordFault_only ..
  · split <;> exact .refl s

theorem State.holdPend_traps (s : State) (pos ctx : Nat) (h q : Option Nat) : OnlyTraps [pos] s (s.holdPend pos ctx h q) := by
  unfold State.holdPend
  split
  · exact (State.modStrand_traps ..).trans ((State.modCtx_only ..).traps _)
  · exact .refl _ s

theorem State.handlerTrap_traps (s : State) (pos ctx : Nat) (r : TrapRec) : OnlyTraps [pos] s (s.handlerTrap pos ctx r) :=
  (State.modStrand_traps ..).trans ((State.ctxFault_only ..).traps _)

theorem State.raiseOne_traps (s : State) (pos : Nat) (pt : Point) (t : TrapReq) : OnlyTraps [pos] s (s.raiseOne pos pt t) := by
  unfold State.raiseOne
  split
  · exact .refl _ s
  · rename_i x _
    have h : OnlyTraps [pos] s ((s.recordTrap pos x t).1.holdPend pos (s.ctxNum x) t.hold (s.recordTrap pos x t).2.2) :=
      ((State.recordTrap_only ..).traps _).trans (State.holdPend_traps ..)
    dsimp only
    split
    · split
      · split
        · exact (h.trans (State.modStrand_traps ..)).trans (State.awaitLink_traps ..)
        · exact h.trans (State.modStrand_traps ..)
      · exact h.trans (State.modStrand_traps ..)
    · split
      · exact h.trans (State.handlerTrap_traps ..)
      · exact h.trans (State.modStrand_traps _ pos _)

theorem State.addGroups_traps (s : State) (l : List Nat) (b : Nat) (lanes : List Nat) (a : Option DWord) :
    OnlyTraps l s (s.addGroups b lanes a) := by
  unfold State.addGroups
  dsimp only
  refine foldl_keeps (P := fun t => OnlyTraps l s t) _ (fun t c h => ?_) _ (.refl _ s)
  split
  · exact h
  · exact h.trans (State.modBraid_traps ..)

/-- Everything that raising traps can do; lanes that do not trap are as before. -/
theorem State.raise_traps (s : State) (x : Issue) (hx : s.cur = some x) (traps : List (Nat × TrapReq)) :
    OnlyTraps (traps.map fun p => posOf x.braid p.1) s (s.raise traps) := by
  unfold State.raise
  rw [hx]
  dsimp only
  have h : OnlyTraps (traps.map fun p => posOf x.braid p.1) s
      (traps.foldl (fun s p => s.raiseOne (posOf x.braid p.1) ⟨x.clause, x.word⟩ p.2) s) := by
    suffices ∀ l : List (Nat × TrapReq), (∀ p ∈ l, p ∈ traps) → ∀ t, OnlyTraps (traps.map fun p => posOf x.braid p.1) s t →
        OnlyTraps (traps.map fun p => posOf x.braid p.1) s
          (l.foldl (fun s p => s.raiseOne (posOf x.braid p.1) ⟨x.clause, x.word⟩ p.2) t) from
      this traps (fun _ h => h) s (.refl _ s)
    intro l
    induction l with
    | nil => intro _ t h; exact h
    | cons p l ih =>
      intro hl t ht
      refine ih (fun q hq => hl q (List.mem_cons_of_mem _ hq)) _ (ht.trans ?_)
      refine (State.raiseOne_traps t _ _ _).mono fun q hq => ?_
      rw [List.mem_singleton.1 hq]
      exact List.mem_map.2 ⟨p, hl p (List.mem_cons_self ..), rfl⟩
  split
  · exact h
  · exact h.trans (State.addGroups_traps ..)

@[simp] theorem State.addGroups_nil (s : State) (b : Nat) : s.addGroups b [] = s := by
  simp [State.addGroups]

@[simp] theorem State.raise_nil (s : State) : s.raise [] = s := by
  unfold State.raise
  cases s.cur with
  | none => rfl
  | some x => simp

end Sys2Proof.Machine
end

