-- ==== Sys2Proof/Laws/Words.lean ====
section
/-! SUPPORT. The two ways a word executes (Ops.lean), said once: lane by lane at once, and lane after lane. -/

namespace Sys2Proof.Machine

/-! ## The lanes that execute -/

theorem mem_lanesOf {m : BitVec 32} {l : Nat} : l ∈ lanesOf m ↔ l < 32 ∧ m.getLsbD l = true := by
  simp [lanesOf, List.mem_filter]

theorem lanesOf_nodup (m : BitVec 32) : (lanesOf m).Nodup := List.Nodup.filter _ List.nodup_range

theorem posOf_inj {b l k : Nat} : posOf b l = posOf b k ↔ l = k := by simp [posOf]

theorem State.mem_active {s : State} {x : Issue} {p : Pred} {l : Nat} {st : Strand} :
    (l, st) ∈ s.active x p ↔
      (l < 32 ∧ x.mask.getLsbD l = true) ∧ s.strand? (posOf x.braid l) = some st ∧ predHolds st.regs p = true := by
  simp only [State.active, List.mem_filterMap, mem_lanesOf]
  constructor
  · rintro ⟨k, hk, h⟩
    cases hs : s.strand? (posOf x.braid k) with
    | none => simp [hs] at h
    | some y =>
      simp only [hs] at h
      split at h
      · rename_i hp
        cases h
        exact ⟨hk, hs, hp⟩
      · cases h
  · rintro ⟨hk, hs, hp⟩
    exact ⟨l, hk, by simp [hs, hp]⟩

theorem State.mem_passing {s : State} {x : Issue} {i : Instr} {l : Nat} {st : Strand} :
    (l, st) ∈ s.passing x i ↔ (l, st) ∈ s.active x i.info.pred ∧ tagFailure st.regs i.info = none := by
  simp [State.passing, List.mem_filter]

theorem State.Executes.mem {s : State} {x : Issue} {i : Instr} {l : Nat} {st : Strand} (h : s.Executes x i l st) :
    (l, st) ∈ s.passing x i :=
  State.mem_passing.2 ⟨State.mem_active.2 ⟨h.lane, h.strand, h.pred⟩, h.tags⟩

/-- A strand that executes does not trap for its tags. -/
theorem State.Executes.not_tagTrap {s : State} {x : Issue} {i : Instr} {l : Nat} {st : Strand} (h : s.Executes x i l st) :
    posOf x.braid l ∉ (s.tagTraps x i).map fun p => posOf x.braid p.1 := by
  simp only [List.mem_map, not_exists, not_and]
  rintro ⟨k, t⟩ hk he
  have hkl : k = l := posOf_inj.1 he
  subst hkl
  simp only [State.tagTraps, List.mem_filterMap] at hk
  obtain ⟨⟨k', y⟩, hm, ht⟩ := hk
  have := State.mem_active.1 hm
  cases hy : tagFailure y.regs i.info with
  | none => simp [hy] at ht
  | some o =>
    simp only [hy, Option.map_some, Option.some.injEq, Prod.mk.injEq] at ht
    obtain ⟨rfl, -⟩ := ht
    have e := this.2.1.symm.trans h.strand
    cases e
    rw [h.tags] at hy
    cases hy

theorem State.active_fst_nodup (s : State) (x : Issue) (p : Pred) : ((s.active x p).map Prod.fst).Nodup := by
  have h : ∀ L : List Nat, ((L.filterMap fun l => match s.strand? (posOf x.braid l) with
      | some st => if predHolds st.regs p then some (l, st) else none
      | none => none).map Prod.fst).Sublist L := by
    intro L
    induction L with
    | nil => simp
    | cons a L ih =>
      simp only [List.filterMap_cons]
      cases hs : s.strand? (posOf x.braid a) with
      | none => simpa using ih.trans (List.sublist_cons_self a L)
      | some y =>
        by_cases hp : predHolds y.regs p = true
        · simpa [hp] using ih.cons_cons a
        · simpa [hp] using ih.trans (List.sublist_cons_self a L)
  exact (lanesOf_nodup x.mask).sublist (h _)

theorem State.passing_fst_nodup (s : State) (x : Issue) (i : Instr) : ((s.passing x i).map Prod.fst).Nodup :=
  (State.active_fst_nodup s x i.info.pred).sublist ((List.filter_sublist).map _)

/-- The entry of an executing lane in the list of results. -/
theorem State.find_out {s : State} {x : Issue} {i : Instr} {l : Nat} {st : Strand} (g : Nat → Strand → LaneOut)
    (h : (l, st) ∈ s.passing x i) :
    ((s.passing x i).map fun p => (p.1, g p.1 p.2)).find? (fun o => posOf x.braid o.1 == posOf x.braid l) =
      some (l, g l st) := by
  have nd := State.passing_fst_nodup s x i
  generalize s.passing x i = L at h nd
  induction L with
  | nil => cases h
  | cons a L ih =>
    simp only [List.map_cons, List.nodup_cons] at nd
    simp only [List.map_cons, List.find?_cons]
    rcases List.mem_cons.1 h with rfl | h
    · simp
    · have : posOf x.braid a.1 ≠ posOf x.braid l := by
        rw [Ne, posOf_inj]
        rintro rfl
        exact nd.1 (List.mem_map.2 ⟨_, h, rfl⟩)
      simp only [beq_eq_false_iff_ne.2 this]
      exact ih h nd.2

/-! ## Lane by lane at once -/

/-- What the lanes of a word make of it. -/
def State.laneOuts (s : State) (x : Issue) (i : Instr) (f : Issue → Nat → Strand → LaneOut) : List (Nat × LaneOut) :=
  (s.passing x i).map fun p => (p.1, f x p.1 p.2)

theorem State.pointwise_eq {s : State} {x : Issue} {i : Instr} (f : Issue → Nat → Strand → LaneOut) (hx : s.cur = some x)
    (hl : s.illegalHere x i = false) :
    s.pointwise i f =
      { s with strands := s.strands.mapVals (laneResult x.braid (s.laneOuts x i f)) }.raise
        (s.tagTraps x i ++ (s.laneOuts x i f).filterMap fun (o : Nat × LaneOut) => o.2.trap.map fun t => (o.1, t)) := by
  simp [State.pointwise, hx, hl, State.laneOuts]

theorem State.cur_withStrands (s : State) (m : AMap Strand) : ({ s with strands := m } : State).cur = s.cur := rfl

/-- A lane that executes without a trap is as the word leaves it, whatever the other lanes do. -/
theorem State.pointwise_lane {s : State} {x : Issue} {i : Instr} {l : Nat} {st : Strand}
    (f : Issue → Nat → Strand → LaneOut) (h : s.Executes x i l st) (ht : (f x l st).trap = none) :
    (s.pointwise i f).strand? (posOf x.braid l) = some (f x l st).st := by
  rw [State.pointwise_eq f h.cur h.legal]
  have hc : ({ s with strands := s.strands.mapVals (laneResult x.braid (s.laneOuts x i f)) } : State).cur = some x := by
    rw [State.cur_withStrands, h.cur]
  rw [(State.raise_traps _ x hc _).strand?]
  · show AMap.get? (AMap.mapVals _ _) _ = _
    have hs : AMap.get? s.strands (posOf x.braid l) = some st := h.strand
    rw [AMap.get?_mapVals, hs, Option.map_some]
    simp only [laneResult, State.laneOuts, State.find_out (f x) h.mem]
  · rw [List.map_append, List.mem_append]
    rintro (hm | hm)
    · exact h.not_tagTrap hm
    · simp only [List.mem_map, List.mem_filterMap] at hm
      obtain ⟨⟨k, t⟩, ⟨⟨k', o⟩, ho, hot⟩, he⟩ := hm
      simp only [State.laneOuts, List.mem_map] at ho
      obtain ⟨⟨k'', y⟩, hp, ho⟩ := ho
      cases htr : o.trap with
      | none => simp [htr] at hot
      | some t' =>
        simp only [htr, Option.map_some, Option.some.injEq, Prod.mk.injEq] at hot
        simp only [Prod.mk.injEq] at ho
        obtain ⟨rfl, rfl⟩ := ho
        obtain ⟨rfl, -⟩ := hot
        have hk : k'' = l := posOf_inj.1 he
        subst hk
        have e := (State.mem_active.1 (State.mem_passing.1 hp).1).2.1.symm.trans h.strand
        cases e
        rw [ht] at htr
        cases htr

/-- A word of which no lane traps changes strands only. -/
theorem State.pointwise_of_no_trap {s : State} {x : Issue} {i : Instr} (f : Issue → Nat → Strand → LaneOut)
    (hx : s.cur = some x) (hl : s.illegalHere x i = false) (ht : s.tagTraps x i = [])
    (hn : ∀ l st, (l, st) ∈ s.passing x i → (f x l st).trap = none) :
    s.pointwise i f = { s with strands := s.strands.mapVals (laneResult x.braid (s.laneOuts x i f)) } := by
  rw [State.pointwise_eq f hx hl, ht]
  have : ((s.laneOuts x i f).filterMap fun (o : Nat × LaneOut) => o.2.trap.map fun t => (o.1, t)) = [] := by
    rw [List.filterMap_eq_nil_iff]
    rintro ⟨l, o⟩ ho
    simp only [State.laneOuts, List.mem_map] at ho
    obtain ⟨⟨k, st⟩, hk, he⟩ := ho
    cases he
    simp [hn _ _ hk]
  rw [this]
  exact State.raise_nil _

/-- A position where no lane executes keeps its strand through the lanes' results. -/
theorem State.laneResult_other {s : State} {x : Issue} {i : Instr} (f : Issue → Nat → Strand → LaneOut) {p : Nat}
    (st : Strand) (h : ∀ l y, (l, y) ∈ s.passing x i → posOf x.braid l ≠ p) :
    laneResult x.braid (s.laneOuts x i f) p st = st := by
  have : (s.laneOuts x i f).find? (fun o => posOf x.braid o.1 == p) = none := by
    rw [List.find?_eq_none]
    rintro ⟨l, o⟩ ho
    simp only [State.laneOuts, List.mem_map] at ho
    obtain ⟨⟨k, y⟩, hk, he⟩ := ho
    cases he
    simpa using h _ _ hk
  simp [laneResult, this]

/-! ## One strand alone -/

theorem State.Alone.passing {s : State} {x : Issue} {i : Instr} {l : Nat} {st : Strand} (h : s.Alone x i l st) :
    s.passing x i = [(l, st)] := by
  simp [State.passing, h.only, h.tags]

theorem State.Alone.tagTraps {s : State} {x : Issue} {i : Instr} {l : Nat} {st : Strand} (h : s.Alone x i l st) :
    s.tagTraps x i = [] := by
  simp [State.tagTraps, h.only, h.tags]

/-- A word that acts lane by lane, for one strand alone. -/
theorem State.pointwise_alone {s : State} {x : Issue} {i : Instr} {l : Nat} {st : Strand}
    (f : Issue → Nat → Strand → LaneOut) (h : s.Alone x i l st) (ht : (f x l st).trap = none) :
    s.OnlyStrand (s.pointwise i f) (posOf x.braid l) (f x l st).st := by
  refine ⟨State.pointwise_lane f h.toExecutes ht, ?_, ?_⟩
  · intro p hp
    rw [State.pointwise_of_no_trap f h.cur h.legal h.tagTraps (by simp [h.passing, ht])]
    show AMap.get? (AMap.mapVals _ _) _ = AMap.get? s.strands p
    rw [AMap.get?_mapVals]
    cases hs : AMap.get? s.strands p with
    | none => rfl
    | some y =>
      rw [Option.map_some, State.laneResult_other]
      intro k z hk
      rw [h.passing] at hk
      simp only [List.mem_singleton, Prod.mk.injEq] at hk
      rw [hk.1]
      exact fun e => hp e.symm
  · rw [State.pointwise_of_no_trap f h.cur h.legal h.tagTraps (by simp [h.passing, ht])]

/-- A word whose lanes act in order, for one strand alone that raises no trap. -/
theorem State.inLaneOrder_alone {s t : State} {x : Issue} {i : Instr} {l : Nat} {st : Strand}
    (f : Issue → State → Nat → State × Option TrapReq) (h : s.Alone x i l st) (ht : f x s l = (t, none)) :
    s.inLaneOrder i f = t := by
  simp [State.inLaneOrder, h.cur, h.legal, h.passing, h.tagTraps, laneThen, ht]

/-- A word whose lanes act in order, for one strand alone that traps. -/
theorem State.inLaneOrder_trap {s t : State} {x : Issue} {i : Instr} {l : Nat} {st : Strand} {r : TrapReq}
    (f : Issue → State → Nat → State × Option TrapReq) (h : s.Alone x i l st) (ht : f x s l = (t, some r)) :
    s.inLaneOrder i f = t.raise [(l, r)] := by
  simp [State.inLaneOrder, h.cur, h.legal, h.passing, h.tagTraps, laneThen, ht]

end Sys2Proof.Machine
end

