-- ==== Sys2Proof/Laws/Long.lean ====
section
/-! SUPPORT. Long-latency words of one strand: what issuing, completing and trapping leave, said once for the words built on
`longWord` and `longInOrder`. -/

namespace Sys2Proof.Machine

/-! ## Issue -/

/-- A long-latency word that acts on each strand alone, for a lane that executes it. -/
theorem State.longWord_lane {s : State} {x : Issue} {i : Instr} {k : Nat} {st : Strand} (l : Long) (kind : PendKind)
    (f : Lane → Strand → Strand × List (Nat × Reg)) (h : s.Executes x i k st) :
    ∃ t, s.longWord i l kind f = .next t ∧
      t.strand? (posOf x.braid k) =
        some ((f (s.lane x k st) st).1.issueRegs l x.here s.moves kind (f (s.lane x k st) st).2) :=
  ⟨_, rfl, State.pointwise_lane _ h rfl⟩

/-- A long-latency word of a strand alone, in order, that does not trap. -/
theorem State.longInOrder_alone {s u : State} {x : Issue} {i : Instr} {k : Nat} {st : Strand} {w : List (Nat × Reg)} (l : Long)
    (kind : PendKind) (f : State → Nat → Strand → Lane → Except TrapReq (State × List (Nat × Reg)))
    (h : s.Alone x i k st) (hf : f s (posOf x.braid k) st (s.lane x k st) = .ok (u, w)) (hm : u.moves = s.moves) :
    s.longInOrder i l kind f =
      .next (u.modStrand (posOf x.braid k) fun y => y.issueRegs l x.here s.moves kind w) := by
  unfold State.longInOrder
  rw [State.inLaneOrder_alone (t := u.modStrand (posOf x.braid k) fun y => y.issueRegs l x.here s.moves kind w) _ h]
  simp only [h.strand, hf, hm]

/-- A long-latency word of a strand alone, in order, that traps. -/
theorem State.longInOrder_trap {s : State} {x : Issue} {i : Instr} {k : Nat} {st : Strand} {r : TrapReq} (l : Long)
    (kind : PendKind) (f : State → Nat → Strand → Lane → Except TrapReq (State × List (Nat × Reg)))
    (h : s.Alone x i k st) (hf : f s (posOf x.braid k) st (s.lane x k st) = .error r) :
    s.longInOrder i l kind f = .next (s.raise [(k, r)]) := by
  unfold State.longInOrder
  rw [State.inLaneOrder_trap (t := s) (r := r) _ h]
  simp only [h.strand, hf]

/-- A word of a strand alone, complete when its request is applied, that does not trap. -/
theorem State.doneInOrder_alone {s u : State} {x : Issue} {i : Instr} {k : Nat} {st : Strand}
    (f : State → Nat → Strand → Lane → Except TrapReq State) (h : s.Alone x i k st)
    (hf : f s (posOf x.braid k) st (s.lane x k st) = .ok u) : s.doneInOrder i f = .next u := by
  unfold State.doneInOrder
  rw [State.inLaneOrder_alone (t := u) _ h]
  simp only [h.strand, hf]

/-- A word of a strand alone, complete when its request is applied, that traps. -/
theorem State.doneInOrder_trap {s : State} {x : Issue} {i : Instr} {k : Nat} {st : Strand} {r : TrapReq}
    (f : State → Nat → Strand → Lane → Except TrapReq State) (h : s.Alone x i k st)
    (hf : f s (posOf x.braid k) st (s.lane x k st) = .error r) : s.doneInOrder i f = .next (s.raise [(k, r)]) := by
  unfold State.doneInOrder
  rw [State.inLaneOrder_trap (t := s) (r := r) _ h]
  simp only [h.strand, hf]

/-! ## A plain trap of one strand -/

/-- A fold whose every step touches braids only touches braids only. -/
theorem State.foldl_braids {α : Type} {f : State → α → State} (hf : ∀ s a, ∃ b, f s a = { s with braids := b }) (l : List α)
    (s : State) : ∃ b, l.foldl f s = { s with braids := b } := by
  induction l generalizing s with
  | nil => exact ⟨s.braids, rfl⟩
  | cons a l ih =>
    obtain ⟨b, hb⟩ := hf s a
    obtain ⟨c, hc⟩ := ih (f s a)
    exact ⟨c, by rw [List.foldl_cons, hc, hb]⟩

/-- Trap groups touch braids only. -/
theorem State.addGroups_eq (s : State) (b : Nat) (lanes : List Nat) (a : Option DWord) :
    ∃ m, s.addGroups b lanes a = { s with braids := m } := by
  unfold State.addGroups
  refine State.foldl_braids (fun s c => ?_) _ s
  dsimp only
  split
  · exact ⟨s.braids, rfl⟩
  · exact ⟨_, rfl⟩

/-- Trap groups leave every strand. -/
@[simp] theorem State.strand?_addGroups (s : State) (b : Nat) (lanes : List Nat) (a : Option DWord) (p : Nat) :
    (s.addGroups b lanes a).strand? p = s.strand? p := by
  obtain ⟨m, hm⟩ := s.addGroups_eq b lanes a
  rw [hm]
  rfl

/-- A strand past no fence is past none before any instruction. -/
theorem Strand.fencedBefore_of_pastFence {x : Strand} (h : x.pastFence = false) (n : Nat) : x.fencedBefore n = false := by
  simp only [Strand.pastFence, Strand.fencedBefore, List.any_eq_false] at h ⊢
  intro p hp
  simp [h p hp]

/-- A strand trapped at its word in issue set `set`, where its next instruction has number n, with no fault record. -/
def trapPlain (x : Issue) (n set c d : Nat) (y : Strand) : Strand :=
  { y.trapAt n x.here ⟨x.clause, x.word, c, d, 0⟩ with
    trapSet := set, heldOn := if y.handler then y.heldOn else none }

/-- A trap without a fault record, of a strand neither in a handler nor past a fence: it is trapped at the word. -/
theorem State.raise_plain {s : State} {x : Issue} {k : Nat} {st : Strand} {c d : Nat} (hx : s.cur = some x)
    (hs : s.strand? (posOf x.braid k) = some st) (hh : st.handler = false) (hf : st.pastFence = false) :
    let t := s.raise [(k, { cause := c, detail := d })]
    t = { s with strands := t.strands, braids := t.braids } ∧ (∀ p, p ≠ posOf x.braid k → t.strand? p = s.strand? p) ∧
    t.strand? (posOf x.braid k) =
      some { st with run := .trapped, trap := ⟨x.clause, x.word, c, d, 0⟩, regs := { st.regs with pc := x.here }, trapSet := s.moves, heldOn := none } := by
  have hn := Strand.fencedBefore_of_pastFence hf
  have h1 : s.raiseOne (posOf x.braid k) ⟨x.clause, x.word⟩ { cause := c, detail := d } =
      s.modStrand (posOf x.braid k) (trapPlain x st.nextId s.moves c d) := by
    have hu : TrapReq.upset { cause := c, detail := d } = false := rfl
    simp only [State.raiseOne, hs, State.recordTrap, State.holdPend, hu, hh, Bool.false_and, Bool.false_eq_true, if_false]
    rfl
  have h2 : (s.modStrand (posOf x.braid k) (trapPlain x st.nextId s.moves c d)).strand? (posOf x.braid k) =
      some { st with run := .trapped, trap := ⟨x.clause, x.word, c, d, 0⟩, regs := { st.regs with pc := x.here }, trapSet := s.moves, heldOn := none } := by
    have : Strand.fencedBefore { st with regs := { st.regs with pc := x.here } } st.nextId = false := hn _
    simp only [State.strand?_modStrand_self, hs, Option.map_some, trapPlain, Strand.trapAt, this, Bool.false_eq_true, if_false]
    simp [hh]
  simp only [State.raise, hx, List.foldl_cons, List.foldl_nil, h1, List.map_cons, List.map_nil]
  split
  · exact ⟨rfl, fun p hp => State.strand?_modStrand_ne _ _ (Ne.symm hp), h2⟩
  · refine ⟨?_, fun p hp => ?_, ?_⟩
    · obtain ⟨m, hm⟩ := State.addGroups_eq (s.modStrand (posOf x.braid k) (trapPlain x st.nextId s.moves c d))
        x.braid [k] none
      rw [hm]
      rfl
    · rw [State.strand?_addGroups]
      exact State.strand?_modStrand_ne _ _ (Ne.symm hp)
    · rw [State.strand?_addGroups]
      exact h2

end Sys2Proof.Machine
end

