-- ==== Sys2Proof/Laws/State.lean ====
section
/-! SUPPORT. What the updates of the state leave of its fields: one lemma for each field that an update does not write. -/

namespace Sys2Proof.Machine

variable (s : State)

/-! ## modStrand -/

@[simp] theorem State.mem_modStrand (p : Nat) (f : Strand → Strand) : (s.modStrand p f).mem = s.mem := rfl
@[simp] theorem State.full_modStrand (p : Nat) (f : Strand → Strand) : (s.modStrand p f).full = s.full := rfl
@[simp] theorem State.early_modStrand (p : Nat) (f : Strand → Strand) : (s.modStrand p f).early = s.early := rfl
@[simp] theorem State.upsets_modStrand (p : Nat) (f : Strand → Strand) : (s.modStrand p f).upsets = s.upsets := rfl
@[simp] theorem State.busErrors_modStrand (p : Nat) (f : Strand → Strand) : (s.modStrand p f).busErrors = s.busErrors := rfl
@[simp] theorem State.spoiled_modStrand (p : Nat) (f : Strand → Strand) : (s.modStrand p f).spoiled = s.spoiled := rfl
@[simp] theorem State.braids_modStrand (p : Nat) (f : Strand → Strand) : (s.modStrand p f).braids = s.braids := rfl
@[simp] theorem State.quarters_modStrand (p : Nat) (f : Strand → Strand) : (s.modStrand p f).quarters = s.quarters := rfl
@[simp] theorem State.banks_modStrand (p : Nat) (f : Strand → Strand) : (s.modStrand p f).banks = s.banks := rfl
@[simp] theorem State.knots_modStrand (p : Nat) (f : Strand → Strand) : (s.modStrand p f).knots = s.knots := rfl
@[simp] theorem State.tiles_modStrand (p : Nat) (f : Strand → Strand) : (s.modStrand p f).tiles = s.tiles := rfl
@[simp] theorem State.barriers_modStrand (p : Nat) (f : Strand → Strand) : (s.modStrand p f).barriers = s.barriers := rfl
@[simp] theorem State.envs_modStrand (p : Nat) (f : Strand → Strand) : (s.modStrand p f).envs = s.envs := rfl
@[simp] theorem State.copyEngines_modStrand (p : Nat) (f : Strand → Strand) : (s.modStrand p f).copyEngines = s.copyEngines := rfl
@[simp] theorem State.events_modStrand (p : Nat) (f : Strand → Strand) : (s.modStrand p f).events = s.events := rfl
@[simp] theorem State.ctxs_modStrand (p : Nat) (f : Strand → Strand) : (s.modStrand p f).ctxs = s.ctxs := rfl
@[simp] theorem State.queues_modStrand (p : Nat) (f : Strand → Strand) : (s.modStrand p f).queues = s.queues := rfl
@[simp] theorem State.launches_modStrand (p : Nat) (f : Strand → Strand) : (s.modStrand p f).launches = s.launches := rfl
@[simp] theorem State.hanks_modStrand (p : Nat) (f : Strand → Strand) : (s.modStrand p f).hanks = s.hanks := rfl
@[simp] theorem State.moves_modStrand (p : Nat) (f : Strand → Strand) : (s.modStrand p f).moves = s.moves := rfl
@[simp] theorem State.cycles_modStrand (p : Nat) (f : Strand → Strand) : (s.modStrand p f).cycles = s.cycles := rfl
@[simp] theorem State.focus_modStrand (p : Nat) (f : Strand → Strand) : (s.modStrand p f).focus = s.focus := rfl
@[simp] theorem State.stepping_modStrand (p : Nat) (f : Strand → Strand) : (s.modStrand p f).stepping = s.stepping := rfl
@[simp] theorem State.mode_modStrand (p : Nat) (f : Strand → Strand) : (s.modStrand p f).mode = s.mode := rfl
@[simp] theorem State.boot_modStrand (p : Nat) (f : Strand → Strand) : (s.modStrand p f).boot = s.boot := rfl
@[simp] theorem State.bootWork_modStrand (p : Nat) (f : Strand → Strand) : (s.modStrand p f).bootWork = s.bootWork := rfl

/-! ## setStrand -/

@[simp] theorem State.mem_setStrand (p : Nat) (x : Strand) : (s.setStrand p x).mem = s.mem := rfl
@[simp] theorem State.full_setStrand (p : Nat) (x : Strand) : (s.setStrand p x).full = s.full := rfl
@[simp] theorem State.early_setStrand (p : Nat) (x : Strand) : (s.setStrand p x).early = s.early := rfl
@[simp] theorem State.upsets_setStrand (p : Nat) (x : Strand) : (s.setStrand p x).upsets = s.upsets := rfl
@[simp] theorem State.busErrors_setStrand (p : Nat) (x : Strand) : (s.setStrand p x).busErrors = s.busErrors := rfl
@[simp] theorem State.spoiled_setStrand (p : Nat) (x : Strand) : (s.setStrand p x).spoiled = s.spoiled := rfl
@[simp] theorem State.braids_setStrand (p : Nat) (x : Strand) : (s.setStrand p x).braids = s.braids := rfl
@[simp] theorem State.quarters_setStrand (p : Nat) (x : Strand) : (s.setStrand p x).quarters = s.quarters := rfl
@[simp] theorem State.banks_setStrand (p : Nat) (x : Strand) : (s.setStrand p x).banks = s.banks := rfl
@[simp] theorem State.knots_setStrand (p : Nat) (x : Strand) : (s.setStrand p x).knots = s.knots := rfl
@[simp] theorem State.tiles_setStrand (p : Nat) (x : Strand) : (s.setStrand p x).tiles = s.tiles := rfl
@[simp] theorem State.barriers_setStrand (p : Nat) (x : Strand) : (s.setStrand p x).barriers = s.barriers := rfl
@[simp] theorem State.envs_setStrand (p : Nat) (x : Strand) : (s.setStrand p x).envs = s.envs := rfl
@[simp] theorem State.copyEngines_setStrand (p : Nat) (x : Strand) : (s.setStrand p x).copyEngines = s.copyEngines := rfl
@[simp] theorem State.events_setStrand (p : Nat) (x : Strand) : (s.setStrand p x).events = s.events := rfl
@[simp] theorem State.ctxs_setStrand (p : Nat) (x : Strand) : (s.setStrand p x).ctxs = s.ctxs := rfl
@[simp] theorem State.queues_setStrand (p : Nat) (x : Strand) : (s.setStrand p x).queues = s.queues := rfl
@[simp] theorem State.launches_setStrand (p : Nat) (x : Strand) : (s.setStrand p x).launches = s.launches := rfl
@[simp] theorem State.hanks_setStrand (p : Nat) (x : Strand) : (s.setStrand p x).hanks = s.hanks := rfl
@[simp] theorem State.moves_setStrand (p : Nat) (x : Strand) : (s.setStrand p x).moves = s.moves := rfl
@[simp] theorem State.cycles_setStrand (p : Nat) (x : Strand) : (s.setStrand p x).cycles = s.cycles := rfl
@[simp] theorem State.focus_setStrand (p : Nat) (x : Strand) : (s.setStrand p x).focus = s.focus := rfl
@[simp] theorem State.stepping_setStrand (p : Nat) (x : Strand) : (s.setStrand p x).stepping = s.stepping := rfl
@[simp] theorem State.mode_setStrand (p : Nat) (x : Strand) : (s.setStrand p x).mode = s.mode := rfl
@[simp] theorem State.boot_setStrand (p : Nat) (x : Strand) : (s.setStrand p x).boot = s.boot := rfl
@[simp] theorem State.bootWork_setStrand (p : Nat) (x : Strand) : (s.setStrand p x).bootWork = s.bootWork := rfl

/-! ## mapBraid -/

@[simp] theorem State.mem_mapBraid (b : Nat) (f : Nat → Strand → Strand) : (s.mapBraid b f).mem = s.mem := rfl
@[simp] theorem State.full_mapBraid (b : Nat) (f : Nat → Strand → Strand) : (s.mapBraid b f).full = s.full := rfl
@[simp] theorem State.early_mapBraid (b : Nat) (f : Nat → Strand → Strand) : (s.mapBraid b f).early = s.early := rfl
@[simp] theorem State.upsets_mapBraid (b : Nat) (f : Nat → Strand → Strand) : (s.mapBraid b f).upsets = s.upsets := rfl
@[simp] theorem State.busErrors_mapBraid (b : Nat) (f : Nat → Strand → Strand) : (s.mapBraid b f).busErrors = s.busErrors := rfl
@[simp] theorem State.spoiled_mapBraid (b : Nat) (f : Nat → Strand → Strand) : (s.mapBraid b f).spoiled = s.spoiled := rfl
@[simp] theorem State.braids_mapBraid (b : Nat) (f : Nat → Strand → Strand) : (s.mapBraid b f).braids = s.braids := rfl
@[simp] theorem State.quarters_mapBraid (b : Nat) (f : Nat → Strand → Strand) : (s.mapBraid b f).quarters = s.quarters := rfl
@[simp] theorem State.banks_mapBraid (b : Nat) (f : Nat → Strand → Strand) : (s.mapBraid b f).banks = s.banks := rfl
@[simp] theorem State.knots_mapBraid (b : Nat) (f : Nat → Strand → Strand) : (s.mapBraid b f).knots = s.knots := rfl
@[simp] theorem State.tiles_mapBraid (b : Nat) (f : Nat → Strand → Strand) : (s.mapBraid b f).tiles = s.tiles := rfl
@[simp] theorem State.barriers_mapBraid (b : Nat) (f : Nat → Strand → Strand) : (s.mapBraid b f).barriers = s.barriers := rfl
@[simp] theorem State.envs_mapBraid (b : Nat) (f : Nat → Strand → Strand) : (s.mapBraid b f).envs = s.envs := rfl
@[simp] theorem State.copyEngines_mapBraid (b : Nat) (f : Nat → Strand → Strand) : (s.mapBraid b f).copyEngines = s.copyEngines := rfl
@[simp] theorem State.events_mapBraid (b : Nat) (f : Nat → Strand → Strand) : (s.mapBraid b f).events = s.events := rfl
@[simp] theorem State.ctxs_mapBraid (b : Nat) (f : Nat → Strand → Strand) : (s.mapBraid b f).ctxs = s.ctxs := rfl
@[simp] theorem State.queues_mapBraid (b : Nat) (f : Nat → Strand → Strand) : (s.mapBraid b f).queues = s.queues := rfl
@[simp] theorem State.launches_mapBraid (b : Nat) (f : Nat → Strand → Strand) : (s.mapBraid b f).launches = s.launches := rfl
@[simp] theorem State.hanks_mapBraid (b : Nat) (f : Nat → Strand → Strand) : (s.mapBraid b f).hanks = s.hanks := rfl
@[simp] theorem State.moves_mapBraid (b : Nat) (f : Nat → Strand → Strand) : (s.mapBraid b f).moves = s.moves := rfl
@[simp] theorem State.cycles_mapBraid (b : Nat) (f : Nat → Strand → Strand) : (s.mapBraid b f).cycles = s.cycles := rfl
@[simp] theorem State.focus_mapBraid (b : Nat) (f : Nat → Strand → Strand) : (s.mapBraid b f).focus = s.focus := rfl
@[simp] theorem State.stepping_mapBraid (b : Nat) (f : Nat → Strand → Strand) : (s.mapBraid b f).stepping = s.stepping := rfl
@[simp] theorem State.mode_mapBraid (b : Nat) (f : Nat → Strand → Strand) : (s.mapBraid b f).mode = s.mode := rfl
@[simp] theorem State.boot_mapBraid (b : Nat) (f : Nat → Strand → Strand) : (s.mapBraid b f).boot = s.boot := rfl
@[simp] theorem State.bootWork_mapBraid (b : Nat) (f : Nat → Strand → Strand) : (s.mapBraid b f).bootWork = s.bootWork := rfl

/-! ## modPend -/

@[simp] theorem State.mem_modPend (p i : Nat) (f : Pend → Pend) : (s.modPend p i f).mem = s.mem := rfl
@[simp] theorem State.full_modPend (p i : Nat) (f : Pend → Pend) : (s.modPend p i f).full = s.full := rfl
@[simp] theorem State.early_modPend (p i : Nat) (f : Pend → Pend) : (s.modPend p i f).early = s.early := rfl
@[simp] theorem State.upsets_modPend (p i : Nat) (f : Pend → Pend) : (s.modPend p i f).upsets = s.upsets := rfl
@[simp] theorem State.busErrors_modPend (p i : Nat) (f : Pend → Pend) : (s.modPend p i f).busErrors = s.busErrors := rfl
@[simp] theorem State.spoiled_modPend (p i : Nat) (f : Pend → Pend) : (s.modPend p i f).spoiled = s.spoiled := rfl
@[simp] theorem State.braids_modPend (p i : Nat) (f : Pend → Pend) : (s.modPend p i f).braids = s.braids := rfl
@[simp] theorem State.quarters_modPend (p i : Nat) (f : Pend → Pend) : (s.modPend p i f).quarters = s.quarters := rfl
@[simp] theorem State.banks_modPend (p i : Nat) (f : Pend → Pend) : (s.modPend p i f).banks = s.banks := rfl
@[simp] theorem State.knots_modPend (p i : Nat) (f : Pend → Pend) : (s.modPend p i f).knots = s.knots := rfl
@[simp] theorem State.tiles_modPend (p i : Nat) (f : Pend → Pend) : (s.modPend p i f).tiles = s.tiles := rfl
@[simp] theorem State.barriers_modPend (p i : Nat) (f : Pend → Pend) : (s.modPend p i f).barriers = s.barriers := rfl
@[simp] theorem State.envs_modPend (p i : Nat) (f : Pend → Pend) : (s.modPend p i f).envs = s.envs := rfl
@[simp] theorem State.copyEngines_modPend (p i : Nat) (f : Pend → Pend) : (s.modPend p i f).copyEngines = s.copyEngines := rfl
@[simp] theorem State.events_modPend (p i : Nat) (f : Pend → Pend) : (s.modPend p i f).events = s.events := rfl
@[simp] theorem State.ctxs_modPend (p i : Nat) (f : Pend → Pend) : (s.modPend p i f).ctxs = s.ctxs := rfl
@[simp] theorem State.queues_modPend (p i : Nat) (f : Pend → Pend) : (s.modPend p i f).queues = s.queues := rfl
@[simp] theorem State.launches_modPend (p i : Nat) (f : Pend → Pend) : (s.modPend p i f).launches = s.launches := rfl
@[simp] theorem State.hanks_modPend (p i : Nat) (f : Pend → Pend) : (s.modPend p i f).hanks = s.hanks := rfl
@[simp] theorem State.moves_modPend (p i : Nat) (f : Pend → Pend) : (s.modPend p i f).moves = s.moves := rfl
@[simp] theorem State.cycles_modPend (p i : Nat) (f : Pend → Pend) : (s.modPend p i f).cycles = s.cycles := rfl
@[simp] theorem State.focus_modPend (p i : Nat) (f : Pend → Pend) : (s.modPend p i f).focus = s.focus := rfl
@[simp] theorem State.stepping_modPend (p i : Nat) (f : Pend → Pend) : (s.modPend p i f).stepping = s.stepping := rfl
@[simp] theorem State.mode_modPend (p i : Nat) (f : Pend → Pend) : (s.modPend p i f).mode = s.mode := rfl
@[simp] theorem State.boot_modPend (p i : Nat) (f : Pend → Pend) : (s.modPend p i f).boot = s.boot := rfl
@[simp] theorem State.bootWork_modPend (p i : Nat) (f : Pend → Pend) : (s.modPend p i f).bootWork = s.bootWork := rfl

/-! ## complete -/

@[simp] theorem State.mem_complete (p i : Nat) (w : List (Nat × Reg)) (fl : FFlags) : (s.complete p i w fl).mem = s.mem := rfl
@[simp] theorem State.full_complete (p i : Nat) (w : List (Nat × Reg)) (fl : FFlags) : (s.complete p i w fl).full = s.full := rfl
@[simp] theorem State.early_complete (p i : Nat) (w : List (Nat × Reg)) (fl : FFlags) : (s.complete p i w fl).early = s.early := rfl
@[simp] theorem State.upsets_complete (p i : Nat) (w : List (Nat × Reg)) (fl : FFlags) : (s.complete p i w fl).upsets = s.upsets := rfl
@[simp] theorem State.busErrors_complete (p i : Nat) (w : List (Nat × Reg)) (fl : FFlags) : (s.complete p i w fl).busErrors = s.busErrors := rfl
@[simp] theorem State.spoiled_complete (p i : Nat) (w : List (Nat × Reg)) (fl : FFlags) : (s.complete p i w fl).spoiled = s.spoiled := rfl
@[simp] theorem State.braids_complete (p i : Nat) (w : List (Nat × Reg)) (fl : FFlags) : (s.complete p i w fl).braids = s.braids := rfl
@[simp] theorem State.quarters_complete (p i : Nat) (w : List (Nat × Reg)) (fl : FFlags) : (s.complete p i w fl).quarters = s.quarters := rfl
@[simp] theorem State.banks_complete (p i : Nat) (w : List (Nat × Reg)) (fl : FFlags) : (s.complete p i w fl).banks = s.banks := rfl
@[simp] theorem State.knots_complete (p i : Nat) (w : List (Nat × Reg)) (fl : FFlags) : (s.complete p i w fl).knots = s.knots := rfl
@[simp] theorem State.tiles_complete (p i : Nat) (w : List (Nat × Reg)) (fl : FFlags) : (s.complete p i w fl).tiles = s.tiles := rfl
@[simp] theorem State.barriers_complete (p i : Nat) (w : List (Nat × Reg)) (fl : FFlags) : (s.complete p i w fl).barriers = s.barriers := rfl
@[simp] theorem State.envs_complete (p i : Nat) (w : List (Nat × Reg)) (fl : FFlags) : (s.complete p i w fl).envs = s.envs := rfl
@[simp] theorem State.copyEngines_complete (p i : Nat) (w : List (Nat × Reg)) (fl : FFlags) : (s.complete p i w fl).copyEngines = s.copyEngines := rfl
@[simp] theorem State.events_complete (p i : Nat) (w : List (Nat × Reg)) (fl : FFlags) : (s.complete p i w fl).events = s.events := rfl
@[simp] theorem State.ctxs_complete (p i : Nat) (w : List (Nat × Reg)) (fl : FFlags) : (s.complete p i w fl).ctxs = s.ctxs := rfl
@[simp] theorem State.queues_complete (p i : Nat) (w : List (Nat × Reg)) (fl : FFlags) : (s.complete p i w fl).queues = s.queues := rfl
@[simp] theorem State.launches_complete (p i : Nat) (w : List (Nat × Reg)) (fl : FFlags) : (s.complete p i w fl).launches = s.launches := rfl
@[simp] theorem State.hanks_complete (p i : Nat) (w : List (Nat × Reg)) (fl : FFlags) : (s.complete p i w fl).hanks = s.hanks := rfl
@[simp] theorem State.moves_complete (p i : Nat) (w : List (Nat × Reg)) (fl : FFlags) : (s.complete p i w fl).moves = s.moves := rfl
@[simp] theorem State.cycles_complete (p i : Nat) (w : List (Nat × Reg)) (fl : FFlags) : (s.complete p i w fl).cycles = s.cycles := rfl
@[simp] theorem State.focus_complete (p i : Nat) (w : List (Nat × Reg)) (fl : FFlags) : (s.complete p i w fl).focus = s.focus := rfl
@[simp] theorem State.stepping_complete (p i : Nat) (w : List (Nat × Reg)) (fl : FFlags) : (s.complete p i w fl).stepping = s.stepping := rfl
@[simp] theorem State.mode_complete (p i : Nat) (w : List (Nat × Reg)) (fl : FFlags) : (s.complete p i w fl).mode = s.mode := rfl
@[simp] theorem State.boot_complete (p i : Nat) (w : List (Nat × Reg)) (fl : FFlags) : (s.complete p i w fl).boot = s.boot := rfl
@[simp] theorem State.bootWork_complete (p i : Nat) (w : List (Nat × Reg)) (fl : FFlags) : (s.complete p i w fl).bootWork = s.bootWork := rfl

/-! ## modBraid -/

@[simp] theorem State.mem_modBraid (b : Nat) (f : Braid → Braid) : (s.modBraid b f).mem = s.mem := rfl
@[simp] theorem State.full_modBraid (b : Nat) (f : Braid → Braid) : (s.modBraid b f).full = s.full := rfl
@[simp] theorem State.early_modBraid (b : Nat) (f : Braid → Braid) : (s.modBraid b f).early = s.early := rfl
@[simp] theorem State.upsets_modBraid (b : Nat) (f : Braid → Braid) : (s.modBraid b f).upsets = s.upsets := rfl
@[simp] theorem State.busErrors_modBraid (b : Nat) (f : Braid → Braid) : (s.modBraid b f).busErrors = s.busErrors := rfl
@[simp] theorem State.spoiled_modBraid (b : Nat) (f : Braid → Braid) : (s.modBraid b f).spoiled = s.spoiled := rfl
@[simp] theorem State.strands_modBraid (b : Nat) (f : Braid → Braid) : (s.modBraid b f).strands = s.strands := rfl
@[simp] theorem State.quarters_modBraid (b : Nat) (f : Braid → Braid) : (s.modBraid b f).quarters = s.quarters := rfl
@[simp] theorem State.banks_modBraid (b : Nat) (f : Braid → Braid) : (s.modBraid b f).banks = s.banks := rfl
@[simp] theorem State.knots_modBraid (b : Nat) (f : Braid → Braid) : (s.modBraid b f).knots = s.knots := rfl
@[simp] theorem State.tiles_modBraid (b : Nat) (f : Braid → Braid) : (s.modBraid b f).tiles = s.tiles := rfl
@[simp] theorem State.barriers_modBraid (b : Nat) (f : Braid → Braid) : (s.modBraid b f).barriers = s.barriers := rfl
@[simp] theorem State.envs_modBraid (b : Nat) (f : Braid → Braid) : (s.modBraid b f).envs = s.envs := rfl
@[simp] theorem State.copyEngines_modBraid (b : Nat) (f : Braid → Braid) : (s.modBraid b f).copyEngines = s.copyEngines := rfl
@[simp] theorem State.events_modBraid (b : Nat) (f : Braid → Braid) : (s.modBraid b f).events = s.events := rfl
@[simp] theorem State.ctxs_modBraid (b : Nat) (f : Braid → Braid) : (s.modBraid b f).ctxs = s.ctxs := rfl
@[simp] theorem State.queues_modBraid (b : Nat) (f : Braid → Braid) : (s.modBraid b f).queues = s.queues := rfl
@[simp] theorem State.launches_modBraid (b : Nat) (f : Braid → Braid) : (s.modBraid b f).launches = s.launches := rfl
@[simp] theorem State.hanks_modBraid (b : Nat) (f : Braid → Braid) : (s.modBraid b f).hanks = s.hanks := rfl
@[simp] theorem State.moves_modBraid (b : Nat) (f : Braid → Braid) : (s.modBraid b f).moves = s.moves := rfl
@[simp] theorem State.cycles_modBraid (b : Nat) (f : Braid → Braid) : (s.modBraid b f).cycles = s.cycles := rfl
@[simp] theorem State.focus_modBraid (b : Nat) (f : Braid → Braid) : (s.modBraid b f).focus = s.focus := rfl
@[simp] theorem State.stepping_modBraid (b : Nat) (f : Braid → Braid) : (s.modBraid b f).stepping = s.stepping := rfl
@[simp] theorem State.mode_modBraid (b : Nat) (f : Braid → Braid) : (s.modBraid b f).mode = s.mode := rfl
@[simp] theorem State.boot_modBraid (b : Nat) (f : Braid → Braid) : (s.modBraid b f).boot = s.boot := rfl
@[simp] theorem State.bootWork_modBraid (b : Nat) (f : Braid → Braid) : (s.modBraid b f).bootWork = s.bootWork := rfl

/-! ## setQuarter -/

@[simp] theorem State.mem_setQuarter (q : Nat) (x : Quarter) : (s.setQuarter q x).mem = s.mem := rfl
@[simp] theorem State.full_setQuarter (q : Nat) (x : Quarter) : (s.setQuarter q x).full = s.full := rfl
@[simp] theorem State.early_setQuarter (q : Nat) (x : Quarter) : (s.setQuarter q x).early = s.early := rfl
@[simp] theorem State.upsets_setQuarter (q : Nat) (x : Quarter) : (s.setQuarter q x).upsets = s.upsets := rfl
@[simp] theorem State.busErrors_setQuarter (q : Nat) (x : Quarter) : (s.setQuarter q x).busErrors = s.busErrors := rfl
@[simp] theorem State.spoiled_setQuarter (q : Nat) (x : Quarter) : (s.setQuarter q x).spoiled = s.spoiled := rfl
@[simp] theorem State.strands_setQuarter (q : Nat) (x : Quarter) : (s.setQuarter q x).strands = s.strands := rfl
@[simp] theorem State.braids_setQuarter (q : Nat) (x : Quarter) : (s.setQuarter q x).braids = s.braids := rfl
@[simp] theorem State.banks_setQuarter (q : Nat) (x : Quarter) : (s.setQuarter q x).banks = s.banks := rfl
@[simp] theorem State.knots_setQuarter (q : Nat) (x : Quarter) : (s.setQuarter q x).knots = s.knots := rfl
@[simp] theorem State.tiles_setQuarter (q : Nat) (x : Quarter) : (s.setQuarter q x).tiles = s.tiles := rfl
@[simp] theorem State.barriers_setQuarter (q : Nat) (x : Quarter) : (s.setQuarter q x).barriers = s.barriers := rfl
@[simp] theorem State.envs_setQuarter (q : Nat) (x : Quarter) : (s.setQuarter q x).envs = s.envs := rfl
@[simp] theorem State.copyEngines_setQuarter (q : Nat) (x : Quarter) : (s.setQuarter q x).copyEngines = s.copyEngines := rfl
@[simp] theorem State.events_setQuarter (q : Nat) (x : Quarter) : (s.setQuarter q x).events = s.events := rfl
@[simp] theorem State.ctxs_setQuarter (q : Nat) (x : Quarter) : (s.setQuarter q x).ctxs = s.ctxs := rfl
@[simp] theorem State.queues_setQuarter (q : Nat) (x : Quarter) : (s.setQuarter q x).queues = s.queues := rfl
@[simp] theorem State.launches_setQuarter (q : Nat) (x : Quarter) : (s.setQuarter q x).launches = s.launches := rfl
@[simp] theorem State.hanks_setQuarter (q : Nat) (x : Quarter) : (s.setQuarter q x).hanks = s.hanks := rfl
@[simp] theorem State.moves_setQuarter (q : Nat) (x : Quarter) : (s.setQuarter q x).moves = s.moves := rfl
@[simp] theorem State.cycles_setQuarter (q : Nat) (x : Quarter) : (s.setQuarter q x).cycles = s.cycles := rfl
@[simp] theorem State.focus_setQuarter (q : Nat) (x : Quarter) : (s.setQuarter q x).focus = s.focus := rfl
@[simp] theorem State.stepping_setQuarter (q : Nat) (x : Quarter) : (s.setQuarter q x).stepping = s.stepping := rfl
@[simp] theorem State.mode_setQuarter (q : Nat) (x : Quarter) : (s.setQuarter q x).mode = s.mode := rfl
@[simp] theorem State.boot_setQuarter (q : Nat) (x : Quarter) : (s.setQuarter q x).boot = s.boot := rfl
@[simp] theorem State.bootWork_setQuarter (q : Nat) (x : Quarter) : (s.setQuarter q x).bootWork = s.bootWork := rfl

/-! ## setCur -/

@[simp] theorem State.mem_setCur (x : Issue) : (s.setCur x).mem = s.mem := rfl
@[simp] theorem State.full_setCur (x : Issue) : (s.setCur x).full = s.full := rfl
@[simp] theorem State.early_setCur (x : Issue) : (s.setCur x).early = s.early := rfl
@[simp] theorem State.upsets_setCur (x : Issue) : (s.setCur x).upsets = s.upsets := rfl
@[simp] theorem State.busErrors_setCur (x : Issue) : (s.setCur x).busErrors = s.busErrors := rfl
@[simp] theorem State.spoiled_setCur (x : Issue) : (s.setCur x).spoiled = s.spoiled := rfl
@[simp] theorem State.strands_setCur (x : Issue) : (s.setCur x).strands = s.strands := rfl
@[simp] theorem State.braids_setCur (x : Issue) : (s.setCur x).braids = s.braids := rfl
@[simp] theorem State.banks_setCur (x : Issue) : (s.setCur x).banks = s.banks := rfl
@[simp] theorem State.knots_setCur (x : Issue) : (s.setCur x).knots = s.knots := rfl
@[simp] theorem State.tiles_setCur (x : Issue) : (s.setCur x).tiles = s.tiles := rfl
@[simp] theorem State.barriers_setCur (x : Issue) : (s.setCur x).barriers = s.barriers := rfl
@[simp] theorem State.envs_setCur (x : Issue) : (s.setCur x).envs = s.envs := rfl
@[simp] theorem State.copyEngines_setCur (x : Issue) : (s.setCur x).copyEngines = s.copyEngines := rfl
@[simp] theorem State.events_setCur (x : Issue) : (s.setCur x).events = s.events := rfl
@[simp] theorem State.ctxs_setCur (x : Issue) : (s.setCur x).ctxs = s.ctxs := rfl
@[simp] theorem State.queues_setCur (x : Issue) : (s.setCur x).queues = s.queues := rfl
@[simp] theorem State.launches_setCur (x : Issue) : (s.setCur x).launches = s.launches := rfl
@[simp] theorem State.hanks_setCur (x : Issue) : (s.setCur x).hanks = s.hanks := rfl
@[simp] theorem State.moves_setCur (x : Issue) : (s.setCur x).moves = s.moves := rfl
@[simp] theorem State.cycles_setCur (x : Issue) : (s.setCur x).cycles = s.cycles := rfl
@[simp] theorem State.focus_setCur (x : Issue) : (s.setCur x).focus = s.focus := rfl
@[simp] theorem State.stepping_setCur (x : Issue) : (s.setCur x).stepping = s.stepping := rfl
@[simp] theorem State.mode_setCur (x : Issue) : (s.setCur x).mode = s.mode := rfl
@[simp] theorem State.boot_setCur (x : Issue) : (s.setCur x).boot = s.boot := rfl
@[simp] theorem State.bootWork_setCur (x : Issue) : (s.setCur x).bootWork = s.bootWork := rfl

/-! ## modCtx -/

@[simp] theorem State.mem_modCtx (n : Nat) (f : Ctx → Ctx) : (s.modCtx n f).mem = s.mem := rfl
@[simp] theorem State.full_modCtx (n : Nat) (f : Ctx → Ctx) : (s.modCtx n f).full = s.full := rfl
@[simp] theorem State.early_modCtx (n : Nat) (f : Ctx → Ctx) : (s.modCtx n f).early = s.early := rfl
@[simp] theorem State.upsets_modCtx (n : Nat) (f : Ctx → Ctx) : (s.modCtx n f).upsets = s.upsets := rfl
@[simp] theorem State.busErrors_modCtx (n : Nat) (f : Ctx → Ctx) : (s.modCtx n f).busErrors = s.busErrors := rfl
@[simp] theorem State.spoiled_modCtx (n : Nat) (f : Ctx → Ctx) : (s.modCtx n f).spoiled = s.spoiled := rfl
@[simp] theorem State.strands_modCtx (n : Nat) (f : Ctx → Ctx) : (s.modCtx n f).strands = s.strands := rfl
@[simp] theorem State.braids_modCtx (n : Nat) (f : Ctx → Ctx) : (s.modCtx n f).braids = s.braids := rfl
@[simp] theorem State.quarters_modCtx (n : Nat) (f : Ctx → Ctx) : (s.modCtx n f).quarters = s.quarters := rfl
@[simp] theorem State.banks_modCtx (n : Nat) (f : Ctx → Ctx) : (s.modCtx n f).banks = s.banks := rfl
@[simp] theorem State.knots_modCtx (n : Nat) (f : Ctx → Ctx) : (s.modCtx n f).knots = s.knots := rfl
@[simp] theorem State.tiles_modCtx (n : Nat) (f : Ctx → Ctx) : (s.modCtx n f).tiles = s.tiles := rfl
@[simp] theorem State.barriers_modCtx (n : Nat) (f : Ctx → Ctx) : (s.modCtx n f).barriers = s.barriers := rfl
@[simp] theorem State.envs_modCtx (n : Nat) (f : Ctx → Ctx) : (s.modCtx n f).envs = s.envs := rfl
@[simp] theorem State.copyEngines_modCtx (n : Nat) (f : Ctx → Ctx) : (s.modCtx n f).copyEngines = s.copyEngines := rfl
@[simp] theorem State.events_modCtx (n : Nat) (f : Ctx → Ctx) : (s.modCtx n f).events = s.events := rfl
@[simp] theorem State.queues_modCtx (n : Nat) (f : Ctx → Ctx) : (s.modCtx n f).queues = s.queues := rfl
@[simp] theorem State.launches_modCtx (n : Nat) (f : Ctx → Ctx) : (s.modCtx n f).launches = s.launches := rfl
@[simp] theorem State.hanks_modCtx (n : Nat) (f : Ctx → Ctx) : (s.modCtx n f).hanks = s.hanks := rfl
@[simp] theorem State.moves_modCtx (n : Nat) (f : Ctx → Ctx) : (s.modCtx n f).moves = s.moves := rfl
@[simp] theorem State.cycles_modCtx (n : Nat) (f : Ctx → Ctx) : (s.modCtx n f).cycles = s.cycles := rfl
@[simp] theorem State.focus_modCtx (n : Nat) (f : Ctx → Ctx) : (s.modCtx n f).focus = s.focus := rfl
@[simp] theorem State.stepping_modCtx (n : Nat) (f : Ctx → Ctx) : (s.modCtx n f).stepping = s.stepping := rfl
@[simp] theorem State.mode_modCtx (n : Nat) (f : Ctx → Ctx) : (s.modCtx n f).mode = s.mode := rfl
@[simp] theorem State.boot_modCtx (n : Nat) (f : Ctx → Ctx) : (s.modCtx n f).boot = s.boot := rfl
@[simp] theorem State.bootWork_modCtx (n : Nat) (f : Ctx → Ctx) : (s.modCtx n f).bootWork = s.bootWork := rfl

/-! ## modBank -/

@[simp] theorem State.mem_modBank (b : Nat) (f : Bank → Bank) : (s.modBank b f).mem = s.mem := rfl
@[simp] theorem State.full_modBank (b : Nat) (f : Bank → Bank) : (s.modBank b f).full = s.full := rfl
@[simp] theorem State.early_modBank (b : Nat) (f : Bank → Bank) : (s.modBank b f).early = s.early := rfl
@[simp] theorem State.upsets_modBank (b : Nat) (f : Bank → Bank) : (s.modBank b f).upsets = s.upsets := rfl
@[simp] theorem State.busErrors_modBank (b : Nat) (f : Bank → Bank) : (s.modBank b f).busErrors = s.busErrors := rfl
@[simp] theorem State.spoiled_modBank (b : Nat) (f : Bank → Bank) : (s.modBank b f).spoiled = s.spoiled := rfl
@[simp] theorem State.strands_modBank (b : Nat) (f : Bank → Bank) : (s.modBank b f).strands = s.strands := rfl
@[simp] theorem State.braids_modBank (b : Nat) (f : Bank → Bank) : (s.modBank b f).braids = s.braids := rfl
@[simp] theorem State.quarters_modBank (b : Nat) (f : Bank → Bank) : (s.modBank b f).quarters = s.quarters := rfl
@[simp] theorem State.knots_modBank (b : Nat) (f : Bank → Bank) : (s.modBank b f).knots = s.knots := rfl
@[simp] theorem State.tiles_modBank (b : Nat) (f : Bank → Bank) : (s.modBank b f).tiles = s.tiles := rfl
@[simp] theorem State.barriers_modBank (b : Nat) (f : Bank → Bank) : (s.modBank b f).barriers = s.barriers := rfl
@[simp] theorem State.envs_modBank (b : Nat) (f : Bank → Bank) : (s.modBank b f).envs = s.envs := rfl
@[simp] theorem State.copyEngines_modBank (b : Nat) (f : Bank → Bank) : (s.modBank b f).copyEngines = s.copyEngines := rfl
@[simp] theorem State.events_modBank (b : Nat) (f : Bank → Bank) : (s.modBank b f).events = s.events := rfl
@[simp] theorem State.ctxs_modBank (b : Nat) (f : Bank → Bank) : (s.modBank b f).ctxs = s.ctxs := rfl
@[simp] theorem State.queues_modBank (b : Nat) (f : Bank → Bank) : (s.modBank b f).queues = s.queues := rfl
@[simp] theorem State.launches_modBank (b : Nat) (f : Bank → Bank) : (s.modBank b f).launches = s.launches := rfl
@[simp] theorem State.hanks_modBank (b : Nat) (f : Bank → Bank) : (s.modBank b f).hanks = s.hanks := rfl
@[simp] theorem State.moves_modBank (b : Nat) (f : Bank → Bank) : (s.modBank b f).moves = s.moves := rfl
@[simp] theorem State.cycles_modBank (b : Nat) (f : Bank → Bank) : (s.modBank b f).cycles = s.cycles := rfl
@[simp] theorem State.focus_modBank (b : Nat) (f : Bank → Bank) : (s.modBank b f).focus = s.focus := rfl
@[simp] theorem State.stepping_modBank (b : Nat) (f : Bank → Bank) : (s.modBank b f).stepping = s.stepping := rfl
@[simp] theorem State.mode_modBank (b : Nat) (f : Bank → Bank) : (s.modBank b f).mode = s.mode := rfl
@[simp] theorem State.boot_modBank (b : Nat) (f : Bank → Bank) : (s.modBank b f).boot = s.boot := rfl
@[simp] theorem State.bootWork_modBank (b : Nat) (f : Bank → Bank) : (s.modBank b f).bootWork = s.bootWork := rfl

/-! ## setFull -/

@[simp] theorem State.mem_setFull (k : Nat) (b : Bool) : (s.setFull k b).mem = s.mem := rfl
@[simp] theorem State.early_setFull (k : Nat) (b : Bool) : (s.setFull k b).early = s.early := rfl
@[simp] theorem State.upsets_setFull (k : Nat) (b : Bool) : (s.setFull k b).upsets = s.upsets := rfl
@[simp] theorem State.busErrors_setFull (k : Nat) (b : Bool) : (s.setFull k b).busErrors = s.busErrors := rfl
@[simp] theorem State.spoiled_setFull (k : Nat) (b : Bool) : (s.setFull k b).spoiled = s.spoiled := rfl
@[simp] theorem State.strands_setFull (k : Nat) (b : Bool) : (s.setFull k b).strands = s.strands := rfl
@[simp] theorem State.braids_setFull (k : Nat) (b : Bool) : (s.setFull k b).braids = s.braids := rfl
@[simp] theorem State.quarters_setFull (k : Nat) (b : Bool) : (s.setFull k b).quarters = s.quarters := rfl
@[simp] theorem State.banks_setFull (k : Nat) (b : Bool) : (s.setFull k b).banks = s.banks := rfl
@[simp] theorem State.knots_setFull (k : Nat) (b : Bool) : (s.setFull k b).knots = s.knots := rfl
@[simp] theorem State.tiles_setFull (k : Nat) (b : Bool) : (s.setFull k b).tiles = s.tiles := rfl
@[simp] theorem State.barriers_setFull (k : Nat) (b : Bool) : (s.setFull k b).barriers = s.barriers := rfl
@[simp] theorem State.envs_setFull (k : Nat) (b : Bool) : (s.setFull k b).envs = s.envs := rfl
@[simp] theorem State.copyEngines_setFull (k : Nat) (b : Bool) : (s.setFull k b).copyEngines = s.copyEngines := rfl
@[simp] theorem State.events_setFull (k : Nat) (b : Bool) : (s.setFull k b).events = s.events := rfl
@[simp] theorem State.ctxs_setFull (k : Nat) (b : Bool) : (s.setFull k b).ctxs = s.ctxs := rfl
@[simp] theorem State.queues_setFull (k : Nat) (b : Bool) : (s.setFull k b).queues = s.queues := rfl
@[simp] theorem State.launches_setFull (k : Nat) (b : Bool) : (s.setFull k b).launches = s.launches := rfl
@[simp] theorem State.hanks_setFull (k : Nat) (b : Bool) : (s.setFull k b).hanks = s.hanks := rfl
@[simp] theorem State.moves_setFull (k : Nat) (b : Bool) : (s.setFull k b).moves = s.moves := rfl
@[simp] theorem State.cycles_setFull (k : Nat) (b : Bool) : (s.setFull k b).cycles = s.cycles := rfl
@[simp] theorem State.focus_setFull (k : Nat) (b : Bool) : (s.setFull k b).focus = s.focus := rfl
@[simp] theorem State.stepping_setFull (k : Nat) (b : Bool) : (s.setFull k b).stepping = s.stepping := rfl
@[simp] theorem State.mode_setFull (k : Nat) (b : Bool) : (s.setFull k b).mode = s.mode := rfl
@[simp] theorem State.boot_setFull (k : Nat) (b : Bool) : (s.setFull k b).boot = s.boot := rfl
@[simp] theorem State.bootWork_setFull (k : Nat) (b : Bool) : (s.setFull k b).bootWork = s.bootWork := rfl

/-! ## setBarrier -/

@[simp] theorem State.mem_setBarrier (k : Nat) (x : Barrier) : (s.setBarrier k x).mem = s.mem := rfl
@[simp] theorem State.full_setBarrier (k : Nat) (x : Barrier) : (s.setBarrier k x).full = s.full := rfl
@[simp] theorem State.early_setBarrier (k : Nat) (x : Barrier) : (s.setBarrier k x).early = s.early := rfl
@[simp] theorem State.upsets_setBarrier (k : Nat) (x : Barrier) : (s.setBarrier k x).upsets = s.upsets := rfl
@[simp] theorem State.busErrors_setBarrier (k : Nat) (x : Barrier) : (s.setBarrier k x).busErrors = s.busErrors := rfl
@[simp] theorem State.spoiled_setBarrier (k : Nat) (x : Barrier) : (s.setBarrier k x).spoiled = s.spoiled := rfl
@[simp] theorem State.strands_setBarrier (k : Nat) (x : Barrier) : (s.setBarrier k x).strands = s.strands := rfl
@[simp] theorem State.braids_setBarrier (k : Nat) (x : Barrier) : (s.setBarrier k x).braids = s.braids := rfl
@[simp] theorem State.quarters_setBarrier (k : Nat) (x : Barrier) : (s.setBarrier k x).quarters = s.quarters := rfl
@[simp] theorem State.banks_setBarrier (k : Nat) (x : Barrier) : (s.setBarrier k x).banks = s.banks := rfl
@[simp] theorem State.knots_setBarrier (k : Nat) (x : Barrier) : (s.setBarrier k x).knots = s.knots := rfl
@[simp] theorem State.tiles_setBarrier (k : Nat) (x : Barrier) : (s.setBarrier k x).tiles = s.tiles := rfl
@[simp] theorem State.envs_setBarrier (k : Nat) (x : Barrier) : (s.setBarrier k x).envs = s.envs := rfl
@[simp] theorem State.copyEngines_setBarrier (k : Nat) (x : Barrier) : (s.setBarrier k x).copyEngines = s.copyEngines := rfl
@[simp] theorem State.events_setBarrier (k : Nat) (x : Barrier) : (s.setBarrier k x).events = s.events := rfl
@[simp] theorem State.ctxs_setBarrier (k : Nat) (x : Barrier) : (s.setBarrier k x).ctxs = s.ctxs := rfl
@[simp] theorem State.queues_setBarrier (k : Nat) (x : Barrier) : (s.setBarrier k x).queues = s.queues := rfl
@[simp] theorem State.launches_setBarrier (k : Nat) (x : Barrier) : (s.setBarrier k x).launches = s.launches := rfl
@[simp] theorem State.hanks_setBarrier (k : Nat) (x : Barrier) : (s.setBarrier k x).hanks = s.hanks := rfl
@[simp] theorem State.moves_setBarrier (k : Nat) (x : Barrier) : (s.setBarrier k x).moves = s.moves := rfl
@[simp] theorem State.cycles_setBarrier (k : Nat) (x : Barrier) : (s.setBarrier k x).cycles = s.cycles := rfl
@[simp] theorem State.focus_setBarrier (k : Nat) (x : Barrier) : (s.setBarrier k x).focus = s.focus := rfl
@[simp] theorem State.stepping_setBarrier (k : Nat) (x : Barrier) : (s.setBarrier k x).stepping = s.stepping := rfl
@[simp] theorem State.mode_setBarrier (k : Nat) (x : Barrier) : (s.setBarrier k x).mode = s.mode := rfl
@[simp] theorem State.boot_setBarrier (k : Nat) (x : Barrier) : (s.setBarrier k x).boot = s.boot := rfl
@[simp] theorem State.bootWork_setBarrier (k : Nat) (x : Barrier) : (s.setBarrier k x).bootWork = s.bootWork := rfl

/-! ## setKnot -/

@[simp] theorem State.mem_setKnot (k : Nat) (x : Knot) : (s.setKnot k x).mem = s.mem := rfl
@[simp] theorem State.full_setKnot (k : Nat) (x : Knot) : (s.setKnot k x).full = s.full := rfl
@[simp] theorem State.early_setKnot (k : Nat) (x : Knot) : (s.setKnot k x).early = s.early := rfl
@[simp] theorem State.upsets_setKnot (k : Nat) (x : Knot) : (s.setKnot k x).upsets = s.upsets := rfl
@[simp] theorem State.busErrors_setKnot (k : Nat) (x : Knot) : (s.setKnot k x).busErrors = s.busErrors := rfl
@[simp] theorem State.spoiled_setKnot (k : Nat) (x : Knot) : (s.setKnot k x).spoiled = s.spoiled := rfl
@[simp] theorem State.strands_setKnot (k : Nat) (x : Knot) : (s.setKnot k x).strands = s.strands := rfl
@[simp] theorem State.braids_setKnot (k : Nat) (x : Knot) : (s.setKnot k x).braids = s.braids := rfl
@[simp] theorem State.quarters_setKnot (k : Nat) (x : Knot) : (s.setKnot k x).quarters = s.quarters := rfl
@[simp] theorem State.banks_setKnot (k : Nat) (x : Knot) : (s.setKnot k x).banks = s.banks := rfl
@[simp] theorem State.tiles_setKnot (k : Nat) (x : Knot) : (s.setKnot k x).tiles = s.tiles := rfl
@[simp] theorem State.barriers_setKnot (k : Nat) (x : Knot) : (s.setKnot k x).barriers = s.barriers := rfl
@[simp] theorem State.envs_setKnot (k : Nat) (x : Knot) : (s.setKnot k x).envs = s.envs := rfl
@[simp] theorem State.copyEngines_setKnot (k : Nat) (x : Knot) : (s.setKnot k x).copyEngines = s.copyEngines := rfl
@[simp] theorem State.events_setKnot (k : Nat) (x : Knot) : (s.setKnot k x).events = s.events := rfl
@[simp] theorem State.ctxs_setKnot (k : Nat) (x : Knot) : (s.setKnot k x).ctxs = s.ctxs := rfl
@[simp] theorem State.queues_setKnot (k : Nat) (x : Knot) : (s.setKnot k x).queues = s.queues := rfl
@[simp] theorem State.launches_setKnot (k : Nat) (x : Knot) : (s.setKnot k x).launches = s.launches := rfl
@[simp] theorem State.hanks_setKnot (k : Nat) (x : Knot) : (s.setKnot k x).hanks = s.hanks := rfl
@[simp] theorem State.moves_setKnot (k : Nat) (x : Knot) : (s.setKnot k x).moves = s.moves := rfl
@[simp] theorem State.cycles_setKnot (k : Nat) (x : Knot) : (s.setKnot k x).cycles = s.cycles := rfl
@[simp] theorem State.focus_setKnot (k : Nat) (x : Knot) : (s.setKnot k x).focus = s.focus := rfl
@[simp] theorem State.stepping_setKnot (k : Nat) (x : Knot) : (s.setKnot k x).stepping = s.stepping := rfl
@[simp] theorem State.mode_setKnot (k : Nat) (x : Knot) : (s.setKnot k x).mode = s.mode := rfl
@[simp] theorem State.boot_setKnot (k : Nat) (x : Knot) : (s.setKnot k x).boot = s.boot := rfl
@[simp] theorem State.bootWork_setKnot (k : Nat) (x : Knot) : (s.setKnot k x).bootWork = s.bootWork := rfl

/-! ## setTile -/

@[simp] theorem State.mem_setTile (k : Nat) (x : Tile) : (s.setTile k x).mem = s.mem := rfl
@[simp] theorem State.full_setTile (k : Nat) (x : Tile) : (s.setTile k x).full = s.full := rfl
@[simp] theorem State.early_setTile (k : Nat) (x : Tile) : (s.setTile k x).early = s.early := rfl
@[simp] theorem State.upsets_setTile (k : Nat) (x : Tile) : (s.setTile k x).upsets = s.upsets := rfl
@[simp] theorem State.busErrors_setTile (k : Nat) (x : Tile) : (s.setTile k x).busErrors = s.busErrors := rfl
@[simp] theorem State.spoiled_setTile (k : Nat) (x : Tile) : (s.setTile k x).spoiled = s.spoiled := rfl
@[simp] theorem State.strands_setTile (k : Nat) (x : Tile) : (s.setTile k x).strands = s.strands := rfl
@[simp] theorem State.braids_setTile (k : Nat) (x : Tile) : (s.setTile k x).braids = s.braids := rfl
@[simp] theorem State.quarters_setTile (k : Nat) (x : Tile) : (s.setTile k x).quarters = s.quarters := rfl
@[simp] theorem State.banks_setTile (k : Nat) (x : Tile) : (s.setTile k x).banks = s.banks := rfl
@[simp] theorem State.knots_setTile (k : Nat) (x : Tile) : (s.setTile k x).knots = s.knots := rfl
@[simp] theorem State.barriers_setTile (k : Nat) (x : Tile) : (s.setTile k x).barriers = s.barriers := rfl
@[simp] theorem State.envs_setTile (k : Nat) (x : Tile) : (s.setTile k x).envs = s.envs := rfl
@[simp] theorem State.copyEngines_setTile (k : Nat) (x : Tile) : (s.setTile k x).copyEngines = s.copyEngines := rfl
@[simp] theorem State.events_setTile (k : Nat) (x : Tile) : (s.setTile k x).events = s.events := rfl
@[simp] theorem State.ctxs_setTile (k : Nat) (x : Tile) : (s.setTile k x).ctxs = s.ctxs := rfl
@[simp] theorem State.queues_setTile (k : Nat) (x : Tile) : (s.setTile k x).queues = s.queues := rfl
@[simp] theorem State.launches_setTile (k : Nat) (x : Tile) : (s.setTile k x).launches = s.launches := rfl
@[simp] theorem State.hanks_setTile (k : Nat) (x : Tile) : (s.setTile k x).hanks = s.hanks := rfl
@[simp] theorem State.moves_setTile (k : Nat) (x : Tile) : (s.setTile k x).moves = s.moves := rfl
@[simp] theorem State.cycles_setTile (k : Nat) (x : Tile) : (s.setTile k x).cycles = s.cycles := rfl
@[simp] theorem State.focus_setTile (k : Nat) (x : Tile) : (s.setTile k x).focus = s.focus := rfl
@[simp] theorem State.stepping_setTile (k : Nat) (x : Tile) : (s.setTile k x).stepping = s.stepping := rfl
@[simp] theorem State.mode_setTile (k : Nat) (x : Tile) : (s.setTile k x).mode = s.mode := rfl
@[simp] theorem State.boot_setTile (k : Nat) (x : Tile) : (s.setTile k x).boot = s.boot := rfl
@[simp] theorem State.bootWork_setTile (k : Nat) (x : Tile) : (s.setTile k x).bootWork = s.bootWork := rfl

/-! ## setEnv -/

@[simp] theorem State.mem_setEnv (k : Nat) (x : Env) : (s.setEnv k x).mem = s.mem := rfl
@[simp] theorem State.full_setEnv (k : Nat) (x : Env) : (s.setEnv k x).full = s.full := rfl
@[simp] theorem State.early_setEnv (k : Nat) (x : Env) : (s.setEnv k x).early = s.early := rfl
@[simp] theorem State.upsets_setEnv (k : Nat) (x : Env) : (s.setEnv k x).upsets = s.upsets := rfl
@[simp] theorem State.busErrors_setEnv (k : Nat) (x : Env) : (s.setEnv k x).busErrors = s.busErrors := rfl
@[simp] theorem State.spoiled_setEnv (k : Nat) (x : Env) : (s.setEnv k x).spoiled = s.spoiled := rfl
@[simp] theorem State.strands_setEnv (k : Nat) (x : Env) : (s.setEnv k x).strands = s.strands := rfl
@[simp] theorem State.braids_setEnv (k : Nat) (x : Env) : (s.setEnv k x).braids = s.braids := rfl
@[simp] theorem State.quarters_setEnv (k : Nat) (x : Env) : (s.setEnv k x).quarters = s.quarters := rfl
@[simp] theorem State.banks_setEnv (k : Nat) (x : Env) : (s.setEnv k x).banks = s.banks := rfl
@[simp] theorem State.knots_setEnv (k : Nat) (x : Env) : (s.setEnv k x).knots = s.knots := rfl
@[simp] theorem State.tiles_setEnv (k : Nat) (x : Env) : (s.setEnv k x).tiles = s.tiles := rfl
@[simp] theorem State.barriers_setEnv (k : Nat) (x : Env) : (s.setEnv k x).barriers = s.barriers := rfl
@[simp] theorem State.copyEngines_setEnv (k : Nat) (x : Env) : (s.setEnv k x).copyEngines = s.copyEngines := rfl
@[simp] theorem State.events_setEnv (k : Nat) (x : Env) : (s.setEnv k x).events = s.events := rfl
@[simp] theorem State.ctxs_setEnv (k : Nat) (x : Env) : (s.setEnv k x).ctxs = s.ctxs := rfl
@[simp] theorem State.queues_setEnv (k : Nat) (x : Env) : (s.setEnv k x).queues = s.queues := rfl
@[simp] theorem State.launches_setEnv (k : Nat) (x : Env) : (s.setEnv k x).launches = s.launches := rfl
@[simp] theorem State.hanks_setEnv (k : Nat) (x : Env) : (s.setEnv k x).hanks = s.hanks := rfl
@[simp] theorem State.moves_setEnv (k : Nat) (x : Env) : (s.setEnv k x).moves = s.moves := rfl
@[simp] theorem State.cycles_setEnv (k : Nat) (x : Env) : (s.setEnv k x).cycles = s.cycles := rfl
@[simp] theorem State.focus_setEnv (k : Nat) (x : Env) : (s.setEnv k x).focus = s.focus := rfl
@[simp] theorem State.stepping_setEnv (k : Nat) (x : Env) : (s.setEnv k x).stepping = s.stepping := rfl
@[simp] theorem State.mode_setEnv (k : Nat) (x : Env) : (s.setEnv k x).mode = s.mode := rfl
@[simp] theorem State.boot_setEnv (k : Nat) (x : Env) : (s.setEnv k x).boot = s.boot := rfl
@[simp] theorem State.bootWork_setEnv (k : Nat) (x : Env) : (s.setEnv k x).bootWork = s.bootWork := rfl

/-! ## setEngine -/

@[simp] theorem State.mem_setEngine (c : Nat) (x : CopyEngine) : (s.setEngine c x).mem = s.mem := rfl
@[simp] theorem State.full_setEngine (c : Nat) (x : CopyEngine) : (s.setEngine c x).full = s.full := rfl
@[simp] theorem State.early_setEngine (c : Nat) (x : CopyEngine) : (s.setEngine c x).early = s.early := rfl
@[simp] theorem State.upsets_setEngine (c : Nat) (x : CopyEngine) : (s.setEngine c x).upsets = s.upsets := rfl
@[simp] theorem State.busErrors_setEngine (c : Nat) (x : CopyEngine) : (s.setEngine c x).busErrors = s.busErrors := rfl
@[simp] theorem State.spoiled_setEngine (c : Nat) (x : CopyEngine) : (s.setEngine c x).spoiled = s.spoiled := rfl
@[simp] theorem State.strands_setEngine (c : Nat) (x : CopyEngine) : (s.setEngine c x).strands = s.strands := rfl
@[simp] theorem State.braids_setEngine (c : Nat) (x : CopyEngine) : (s.setEngine c x).braids = s.braids := rfl
@[simp] theorem State.quarters_setEngine (c : Nat) (x : CopyEngine) : (s.setEngine c x).quarters = s.quarters := rfl
@[simp] theorem State.banks_setEngine (c : Nat) (x : CopyEngine) : (s.setEngine c x).banks = s.banks := rfl
@[simp] theorem State.knots_setEngine (c : Nat) (x : CopyEngine) : (s.setEngine c x).knots = s.knots := rfl
@[simp] theorem State.tiles_setEngine (c : Nat) (x : CopyEngine) : (s.setEngine c x).tiles = s.tiles := rfl
@[simp] theorem State.barriers_setEngine (c : Nat) (x : CopyEngine) : (s.setEngine c x).barriers = s.barriers := rfl
@[simp] theorem State.envs_setEngine (c : Nat) (x : CopyEngine) : (s.setEngine c x).envs = s.envs := rfl
@[simp] theorem State.events_setEngine (c : Nat) (x : CopyEngine) : (s.setEngine c x).events = s.events := rfl
@[simp] theorem State.ctxs_setEngine (c : Nat) (x : CopyEngine) : (s.setEngine c x).ctxs = s.ctxs := rfl
@[simp] theorem State.queues_setEngine (c : Nat) (x : CopyEngine) : (s.setEngine c x).queues = s.queues := rfl
@[simp] theorem State.launches_setEngine (c : Nat) (x : CopyEngine) : (s.setEngine c x).launches = s.launches := rfl
@[simp] theorem State.hanks_setEngine (c : Nat) (x : CopyEngine) : (s.setEngine c x).hanks = s.hanks := rfl
@[simp] theorem State.moves_setEngine (c : Nat) (x : CopyEngine) : (s.setEngine c x).moves = s.moves := rfl
@[simp] theorem State.cycles_setEngine (c : Nat) (x : CopyEngine) : (s.setEngine c x).cycles = s.cycles := rfl
@[simp] theorem State.focus_setEngine (c : Nat) (x : CopyEngine) : (s.setEngine c x).focus = s.focus := rfl
@[simp] theorem State.stepping_setEngine (c : Nat) (x : CopyEngine) : (s.setEngine c x).stepping = s.stepping := rfl
@[simp] theorem State.mode_setEngine (c : Nat) (x : CopyEngine) : (s.setEngine c x).mode = s.mode := rfl
@[simp] theorem State.boot_setEngine (c : Nat) (x : CopyEngine) : (s.setEngine c x).boot = s.boot := rfl
@[simp] theorem State.bootWork_setEngine (c : Nat) (x : CopyEngine) : (s.setEngine c x).bootWork = s.bootWork := rfl

/-! ## modQueue -/

@[simp] theorem State.mem_modQueue (q : Nat) (f : Queue → Queue) : (s.modQueue q f).mem = s.mem := rfl
@[simp] theorem State.full_modQueue (q : Nat) (f : Queue → Queue) : (s.modQueue q f).full = s.full := rfl
@[simp] theorem State.early_modQueue (q : Nat) (f : Queue → Queue) : (s.modQueue q f).early = s.early := rfl
@[simp] theorem State.upsets_modQueue (q : Nat) (f : Queue → Queue) : (s.modQueue q f).upsets = s.upsets := rfl
@[simp] theorem State.busErrors_modQueue (q : Nat) (f : Queue → Queue) : (s.modQueue q f).busErrors = s.busErrors := rfl
@[simp] theorem State.spoiled_modQueue (q : Nat) (f : Queue → Queue) : (s.modQueue q f).spoiled = s.spoiled := rfl
@[simp] theorem State.strands_modQueue (q : Nat) (f : Queue → Queue) : (s.modQueue q f).strands = s.strands := rfl
@[simp] theorem State.braids_modQueue (q : Nat) (f : Queue → Queue) : (s.modQueue q f).braids = s.braids := rfl
@[simp] theorem State.quarters_modQueue (q : Nat) (f : Queue → Queue) : (s.modQueue q f).quarters = s.quarters := rfl
@[simp] theorem State.banks_modQueue (q : Nat) (f : Queue → Queue) : (s.modQueue q f).banks = s.banks := rfl
@[simp] theorem State.knots_modQueue (q : Nat) (f : Queue → Queue) : (s.modQueue q f).knots = s.knots := rfl
@[simp] theorem State.tiles_modQueue (q : Nat) (f : Queue → Queue) : (s.modQueue q f).tiles = s.tiles := rfl
@[simp] theorem State.barriers_modQueue (q : Nat) (f : Queue → Queue) : (s.modQueue q f).barriers = s.barriers := rfl
@[simp] theorem State.envs_modQueue (q : Nat) (f : Queue → Queue) : (s.modQueue q f).envs = s.envs := rfl
@[simp] theorem State.copyEngines_modQueue (q : Nat) (f : Queue → Queue) : (s.modQueue q f).copyEngines = s.copyEngines := rfl
@[simp] theorem State.events_modQueue (q : Nat) (f : Queue → Queue) : (s.modQueue q f).events = s.events := rfl
@[simp] theorem State.ctxs_modQueue (q : Nat) (f : Queue → Queue) : (s.modQueue q f).ctxs = s.ctxs := rfl
@[simp] theorem State.launches_modQueue (q : Nat) (f : Queue → Queue) : (s.modQueue q f).launches = s.launches := rfl
@[simp] theorem State.hanks_modQueue (q : Nat) (f : Queue → Queue) : (s.modQueue q f).hanks = s.hanks := rfl
@[simp] theorem State.moves_modQueue (q : Nat) (f : Queue → Queue) : (s.modQueue q f).moves = s.moves := rfl
@[simp] theorem State.cycles_modQueue (q : Nat) (f : Queue → Queue) : (s.modQueue q f).cycles = s.cycles := rfl
@[simp] theorem State.focus_modQueue (q : Nat) (f : Queue → Queue) : (s.modQueue q f).focus = s.focus := rfl
@[simp] theorem State.stepping_modQueue (q : Nat) (f : Queue → Queue) : (s.modQueue q f).stepping = s.stepping := rfl
@[simp] theorem State.mode_modQueue (q : Nat) (f : Queue → Queue) : (s.modQueue q f).mode = s.mode := rfl
@[simp] theorem State.boot_modQueue (q : Nat) (f : Queue → Queue) : (s.modQueue q f).boot = s.boot := rfl
@[simp] theorem State.bootWork_modQueue (q : Nat) (f : Queue → Queue) : (s.modQueue q f).bootWork = s.bootWork := rfl

/-! ## pushEvent -/

@[simp] theorem State.mem_pushEvent (c : Nat) (e : CoreEvent) : (s.pushEvent c e).mem = s.mem := rfl
@[simp] theorem State.full_pushEvent (c : Nat) (e : CoreEvent) : (s.pushEvent c e).full = s.full := rfl
@[simp] theorem State.early_pushEvent (c : Nat) (e : CoreEvent) : (s.pushEvent c e).early = s.early := rfl
@[simp] theorem State.upsets_pushEvent (c : Nat) (e : CoreEvent) : (s.pushEvent c e).upsets = s.upsets := rfl
@[simp] theorem State.busErrors_pushEvent (c : Nat) (e : CoreEvent) : (s.pushEvent c e).busErrors = s.busErrors := rfl
@[simp] theorem State.spoiled_pushEvent (c : Nat) (e : CoreEvent) : (s.pushEvent c e).spoiled = s.spoiled := rfl
@[simp] theorem State.strands_pushEvent (c : Nat) (e : CoreEvent) : (s.pushEvent c e).strands = s.strands := rfl
@[simp] theorem State.braids_pushEvent (c : Nat) (e : CoreEvent) : (s.pushEvent c e).braids = s.braids := rfl
@[simp] theorem State.quarters_pushEvent (c : Nat) (e : CoreEvent) : (s.pushEvent c e).quarters = s.quarters := rfl
@[simp] theorem State.banks_pushEvent (c : Nat) (e : CoreEvent) : (s.pushEvent c e).banks = s.banks := rfl
@[simp] theorem State.knots_pushEvent (c : Nat) (e : CoreEvent) : (s.pushEvent c e).knots = s.knots := rfl
@[simp] theorem State.tiles_pushEvent (c : Nat) (e : CoreEvent) : (s.pushEvent c e).tiles = s.tiles := rfl
@[simp] theorem State.barriers_pushEvent (c : Nat) (e : CoreEvent) : (s.pushEvent c e).barriers = s.barriers := rfl
@[simp] theorem State.envs_pushEvent (c : Nat) (e : CoreEvent) : (s.pushEvent c e).envs = s.envs := rfl
@[simp] theorem State.copyEngines_pushEvent (c : Nat) (e : CoreEvent) : (s.pushEvent c e).copyEngines = s.copyEngines := rfl
@[simp] theorem State.ctxs_pushEvent (c : Nat) (e : CoreEvent) : (s.pushEvent c e).ctxs = s.ctxs := rfl
@[simp] theorem State.queues_pushEvent (c : Nat) (e : CoreEvent) : (s.pushEvent c e).queues = s.queues := rfl
@[simp] theorem State.launches_pushEvent (c : Nat) (e : CoreEvent) : (s.pushEvent c e).launches = s.launches := rfl
@[simp] theorem State.hanks_pushEvent (c : Nat) (e : CoreEvent) : (s.pushEvent c e).hanks = s.hanks := rfl
@[simp] theorem State.moves_pushEvent (c : Nat) (e : CoreEvent) : (s.pushEvent c e).moves = s.moves := rfl
@[simp] theorem State.cycles_pushEvent (c : Nat) (e : CoreEvent) : (s.pushEvent c e).cycles = s.cycles := rfl
@[simp] theorem State.focus_pushEvent (c : Nat) (e : CoreEvent) : (s.pushEvent c e).focus = s.focus := rfl
@[simp] theorem State.stepping_pushEvent (c : Nat) (e : CoreEvent) : (s.pushEvent c e).stepping = s.stepping := rfl
@[simp] theorem State.mode_pushEvent (c : Nat) (e : CoreEvent) : (s.pushEvent c e).mode = s.mode := rfl
@[simp] theorem State.boot_pushEvent (c : Nat) (e : CoreEvent) : (s.pushEvent c e).boot = s.boot := rfl
@[simp] theorem State.bootWork_pushEvent (c : Nat) (e : CoreEvent) : (s.pushEvent c e).bootWork = s.bootWork := rfl

end Sys2Proof.Machine
end

