-- ==== Sys2Proof/Tests/Slice0.lean ====
section
/-! SUPPORT. Tests of the slice: ill-formed terms that WellFormed refuses, words that the spec writes out, single words on
small states, and a state for the hypotheses of every statement. Expected values come from the tables and examples of spec/. -/

namespace Sys2Proof.Tests

open Sys2Proof Sys2Proof.Machine Sys2Proof.Claims

set_option Elab.async false

/-! ## Small names -/

/-- No predicate. -/
def always : Pred := ⟨false, 0⟩

/-- Destination v`n`, nothing captured. -/
def toV (n : Nat) : DstA := ⟨always, n, none⟩

/-- Slot 15, lookahead 15. -/
def free : Long := ⟨always, 15, 15⟩

/-- Slot `n`, lookahead 15. -/
def slot (n : Nat) : Long := ⟨always, n, 15⟩

/-! ## WellFormed: an ill-formed term for each check (02 R52) -/

def refuses (l : List Instr) : Bool := l.all fun i => !i.wf

/-- Registers, operand-file slots and constants out of range; a special value for a consumer other than I32; a constant that
does not fit (R40, R43, R44). -/
theorem test_wf_sources : refuses [.mov (toV 1) (.v 256), .mov (toV 1) (.o 8), .mov (toV 1) (.const 64),
    .fadd .rne (toV 1) (.special .lane) (.v 2), .add ⟨false, false, .w32⟩ (toV 1) (.const 32) (.v 2),
    .add ⟨false, false, .w8⟩ (toV 1) (.const 29) (.v 2), .ld .s8 none .normal (slot 0) 4 (.g 2 (.special .lane)),
    .add64 (toV 2) (.const 32) (.v 4)] = true := by decide

/-- Predicates, destinations and captures (R32, R33, R41), register runs past v255 and odd pairs (00 R5). -/
theorem test_wf_registers : refuses [.mov ⟨⟨true, 0⟩, 1, none⟩ (.v 1), .mov ⟨⟨false, 256⟩, 1, none⟩ (.v 1), .mov (toV 256) (.v 1),
    .mov ⟨always, 1, some 8⟩ (.v 1), .add64 (toV 3) (.v 4) (.v 6), .add64 (toV 4) (.v 5) (.v 6), .movx .pair always 7 0,
    .ldw .raw none .normal (slot 0) 241 (.g 2 (.const 0)), .stw none .normal free 241 (.g 2 (.const 0)),
    .movi .s always 4 (2 ^ 25), .lea false 8 (toV 2) (.v 4) (.v 6)] = true := by decide

/-- Slots and lookaheads (R35): slots 12 to 14, slot 15 with a bounded lookahead, and slot 15 on a word that writes. -/
theorem test_wf_slots : refuses [.gettime (slot 12) 4, .gettime ⟨always, 3, 16⟩ 4, .gettime free 4,
    .fence .ar .d ⟨always, 15, 3⟩] = true := by decide

/-- What each entry bounds: fn combinations of R147, barriers, knot slots, tile references, shapes, copy classes, affine
registers, closure registers, scopes, hints, displacements and codes. -/
theorem test_wf_entries : refuses [.mul ⟨true, false, .w32⟩ (toV 1) (.v 1) (.v 2), .neg ⟨false, true, .w32⟩ (toV 1) (.v 1),
    .min ⟨true, false, .w32⟩ (toV 1) (.v 1) (.v 2), .cvt .t8 .t8 .rne (toV 1) (.v 2) 0, .cvt .s32 .f32 .ef (toV 1) (.v 2) 0,
    .cvtb .f32 .rne false (toV 1) 2 4 (.v 0), .cvtb .t8 .rne true (toV 1) 2 4 (.v 0), .rngx (toV 8) 6 2,
    .barSync false free 128, .jbar true free 4, .tfree free ⟨0, 4⟩, .tall .h16 4 free ⟨0, 0⟩, .ctr .t8 2 true false free ⟨0, 0⟩ 8 12,
    .tdrain .f32 .rne false (slot 0) ⟨0, 0⟩ 17 16 0, .cpb 4 .nothing (slot 0) 20 2 8, .cpb 0 .nothing (slot 0) 9 2 8,
    .cqf 0 16 (slot 0) 4, .aadd free 16 0 0, .kdrop free 8, .cap free 1 (.pair 2) 4 0, .ld .s8 (some .b) .normal (slot 0) 4
    (.g 2 (.const 0)), .st .b32 none .ro free 4 (.g 2 (.const 0)), .bra false always (2 ^ 32) 0, .jmp always 2 4,
    .brk always 65536, .call always 256 0, .csrr (slot 0) 4 65536, .powerOn] = true := by decide

/-! ## Words that the spec writes out, field by field -/

def reads (l : List (Nat × Nat × Instr)) : Bool := l.all fun p => decide (decode p.1 p.2.1 = .ok p.2.2)

/-- Groups 0x00 and 0x10 (spec 08 and the listings of 21 to 25). -/
theorem test_decode_integer : reads [(0x0100_0060_1000_0000, 0, .mov (toV 12) (.v 8)),
    (0x0200_0038_01FF_FFFF, 0, .movi .s always 7 0x1FFFFFF),
    (0x0440_0090_2580_8000, 0, .add ⟨false, true, .w32⟩ (toV 18) (.v 18) (.const 1)),
    (0x0EA0_0050_09A0_8000, 0, .lea true 2 (toV 10) (.v 4) (.special .strand)),
    (0x1000_00B8_2580_8000, 0, .and (toV 23) (.v 18) (.const 1)),
    (0x1500_00F8_3D82_8000, 0, .shr (toV 31) (.v 30) (.const 5)),
    (0x1B00_0100_3D80_60A0, 0, .bfe false (toV 32) (.v 30) (.const 0) (.const 5)),
    (0x1D60_00D8_3981_8000, 0, .cmp .ltN (toV 27) (.v 28) (.const 3))] = true := by decide

/-- Groups 0x20, 0x40 and 0x50. -/
theorem test_decode_float : reads [(0x2000_0040_1180_8000, 0, .fadd .rne (toV 8) (.v 8) (.const 1)),
    (0x2300_00A0_2190_01C0, 0, .ffma .rne (toV 20) (.v 16) (.const 32) (.v 14)),
    (0x2C00_0158_3415_0000, 0, .fdiv .rne (toV 43) (.v 26) (.v 42)),
    (0x4040_00A0_2000_2040, 0, .cvt .t8 .f32 .ef (toV 20) (.v 16) 0),
    (0x41C0_0040_0180_2040, 0, .cvtb .t8 .ef true (toV 8) 0 3 (.const 0)),
    (0x5030_0030_0980_8080, 0, .shfl .xor (toV 6) (.v 4) (.const 1) (.v 4)),
    (0x5380_0028_0800_0000, 0, .scan .add true (toV 5) (.v 4))] = true := by decide

/-- Groups 0x60, 0x70 and 0x80: memory, fences, barriers and knots. -/
theorem test_decode_memory : reads [(0x6050_0040_0588_2811, 0, .ld (.b32 .f32) (some .p) .normal ⟨always, 1, 1⟩ 8 (.g 2 (.const 16))),
    (0x6000_A930_3180_282F, 0, .ld (.b32 .f32) none .normal ⟨⟨false, 21⟩, 2, 15⟩ 38 (.g 24 (.const 0))),
    (0x6150_00F0_0188_20FF, 0, .st .b32 (some .p) .normal free 30 (.g 0 (.const 16))),
    (0x6200_0010_0180_000F, 0, .ldw .raw none .normal (slot 0) 2 (.g 0 (.const 0))),
    (0x6520_0048_0D82_0032, 0, .stf (some .cl) ⟨always, 3, 2⟩ 9 (.v 6) (.const 4)),
    (0x7070_0120_4410_805F, 0, .atom .or .plain (slot 5) 36 (.g 34) (.b32 (.v 33))),
    (0x8000_0000_0000_0520, 0, .fence .acq .p ⟨always, 2, 0⟩)] = true := by decide

theorem test_decode_knots : reads [(0x8110_0000_0C03_85FF, 0, .barInitRows free 5 (.v 6) (.v 7)),
    (0x8120_00A0_0000_052F, 0, .barArrive false (slot 2) 5 20), (0x8160_0000_0000_05FF, 0, .barSync false free 5),
    (0x8170_0000_0000_00FF, 0, .barSync true free 0),
    (0x8200_00A0_0000_0100, 0, .jnew ⟨always, 0, 0⟩ 1 20), (0x8300_B8C0_2C00_003F, 0, .join ⟨⟨false, 23⟩, 3, 15⟩ 0 24 (.v 22)),
    (0x8700_0000_0000_04FF, 0, .jbar true free 0), (0x8880_0140_4E00_003F, 0, .jscan .add true false (slot 3) 0 40 (.v 39)),
    (0x9410_0030_1006_02FF, 0, .ctr .t8 2 false false free ⟨1, 2⟩ 8 12),
    (0x9500_00A0_2000_261F, 0, .tdrain .t8 .rne false (slot 1) ⟨1, 2⟩ 20 16 0)] = true := by decide

/-- Groups 0xA0 to 0xF0: copies, affine words, closures, control and system words. -/
theorem test_decode_engines : reads [(0xA1A0_00B0_0406_035F, 0, .cpg 2 (.closure 3) (slot 5) 22 2 12),
    (0xA400_00A8_0000_064F, 0, .cqf 0 6 (slot 4) 21), (0xB100_0008_099C_00FF, 0, .anoise free 1 (.v 4) (.const 56)),
    (0xB800_01A8_0000_01FF, 0, .aquant .t8 .rne free 5 3), (0xBA30_0060_0000_182F, 0, .aget .hi (slot 2) 12 3),
    (0xC020_0040_3C00_03FF, 0, .cap free 2 (.pair 30) 8 3), (0xC550_0000_0584_01FF, 0, .kld (some .p) free 1 (.g 2 (.const 8))),
    (0xC600_0010_0000_02FF, 0, .apply always 2 2), (0xC700_00A0_3000_023F, 0, .spawn (slot 3) 20 2 (.v 24))] = true := by decide

theorem test_decode_control : reads [(0xE009_3007_FFFF_FFF3, 0, .bra false ⟨true, 38⟩ 0xFFFFFFFE 3),
    (0xE508_9000_0000_0000, 0, .exit ⟨true, 18⟩), (0xF100_0000_0000_00FF, 0, .rte false always),
    (0xF300_00A6_8200_6200, 0, .csrw ⟨always, 0, 0⟩ 20 0x031 (.special .strand)),
    (0xF500_00A8_1000_0C10, 0, .tset ⟨always, 1, 0⟩ 21 6 (.v 8)), (0xF500_014E_0202_2C10, 0, .tset ⟨always, 1, 0⟩ 41 0x116 (.const 1))]
    = true := by decide

/-! ## A small package: one strand at one word -/

/-- 64 registers, 4 affine registers, every register RAW. -/
def regs0 : Regs := { Regs.start 64 4 0 0x10000 0x10000 none with v := List.replicate 64 .zero, pc := ⟨0x10000, 1⟩ }

/-- The strand at position 0, of hank 7, with a stack of 4096 bytes. -/
def st0 : Strand :=
  { Strand.new 7 0 3 9 1 regs0 0x10000 0x11000 with nextId := 5 }

def x0 : Issue := ⟨0, 1, 0x10000, [0, 0, 0, 0], 1⟩

/-- Hank 7 on core 0: braid 0, and bank 0 of cluster 0 in scratchpad mode. -/
def hank0 : Hank :=
  { ctx := 3, launch := 9, index := 0, core := 0, braids := [0], strands := 32, regs := 64, affs := 4, scrkb := 256
    banks := [0], nb := none, nbpos := 0, nhank := 1, prio := 1, spawn := none, stopping := false }

/-- Context 3, active, with every feature. -/
def ctx0 : Ctx :=
  { st := .active, firmware := false, root := 0, feat := 0x17F, symlim := 16, pinq := 2, trapBase := 0x12000, frBase := 0x13000
    frLog := 3, tfBase := 0x14000, saveBase := 0x10000, saveSize := 4096, faultAddr := 0x15000, spBase := 0x16000, spSize := 4096
    symC := 0, seq := 1, inService := [], pendingRecs := [], images := [], copies := [], faultCode := 0, recorded := false, stopping := false
    ringSent := false, faultRec := none }

/-- A page of 64 KiB at physical 0x20000: cacheable, resident, with read, write and execute (09 R172). -/
def leaf0 : Nat := 2 ^ 63 + 2 ^ 60 + 2 ^ 57 + 2 ^ 56 + 2 ^ 55 + 2 ^ 54 + 2 ^ 52 + 0x20000

/-- The package with the strand at position 0, at word 1 of a clause at 0x10000, the page of which the TLB holds. -/
def one (st : Strand) : State :=
  { State.reset with
    strands := [(0, st)]
    braids := [(0, ⟨7, 0, 1, BitVec.allOnes 32, 0, []⟩)]
    quarters := [(0, { Quarter.idle with cur := some x0 })]
    banks := [(0, ⟨.scratch, some 7, [], [], [], []⟩)]
    ctxs := [(3, ctx0)], hanks := [(7, hank0)], tlb := [⟨0, 3, 0x10000, 0x10000, leaf0⟩], mode := .service }

def s0 : State := one st0

/-- The part of an access at a memory key, on a page that caches where it is HBM. -/
def pt (key len va : Nat) : Part := ⟨key, len, .rc, va, decide (key < 2 ^ 47), false, 0⟩

/-- The strand with register n holding v. -/
def withReg (n : Nat) (v : Word) (st : Strand := st0) : Strand := { st with regs := { st.regs with v := st.regs.v.set n ⟨v, .raw⟩ } }

/-! ## Hypotheses that a computation decides -/

def executes (s : State) (x : Issue) (i : Instr) (l : Nat) (st : Strand) : Bool :=
  decide (s.cur = some x) && !s.illegalHere x i && decide (l < 32 ∧ x.mask.getLsbD l = true) &&
    decide (s.strand? (posOf x.braid l) = some st) && predHolds st.regs i.info.pred && (tagFailure st.regs i.info).isNone

theorem executes_of {s : State} {x : Issue} {i : Instr} {l : Nat} {st : Strand} (h : executes s x i l st = true) :
    s.Executes x i l st := by
  simp only [executes, Bool.and_eq_true, decide_eq_true_eq, Bool.not_eq_true', Option.isNone_iff_eq_none] at h
  exact ⟨h.1.1.1.1.1, h.1.1.1.1.2, h.1.1.1.2, h.1.1.2, h.1.2, h.2⟩

def alone (s : State) (x : Issue) (i : Instr) (l : Nat) (st : Strand) : Bool :=
  executes s x i l st && decide (s.active x i.info.pred = [(l, st)])

theorem alone_of {s : State} {x : Issue} {i : Instr} {l : Nat} {st : Strand} (h : alone s x i l st = true) :
    s.Alone x i l st := by
  simp only [alone, Bool.and_eq_true, decide_eq_true_eq] at h
  exact ⟨executes_of h.1, h.2⟩

/-- Each word runs in a strand alone, in the package of that strand. -/
def allAlone (s : State) (st : Strand) (l : List Instr) : Bool := l.all fun i => alone s x0 i 0 st

theorem allAlone_of {s : State} {st : Strand} {l : List Instr} (h : allAlone s st l = true) :
    ∀ i ∈ l, s.Alone x0 i 0 st := by
  intro i hi
  exact alone_of (List.all_eq_true.1 h i hi)

/-! ## Fixed-latency words -/

def t8 : IntForm := ⟨true, false, .w8⟩

/-- Every word of groups 0x00 to 0x5F, with operands at the ends of their ranges. -/
def fixedWords : List Instr :=
  let a : Src := .v 0
  let b : Src := .v 63
  let c : Src := .o 7
  let x := toV 63
  [.mov x a, .movi .s always 63 (2 ^ 25 - 1), .movi .n always 0 (2 ^ 25 - 1), .movi .f32 always 0 0, .movx (.tagged .i32) always 63 0,
    .movx .pair always 62 0, .add ⟨true, true, .w8⟩ x a b, .sub ⟨true, false, .w16⟩ x a b, .mul ⟨false, true, .w32⟩ x a b,
    .mad ⟨true, false, .w8⟩ x a b c, .neg ⟨true, false, .w32⟩ x a, .abs ⟨false, false, .w16⟩ x a, .min ⟨false, true, .w8⟩ x a b,
    .max ⟨false, false, .w32⟩ x a b, .mulh true x a b, .mulh false x a b, .sel x a b c, .lea true 7 (toV 62) (.v 2) b,
    .lea false 0 (toV 62) (.const 31) b, .add64 (toV 62) (.v 2) (.const 31), .sub64 (toV 62) (.const 0) (.v 4), .and x a b, .or x a b,
    .xor x a b, .not x a, .shl x a b, .shr x a b, .sar x a b, .rot false x a b, .rot true x a b, .clz x a, .popc x a, .brev x a,
    .bfe true x a b c, .bfe false x a b c, .bfi x a b c, .cmp .eq x a b, .cmp .geN x a b, .vtag .stat x a, .fadd .rne x a b,
    .fsub .rz x a b, .fmul .ru x a b, .ffma .rd x a b c, .fmin true x a b, .fmax false x a b, .fabs x a, .fneg x a,
    .fcmp .ord x a b, .frnd true .rne x a, .fcsgn x a b, .fclass x a, .fdiv .rne x a b, .fsqrt .rd x a, .frcp .rne x a,
    .frsq .rne x a, .fexp2 .rne x a, .flog2 .rz x a, .ffract x a, .hadd .rne x a b, .hsub .rz x a b, .hmul .ru x a b,
    .hfma .rd x a b c, .hmin true x a b, .hmax false x a b, .hcmp .un x a b, .cvt .t8 .f32 .ef (toV 8) (.v 60) 0,
    .cvt .h16 .f32 .sr (toV 8) (.v 62) 4, .cvtb .t8 .sr false (toV 8) 48 16 (.v 0), .cvtb .t8 .ef true (toV 8) 0 3 (.const 0),
    .cvtb .t6 .rne false (toV 8) 48 16 (.v 0), .pack .h16x2 true false x a b, .unpack .i8x4 x a b, .rngx (toV 60) 0 62,
    .shfl .idx x a b c, .shfl .up x a b c, .shfl .down x a b c, .shfl .xor x a b c, .vote .all x a, .vote .any x a,
    .vote .uni x a, .ballot x a, .scan .fadd true x a, .scan .add false x a, .red .or x a]

theorem test_fixed_words_wf : fixedWords.all Instr.wf = true := by decide +kernel

/-- Hypotheses of MoveAndBitWordsResults, IntegerWordsResults, FloatWordsResults, ConversionWordsResults and BraidWordsResults:
each word executes, in a strand alone. -/
theorem witness_fixed_words : ∀ i ∈ fixedWords, s0.Alone x0 i 0 st0 := allAlone_of (by decide +kernel)

/-- FixedLatencyFrame. -/
theorem witness_FixedLatencyFrame : ∀ i ∈ fixedWords, fixedLatency i = true ∧ s0.cur = some x0 ∧
    s0.illegalHere x0 i = false ∧ s0.tagTraps x0 i = [] := by decide +kernel

/-- IntegerElementsWrapOrSaturate: the last element of each width. -/
theorem witness_IntegerElementsWrapOrSaturate : 0 < 32 / iBits .w32 ∧ 1 < 32 / iBits .w16 ∧ 3 < 32 / iBits .w8 := by decide

/-- BraidWordsResults: a shuffle whose source lane is active, and one whose source lane is not. -/
theorem witness_BraidWordsResults :
    (((s0.passing x0 (.shfl .xor (toV 1) (.v 0) (.const 0) (.v 2))).map fun p => (p.1, (s0.lane x0 p.1 p.2).src .any (.v 0))).find?
      fun p => decide ((p.1 : Int) = 0)) = some (0, .zero) ∧
    (((s0.passing x0 (.shfl .down (toV 1) (.v 0) (.const 31) (.v 2))).map fun p =>
      (p.1, (s0.lane x0 p.1 p.2).src .any (.v 0))).find? fun p => decide ((p.1 : Int) = 31)) = none := by decide +kernel

/-- The format-tag trap: an I32 register read as F32. -/
theorem witness_FormatTagTrap :
    let st := { st0 with regs := { st0.regs with v := st0.regs.v.set 2 ⟨1, .i32⟩ } }
    let i := Instr.fadd .rne (toV 1) (.v 3) (.v 2)
    fixedLatency i = true ∧ (one st).cur = some x0 ∧ (one st).illegalHere x0 i = false ∧ (one st).strand? (posOf 0 0) = some st ∧
      predHolds st.regs i.info.pred = true ∧ tagFailure st.regs i.info = some 2 ∧ st.pastFence = false := by decide +kernel

theorem oneDepth_of (st : Strand) : OneDepth (one st) x0 st.regs.depth := by
  intro k y hk hm hs
  have : k = 0 := by
    have : ∀ k < 32, (1 : BitVec 32).getLsbD k = true → k = 0 := by decide
    exact this k hk hm
  subst this
  cases hs
  rfl

/-- The illegal-instruction trap: a register past the allocation, and `rte` outside a handler. -/
theorem witness_IllegalWordTraps : s0.illegalHere x0 (.mov (toV 64) (.v 0)) = true ∧ s0.illegalHere x0 (.rte false always) = true := by
  decide +kernel

/-! ## Memory -/

/-- Registers 2 and 3 hold the global address 0x10040, registers 4 and 6 the scratchpad offsets 64 and 0. -/
def stM : Strand := withReg 4 64 (withReg 2 0x10040)

def sM : State := one stM

/-- Every form that `ask` gives an access, global and scratchpad. -/
def askWords : List Instr :=
  let g : Addr := .g 2 (.const 0)
  let sc : Addr := .s (.v 4) (.const 0)
  let o : AtomOrder := .ar .sy
  [.ld .s8 none .ro (slot 0) 8 g, .ld (.b128 .f32) (some .sy) .keep (slot 11) 60 g, .ld .b64 none .normal (slot 0) 8 sc,
    .ldw .raw (some .c) .normal (slot 0) 48 g, .ldw .f32 none .st (slot 1) 8 sc, .ald none free 0 g, .ald none free 3 sc,
    .st .b8 none .normal free 8 g, .st .b128 (some .d) .st (slot 3) 60 g, .stw none .keep free 48 sc, .ast none free 3 g,
    .kst none free 0 g, .kst (some .p) free 0 sc, .kld none free 7 g, .kld none free 0 sc, .lline (slot 0) 8 2 (.const 0),
    .uline (slot 0) 8 2 (.const 25), .atom .add .plain (slot 0) 8 (.g 2) (.b32 (.v 6)),
    .atom .inc o (slot 0) 8 (.s (.v 4)) (.b64 (.const 31)), .cas o (slot 0) 8 (.g 2) (.b64 (.v 10)),
    .cas .plain (slot 0) 8 (.s (.v 4)) (.b32 (.v 10)), .atomf .rne o (slot 0) 8 (.g 2) (.v 9), .xadd true o free (.g 2) (.v 9),
    .xadd false .plain free (.s (.v 4)) (.v 9), .xget true .rd o (slot 0) 8 (.g 2), .xget false .rne .plain (slot 0) 8 (.s (.v 4)),
    .xclr o free (.g 2)]

def asks (s : State) (st : Strand) (i : Instr) : Bool :=
  alone s x0 i 0 st && match ask i (s.lane x0 0 st) st with
    | some a => match s.reach 0 st (s.lane x0 0 st) a.wants with
      | .ok _ => true
      | .error _ => false
    | none => false

/-- AccessIssues. -/
theorem witness_AccessIssues : (askWords.all fun i => i.wf && asks sM stM i) = true := by decide +kernel

/-- AccessAddressTraps: a misaligned global address; in the scratchpad, a misaligned offset, one past the hank's windows, and one
in a bank of another mode. -/
theorem witness_AccessAddressTraps :
    let i := Instr.atom .add .plain (slot 0) 8 (.g 2) (.b32 (.v 6))
    let j := Instr.ld .b64 none .normal (slot 0) 8 (.s (.v 4) (.const 0))
    let fifo := { one (withReg 4 64) with banks := [(0, ⟨.fifo, some 7, [], [], [], []⟩)] }
    (one (withReg 2 0x10041)).Alone x0 i 0 (withReg 2 0x10041) ∧
      (ask i ((one (withReg 2 0x10041)).lane x0 0 (withReg 2 0x10041)) (withReg 2 0x10041)).any (fun a =>
        ((one (withReg 2 0x10041)).lane x0 0 (withReg 2 0x10041)).ea a.wants.addr % a.wants.galign != 0) = true ∧
    (one (withReg 4 65)).Alone x0 j 0 (withReg 4 65) ∧
      (ask j ((one (withReg 4 65)).lane x0 0 (withReg 4 65)) (withReg 4 65)).any (fun a =>
        ((one (withReg 4 65)).lane x0 0 (withReg 4 65)).ea a.wants.addr % a.wants.len != 0) = true ∧
    (one (withReg 4 0x40000)).Alone x0 j 0 (withReg 4 0x40000) ∧
      (one (withReg 4 0x40000)).scratch (withReg 4 0x40000) 0x40000 = none ∧
    fifo.Alone x0 j 0 (withReg 4 64) ∧ fifo.scratch (withReg 4 64) 64 = some (0, 64) ∧ (fifo.bank 0).mode ≠ .scratch := by
  refine ⟨alone_of ?_, ?_, alone_of ?_, ?_, alone_of ?_, ?_, alone_of ?_, ?_, ?_⟩ <;> decide +kernel

/-- AccessTranslationTraps: an address without an entry (cause 1), a page not resident (cause 2), a page not readable (cause
3), an entry that meets an uncorrectable error (cause 7). -/
theorem witness_AccessTranslationTraps :
    let i := Instr.ld .s8 none .normal (slot 0) 8 (.g 2 (.const 0))
    let at_ := fun (leaf : Nat) => { sM with tlb := [⟨0, 3, 0x10000, 0x10000, leaf⟩] }
    let root := { sM with tlb := [], ctxs := [(3, { ctx0 with root := 2 ^ 63 + 0x30000 })]
                          mem := (Memory.writeN 0x40008 leaf0 8 (Memory.writeN 0x30000 (2 ^ 63 + 0x40000) 8 [])) }
    let big := 2 ^ 63 + 2 * 2 ^ 61 + 2 ^ 60 + 2 ^ 57 + 2 ^ 56
    let absent := Memory.writeN 0x40000 big 8 (Memory.writeN 0x40008 big 8 (Memory.writeN 0x30000 (2 ^ 63 + 0x40000) 8 []))
    let cause := fun (s : State) => match (ask i (s.lane x0 0 stM) stM).map fun a => s.reach 0 stM (s.lane x0 0 stM) a.wants with
      | some (.error (.inr f)) => f.cause
      | _ => 0
    sM.Alone x0 i 0 stM ∧ cause { sM with tlb := [] } = 1 ∧ cause root = 1 ∧ cause (at_ (leaf0 - 2 ^ 56)) = 3 ∧
      cause { root with upsets := [0xC000] } = 7 ∧ cause { root with mem := absent } = 2 ∧ ctx0.st = .active ∧
      ctx0.inService = [] ∧ (ask i (sM.lane x0 0 stM) stM).map (fun a => a.order.acq) = some none ∧
      (ask (.ld .s8 (some .d) .normal (slot 0) 8 (.g 2 (.const 0))) (sM.lane x0 0 stM) stM).map (fun a => a.order.acq) =
        some (some .d) := by
  refine ⟨alone_of ?_, ?_, ?_, ?_, ?_, ?_, ?_, ?_, ?_, ?_⟩ <;> decide +kernel

/-- The outstanding access `op` of the strand at 0, with its one piece left. -/
def pendOf (q : Part) (o : Order) (op : MemOp) : Pend :=
  ⟨4, 3, 15, ⟨0x10000, 1⟩, false, none, 0, .plain, false, .mem [(0, q)] 0 o op, []⟩

def sAct (a : Act) : State := one { st0 with outs := [⟨4, 3, 15, ⟨0x10000, 1⟩, false, none, 0, .plain, false, a, []⟩] }

def sOp (q : Part) (o : Order) (op : MemOp) : State :=
  { one { st0 with outs := [pendOf q o op] } with mem := Memory.writeN 0x20040 0x8081828384858687 8 [] }

theorem runs0 (outs : List Pend) : Runs 0 { st0 with outs := outs } := ⟨by simp [st0, Strand.new], rfl, rfl, by decide⟩

theorem noPorts (s : State) (h : s.ports = []) (sc : Option Scope) : s.farReady sc = true := by
  unfold State.farReady
  split <;> simp [h]

theorem lastPiece (q : Part) (o : Order) (op : MemOp) (hk : keyPackage q.key = none)
    (ht : ∀ st, st.hank = 7 → (one st).stillThere st q = true) :
    LastPiece (sOp q o op) 0 4 { st0 with outs := [pendOf q o op] } (pendOf q o op) 0 q 0 o op := by
  refine ⟨rfl, rfl, ⟨rfl, rfl, rfl⟩, rfl, ?_, ?_, .inl hk, ?_, ?_, rfl, ?_, noPorts _ rfl _, runs0 _⟩
  · simp [State.lowerLaneWaits, State.braidStrands, sOp, one]
  · simp [Strand.mayPerform, Strand.turn, pendOf]
  · have h := ht { st0 with outs := [pendOf q o op] } rfl
    simpa [State.stillThere, State.scratch, State.window, State.hankAt, State.hankOf, State.bank, sOp, one] using h
  · simp [State.busFault, State.upset, sOp, one, State.reset]
  · simp [State.behindSwitch, sOp, one, pendOf]

def plain : Order := ⟨none, none⟩

/-- A part in HBM at 0x20040, and the last word of the strand's scratchpad. -/
def hbmPart (n : Nat) : Part := pt 0x20040 n 0x10040
def sramPart : Part := pt (bankKey 0 0x3FFFC) 4 0x3FFFC

theorem hbmThere (n : Nat) (st : Strand) (_ : st.hank = 7) : (one st).stillThere st (hbmPart n) = true := by
  simp [State.stillThere, hbmPart, pt]

theorem sramThere (st : Strand) (h : st.hank = 7) : (one st).stillThere st sramPart = true := by
  simp only [State.stillThere, State.scratch, State.hankOf, h]
  rfl

/-- LoadCompletes, StoreCompletes and AtomicCompletes: the access with its last piece at HBM 0x20040, and in the last word of a
scratchpad bank. -/
theorem witness_LastPiece : ∀ n op,
    LastPiece (sOp (hbmPart n) plain op) 0 4 { st0 with outs := [pendOf (hbmPart n) plain op] } (pendOf (hbmPart n) plain op) 0
      (hbmPart n) 0 plain op ∧
    LastPiece (sOp sramPart plain op) 0 4 { st0 with outs := [pendOf sramPart plain op] } (pendOf sramPart plain op) 0 sramPart 0
      plain op :=
  fun n op => ⟨lastPiece _ plain op rfl (hbmThere n), lastPiece _ plain op rfl sramThere⟩

/-- StoreCompletes: a line that its cluster's caches may hold, and a scratchpad word. -/
theorem witness_StoreCompletes : (hbmPart 8).cached = true ∧ (hbmPart 8).ord ≠ .so ∧ sramPart.cached = false := by decide

/-- LoadCompletes: the value fits the load, at each width. StoreCompletes: memory is in canonical form. -/
theorem witness_LoadCompletes : ∀ k ∈ [LdKind.s8, .z8, .s16, .z16, .b64, .b32 .f32],
    let s := sOp (hbmPart k.bytes) plain (.load k 8)
    s.mem.readN 0x20040 k.bytes < 2 ^ (8 * k.bytes) ∧ Memory.wf s.mem = true := by decide +kernel

/-- IssuedResultsComplete: a running strand, and one that has exited. -/
theorem witness_IssuedResultsComplete :
    let p : Pend := ⟨4, 3, 15, ⟨0x10000, 1⟩, false, none, 0, .plain, false, .regs [(8, ⟨1, .i32⟩)] 0, []⟩
    (sAct p.act).pend? 0 4 = some p ∧ Runs 0 { st0 with outs := [p] } ∧
      (one { st0 with outs := [p], run := .exited }).pend? 0 4 = some p ∧ st0.leaving = [] ∧
      st0.regs.k.all (· == 0) = true := by
  refine ⟨?_, runs0 _, ?_, ?_, ?_⟩ <;> decide +kernel

/-- PrefetchAndPins, outside service mode: the line pinned already, the quota used up, a free way, and a release. -/
theorem witness_PrefetchAndPins :
    let s := fun (pins : List Pin) => { sOp (hbmPart 1) plain (.line true 8) with pins := pins, mode := .test }
    sM.Alone x0 (.pref .cl free 2 (.const 0)) 0 stM ∧ (s []).ctxNum st0 = 3 ∧ (s []).mode ≠ .service ∧
      (hbmPart 1).cached = true ∧ (((s [⟨3, 0, 1, 9⟩, ⟨3, 0, 2, 9⟩]).ctxs.get? 3).map Ctx.pinq).getD 0 ≤ 2 ∧
      2 ≤ (s []).cacheWays 0 ∧ (∀ w ∈ (s [⟨3, 0, 1, 9⟩]).pins, w.line ≠ 0x20040 / 128) := by
  refine ⟨alone_of ?_, ?_, ?_, ?_, ?_, ?_, ?_⟩ <;> decide +kernel

/-! ## Banks, affine arithmetic -/

/-- The strand whose v4 names the last word of its window, and the package with bank 0 in a mode. -/
def stB : Strand := withReg 4 0x3FFFC

def sB (m : BankMode) (fifo : List Word) (full : List Nat) : State :=
  { one stB with banks := [(0, ⟨m, some 7, fifo, [], [], []⟩)], full := full }

theorem atWord_of {s : State} {i : Instr} {m : BankMode} (h : alone s x0 i 0 stB = true)
    (h2 : (decide (s.scratch stB 0x3FFFC = some (0, 0x3FFFC)) && decide ((s.bank 0).mode = m) && decide (s.early = []) &&
      decide (s.lowerStalls x0 0 = []) && decide (s.upset (bankKey 0 0x3FFFC) 4 = false) &&
      decide ((s.bank 0).words.getD 0x3FFFC [] = []) && decide ((s.bank 0).pushes = []) && decide ((s.bank 0).pops = []) && decide (s.ports = [])) = true) :
    AtWord s x0 i 0 stB (.v 4) (.const 0) m 0 0x3FFFC := by
  simp only [Bool.and_eq_true, decide_eq_true_eq] at h2
  have e : (s.lane x0 0 stB).ea (.s (.v 4) (.const 0)) = 0x3FFFC := rfl
  obtain ⟨⟨⟨⟨⟨⟨⟨⟨h3, h4⟩, h5⟩, h6⟩, h7⟩, h8⟩, h9⟩, h10⟩, hp⟩ := h2
  exact ⟨alone_of h, by rw [e], by rw [e]; exact h3, by omega, h4, rfl, h6, h5, fun sc => noPorts _ hp sc, h7, ⟨h8, h9, h10⟩⟩

/-- FullEmptyWords: the last word of a bank, empty and full. -/
theorem witness_FullEmptyWords : let full := [bankKey 0 0x3FFFC]
    AtWord (sB .scratch [] []) x0 (.stf none free 9 (.v 4) (.const 0)) 0 stB (.v 4) (.const 0) .scratch 0 0x3FFFC ∧
    AtWord (sB .scratch [] full) x0 (.stf (some .d) free 9 (.v 4) (.const 0)) 0 stB (.v 4) (.const 0) .scratch 0 0x3FFFC ∧
    AtWord (sB .scratch [] full) x0 (.ldf .f32 none (slot 1) 63 (.v 4) (.const 0)) 0 stB (.v 4) (.const 0) .scratch 0 0x3FFFC ∧
    AtWord (sB .scratch [] []) x0 (.ldf .raw none (slot 1) 63 (.v 4) (.const 0)) 0 stB (.v 4) (.const 0) .scratch 0 0x3FFFC ∧
    LastPiece (sOp sramPart plain (.fset true)) 0 4 { st0 with outs := [pendOf sramPart plain (.fset true)] }
      (pendOf sramPart plain (.fset true)) 0 sramPart 0 plain (.fset true) ∧ sramPart.key = bankKey 0 0x3FFFC ∧
    Memory.wf (sB .scratch [] []).mem = true := by
  refine ⟨atWord_of ?_ ?_, atWord_of ?_ ?_, atWord_of ?_ ?_, atWord_of ?_ ?_, lastPiece _ _ _ rfl sramThere, rfl, ?_⟩ <;>
    decide +kernel

/-- FifoBanks: a push into an empty FIFO, a pop of a FIFO of one entry and of an empty one. -/
theorem witness_FifoBanks :
    AtWord (sB .fifo [] []) x0 (.fpush none free 9 (.v 4) (.const 0)) 0 stB (.v 4) (.const 0) .fifo 0 0x3FFFC ∧
    AtWord (sB .fifo [6] []) x0 (.fpop .i32 none (slot 1) 63 (.v 4) (.const 0)) 0 stB (.v 4) (.const 0) .fifo 0 0x3FFFC ∧
    AtWord (sB .fifo [] []) x0 (.fpop .i32 none (slot 1) 63 (.v 4) (.const 0)) 0 stB (.v 4) (.const 0) .fifo 0 0x3FFFC := by
  refine ⟨atWord_of ?_ ?_, atWord_of ?_ ?_, atWord_of ?_ ?_⟩ <;> decide +kernel

/-- FifoBanks: a push into a full FIFO. -/
theorem witness_FifoBanks_full : ∀ fifo : List Word, fifo.length = 65536 →
    AtWord (sB .fifo fifo []) x0 (.fpush none free 9 (.v 4) (.const 0)) 0 stB (.v 4) (.const 0) .fifo 0 0x3FFFC ∧
      ((sB .fifo fifo []).bank 0).fifo.length = 65536 :=
  fun _ h => ⟨atWord_of rfl rfl, h⟩

/-- BankModeChanges: a bank in scratchpad mode, to each mode; behind an access, and behind one that is complete. -/
theorem witness_BankModeChanges : ∀ m ∈ [BankMode.cache, .scratch, .fifo],
    alone s0 x0 (.bankset m (slot 0) 8 (.v 0)) 0 st0 = true ∧ s0.hankOf st0 = some hank0 ∧
      hank0.banks[(s0.lane x0 0 st0).nat .i32 (.v 0)]? = some 0 ∧ (sAct (.bankset 0 m 8 [(0, 4)])).bankAccesses 0 = [(0, 4)] ∧
      ((sAct (.bankset 0 m 8 [(0, 4)])).strandWith 0 4).isSome = true ∧ (sAct (.bankset 0 m 8 [(0, 3)])).strandWith 0 3 = none ∧
      (s0.bank 0).mode = .scratch ∧ (s0.bank 0).hank = some st0.hank := by
  decide +kernel

/-- The affine words, with operands at the ends of their ranges. -/
def affineWords : List Instr :=
  [.aset free 3 (.v 0) (.const 32), .aadd free 3 0 3, .asub free 0 3 0, .aneg free 0 0, .ascl free 3 0 (.v 63),
    .aaddc (slot 0) 3 0 (.v 1), .aget .c (slot 0) 63 3, .aget .e (slot 0) 8 0, .aget .lo (slot 0) 8 0, .aget .hi (slot 11) 8 0,
    .amode .get (slot 0) 8, .amode (.set (.v 0)) (slot 0) 8, .anoise free 3 (.v 0) (.const 56), .amul free 3 0 1,
    .aquant .t8 .rne free 3 0, .acond free 3 0 (.v 0), .asymn true (slot 0) 8, .asymn false (slot 0) 8]

/-- AffineWordsResults. -/
theorem witness_AffineWordsResults : (∀ i ∈ affineWords, s0.Alone x0 i 0 st0) ∧ queued st0 .affine = false :=
  ⟨allAlone_of (by decide +kernel), rfl⟩

/-- AffineWordsResults behind an affine word, and QueuedAffineWords: the first of the queue, and one behind it. -/
theorem witness_QueuedAffineWords :
    let p := fun (id : Nat) (i : Instr) =>
      (⟨id, 15, 15, ⟨0x10000, 1⟩, false, none, 0, .affine, false, .affine i 0x3F800000 0, []⟩ : Pend)
    let y := { st0 with outs := [p 3 (.aset free 3 (.v 0) (.const 32)), p 4 (.aadd free 3 0 3)] }
    (affineWords.all fun i => executes (one y) x0 i 0 y) = true ∧ queued y .affine = true ∧
      (one y).pend? 0 3 = some (p 3 (.aset free 3 (.v 0) (.const 32))) ∧ (one y).pend? 0 4 = some (p 4 (.aadd free 3 0 3)) ∧
      y.frameId ≤ 3 ∧ (∀ q ∈ y.outs, q.kind = .affine → 3 ≤ q.id) ∧ ¬ ∀ q ∈ y.outs, q.kind = .affine → 4 ≤ q.id := by
  decide +kernel

theorem test_affine_words_wf : affineWords.all Instr.wf = true := by decide +kernel

/-- NoiseSymbols: a word that mints and one that does not; a block with a symbol left, none left with SYMC below the limit, none
left at all; and no-mint mode. -/
theorem witness_NoiseSymbols :
    s0.ctxs.get? (s0.ctxNum st0) = some ctx0 ∧ queued st0 .affine = false ∧ anoiseMints 0x3F800000 0x3F800000 = true ∧ anoiseMints 0x3F800000 0 = false ∧
      ({ s0 with symBlocks := [(3, (15, 16))] } : State).symBlocks.getD 3 (0, 0) = (15, 16) ∧ 15 < ctx0.symlim ∧
      s0.symBlocks.getD 3 (0, 0) = (0, 0) ∧ ctx0.symC < ctx0.symlim ∧
      ({ ctx0 with symC := 64 } : Ctx).symlim ≤ 64 ∧ ({ st0.regs with noMint := true } : Regs).noMint = true := by
  decide +kernel

/-! ## Barriers, knots, tiles -/

/-- A barrier of hank 7 in mode arrivals, phase 9. -/
def bar0 : Barrier := ⟨7, 1, 9, 4, 0, 0, 0, false, false, 0, [], false⟩

def sBar (b : Barrier) (st : Strand := st0) : State := { one st with barriers := [(127, b)] }

/-- BarrierRequests: on barrier 127, a token of the current phase, one behind, and one ahead; the last arrival of a phase. -/
theorem witness_BarrierRequests :
    let st := withReg 1 8 (withReg 0 9)
    let s := sBar bar0 (withReg 2 10 st)
    let y := withReg 2 10 st
    (∀ i ∈ [Instr.barArrive true (slot 0) 127 8, .barArrive false (slot 0) 127 8, .barWait true free 127 (.v 0),
      .barWait false free 127 (.v 1), .barSync false free 127, .barSync true free 127, .barDrop free 127 (.const 3),
      .barTest (slot 0) 127 8 (.v 1), .barTest (slot 0) 127 8 (.v 2), .barStat (slot 0) 127 8, .barFree free 127],
      s.Alone x0 i 0 y) ∧ s.barriers.get? 127 = some bar0 ∧ bar0.owner = y.hank ∧ y.accessIds = [] ∧
      (s.lane x0 0 y).nat .i32 (.v 0) = bar0.phase ∧ (s.lane x0 0 y).nat .i32 (.v 1) + 1 = bar0.phase ∧
      (bar0.phase + 2 ^ 32 - (s.lane x0 0 y).nat .i32 (.v 2)) % 2 ^ 32 = 2 ^ 32 - 1 ∧
      (s.lane x0 0 y).nat .i32 (.const 3) < bar0.exp ∧ ({ bar0 with arr := 3 } : Barrier).exp ≤ 3 + 1 := by
  refine ⟨allAlone_of ?_, ?_, ?_, ?_, ?_, ?_, ?_, ?_, ?_⟩ <;> decide +kernel

/-- BarrierRequests and LateArrivals: an arrival behind a load, and one that waits for it or for nothing. -/
theorem witness_LateArrivals :
    let ld : Pend := { pendOf (hbmPart 4) plain (.load (.b32 .f32) 8) with id := 3 }
    let y := { st0 with outs := [ld] }
    let p := fun (after : List Nat) => (⟨4, 3, 15, ⟨0x10000, 1⟩, false, none, 0, .plain, false, .barArrive 127 8 after, []⟩ : Pend)
    let z := fun (after : List Nat) => { st0 with outs := [ld, p after] }
    (sBar bar0 y).Alone x0 (.barArrive false (slot 0) 127 8) 0 y ∧ y.accessIds = [3] ∧ ld.isAccess = true ∧
      (sBar bar0 (z [3])).pend? 0 4 = some (p [3]) ∧ (sBar bar0 (z [])).pend? 0 4 = some (p []) ∧
      (sBar bar0 (z [3])).strand? 0 = some (z [3]) ∧ (sBar bar0 (z [3])).barriers.get? (coreOf 0 * 128 + 127) = some bar0 := by
  refine ⟨alone_of ?_, ?_, ?_, ?_, ?_, ?_, ?_⟩ <;> decide +kernel

/-- BarrierClaims: EXP 1 and 4095, ROWX 2^24 - 1 and past it, a free barrier, one of hank 8, and one to arm again. -/
theorem witness_BarrierClaims :
    let y := withReg 2 0x1000000 (withReg 1 0xFFFFFF (withReg 0 4095))
    let words := [Instr.barInitArr free 127 (.v 0), .barInitArr free 0 (.const 1), .barInitRows free 127 (.v 0) (.v 1),
      .barInitRows free 127 (.v 0) (.v 2), .barInitRows free 127 (.const 0) (.v 1)]
    (∀ i ∈ words, (one y).Alone x0 i 0 y) ∧ (∀ i ∈ words, (sBar { bar0 with owner := 8 } y).Alone x0 i 0 y) ∧
      (∀ i ∈ words, (sBar bar0 y).Alone x0 i 0 y) ∧ (one y).barriers.get? 127 = none ∧
      ((one y).lane x0 0 y).nat .i32 (.v 0) = 4095 ∧ ((one y).lane x0 0 y).nat .i32 (.v 1) + 1 = 2 ^ 24 ∧
      ((one y).lane x0 0 y).nat .i32 (.v 2) = 2 ^ 24 := by
  refine ⟨allAlone_of ?_, allAlone_of ?_, allAlone_of ?_, ?_, ?_, ?_, ?_⟩ <;> decide +kernel

/-- A live knot of hank 7 in context 3, serial 5, with these members. -/
def knotOf (ms : List Member) : Knot := ⟨true, 5, 3, 7, ms, 0, none, [], none, []⟩

/-- The identifier of entry 63 of core 0, serial 5. -/
def id63 : Nat := 63 * 2 ^ 17 + 5

/-- The strand with the knot of entry 63 in slot 0, and its identifier in v0. -/
def stK : Strand :=
  let y := withReg 4 64 (withReg 0 (BitVec.ofNat 32 id63))
  { y with regs := { y.regs with n := [some id63, none, none, none] } }

def sK (k : Knot) (st : Strand := stK) (tiles : AMap Tile := []) : State := { one st with knots := [(63, k)], tiles := tiles }

def alone2 : List Member := [⟨0, 0⟩]

/-- KnotMembership: the last free entry, a slot taken; a live identifier with rank 1 the smallest free, and a dead one; the last
member and one of two leaving. -/
theorem witness_KnotMembership :
    let full := { s0 with knots := (List.range 63).map fun i => (i, knotOf []) }
    let free0 := withReg 0 (BitVec.ofNat 32 id63)
    let s := sK (knotOf [⟨5, 0⟩, ⟨6, 2⟩]) free0
    full.Alone x0 (.jnew (slot 0) 3 8) 0 st0 ∧ full.freeEntry 0 = some 63 ∧ (sK (knotOf alone2)).Alone x0 (.jnew (slot 0) 0 8) 0 stK ∧
      s.Alone x0 (.join (slot 0) 3 8 (.v 0)) 0 free0 ∧
      s.liveKnot free0 ((s.lane x0 0 free0).nat .i32 (.v 0)) = some (63, knotOf [⟨5, 0⟩, ⟨6, 2⟩]) ∧
      s0.Alone x0 (.join (slot 0) 3 8 (.v 0)) 0 st0 ∧ s0.liveKnot st0 ((s0.lane x0 0 st0).nat .i32 (.v 0)) = none ∧
      (∀ i ∈ [Instr.leave free 0, .jrank (slot 0) 0 8, .jsize false (slot 0) 0 8, .jsize true (slot 0) 0 8],
        (sK (knotOf alone2)).Alone x0 i 0 stK) ∧ (sK (knotOf alone2)).heldKnot stK 0 = some (63, knotOf alone2) ∧
      (sK (knotOf [⟨0, 0⟩, ⟨5, 1⟩])).Alone x0 (.leave free 0) 0 stK ∧
      (sK (knotOf [⟨0, 0⟩, ⟨5, 1⟩])).heldKnot stK 0 = some (63, knotOf [⟨0, 0⟩, ⟨5, 1⟩]) := by
  refine ⟨alone_of ?_, ?_, alone_of ?_, alone_of ?_, ?_, alone_of ?_, ?_, allAlone_of ?_, ?_, alone_of ?_, ?_⟩ <;> decide +kernel

/-- KnotCollectives: the first of two members, and the last. -/
theorem witness_KnotCollectives :
    let words := [Instr.jbar true free 0, .jbar false free 0, .jscan .add true false (slot 0) 0 8 (.v 4),
      .jscan .fadd false true (slot 0) 0 8 (.v 5), .jred .minS false (slot 0) 0 8 (.v 4)]
    (∀ i ∈ words, (sK (knotOf [⟨0, 0⟩, ⟨5, 1⟩])).Alone x0 i 0 stK) ∧ (∀ i ∈ words, (sK (knotOf alone2)).Alone x0 i 0 stK) ∧
      (sK (knotOf alone2)).heldKnot stK 0 = some (63, knotOf alone2) ∧
      (sK (knotOf [⟨0, 0⟩, ⟨5, 1⟩])).heldKnot stK 0 = some (63, knotOf [⟨0, 0⟩, ⟨5, 1⟩]) ∧ stK.accessIds = [] ∧
      (sK (knotOf alone2)).early = [] := by
  refine ⟨allAlone_of ?_, allAlone_of ?_, ?_, ?_, ?_, ?_⟩ <;> decide +kernel

/-- A tile of the knot in slot 3: T8, shape 16x16x1. -/
def tile0 : Tile := ⟨63, 5, 3, .t8, 2, false, List.replicate 256 .zero, false, 3⟩

def ref0 : TileRef := ⟨0, 3⟩

/-- TileWordsResults: a free slot with room in the store, and a tile that is there; a strand that holds no knot. -/
theorem witness_TileWordsResults :
    let words := [Instr.tall .t8 2 free ref0, .tall .t8 9 free ref0, .tall .i8 2 free ref0, .tfree free ref0, .tzero free ref0]
    (∀ i ∈ words, (sK (knotOf alone2)).Alone x0 i 0 stK) ∧ (sK (knotOf alone2)).tileAt 63 3 = none ∧
      (sK (knotOf alone2)).freeTileEntry 0 = some 0 ∧
      (∀ i ∈ words, (sK (knotOf alone2) stK [(7, tile0)]).Alone x0 i 0 stK) ∧
      (sK (knotOf alone2) stK [(7, tile0)]).tileAt 63 3 = some (7, tile0) ∧
      (∀ i ∈ words, s0.Alone x0 i 0 st0) ∧ s0.heldKnot st0 0 = none := by
  refine ⟨allAlone_of ?_, ?_, ?_, allAlone_of ?_, ?_, allAlone_of ?_, ?_⟩ <;> decide +kernel

/-- RejectionTraps. -/
theorem witness_RejectionTraps :
    let p : Pend := ⟨4, 3, 15, ⟨0x10000, 1⟩, false, none, 0, .plain, false, .refused 13 3 none, []⟩
    (sAct p.act).pend? 0 4 = some p ∧ (sAct p.act).strand? 0 = some { st0 with outs := [p] } ∧ st0.run = .candidate ∧
      p.isFence = false := by decide +kernel

/-- TileLoads: rows at 0x10040 with the smallest stride, and a stride that is too small; the pieces of a load about to be
performed. -/
theorem witness_TileLoads :
    let y := withReg 8 60 (withReg 6 64 (withReg 2 0x10040 stK))
    let s := sK (knotOf alone2) y [(7, tile0)]
    let rows := (List.range 16).map fun j => (j * 64, (0x10040 + j * 64) % 2 ^ 64)
    s.Alone x0 (.tload free ref0 2 (.v 6)) 0 y ∧ s.Alone x0 (.tload free ref0 2 (.v 8)) 0 y ∧ s.tileAt 63 3 = some (7, tile0) ∧
      (y.regs.pair 2).toNat = 0x10040 ∧
      (match s.tloadPieces 0 3 64 rows with | .ok ps => ps.length == 16 | .error _ => false) = true := by
  refine ⟨alone_of ?_, alone_of ?_, ?_, ?_, ?_⟩ <;> decide +kernel

theorem witness_TileLoads_perform :
    let ps : List (Nat × Part) := [(0, pt 0x20040 4 0x10040)]
    let p : Pend := ⟨4, 15, 15, ⟨0x10000, 1⟩, false, none, 0, .contribution 0, false, .mem ps 0 plain (.tload 63 3 0x10040 64 16 16), []⟩
    let y := { stK with outs := [p] }
    let s := sK (knotOf alone2) y [(7, tile0)]
    s.strand? 0 = some y ∧ s.pend? 0 4 = some p ∧ s.lowerLaneWaits 0 p = false ∧ s.farReady none = true ∧ s.busFault false (ps.map Prod.snd) = none ∧ s.tileAt 63 3 = some (7, tile0) ∧
      (∀ n < 1, ∀ q, ps[n]? = some q → y.mayPerform p ps plain n q.2 = true ∧ keyPackage q.2.key = none) ∧
      4 * (shapeMNK tile0.shape).2.1 = 64 := by
  refine ⟨by decide +kernel, by decide +kernel, by decide +kernel, by decide +kernel, by decide +kernel, by decide +kernel, ?_, by decide⟩
  intro n hn q hq
  have : n = 0 := by omega
  subst this
  cases hq
  decide +kernel

/-! ## Contractions, drains, the copy engine -/

/-- Contractions: one lane that holds the knot; and a block at the head of its governor's list. -/
theorem witness_Contractions :
    let i := Instr.ctr .t8 2 false false free ref0 60 0
    let b : CtrBlock := ⟨63, 3, .t8, 2, [], [(0, 5)], 0x10000, 1⟩
    let g : Governor := ⟨6, 400, some 4, [⟨9, 0, b⟩], 0, false, 0, false, 0⟩
    let s := { sK (knotOf alone2) stK [(7, tile0)] with governors := [(7, g)], cycles := 10 }
    i.wf = true ∧ (sK (knotOf alone2)).illegalHere x0 i = false ∧ (sK (knotOf alone2)).tagTraps x0 i = [] ∧
      (sK (knotOf alone2)).passing x0 i = [(0, stK)] ∧ stK.pastFence = false ∧
      (sK (knotOf alone2)).heldKnot stK 0 = some (63, knotOf alone2) ∧
      s.governors.get? 7 = some g ∧ tile0.fmt = b.fmt ∧ tile0.shape = b.shape ∧
      ({ s.knot 63 with svc := some 1 } : Knot).svc ≠ none ∧ 4 + 6 ≤ s.cycles ∧ ({ s with cycles := 9 } : State).cycles < 4 + 6 ∧ (s.knot 63).svc = none ∧
      s.tileAt 63 3 = some (7, tile0) := by decide +kernel

/-- Drains: an F32 drain of 16 rows at the smallest stride with no scales, and one rounded stochastically. -/
theorem witness_Drains :
    let y := withReg 11 0xFFFFFFFF (withReg 10 64 (withReg 8 0x10040 stK))
    let s := sK (knotOf alone2) y [(7, tile0)]
    s.Alone x0 (.tdrain .f32 .rne false (slot 0) ref0 63 8 0) 0 y ∧ s.Alone x0 (.tdrain .t8 .sr true (slot 0) ref0 63 8 58) 0 y ∧
      s.heldKnot y 0 = some (63, knotOf alone2) ∧ s.tileAt 63 3 = some (7, tile0) ∧ y.accessIds = [] ∧
      (y.regs.pair 8).toNat = 0x10040 ∧ (y.regs.reg 10).val.toNat = drainRowBytes .f32 16 ∧
      (s.scales y 0xFFFFFFFF 32).isSome = true ∧
      (s.rowParts 0 3 0x10040 64 64 16).length = 16 ∧ failures (s.rowParts 0 3 0x10040 64 64 16).flatten = [] ∧
      (∀ ps ∈ s.rowParts 0 3 0x10040 64 64 16, ∀ p ∈ found ps, keyPackage p.key = none) ∧ s.early = [] ∧
      (∀ y ∈ s.strands, samePlace y.1 0 = true → y.1 = 0) := by
  refine ⟨alone_of ?_, alone_of ?_, ?_, ?_, ?_, ?_, ?_, ?_, ?_, ?_, ?_, ?_, ?_⟩ <;> decide +kernel

/-- Drains: a scale past the scratchpad, and a stride that is no multiple of the row's alignment. -/
theorem witness_Drains_checks : s0.scales st0 0xFFFFFFF0 32 = none ∧ 65 % drainAlign .f32 ≠ 0 := by decide +kernel

/-- An engine whose class 3 holds these commands. -/
def engine3 (l : List CopyCmd) : CopyEngine := ⟨[[], [], [], l], [0, 0, 0, 4], 3, true⟩

/-- A command of the strand at 0: a box with origin 0, to scratchpad offset 16. -/
def cmd0 (kind : CopyKind) (att : Attach) (rec_ : Option Nat) : CopyCmd :=
  ⟨1, kind, 3, 7, 9, some 9, none, 0, 0, 4, 8, 0x10040, [0, 0, 0, 0, 0, 16], att, false, 0, [], rec_, 0, 0, 0, none, 0, none, false, 1, none⟩

/-- A layout record: version 1, four-byte elements, one dimension of one element at 0x10080, scope d. -/
def record0 : Nat := 2 ^ 496 + 2 * 2 ^ 493 + 2 ^ 489 + 4 * 2 ^ 486 + 2 ^ 416 + 2 ^ 64 + 0x10080

/-- CopyWordsQueue: class 3 with 31 commands and with 32, and a barrier of the hank to attach. -/
theorem witness_CopyWordsQueue :
    let s := fun (n : Nat) => { sBar bar0 with copyEngines := [(0, engine3 (List.replicate n (cmd0 .box .nothing none)))] }
    let words := [Instr.cpb 3 .nothing (slot 0) 63 2 4, .cpg 3 .nothing (slot 0) 8 62 60, .cps 3 .nothing (slot 0) 8 2 60,
      .cpf 3 .nothing (slot 0) 8 2 58, .cqf 3 15 (slot 0) 8, .cpb 3 (.barrier 127) (slot 0) 8 2 58]
    words.all Instr.wf = true ∧ (∀ i ∈ words, (s 31).Alone x0 i 0 st0) ∧ (∀ i ∈ words, (s 32).Alone x0 i 0 st0) ∧
      st0.pastFence = false ∧ (((s 31).engine 0).queue 3).length = 31 ∧ (((s 32).engine 0).queue 3).length = 32 ∧
      (s 31).barriers.get? 127 = some bar0 ∧ bar0.owner = st0.hank := by
  refine ⟨?_, allAlone_of ?_, allAlone_of ?_, ?_, ?_, ?_, ?_, ?_⟩ <;> decide +kernel

/-- CopyCommandStarts: a record that passes its checks, one that does not, and one at an address that is not a multiple of 64. -/
theorem witness_CopyCommandStarts :
    let c := cmd0 .box .nothing none
    let s := fun (r : Nat) => { sBar bar0 with copyEngines := [(0, engine3 [c])], mem := Memory.writeN 0x20040 r 64 [] }
    (((s record0).engine 0).queue 3).head? = some c ∧ (s record0).parts 0 3 .read 0x10040 64 = .ok [pt 0x20040 64 0x10040] ∧
      c.check ((s record0).mem.readN 0x20040 64) = 0 ∧ c.check ((s 0).mem.readN 0x20040 64) = 3 ∧
      ({ c with recAddr := 0x10041 } : CopyCmd).recAddr.toNat % 64 ≠ 0 := by decide +kernel

/-- CopyChunkMoves: the last unit of the command, with just enough credit. -/
theorem witness_CopyChunkMoves :
    let c := cmd0 .box .nothing (some record0)
    let s := { sBar bar0 with copyEngines := [(0, engine3 [c])] }
    (s.engine 0).visit = 3 ∧ (s.engine 0).credited = true ∧ s.hasWork 0 c = true ∧ c.chunkUnits record0 = 1 ∧
      c.total record0 = c.done + 1 ∧ recUnit record0 = (s.engine 0).deficits.getD 3 0 ∧
      s.copyMove 0 (s.noteRow 0 c record0 c.done) record0 c.done = (.global 0x10080, .scratch 16 16) ∧
      s.copyParts 0 c false 0x10080 4 = .ok [pt 0x20080 4 0x10080] ∧
      s.copyScratch c record0 16 16 = .ok [pt (bankKey 0 16) 4 16] ∧
      c.indexed = false := by
  decide +kernel

/-- CopyCompletes: a finished command with nothing attached, and one with a barrier attached. -/
theorem witness_CopyCompletes :
    let c := { cmd0 .box .nothing (some record0) with finished := true }
    let d := { cmd0 .box (.barrier 127) (some record0) with finished := true, attached := true }
    (({ sBar bar0 with copyEngines := [(0, engine3 [c])] }.engine 0).queue 3).head? = some c ∧
      (({ sBar bar0 with copyEngines := [(0, engine3 [d])] }.engine 0).queue 3).head? = some d ∧
      (sBar bar0).barriers.get? 127 = some bar0 ∧ bar0.owner = d.hank ∧ bar0.arr + 1 < bar0.exp := by decide +kernel

/-! ## Control, closures -/

/-- BranchResults: forward and backward, and with every hint. -/
theorem witness_BranchResults : ∀ i ∈ [Instr.bra false always (2 ^ 32 - 1) 3, .bra true always 0 0, .jmp always 62 3, .yield always],
    s0.Alone x0 i 0 st0 := allAlone_of (by decide +kernel)

/-- The strand inside one call, with a frame of 64 bytes. -/
def stC : Strand := { st0 with regs := { st0.regs with calls := [⟨0x10000, 0x10000, 64, 0⟩], fp := 0x10040, size := 64, depth := 1 } }

/-- CallsAndReturns: a frame that just fits the stack region and one that does not, at depths 0 and 31; a return from depth 1 and
one at depth 0. -/
theorem witness_CallsAndReturns :
    let deep := { st0 with regs := { st0.regs with depth := 31 } }
    (∀ i ∈ [Instr.call always 64 0, .call always 65 0, .calli always 2 64, .calli always 2 65, .ret always], s0.Alone x0 i 0 st0) ∧
      (∀ i ∈ [Instr.call always 64 0, .calli always 2 65], (one deep).Alone x0 i 0 deep) ∧
      st0.regs.fp.toNat + st0.regs.size + 64 * 64 ≤ st0.stackE.toNat ∧
      ¬ st0.regs.fp.toNat + st0.regs.size + 64 * 65 ≤ st0.stackE.toNat ∧
      (one stC).Alone x0 (.ret always) 0 stC ∧ 0 < stC.regs.depth := by
  refine ⟨allAlone_of ?_, allAlone_of ?_, ?_, ?_, alone_of ?_, ?_⟩ <;> decide +kernel

/-- ExitResults: a strand that holds neither handle nor knot. -/
theorem witness_ExitResults : s0.Alone x0 (.exit always) 0 st0 ∧ s0.governors = [] ∧ st0.regs.k = List.replicate 8 0 ∧
    st0.regs.n = [none, none, none, none] := ⟨alone_of (by decide +kernel), rfl, rfl, rfl⟩

/-- BreakAndTrapWords, SoftwareTrapResumes: in the last slot of a clause, and before it. -/
theorem witness_BreakAndTrapWords :
    let last := { s0 with quarters := [(0, { Quarter.idle with cur := some { x0 with word := 4 } })] }
    (∀ i ∈ [Instr.brk always 65535, .trap always 0], s0.Alone x0 i 0 st0) ∧
      last.Alone { x0 with word := 4 } (.trap always 65535) 0 st0 ∧ st0.handler = false ∧ st0.pastFence = false := by
  refine ⟨allAlone_of ?_, alone_of ?_, ?_, ?_⟩ <;> decide +kernel

/-- Context 3, check 1, environment 5 of core 0. -/
def handle5 : DWord := 0x8003_0001_0000_5000

def env5 (refs : Nat) : Env := ⟨.live, 0x10000, 0, 0, refs, 1, 3, [⟨1, .i32⟩, ⟨2, .f32⟩], [], 0, 0, 0⟩

/-- The strand with the handle in k7, and a frame of 64 bytes. -/
def stH : Strand := { stC with regs := { stC.regs with k := List.replicate 7 0 ++ [handle5] } }

def sH (refs : Nat) (st : Strand := stH) : State := { one st with envs := [(5, env5 refs)] }

theorem env_const (l : List Nat) (e : Env) (k : Nat) (h : k ∈ l) : AMap.get? (l.map fun i => (i, e)) k = some e := by
  induction l with
  | nil => cases h
  | cons a l ih =>
    simp only [List.map_cons, AMap.get?]
    split
    · rfl
    · rename_i hn
      rcases List.mem_cons.1 h with rfl | h
      · exact absurd rfl hn
      · exact ih h

/-- ClosureWordsResults: an empty register and one that holds a handle; the first free environment and a core without one; a span
that ends at the frame and one past it; a reference that is the last, and one that is not. -/
theorem witness_ClosureWordsResults :
    (∀ i ∈ [Instr.cap free 0 (.pair 2) 8 16, .cap free 0 (.literal 0x10000) 0 0, .capr free 0 (.const 0) (.const 1), .kdup free 1 0,
      .kdrop free 7, .kinfo .h (slot 0) 8 0, .kinfo .e (slot 0) 8 0], s0.Alone x0 i 0 st0) ∧
    (∀ i ∈ [Instr.capr free 7 (.const 16) (.const 16), .capr free 7 (.const 26) (.const 1), .kdup free 0 7, .kdrop free 7,
      .kinfo .h (slot 0) 8 7, .kinfo .s (slot 0) 8 7, .kinfo .e (slot 0) 62 7], (sH 1).Alone x0 i 0 stH) ∧
    (sH 2).Alone x0 (.kdrop free 7) 0 stH ∧ s0.freeEnv 0 = some 0 ∧ envKey handle5 = 5 ∧ ((sH 1).env 5).refs ≤ 1 ∧ 16 + 16 ≤ stH.regs.size ∧
      stH.regs.size ≤ ((sH 1).lane x0 0 stH).nat .i32 (.const 26) + 0 := by
  refine ⟨allAlone_of ?_, allAlone_of ?_, alone_of ?_, ?_, ?_, ?_, ?_, ?_⟩ <;> decide +kernel

/-- ClosureWordsResults behind a closure word, and QueuedClosureWords: the first of the queue, and one behind it. -/
theorem witness_QueuedClosureWords :
    let p := fun (id : Nat) (i : Instr) =>
      (⟨id, 15, 15, ⟨0x10000, 1⟩, false, none, 0, .closure, false, .closure i [] none 1, []⟩ : Pend)
    let y := { stH with outs := [p 3 (.kdrop free 7), p 4 (.kinfo .h (slot 0) 8 7)] }
    ([Instr.cap free 0 (.pair 2) 8 16, .capr free 7 (.const 16) (.const 16), .kdup free 0 7, .kdrop free 7,
        .kinfo .s (slot 0) 8 7].all fun i => alone (sH 2 y) x0 i 0 y) = true ∧ queued y .closure = true ∧
      (sH 2 y).pend? 0 3 = some (p 3 (.kdrop free 7)) ∧ y.frameId ≤ 3 ∧ 1 < ((sH 2 y).env (envKey handle5)).refs ∧
      (∀ q ∈ y.outs, q.kind = .closure → 3 ≤ q.id) ∧ ¬ ∀ q ∈ y.outs, q.kind = .closure → 4 ≤ q.id := by decide +kernel

theorem alone_envs {s : State} {x : Issue} {i : Instr} {l : Nat} {st : Strand} (m : AMap Env) (a : s.Alone x i l st) :
    ({ s with envs := m } : State).Alone x i l st :=
  ⟨⟨a.cur, a.legal, a.lane, a.strand, a.pred, a.tags⟩, a.only⟩

theorem freeEnv_full (s : State) (h : ∀ k ∈ (List.range 2048).map (0 * 2048 + ·), s.envs.get? k = some (env5 1)) :
    s.freeEnv 0 = none := by
  simp only [State.freeEnv, List.find?_eq_none]
  intro k hk
  simp only [State.env, AMap.getD, h k hk]
  simp [env5]

theorem fullMap (l : List Nat) : ∃ m : AMap Env, ∀ k ∈ l, m.get? k = some (env5 1) := ⟨_, fun _ hk => env_const l _ _ hk⟩

theorem witness_ClosureWordsResults_full : ∃ m : AMap Env,
    ({ s0 with envs := m } : State).Alone x0 (.cap free 0 (.pair 2) 8 1) 0 st0 ∧ ({ s0 with envs := m } : State).freeEnv 0 = none := by
  obtain ⟨m, hm⟩ := fullMap ((List.range 2048).map (0 * 2048 + ·))
  exact ⟨m, alone_envs m (alone_of (by decide +kernel)), freeEnv_full { s0 with envs := m } hm⟩

/-- A spawn braid of context 3 on core 0: hank 8, braid 1. -/
def spawnHank : Hank := { hank0 with braids := [1], scrkb := 0, banks := [], strands := 32, spawn := some 0 }

/-- ApplyAndSpawn: the last size that fits; a spawn braid with every lane free; an empty register. -/
theorem witness_ApplyAndSpawn :
    let s := { sH 65534 with hanks := [(7, hank0), (8, spawnHank)] }
    (∀ i ∈ [Instr.apply always 7 62, .spawn (slot 0) 8 7 (.const 0)], s.Alone x0 i 0 stH) ∧
      (∀ i ∈ [Instr.apply always 0 0, .spawn (slot 0) 8 0 (.v 2)], s0.Alone x0 i 0 st0) ∧
      queued stH .closure = false ∧ stH.pastFence = false ∧ s.hanks.get? 8 = some spawnHank ∧ spawnHank.ctx = s.ctxNum stH ∧
      posOf 1 0 ≠ posOf x0.braid 0 ∧
      (s.env (envKey handle5)).refs < 65535 ∧ s.spawnBraids (envKey handle5 / 2048) = [(0, 8, 1)] ∧ s.freeLane 1 = some 0 ∧
      stH.regs.fp.toNat + stH.regs.size + 64 * 62 ≤ stH.stackE.toNat := by
  refine ⟨allAlone_of ?_, allAlone_of ?_, ?_, ?_, ?_, ?_, ?_, ?_, ?_, ?_, ?_⟩ <;> decide +kernel

theorem lastPiece_mem {s : State} {y : Strand} {p : Pend} {q : Part} {o : Order} {op : MemOp} (m : Memory) (e : AMap Env)
    (h : LastPiece s 0 4 y p 0 q 0 o op) : LastPiece { s with mem := m, envs := e } 0 4 y p 0 q 0 o op :=
  ⟨h.strand, h.pend, h.free, h.act, h.turn, h.may, h.near, h.there, h.sound, h.settled, h.before, h.far, h.running⟩

/-- HandleLoads: 0, a handle of the context, and one of context 4. -/
theorem witness_HandleLoads :
    let s := fun (v : Nat) => { sOp (hbmPart 8) plain (.loadK 7) with mem := Memory.writeN 0x20040 v 8 [], envs := [(5, env5 65534)] }
    let y := { st0 with outs := [pendOf (hbmPart 8) plain (.loadK 7)] }
    (∀ v, LastPiece (s v) 0 4 y (pendOf (hbmPart 8) plain (.loadK 7)) 0 (hbmPart 8) 0 plain (.loadK 7)) ∧
      (s 0).mem.readN 0x20040 8 = 0 ∧ (s handle5.toNat).mem.readN 0x20040 8 = handle5.toNat ∧ bits handle5.toNat 55 48 = 3 ∧
      bits (handle5.toNat + 2 ^ 48) 55 48 ≠ (s 0).ctxNum y ∧ ((s 0).env (envKey handle5)).refs < 65535 := by
  refine ⟨fun v => lastPiece_mem _ _ (lastPiece (hbmPart 8) plain (.loadK 7) rfl (hbmThere 8)), ?_, ?_, ?_, ?_, ?_⟩
  all_goals decide +kernel

/-! ## Traps, system words -/

/-- TrapDeliveryEntersHandler and TrapTableNamesHandler: the strand at 0 trapped with cause 4, and entry 4 of the trap table at
0x12020 naming 0x10100; entries that are not valid, and one whose page is not executable. -/
theorem witness_TrapDelivery :
    let y := { st0 with run := .trapped, trap := ⟨0x10000, 1, 4, 0, 0⟩ }
    let s := fun (e : Nat) => { one y with
      braids := [(0, ⟨7, 0, 1, BitVec.allOnes 32, 0, [⟨1, 0, 0x10000, 4, 0, 0⟩]⟩)]
      mem := Memory.writeN 0x20100 0xD000000000000000 8 (Memory.writeN 0x22020 e 8 []) }
    lanesOf 1 = [laneOf 0] ∧ (s 0x10101).strand? 0 = some y ∧ ctx0.st = .active ∧ ctx0.stopping = false ∧
      (s 0x10101).handlerFor 0 3 ctx0 4 = .ok 0x10100 ∧ (s 0x10101).early = [] ∧
      (match (s 0x10101).devParts 0 3 .write 2 0x14000 4096 with | .ok ps => ps.length == 1 | .error _ => false) = true ∧
      (s 0x10101).parts 0 3 .read 0x12020 8 = .ok [pt 0x22020 8 0x12020] ∧ (s 0x10101).mem.readN 0x22020 8 % 8 = 1 ∧
      (s 0x10100).mem.readN 0x22020 8 % 8 ≠ 1 ∧ (s 0x10103).mem.readN 0x22020 8 % 8 ≠ 1 ∧
      (match (s 0x20101).fetch8 0 3 0x20100 with | .ok _ => false | .error _ => true) = true := by decide +kernel

/-- A strand in handler mode after a trap with this record. -/
def stT (r : TrapRec) : Strand :=
  { st0 with handler := true, frame := some regs0, frameId := 5, trap := r, ttarget := 1
             outs := [⟨6, 15, 15, ⟨0x10000, 1⟩, false, none, 0, .plain, false, .regs [] 0, []⟩], nextId := 7 }

/-- ReturnFromHandler: a record held, one served, and a trap that holds none. -/
theorem witness_ReturnFromHandler :
    let held : TrapRec := ⟨0x10000, 1, 5, 18, 3 * 2 ^ 32⟩
    let y := { stT held with heldOn := some 3 }
    let s := { one y with ctxs := [(3, { ctx0 with inService := [⟨0x20000, 0x10000, 3, 0, [.op 3]⟩] })] }
    let o : Pend := ⟨3, 15, 15, ⟨0x10000, 1⟩, false, none, 0, .plain, false, .refused 5 0 none, []⟩
    let z := { y with outs := [o] }
    s.Alone x0 (.rte false always) 0 y ∧ s.Alone x0 (.rte true always) 0 y ∧ y.frame = some regs0 ∧ y.systemIds = [] ∧
      s.inServiceSeq 3 3 = true ∧ s.inServiceSeq 3 4 = false ∧ (∀ o ∈ y.outs, o.at_ = ⟨held.clause, held.word⟩ → o.act = .regs [] 0) ∧
      (one z).Alone x0 (.rte true always) 0 z ∧ z.systemIds = [] ∧ (one z).inServiceSeq 3 3 = false ∧
      (stT ⟨0, 0, 4, 0, 0⟩).heldOn = none := by
  refine ⟨alone_of ?_, alone_of ?_, ?_, ?_, ?_, ?_, ?_, alone_of ?_, ?_, ?_, ?_⟩ <;> decide +kernel

/-- ControlRegisters: every register a strand reads and writes, in a handler. -/
theorem witness_ControlRegisters :
    let y := stT ⟨0, 0, 4, 0, 0⟩
    (∀ i ∈ ([0x001, 0x002, 0x010, 0x011, 0x012, 0x020, 0x021, 0x022, 0x030, 0x031, 0x032].map (Instr.csrr (slot 0) 8)) ++
      [0x001, 0x002, 0x010, 0x031].map (Instr.csrw (slot 0) 8 · (.v 0)), (one y).Alone x0 i 0 y) ∧
      (one y).ctxs.get? ((one y).ctxNum y) = some ctx0 ∧ ((one y).braids.get? x0.braid).isSome = true := by
  refine ⟨allAlone_of ?_, ?_, ?_⟩ <;> decide +kernel

/-- The handler of the strand at 0, whose target is the strand at 1. -/
def sT (target : Strand) : State :=
  { one (stT ⟨0, 0, 4, 0, 0⟩) with strands := [(0, stT ⟨0, 0, 4, 0, 0⟩), (1, { target with index := 1 })] }

/-- HandlerReadsAndWritesTarget: a held target, with the last register and every other selector; a running one. -/
theorem witness_HandlerTargets :
    let y := stT ⟨0, 0, 4, 0, 0⟩
    let held := { st0 with held := true, index := 1 }
    (∀ n ∈ [0, 63, 0x100, 0x107, 0x108, 0x110, 0x111, 0x112, 0x113, 0x114, 0x115, 0x116, 0x117, 0x118, 0x120, 0x127],
      (sT held).Alone x0 (.tins (slot 0) 62 n) 0 y ∧ (sT held).Alone x0 (.tset (slot 0) 62 n (.v 0)) 0 y) ∧
    Targets (sT held) y 1 held ∧ Targets (sT st0) y 1 { st0 with index := 1 } ∧
    (sT st0).Alone x0 (.tins (slot 0) 62 0) 0 y ∧ (sT st0).Alone x0 (.tset (slot 0) 62 0 (.v 0)) 0 y := by
  have h : ∀ n ∈ [0, 63, 0x100, 0x107, 0x108, 0x110, 0x111, 0x112, 0x113, 0x114, 0x115, 0x116, 0x117, 0x118, 0x120, 0x127],
      alone (sT { st0 with held := true, index := 1 }) x0 (.tins (slot 0) 62 n) 0 (stT ⟨0, 0, 4, 0, 0⟩) = true ∧
      alone (sT { st0 with held := true, index := 1 }) x0 (.tset (slot 0) 62 n (.v 0)) 0 (stT ⟨0, 0, 4, 0, 0⟩) = true := by
    decide +kernel
  exact ⟨fun n hn => ⟨alone_of (h n hn).1, alone_of (h n hn).2⟩, ⟨by decide +kernel, by decide +kernel⟩,
    ⟨by decide +kernel, by decide +kernel⟩, alone_of (by decide +kernel), alone_of (by decide +kernel)⟩

/-- HandlerDecidesTarget: a trapped target. HandlerWordsOnSelf: a handler whose target is itself. -/
theorem witness_HandlerResumesTarget :
    let y := stT ⟨0, 0, 4, 0, 0⟩
    let target := { st0 with run := .trapped, index := 1 }
    let self := { y with ttarget := 0 }
    (∀ i ∈ [Instr.tresGo (slot 0) 8, .tresHold (slot 0) 8, .tresKill (slot 0) 8], (sT target).Alone x0 i 0 y) ∧
      Targets (sT target) y 1 target ∧
      (∀ i ∈ [Instr.tresGo (slot 0) 8, .tresHold (slot 0) 8, .tresKill (slot 0) 8, .tstep (slot 0) 8], (one self).Alone x0 i 0 self) ∧
      Targets (one self) self 0 self := by
  refine ⟨allAlone_of ?_, ⟨?_, ?_⟩, allAlone_of ?_, ⟨?_, ?_⟩⟩ <;> decide +kernel

/-- StepSwapAndTime: a held target in a braid of its own, all of whose strands are held; a hank of two strands to swap; a sleep
of 1 ns, one of 65535 ns, and a deadline that has passed. -/
theorem witness_StepSwapAndTime :
    let y := stT ⟨0, 0, 4, 0, 0⟩
    let held := { st0 with held := true, index := 1 }
    let s := { one y with strands := [(0, y), (32, held)] }
    s.Alone x0 (.tstep (slot 0) 8) 0 y ∧ Targets s y 32 held ∧
      (∀ z ∈ s.braidStrands (braidOf 32), z.2.run = .exited ∨ z.2.held = true) ∧ (s.quarter (32 / 512)).step = none ∧
      s.Alone x0 (.tswap always) 0 y ∧ s.hanks.get? y.hank = some hank0 ∧ hank0.stopping = false ∧
      (∀ i ∈ [Instr.gettime (slot 0) 62, .sleep free (.rel (.const 1)), .sleep free (.rel (.const 31)), .sleep free (.abs (.const 0))],
        s0.Alone x0 i 0 st0) ∧ ((s0.lane x0 0 st0).pair (.const 0)).toNat ≤ s0.time 0 := by
  refine ⟨alone_of ?_, ⟨?_, ?_⟩, ?_, ?_, alone_of ?_, ?_, ?_, allAlone_of ?_, ?_⟩ <;> decide +kernel

/-- SleepersWake: a deadline reached, and one still to come. -/
theorem witness_SleepersWake :
    let q : Pend := ⟨4, 3, 15, ⟨0x10000, 1⟩, false, none, 0, .plain, false, .served none ⟨0x10000, 2⟩ none, []⟩
    let s := fun (dl : Nat) => one { st0 with outs := [q], run := .blocked (.sleep dl) }
    (s 0).strand? 0 = some { st0 with outs := [q], run := .blocked (.sleep 0) } ∧ 0 ≤ (s 0).time 0 ∧ (s 1).time 0 < 1 ∧
      CoreEvent.wake 0 4 ∉ (s 0).events.getD 0 [] := by decide +kernel

/-! ## Fences, speculation, schedulers -/

/-- A fence of the strand, number 4. -/
def fence4 (k : FenceKind) (rd : List Nat) : Pend :=
  ⟨4, 15, 15, ⟨0x10000, 1⟩, false, none, 0, .plain, false, .fence k .d none regs0 none rd [], []⟩

/-- An access of the strand, number 3, earlier than the fence. -/
def early3 (op : MemOp) : Pend := { pendOf (hbmPart 4) plain op with id := 3 }

/-- FencesIssueAndComplete: a fence with nothing before it, with a load and with a store before it. -/
theorem witness_Fences :
    let s := fun (k : FenceKind) (l : List Pend) => one { st0 with outs := l ++ [fence4 k []] }
    (∀ i ∈ [Instr.fence .acq .b free, .fence .rel .sy (slot 0), .fence .ar .d ⟨always, 3, 0⟩], s0.Alone x0 i 0 st0) ∧
      (s .ar []).pend? 0 4 = some (fence4 .ar []) ∧ (s .acq [early3 (.load .s8 8)]).pend? 0 4 = some (fence4 .acq []) ∧
      (early3 (.load .s8 8)).isRead = true ∧ (s .rel [early3 (.store 1)]).pend? 0 4 = some (fence4 .rel []) ∧
      (early3 (.store 1)).isAccess = true ∧ (early3 (.store 1)).isRead = false := by
  refine ⟨allAlone_of ?_, ?_, ?_, ?_, ?_, ?_, ?_⟩ <;> decide +kernel

/-- DeferredTrapFollowsFence. -/
theorem witness_DeferredTrap :
    let y := { st0 with outs := [fence4 .acq []], run := .stalled (.ops [4]), deferred := some ⟨0x10000, 1, 4, 0, 0⟩ }
    (one y).strand? 0 = some y ∧ (one y).pend? 0 4 = some (fence4 .acq []) ∧ ((one y).braids.get? (braidOf 0)).isSome = true ∧
      y.held = false := by decide +kernel

/-- HoldBufferDrains: behind a fence, and free to leave, as a store and as a copy command. -/
theorem witness_HoldBufferDrains :
    let held := fun (a : Act) => (⟨5, 15, 15, ⟨0x10000, 1⟩, true, none, 0, .plain, false, a, []⟩ : Pend)
    let a : Act := .mem [(0, pt 0x20040 4 0x10040)] 0 plain (.store 1)
    let c : Act := .copy 3 (cmd0 .box .nothing none)
    let s := fun (l : List Pend) (a : Act) => { one { st0 with outs := l ++ [held a] } with copyEngines := [(0, engine3 [])] }
    (s [fence4 .ar []] a).pend? 0 5 = some (held a) ∧ (fence4 .ar []).isFence = true ∧ (s [] a).pend? 0 5 = some (held a) ∧
      (s [] c).pend? 0 5 = some (held c) ∧ (((s [] c).engine 0).queue 3).length < 32 ∧ 3 < ((s [] c).engine 0).queues.length := by
  decide +kernel

/-- FencesIssueAndComplete: an acquire fence that follows a release of the strand at 32, complete and behind a load. -/
theorem witness_Fences_handed :
    let f : Pend := { fence4 .acq [] with act := .fence .acq .d none regs0 none [] [(32, 4)] }
    let s := fun (l : List Pend) => { one { st0 with outs := [f] } with
      strands := [(0, { st0 with outs := [f] }), (32, { st0 with outs := l })] }
    (s []).pend? 0 4 = some f ∧ (s []).gone 32 4 = true ∧
      (s [early3 (.load .s8 8), fence4 .rel []]).strandWith 32 4 = some { st0 with outs := [early3 (.load .s8 8), fence4 .rel []] } ∧
      (early3 (.load .s8 8)).isAccess = true ∧ (0, 4) ∉ (s []).spoiled := by decide +kernel

/-- RollbackReturnsToCheckpoint: a word read past the fence that another observer has written, and one that none has. -/
theorem witness_Rollback :
    let y := { st0 with outs := [fence4 .acq [0x8010]] }
    let s := { one y with spoiled := [(0, 4)] }
    s.strand? 0 = some y ∧ y.fenceOf 0 = some (fence4 .acq [0x8010]) ∧ (0, 4) ∈ s.spoiled ∧ (0, 4) ∉ (one y).spoiled := by
  decide +kernel

/-- RoundChoosesHighestClass: one eligible braid at word 0 of its clause; a quarter whose slot is taken. -/
theorem witness_SchedulerRound :
    let y := { st0 with regs := { regs0 with pc := ⟨0x10000, 0⟩ } }
    let s := { one y with
      quarters := []
      mem := Memory.writeN 0x20008 0 8 (Memory.writeN 0x20000 (0xD * 2 ^ 60 + 7 * 2 ^ 53) 8 []) }
    (s0.quarter 0).cur.isSome = true ∧ (s.quarter 0).cur = none ∧ (s.quarter 0).aged = [] ∧
      (quarterBraids 0).foldl State.settleBraid s = s ∧ s.issueSet 0 = some (1, y) ∧ y.handler = false ∧
      (match s.fetchClause 0 3 0x10000 with | .ok c => c.words.length == 1 | .error _ => false) = true := by decide +kernel

/-- BraidsAge: at 48 rounds, and at 47. -/
theorem witness_BraidsAge :
    let s := fun (n : Nat) => { s0 with braids := [(0, ⟨7, 0, 1, BitVec.allOnes 32, n, []⟩)] }
    (s 48).braids.get? 0 = some ⟨7, 0, 1, BitVec.allOnes 32, 48, []⟩ ∧ ((s 48).issueSet 0).isSome = true ∧
      (s 47).braids.get? 0 = some ⟨7, 0, 1, BitVec.allOnes 32, 47, []⟩ ∧ 47 < 48 := by decide +kernel

/-- ParkedAndGatheredReturn: nothing left to watch; a strand to watch; a gather point with nothing before it. -/
theorem witness_Returns :
    let other := { st0 with index := 1 }
    let s := fun (r : Run) => { s0 with strands := [(0, { st0 with run := r }), (1, other)] }
    (one { st0 with run := .parked 2 }).strand? 0 = some { st0 with run := .parked 2 } ∧
      2#32 &&& (one { st0 with run := .parked 2 }).candMask 0 = 0 ∧ 2#32 &&& (s (.parked 2)).candMask 0 ≠ 0 ∧
      (one { st0 with run := .stalled .gather }).gatherBlocked 0 0 { st0 with run := .stalled .gather } 0x10000 1 = false := by
  decide +kernel

/-- ArbiterEventsApply: a strand blocked at a word of a bank, and the event that serves it; each other source alike. -/
theorem witness_ArbiterEvents :
    let p := fun (a : Act) => (⟨4, 3, 15, ⟨0x10000, 1⟩, false, none, 0, .plain, false, a, []⟩ : Pend)
    let s := fun (a : Act) (b : Run) (e : CoreEvent) => { one { st0 with outs := [p a], run := b } with events := [(0, [e])] }
    (∀ be ∈ [(Block.barrier, CoreEvent.barrier [(0, 4)]), (.knot, .knot [⟨0, 4, [], 0, none⟩]), (.word, .service 0 4 none false),
      (.sleep 0, .wake 0 4)], (s (.served none ⟨0x10000, 2⟩ none) (.blocked be.1) be.2).events.getD 0 [] = [be.2] ∧
        (s (.served none ⟨0x10000, 2⟩ none) (.blocked be.1) be.2).pend? 0 4 = some (p (.served none ⟨0x10000, 2⟩ none))) ∧
      (s (.served (some (8, .f32)) ⟨0x10000, 2⟩ none) (.blocked .fifo) (.service 0 4 (some 1) false)).pend? 0 4 =
        some (p (.served (some (8, .f32)) ⟨0x10000, 2⟩ none)) ∧
      (s .waiting .candidate (.copy 3 (cmd0 .box .nothing none))).events.getD 0 [] = [.copy 3 (cmd0 .box .nothing none)] := by
  decide +kernel

/-- SavedHanksReturn: a hank that was swapped out, and a core with none. -/
theorem witness_SavedHanksReturn :
    let v : SavedHank := ⟨7, hank0, true, [(0, ⟨7, 0, 1, BitVec.allOnes 32, 0, []⟩)], [(0, st0)], [], [], [], [], [], []⟩
    let s := { s0 with strands := [], braids := [], hanks := [], saved := [v], swapIn := [(0, [7])] }
    s.nextIn 0 = some v ∧ v.swap = true ∧ s0.nextIn 0 = none ∧ s.ctxs.get? 3 = some ctx0 ∧ s.imagesOf ctx0 v = [] ∧
      (∀ y ∈ v.strands, y.2.run ≠ .exited ∧ y.2.leaving = [] ∧ y.1 < 384 * 2048) ∧ s.hankStrands 7 = [] := by decide +kernel

/-- SavedHanksReturn: a hank in the save area, whose image cannot be read. -/
theorem witness_SavedHanksReturn_bad :
    let v : SavedHank := ⟨7, hank0, false, [(0, ⟨7, 0, 1, BitVec.allOnes 32, 0, []⟩)], [(0, st0)], [], [], [], [], [], []⟩
    let i : SaveImage := ⟨.hank 7, 0x10000, 64, 0⟩
    let c := { ctx0 with images := [i] }
    let s := { s0 with
      strands := [], braids := [], banks := [], hanks := [], saved := [v], swapIn := [(0, [7])], ctxs := [(3, c)] }
    s.nextIn 0 = some v ∧ s.imagesOf c v = [i] ∧ s.imageBad 3 c i = true := by decide +kernel

/-! ## Launches, queues, packets -/

/-- A kernel object: entry 0x10000, version 1, 16 registers, one braid, 256 KiB of scratchpad, a stack of 256 bytes. -/
def kernel0 : Nat := 2 ^ 240 + 256 * 2 ^ 104 + 2 ^ 92 + 2 ^ 80 + 2 ^ 64 + 0x10000

def launch0 (count nbsize : Nat) : Launch :=
  ⟨1, 3, 0, 0x10080, kernel0, 5, count, 0, 0, nbsize, 1, false, false, []⟩

def seatOn (core bank : Nat) : Seat := ⟨core, [63], [bank]⟩

/-- HanksArePlaced: the last slot of core 0 and a bank of its own; two cores side by side. -/
theorem witness_HanksArePlaced :
    let s := fun (n : Nat) => { s0 with launches := [(9, launch0 n n)]
                                        knots := (List.range 63).map fun i => (i, knotOf []) }
    (s 1).launches.get? 9 = some (launch0 1 1) ∧ (s 1).dispatches 9 (launch0 1 1) = true ∧
      (s 1).seatFits 3 kernel0 (seatOn 0 15) = true ∧ (s 1).turnOf (launch0 1 1) = true ∧ (s 2).dispatches 9 (launch0 2 2) = true ∧
      rectangle [seatOn 0 15, seatOn 1 16] = true ∧ (s 2).seatFits 3 kernel0 (seatOn 1 16) = true ∧ (s 2).turnOf (launch0 2 2) = true ∧
      (s 2).freeEntry 0 = some 63 := by decide +kernel

/-- A queue of context 3 on die 0 with a thread: ring of 256 slots at 0x10000, descriptor at 0x11000. -/
def queue0 (rd wr : Nat) : Queue :=
  { ctx := 3, die := 0, desc := 0x11000, base := 0x10000, log := 8, pri := 0, tslice := 1, tsdepth := 0, st := .running
    before := .created, thread := true, rdidx := BitVec.ofNat 64 rd, wridx := BitVec.ofNat 64 wr, doorval := 0, blockedAt := 0
    waiting := none, slice := 1000, svc := none, started := [], preempting := none, susp := false, bell := none }

def sQ (x : Queue) (m : Memory := []) : State := { s0 with queues := [(1, x)], mem := m }

/-- HanksArePlaced: queue 1 beside queue 2 of a higher QPRI, which has a hank to place that fits. -/
theorem witness_HanksArePlaced_order :
    let low := queue0 0 0
    let high := { queue0 0 0 with pri := 3, desc := 0x11040 }
    let m := { launch0 1 1 with queue := 2 }
    let s := { s0 with queues := [(1, low), (2, high)], launches := [(9, launch0 1 1), (10, m)] }
    s.queues.get? (launch0 1 1).queue = some low ∧ (2, high) ∈ s.queues ∧ high.die = low.die ∧ low.pri < high.pri ∧
      (10, m) ∈ s.launches ∧ s.dispatches 10 m = true ∧ s.launchFits m = true := by decide +kernel

/-- HanksRetireAndLaunchesComplete: a hank whose one strand has exited, and one whose strand runs; a launch with its hanks
retired, and one with a hank to come. -/
theorem witness_Retirement :
    let s := fun (r : Run) (n : Nat) => { one { st0 with run := r } with launches := [(9, { launch0 1 1 with retired := n })] }
    (∀ p ∈ (s .exited 0).hankStrands 7, p.2.run = .exited) ∧ hank0.spawn = none ∧ (∃ p ∈ (s .candidate 0).hankStrands 7, p.2.run ≠ .exited) ∧
      ((s .exited 0).launches.get? hank0.launch).isSome = true ∧ (s .exited 1).launchCopies 9 = false ∧ (s .exited 1).ctxs.get? 3 = some ctx0 ∧
      (∀ p ∈ (s .exited 1).strands, p.2.launch = 9 → ∀ o ∈ p.2.outs, o.toWrite = false) ∧
      (pendOf (hbmPart 8) plain (.store 1)).toWrite = true ∧ (pendOf (hbmPart 8) plain (.store 1)).isAccess = true ∧
      (7 : Nat) ≠ s0.uid ∧
      ({ launch0 1 1 with retired := 1 } : Launch).retired = 1 ∧ (launch0 1 1).retired ≠ (launch0 1 1).count := by decide +kernel

/-- A packet of kind k and length n (05 R92), with its other bytes. -/
def packet (k n rest : Nat) : Nat := 1 + 16 * k + 2 ^ 8 * n + 4 * 2 ^ 21 + rest

/-- The packet at the last slot of the ring, index 255, and a kernel object at 0x12000. -/
def sP (len p : Nat) : State :=
  sQ (queue0 252 (252 + len)) (Memory.writeN 0x22000 kernel0 64 (Memory.writeN 0x20FC0 p 64 []))

def atHead (len p : Nat) : Bool :=
  let s := sP len p
  let x := queue0 252 (252 + len)
  let w := pt 0x21018 8 0x11018
  decide (s.queues.get? 1 = some x) && s.takes x && !s.timedHolds 1 &&
    decide (s.head x = .packet { Packet.ofNat (p % 2 ^ 64) with val := p % 2 ^ (128 * Nat.min len 4) }) &&
    decide (s.devParts 0 3 .write 2 0x11018 8 = .ok [w]) && !x.over &&
    decide (keyPackage w.key = none ∧ ∀ write, s.busFault write [w] = none)

theorem atHead_of {len p : Nat} (h : atHead len p = true) :
    AtHead (sP len p) 1 (queue0 252 (252 + len)) { Packet.ofNat (p % 2 ^ 64) with val := p % 2 ^ (128 * Nat.min len 4) }
      (pt 0x21018 8 0x11018) := by
  simp only [atHead, Bool.and_eq_true, decide_eq_true_eq, Bool.not_eq_true'] at h
  obtain ⟨⟨⟨⟨⟨⟨h1, h2⟩, h3⟩, h4⟩, h5⟩, h6⟩, h7⟩ := h
  exact ⟨h1, h2, h3, rfl, h4, h6, .inr (.inr rfl), h5, rfl, h7, rfl, noPorts _ rfl _⟩

/-- The packets of the witnesses: a skip, a fence, a launch of one hank, a signal, a wait, and an apply with a status address. -/
def launchP : Nat := packet 1 4 (2 ^ 64 * 0x12000 + 2 ^ 192 * 1 + 2 ^ 224 * 1)
def signalP : Nat := packet 3 2 (2 ^ 64 * 0x13000 + 2 ^ 128 * 7 + 2 ^ 192 * 1)
def waitP : Nat := packet 2 2 (2 ^ 64 * 0x13000)
def applyP (status : Nat) : Nat := packet 4 2 (2 ^ 64 * 0x8003_0001_0000_5000 + 2 ^ 192 * status)

/-- PacketsRun: each kind of packet at the head of the queue, the launch in the last slots of the ring, with its kernel object. -/
theorem witness_PacketsRun :
    (∀ lp ∈ [(1, packet 0 1 0), (1, packet 5 1 0), (4, launchP), (2, signalP), (2, waitP), (2, applyP 0x13000)],
      ∃ k, AtHead (sP lp.1 lp.2) 1 (queue0 252 (252 + lp.1)) k (pt 0x21018 8 0x11018)) ∧
    (let s := sP 4 launchP
     Memory.wf s.mem = true ∧ s.devRead 0 3 0x12000 64 = .ok kernel0 ∧
      launchCode (s.featOf (queue0 252 256)) (Packet.ofNat (launchP % 2 ^ 512)) kernel0 = none) ∧
    (sP 2 signalP).devParts 0 3 .both 2 0x13000 8 = .ok [pt 0x23000 8 0x13000] := by
  have h : ([(1, packet 0 1 0), (1, packet 5 1 0), (4, launchP), (2, signalP), (2, waitP), (2, applyP 0x13000)].all
      fun lp => atHead lp.1 lp.2) = true := by decide +kernel
  exact ⟨fun lp hm => ⟨_, atHead_of (List.all_eq_true.1 h lp hm)⟩, by decide +kernel, by decide +kernel⟩

/-- ApplyPacketSpawns: a live closure of the context on core 0 with a spawn braid. -/
theorem witness_ApplyPacketSpawns :
    let s := { sP 2 (applyP 0) with hanks := [(7, hank0), (8, spawnHank)], envs := [(5, env5 65534)] }
    s.head (queue0 252 254) = .packet { Packet.ofNat (applyP 0 % 2 ^ 64) with val := applyP 0 % 2 ^ 256 } ∧
      s.spawnBraids 0 = [(0, 8, 1)] ∧ s.freeLane 1 = some 0 ∧ 0 < (s.env 5).refs ∧ (s.env 5).refs < 65535 ∧ (s.env 5).spans = [] ∧
      s.hanks.get? 8 = some spawnHank ∧ spawnHank.ctx = 3 := by decide +kernel

/-- PacketFaults: code 2, a packet of no length; code 4, a kind that does not exist; an empty head; and a launch whose kernel
object has version 0. -/
theorem witness_PacketFaults :
    let x := fun n => queue0 252 (252 + n)
    let old := { sP 4 launchP with mem := (sP 4 launchP).mem.writeN 0x22000 0 64 }
    (sP 1 (packet 0 0 0)).head (x 1) = .faulty 2 ∧ (sP 1 (packet 6 1 0)).head (x 1) = .faulty 4 ∧
      (sP 0 0).head (x 0) = .nothing ∧ (sP 1 0).takes (x 1) = true ∧
      (sP 1 0).devParts 0 3 .write 2 0x11038 8 = .ok [pt 0x21038 8 0x11038] ∧
      old.devRead 0 3 0x12000 64 = .ok 0 ∧ launchCode (old.featOf (x 4)) (Packet.ofNat (launchP % 2 ^ 512)) 0 = some 3 := by
  decide +kernel

/-- QueueThreads: a doorbell with the queue running, in created with a thread free, and with no thread free; a map list with one
queue, and a queue blocked where another waits. -/
theorem witness_QueueThreads :
    let idle := { queue0 0 0 with st := .created, thread := false }
    let s := fun (x : Queue) (e : Bool) => { sQ x with engines := e }
    let many := (1, { queue0 0 0 with st := .blocked }) :: (List.range 31).map fun i => (i + 2, queue0 0 0)
    let busy := { s0 with queues := many, mapLists := [(0, [40])] }
    (sQ (queue0 0 0)).queueAt 3 0x11000 = some (1, queue0 0 0) ∧ 24 / 8 = 3 ∧ 24 % 8 = 0 ∧ doorbellPage (24 * 65536 + 8) = (3, 0) ∧ (s idle true).threadFree idle = true ∧
      (s idle true).mapList 0 = [] ∧ (s idle false).threadFree idle = false ∧
      ({ s idle true with mapLists := [(0, [1])] } : State).nextMapped 0 = some 1 ∧ (s idle true).nextMapped 0 = none ∧
      32 ≤ busy.threads 0 ∧ busy.mapList 0 ≠ [] ∧ (sQ (queue0 0 0)).threads 0 < 32 ∧
      (s idle true).devParts 0 3 .read 2 0x11010 8 = .ok [pt 0x21010 8 0x11010] ∧
      (s idle true).devParts 0 3 .write 2 0x11020 8 = .ok [pt 0x21020 8 0x11020] := by decide +kernel

/-- SignalsAndSlices: a wait whose condition holds and one whose does not; a slice used up, with nothing resident and at hank
depth with a hank resident, and one nanosecond of it left. -/
theorem witness_SignalsAndSlices :
    let x := { queue0 0 0 with st := .blocked, waiting := some ⟨0, 0x13000, 0, 0⟩ }
    let r := { s0 with queues := [(1, queue0 0 0)], launches := [(9, launch0 1 1)] }
    (sQ x).devParts 0 3 .read 2 0x13000 8 = .ok [pt 0x23000 8 0x13000] ∧ (sQ x).ctxRuns 3 = true ∧
      waitHolds 0 ((sQ x).mem.readN 0x23000 8) 0 = true ∧ waitHolds 0 0 1 = false ∧
      (queue0 0 0).tslice * 1000 ≤ (queue0 0 0).slice ∧ (sQ (queue0 0 0)).queueHanks 1 = [] ∧ (sQ (queue0 0 0)).launchesOf 1 = [] ∧
      (sQ (queue0 0 0)).queueSaved 1 = [] ∧ r.queueHanks 1 ≠ [] ∧ (sQ (queue0 0 0)).queueSpawned 1 = [] ∧ 999 < (queue0 0 0).tslice * 1000 := by decide +kernel

/-- SignalsAndSlices: a slice of hank depth 1 that passes while a pre-empt at depth 0 waits for a hank in its clause. -/
theorem witness_SignalsAndSlices_deepen :
    let x := { queue0 0 0 with preempting := some 0, tsdepth := 1 }
    let s := { s0 with queues := [(1, x)], launches := [(9, launch0 1 1)] }
    s.queues.get? 1 = some x ∧ x.tslice * 1000 ≤ x.slice ∧ 7 ∈ s.queueHanks 1 ∧ s.hankQuiet 7 = false ∧
      s.hanks.get? 7 = some hank0 := by decide +kernel

/-! ## Translation, faults, commands -/

/-- TlbFills: a walk through two tables to a large leaf, one that fails, and one that meets an uncorrectable error; a page that
the cluster's TLB holds. -/
theorem witness_TlbFills :
    let leaf := 2 ^ 63 + 2 * 2 ^ 61 + 2 ^ 60 + 2 ^ 57 + 2 ^ 56 + 2 ^ 52 + 2 ^ 30
    let c := { ctx0 with root := 2 ^ 63 + 0x30000 }
    let s := { s0 with ctxs := [(3, c)], tlb := []
                       mem := Memory.writeN 0x40000 leaf 8 (Memory.writeN 0x40008 leaf 8 (Memory.writeN 0x30000 (2 ^ 63 + 0x40000) 8 [])) }
    s.ctxs.get? 3 = some c ∧ s.pointers = [] ∧ s.tlbEntry 0 3 (2 ^ 29 + 5) = none ∧
      s.walk 0 3 (2 ^ 63 + 0x30000) (2 ^ 29 + 5) = .ok ⟨leaf, 0, 2 ^ 30⟩ ∧
      s.walk 0 3 (2 ^ 63 + 0x30000) (2 ^ 30 + 5) = .fail { va := 2 ^ 30 + 5, cause := 1, level := 1 } ∧
      ({ s with upsets := [0xC000] } : State).walk 0 3 (2 ^ 63 + 0x30000) 5 = .fail { va := 5, cause := 7, level := 2 } ∧
      c.st = .active ∧ (let u := { s with clusterTlb := [⟨0, 3, 0x10000, 0x10000, leaf0⟩] }
        u.tlb.find? (fun e => e.hits 0 3 0x10040) = none ∧
          u.clusterTlb.find? (fun e => e.hits (clusterOf 0) 3 0x10040) = some ⟨0, 3, 0x10000, 0x10000, leaf0⟩) := by decide +kernel

/-- TlbInvalidates: no access under way, one, and one readable early. -/
theorem witness_TlbInvalidates :
    let p := pendOf (hbmPart 4) plain (.store 1)
    s0.tlbinv = none ∧ (∀ p ∈ s0.strands, p.2.outs = []) ∧ s0.early = [] ∧ (sOp (hbmPart 4) plain (.store 1)).ctxNum st0 = 3 ∧
      (0, { st0 with outs := [p] }) ∈ (sOp (hbmPart 4) plain (.store 1)).strands ∧ p.svc = none ∧ (hbmPart 4).key < 2 ^ 64 ∧
      ({ reach := .one 0, ctx := 3, launch := none, by_ := .strand 0, id := 4, parts := [hbmPart 4], val := 1 } : EarlyWrite).parts ≠ [] := by decide +kernel

/-- The page at 0x10000 of context 3 lies at 0x20000. -/
theorem page0 (s : State) (n : Need) (va len : Nat) (ht : s.tlb = [⟨0, 3, 0x10000, 0x10000, leaf0⟩])
    (hc : s.ctxs = [(3, ctx0)]) (h0 : 0 < len) (h1 : 0x10000 ≤ va) (h2 : va + len ≤ 0x20000) :
    s.devParts 0 3 n 2 va len = .ok [(pt (0x10000 + va) len va)] := by
  have hm : min len (2 ^ 16 - va % 2 ^ 16) = len := by omega
  have hl : ¬ len = 0 := by omega
  have hd : denied n leaf0 = none := by cases n <;> decide
  have hp : s.parts 0 3 n va len = .ok [(pt (0x10000 + va) len va)] := by
    have h3 : len ≤ 65536 - va % 65536 := by omega
    have ht' : s.translate 0 3 va = .ok ⟨leaf0, 0x10000, 0x10000⟩ := by
      have : 0x10000 ≤ va ∧ va < 0x10000 + 0x10000 := by omega
      simp [State.translate, State.tlbEntry, TlbEntry.hits, ht, this]
    have hq : s.part 0 3 va len = .ok (⟨leaf0, 0x10000, 0x10000⟩, (pt (0x10000 + va) len va)) := by
      have e : s.place ⟨leaf0, 0x10000, 0x10000⟩ va len = .ok (0x10000 + va) := by
        have hr : leafRem leaf0 = false := by decide
        have hl : leafFrame leaf0 = 0x20000 := by decide
        simp [State.place, hr, hl]
        omega
      have ho : leafOrd leaf0 = .rc := by decide
      have hc1 : leafCacheable leaf0 = true := by decide
      have hv : leafLevel leaf0 = 0 := by decide
      have hs : s.inServiceAt 3 va = none := by
        simp only [State.inServiceAt, hc]; rfl
      simp only [State.part, ht', hs, e, ho, hc1, hv, pt, Bool.true_and]
    simp [State.parts, h3, hq, State.parts.go, hd]
  have hm' : Nat.min len (2 ^ 16 - va % 2 ^ 16) = len := hm
  simp only [State.devParts, if_neg hl, hm', hp, Nat.sub_self, if_true]
  rfl

/-- FaultRecordsReachTheRing: the ring of context 3 at 0x13000 is at 0x23000; records in it, and the ring full. -/
theorem witness_FaultRecords :
    let s := fun (wr : Nat) => { s0 with mem := Memory.writeN 0x23000 wr 8 [] }
    (∀ wr, RingAt (s wr) 0 3 ctx0 0x23000) ∧ (s 7).ctxs.get? 3 = some ctx0 ∧
      ((s 7).mem.readN 0x23000 8 + 2 ^ 64 - (s 7).mem.readN 0x23008 8) % 2 ^ 64 ≠ 2 ^ ctx0.frLog ∧
      ((s 8).mem.readN 0x23000 8 + 2 ^ 64 - (s 8).mem.readN 0x23008 8) % 2 ^ 64 = 2 ^ ctx0.frLog ∧
      (∀ p ∈ ctx0.inService, p.page ≠ 0) ∧ 0 + 0x10000 ≤ ctx0.frBase.toNat ∧
      ({ ctx0 with pendingRecs := [(5, 0)] } : Ctx).pendingRecs = [(5, 0)] ∧ 0 / 2 ^ 23 % 512 = 0 := by
  refine ⟨?_, by decide +kernel, by decide +kernel, by decide +kernel, by decide +kernel, by decide, rfl, rfl⟩
  intro wr
  have hb : ctx0.frBase.toNat = 0x13000 := by decide
  have hg : 2 ^ ctx0.frLog = 8 := by decide
  refine ⟨by rw [hb, hg]; omega, rfl, rfl, ?_⟩
  intro m n off len h0 h1 h2
  rw [page0 _ n _ len rfl rfl h0 (by omega) (by omega)]
  refine ⟨_, rfl, ?_, rfl, ?_, ?_⟩
  · simp only [pt]; omega
  · show keyPackage (0x10000 + (ctx0.frBase.toNat + off)) = none
    unfold keyPackage
    rw [if_neg]; omega
  · intro w
    simp [State.busFault, State.upset, s0, one, State.reset]

/-- FaultsAreServed: a record of a resident page with nothing held on it, with an access and a stalled strand on it, and with a
queue's access; one whose page is not resident; and a context that waits for clause boundaries. -/
theorem witness_FaultsAreServed :
    let leaf := fun (res : Nat) => 2 ^ 63 + 2 * 2 ^ 61 + 2 ^ 60 + 2 ^ 57 + 2 ^ 56 + res * 2 ^ 52
    let page := fun (l : List Holder) => (⟨0, 2 ^ 30, 3, 3 * 2 ^ 32, l⟩ : InService)
    let c := fun (l : List Holder) => { ctx0 with root := 2 ^ 63 + 0x30000, inService := [page l] }
    let p := { pendOf (hbmPart 4) plain (.load (.b32 .f32) 8) with svc := some 3 }
    let y := { st0 with outs := [p], run := .stalled (.service 3), heldOn := some 3 }
    let x := { queue0 0 0 with svc := some 3, st := .faulted 0, before := .running }
    let s := fun (res : Nat) (st : Strand) (l : List Holder) => { one st with
      ctxs := [(3, c l)], queues := [(1, x)], mem := Memory.writeN 0x40000 (leaf res) 8 (Memory.writeN 0x40008 (leaf res) 8 (Memory.writeN 0x30000 (2 ^ 63 + 0x40000) 8 [])) }
    let u := (s 1 y [.op 4]).modCtx 3 fun c => { c with inService := c.inService.filter fun p => p.seq != 3 }
    (∀ l ∈ [[], [Holder.op 4], [.queue 1]], (s 1 y l).ctxs.get? 3 = some (c l) ∧ (c l).pendingRecs = [] ∧ (c l).st = .active ∧
      (c l).stopping = false ∧ (c l).inService.find? (fun p => p.seq == 3) = some (page l) ∧
      (s 1 y l).walk (dieOf ((page l).image / 2 ^ 23 % 512)) 3 (c l).root 0 = .ok ⟨leaf 1, 0, 2 ^ 30⟩) ∧
      (s 1 y [.op 4]).ctxNum y = 3 ∧ y.ctx = 3 ∧ p.id = 4 ∧
      u.devParts 0 3 (MemOp.load (.b32 .f32) 8).reach.2 3 0x10040 4 = .ok [pt 0x20040 4 0x10040] ∧
      (s 1 y []).queues.get? 1 = some x ∧ x.preempting = none ∧
      (s 0 y [.op 4]).walk (dieOf ((page [.op 4]).image / 2 ^ 23 % 512)) 3 (c []).root 0 =
        .fail { va := 0, cause := 2, level := 1, page := 0, size := 2 ^ 30 } ∧ ({ c [] with stopping := true } : Ctx).stopping = true := by
  decide +kernel

/-- The command block busy with an operation and these other bytes. -/
def sC (op rest : Nat) (s : State := s0) : State := { s with cmd := ⟨op + rest, true, false, false, 0, 0, 0⟩ }

/-- The descriptor of a context of version 1 (04 R84). -/
def descriptor0 : Nat :=
  let w := fun (b v : Nat) => v * 2 ^ b
  2 ^ 63 + 2 ^ 64 + w 128 0x7F + w 160 4 + w 192 0x1000 + w 256 0x2000 + w 320 4 + w 384 0x3000 + w 448 0x10000 + w 512 0x10000 +
    w 576 0x4000 + w 640 0x20000 + w 704 1

/-- RefusedCommandsChangeNothing: a stray byte on the last command, operations 0 and 14, and no context. -/
theorem witness_RefusedCommands :
    commands[12]? = some .enterServiceMode ∧ (sC 13 (2 * 2 ^ 8)).cmd.byte 0 = 12 + 1 ∧ 2 ≤ (sC 13 (2 * 2 ^ 8)).cmd.byte 1 ∧
      (sC 0 0).cmd.byte 0 = 0 ∧ (sC 14 0).cmd.byte 0 = 14 ∧ commands[5]? = some .destroy ∧ Commanded (sC 6 (9 * 2 ^ 64)) 6 [8] ∧
      s0.ctxs.get? ((sC 6 (9 * 2 ^ 64)).cmd.byte 8) = none := by
  refine ⟨?_, ?_, ?_, ?_, ?_, ?_, ⟨?_, ?_, ?_⟩, ?_⟩ <;> decide +kernel

/-- ContextsAreCreated: a legal descriptor, one past HBM, and one of zeros; a context in created whose trap table can be read, and
one whose table cannot. -/
theorem witness_ContextsAreCreated :
    let s := { sC 1 (0x20000 * 2 ^ 64) with mem := Memory.writeN 0x20000 descriptor0 128 [] }
    let made := { ctx0 with st := .created, feat := 0x7F }
    let t := fun (c : Ctx) => { sC 2 (3 * 2 ^ 64) with ctxs := [(3, c)] }
    Commanded s 1 [8, 9, 10, 11, 12, 13, 14, 15] ∧ s.modeRefuses false = false ∧ bits s.featAgreed.toNat 15 8 = 1 ∧
      descriptorBad (s.mem.readN (s.cmd.bytes 8 15) 128) s.featAgreed.toNat = false ∧ descriptorBad 0 s.featAgreed.toNat = true ∧
      s.ctxs.get? 255 = none ∧ Commanded (t made) 2 [8] ∧ (t made).ctxs.get? ((t made).cmd.byte 8) = some made ∧
      made.feat &&& (255 - (t made).featAgreed.toNat % 128) = 0 ∧
      (match (t made).devRead 0 3 0x12000 256 with | .ok _ => true | .error _ => false) = true ∧
      (match (t { made with trapBase := 0 }).devRead 0 3 0 256 with | .ok _ => false | .error _ => true) = true := by
  refine ⟨⟨?_, ?_, ?_⟩, ?_, ?_, ?_, ?_, ?_, ⟨?_, ?_, ?_⟩, ?_, ?_, ?_, ?_⟩ <;> decide +kernel

/-- ContextsMoveBetweenStates: an active context with nothing resident, and one with a live environment that fits its save area or
does not; one suspended without images, and with one that cannot be read; one faulted with its report released and not; and one to
destroy. -/
theorem witness_ContextsMove :
    let s := fun (op : Nat) (c : Ctx) => { sC op (3 * 2 ^ 64) with ctxs := [(3, c)], hanks := [], strands := [], envs := [(5, env5 1)] }
    let susp := { ctx0 with st := .suspended }
    let i : SaveImage := ⟨.env 5, 0x10000, 128, 0⟩
    let kept := { susp with images := [i] }
    let bad := { ctx0 with st := .faulted, recorded := true, faultCode := 9 }
    let q := { queue0 0 0 with st := .preempted, thread := false, susp := true, before := .running }
    (∀ n ∈ [3, 4, 5, 6], Commanded (s n ctx0) n [8]) ∧ (s 3 ctx0).ctxs.get? ((s 3 ctx0).cmd.byte 8) = some ctx0 ∧
      (s 3 ctx0).ctxHanks 3 = [] ∧ (s 3 ctx0).tiles = [] ∧ (∀ q x, (q, x) ∈ (s 3 ctx0).queues → x.ctx = 3 → (s 3 ctx0).launchesOf q = []) ∧
      ({ s 3 ctx0 with envs := [] } : State).envs = [] ∧ (env5 1).ctx = 3 ∧ (env5 1).st = .live ∧ ctx0.saveRoom 128 = some 0 ∧
      (s 3 ctx0).devParts 0 3 .write 2 0x10000 128 = .ok [pt 0x20000 128 0x10000] ∧ ({ ctx0 with saveSize := 64 } : Ctx).saveSize < 128 ∧
      (s 4 susp).modeRefuses susp.firmware = false ∧ susp.images = [] ∧ (s 4 susp).replays = [] ∧
      (q.susp = true ∧ q.st = .preempted ∧ q.before ≠ .preempted) ∧ bits s0.featAgreed.toNat 15 8 = 1 ∧
      (s 4 kept).ctxs.get? ((s 4 kept).cmd.byte 8) = some kept ∧ (s 4 kept).imageBad 3 kept i = true ∧
      (match ({ s 5 bad with mem := [(0x25000, 1)] } : State).devRead 0 3 0x15000 8 with
        | .ok v => v.testBit 0
        | .error _ => false) = true ∧
      (match (s 5 bad).devRead 0 3 0x15000 8 with | .ok v => !v.testBit 0 | .error _ => false) = true := by
  refine ⟨?_, ?_, ?_, ?_, ?_, ?_, ?_, ?_, ?_, ?_, ?_, ?_, ?_, ?_, ?_, ?_, ?_, ?_, ?_, ?_⟩
  · intro n hn
    have h : ∀ n ∈ [3, 4, 5, 6], (sC n (3 * 2 ^ 64)).cmd.busy = true ∧ (sC n (3 * 2 ^ 64)).cmd.byte 0 = n ∧
      (sC n (3 * 2 ^ 64)).cmd.stray [8] = false := by decide +kernel
    exact h n hn
  · decide +kernel
  · decide +kernel
  · decide +kernel
  · intro q x h; cases h
  all_goals decide +kernel

/-- QueueAndModeCommands: a queue descriptor that is valid, at an address that is and one that is not a multiple of 64; each command
on a queue in the state it asks for; and the two modes. -/
theorem witness_QueueAndModeCommands :
    let q := [16, 17, 18, 19, 20, 21, 22, 23]
    let at_ := fun (op addr : Nat) => sC op (3 * 2 ^ 64 + addr * 2 ^ 128)
    let s := { at_ 7 0x11000 with mem := Memory.writeN 0x21000 (0x10000 + 8 * 2 ^ 91) 64 [] }
    let t := fun (op : Nat) (x : Queue) => { at_ op 0x11000 with queues := [(1, x)] }
    Commanded s 7 (8 :: q) ∧ Commanded (at_ 7 0x11001) 7 (8 :: q) ∧ s.queueAt 3 0x11000 = none ∧
      s.devRead 0 3 0x11000 64 = .ok (0x10000 + 8 * 2 ^ 91) ∧ Commanded (t 8 (queue0 0 0)) 8 (8 :: 9 :: q) ∧
      Commanded (t 9 (queue0 0 0)) 9 (8 :: q) ∧ Commanded (t 10 (queue0 0 0)) 10 (8 :: q) ∧ Commanded (t 11 (queue0 0 0)) 11 (8 :: q) ∧
      (t 8 (queue0 0 0)).queueAt 3 0x11000 = some (1, queue0 0 0) ∧ (t 8 (queue0 0 0)).queueHanks 1 = [] ∧ (t 8 (queue0 0 0)).queueSpawned 1 = [] ∧ bits s0.featAgreed.toNat 15 8 = 1 ∧
      (t 9 { queue0 0 0 with st := .preempted, thread := false }).mapList 0 = [] ∧
      (let y := { queue0 0 0 with st := .unmapped, thread := false }
       ({ t 9 y with engines := true } : State).threadFree y = true ∧ ({ t 9 y with engines := false } : State).threadFree y = false) ∧
      Queue.read (t 10 (queue0 0 0)) (queue0 0 0) 24 8 = .ok 0 ∧ Commanded (sC 12 0) 12 [] ∧ Commanded (sC 13 0) 13 [] ∧
      (sC 12 0).mode = .service := by
  refine ⟨⟨?_, ?_, ?_⟩, ⟨?_, ?_, ?_⟩, ?_, ?_, ⟨?_, ?_, ?_⟩, ⟨?_, ?_, ?_⟩, ⟨?_, ?_, ?_⟩, ⟨?_, ?_, ?_⟩, ?_, ?_, ?_, ?_, ?_, ?_, ?_, ⟨?_, ?_, ?_⟩,
    ⟨?_, ?_, ?_⟩, ?_⟩ <;> decide +kernel

/-! ## The host, links, power -/

/-- HostAccess: the registers open, with the command block at rest and busy; the last byte of HBM and the first past it. -/
theorem witness_HostAccess :
    ({ s0 with regsOpen := true } : State).regsOpen = true ∧ s0.cmd.busy = false ∧ (sC 1 0).cmd.busy = true ∧ s0.tlbinv = none ∧
      s0.mode = .service ∧ s0.routes = [] ∧ s0.early = [] ∧ (∀ p ∈ s0.ports, p.2.buffer = []) ∧ 1280 * 10 ^ 9 - 1 + [(0 : Byte)].length ≤ 1280 * 10 ^ 9 ∧
      1280 * 10 ^ 9 < 1280 * 10 ^ 9 + [(0 : Byte)].length ∧ Memory.wf s0.mem = true ∧ s0.ctxs.get? 3 = some ctx0 := by decide +kernel

/-- PortEvents, HostRegistersAreRead: each state of port 17, before and after its 100 ms of training. -/
theorem witness_Ports :
    let port := fun (st : PortState) => (⟨true, st, 4, 1, 2, 0, 0, [⟨17, 0, 5, 0, 4, 3, 0⟩], 1, 0, some (17, 0), 8, 7⟩ : Port)
    let s := fun (st : PortState) (now : Nat) => { s0 with ports := [(17, port st)], regsOpen := true, devTime := now }
    (∀ st ∈ [PortState.down, .training, .active, .degraded, .retraining, .failed], (s st 0).ports.getD 17 portDown = port st) ∧
      (s .down 0).routes = [] ∧ (∀ f ∈ (port .active).buffer, f.port = 17) ∧ (∀ q ∈ (s .active 0).ports, q.1 = 17) ∧ 8 ≤ (port .active).consecutive ∧ (port .active).buffer = [] ++ ⟨17, 0, 5, 0, 4, 3, 0⟩ :: [] ∧
      ({ port .active with consecutive := 7 } : Port).consecutive < 8 ∧ (port .active).rxSeq = 0 ∧
      (port .training).since + 100000000 ≤ (s .training (7 + 100000000)).devTime ∧
      ¬ (port .training).since + 100000000 ≤ (s .training (7 + 99999999)).devTime ∧
      (port .active).lanes < 16 ∧ (port .active).peerPkg < 2 ^ 14 ∧ (port .active).peerPort < 32 := by decide +kernel

/-- LinksFailOver: a request that has waited one nanosecond too long, and one at the limit; two ports of one route. -/
theorem witness_LinksFailOver :
    let w : LinkWait := ⟨.op 4, 3, 0, 5, 10⟩
    let s := fun (now : Nat) => { s0 with linkWaits := [w], devTime := now }
    let x : Port := { portDown with st := .retraining, buffer := [⟨3, 0, 5, 0, 4, 3, 0⟩], since := 7 }
    let y : Port := { portDown with st := .active, lanes := 8 }
    let t := { s0 with ports := [(3, x), (17, y)], routes := [(5, 2 ^ 3 + 2 ^ 17)], devTime := 7 + 100000000 }
    (s (10 + 10000000 + 1)).linkWaits.filter (fun w => w.ctx == 3 && w.core == 0 && w.pkg == 5) = [w] ∧
      (s (10 + 10000000 + 1)).linkTmo * 1000 < (s (10 + 10000000 + 1)).devTime - w.since ∧ s0.ctxs.get? 3 = some ctx0 ∧
      (s (10 + 10000000)).devTime - w.since ≤ (s (10 + 10000000)).linkTmo * 1000 ∧
      t.ports = [(3, x), (17, y)] ∧ t.routes = [((⟨3, 0, 5, 0, 4, 3, 0⟩ : Flit).pkg, 2 ^ 3 + 2 ^ 17)] ∧ x.since + 100000000 ≤ t.devTime ∧
      y.buffer.length < 512 := by decide +kernel

/-- PowerBootAndManagement: a fourth hot sample, at 115 degrees; a trip; start-up with a second location whose image verifies behind one with a bad
signature; a heartbeat missed for 50 ms. -/
theorem witness_Power :
    let g := fun (n : Nat) (t : Bool) => (⟨0, 400, none, [], n, t, 7, true, 3⟩ : Governor)
    let x : Sensors := ⟨65535, 0, 0, 1840⟩
    let s := fun (n : Nat) (t : Bool) => { s0 with governors := [(7, g n t)], quarters := [] }
    (s 3 false).governors.get? 7 = some (g 3 false) ∧ x.power < 2 ^ 16 ∧ x.temp < 2 ^ 15 ∧ 1840 ≤ x.temp ∧
      (∀ d ∈ (s 3 false).governors, d.2.tripped = false) ∧ (g 4 true).tripped = true ∧ (s 4 true).quarters = [] ∧
      s0.mode ≠ .recovery ∧ (s0.governors.getD 7 governorIdle).tripped = false ∧ State.reset.mode = .startUp ∧
      State.reset.ctxs = [] ∧ State.reset.early = [] ∧
      50000000 ≤ ({ State.reset with silence := 50000000 } : State).silence ∧ State.reset.silence < 50000000 := by
  decide +kernel

/-- BootAndManagement: step 4 done, a location whose images all verify, Gladin's image loaded before the queue engines', behind one with
a bad signature. -/
theorem witness_Boot :
    let l : List (List BootImage) := [[⟨false, 1, 0, true, false⟩], [⟨true, 2, 0, true, true⟩, ⟨false, 3, 0, true, true⟩]]
    let s := { State.reset with boot := 4, bootWork := Config.bootNeeds 0 }
    (∀ x ∈ [⟨true, 2, 0, true, true⟩, (⟨false, 3, 0, true, true⟩ : BootImage)], x.ed25519 = true ∧ x.mlDsa = true ∧ s.fuse ≤ x.version) ∧
      l[1]? = some [⟨true, 2, 0, true, true⟩, ⟨false, 3, 0, true, true⟩] ∧ Config.bootNeeds s.moves ≤ s.bootWork ∧
      ∃ t, exec (.bootCompletes l 1) s = .next t ∧ t.images = [3, 2] := by
  refine ⟨by decide, rfl, Nat.le_refl _, ?_⟩
  refine ⟨_, congrArg Host.Outcome.next (if_pos ⟨rfl, rfl, rfl, Nat.le_refl _, by decide, by decide, by decide⟩), rfl⟩

/-- BootAndManagement: step 3, with fuses that allow no image of the locations. -/
theorem witness_NoImageVerifies :
    let s := { State.reset with boot := 3, fuse := ((Config.bootLocations 0).flatten.map BootImage.version).sum + 1 }
    s.mode = .startUp ∧ s.ctxs = [] ∧
      ∀ l ∈ (Config.bootLocations s.moves).take 4, l = [] ∨ ∃ x ∈ l, x.ed25519 = false ∨ x.mlDsa = false ∨ x.version < s.fuse := by
  refine ⟨rfl, rfl, fun l hl => ?_⟩
  match l, hl with
  | [], _ => exact .inl rfl
  | x :: r, hl =>
    refine .inr ⟨x, by simp, .inr (.inr ?_)⟩
    have hm : x.version ∈ (Config.bootLocations 0).flatten.map BootImage.version :=
      List.mem_map_of_mem (List.mem_flatten_of_mem (List.mem_of_mem_take hl) (by simp))
    exact Nat.lt_succ_of_le (List.single_le_sum (fun _ _ => Nat.zero_le _) _ hm)

/-! ## Fetching and steps -/

/-- ClausesAreFetchedFromMemory: a header of two words, one of a class that does not admit its word, and a word that is no header. -/
theorem witness_Clauses :
    let s := fun (h w : Nat) => { s0 with mem := Memory.writeN 0x20008 w 8 (Memory.writeN 0x20000 h 8 []) }
    let mix := 0xD * 2 ^ 60 + 7 * 2 ^ 53
    (∀ i ≤ 1, (s mix 0).parts 0 3 .exec (0x10000#64 + BitVec.ofNat 64 (8 * i)).toNat 8 =
      .ok [pt (0x20000 + 8 * i) 8 (0x10000 + 8 * i)]) ∧
      clauseOk ⟨7, 0, [0]⟩ = true ∧ clauseOk ⟨0, 0, [0x6000000000000000]⟩ = false ∧ bits mix 63 60 = 0xD ∧ bits mix 39 0 = 0 := by
  decide +kernel

/-- StepRunsDecodedWord: `add.sat.s.i8x4 v5, v3, v4` placed in the last slot but one of a clause. -/
theorem witness_Step :
    let s := State.reset.withFetchWord 64 0x04A0002806020000
    let r := { s.takeMove.2 with focus := 0, stepping := false }
    s.agenda.head? = some (.word 0) ∧ s.clocksStopped = false ∧ r.cur.isSome = true ∧
      (∀ x ∈ r.cur, r.reaching x ≠ [] ∧ decode (x.words.getD (x.word - 1) 0).toNat (x.words.getD x.word 0).toNat =
        .ok (.add ⟨true, false, .w8⟩ (toV 5) (.v 3) (.v 4)) ∧
        (r.reaching x).all (fun p => [true, false].all fun room => (r.gate { x with mask := maskOf ((r.reaching x).map Prod.fst) }
          (.ok (.add ⟨true, false, .w8⟩ (toV 5) (.v 3) (.v 4))) p.1 p.2 room).isNone) = true) := by decide +kernel

/-- StepRunsDecodedWord: that word, executed, leaves its strand a candidate there. -/
theorem witness_StepStrand :
    let r := { (State.reset.withFetchWord 64 0x04A0002806020000).takeMove.2 with focus := 0, stepping := false }
    r.cur.any (fun x =>
      let x' := { x with mask := maskOf ((r.reaching x).map Prod.fst) }
      match exec (.add ⟨true, false, .w8⟩ (toV 5) (.v 3) (.v 4)) (r.setCur x') with
      | .next v => v.cur == some x' && v.stepping == false && x'.mask.getLsbD 0 && (v.strand? (posOf x.braid 0)).any
          (fun y => y.run == .candidate && y.regs.pc == ⟨x.clause, x.word⟩)
      | _ => false) = true := by decide +kernel

/-- StepRunsDecodedWord: an event that comes next, and a package whose clocks are stopped. -/
theorem witness_StepEvent :
    ({ State.reset with agenda := [.event .heartbeatTimeout] }.agenda.head? = some (.event .heartbeatTimeout)) ∧
    Instr.heartbeatTimeout.info.word = false ∧ unclocked .heartbeatTimeout = true ∧ unclocked (.schedulerRound 0) = false ∧
    ({ State.reset with agenda := [.word 0], clocksStopped := true }).clocksStopped = true := by decide +kernel

/-- UnlistedWordsTrap: `vtag` with fn 15, which no instruction has, reached by a strand with nothing outstanding. -/
theorem witness_Unlisted :
    let s := State.reset.withFetchWord 64 0x1EF0002806000000
    let r := { s.takeMove.2 with focus := 0, stepping := false }
    s.agenda.head? = some (.word 0) ∧ s.clocksStopped = false ∧ r.cur.isSome = true ∧
      (∀ x ∈ r.cur, r.reaching x ≠ [] ∧
        (decode (x.words.getD (x.word - 1) 0).toNat (x.words.getD x.word 0).toNat).toOption = none ∧
        ∀ p ∈ r.reaching x, p.2.handler = false ∧ p.2.pastFence = false ∧ p.2.outs = []) := by decide +kernel

/-- R263: an illegal word of op 0x95 (fn 15) under a predicate that fails traps no strand, and under none traps it. -/
theorem test_tile_illegal :
    let run := fun (w : Nat) => match step (State.reset.withFetchWord 64 w) with
      | .next t => (t.strand? 0).map Strand.run
      | _ => none
    (decode 0x95F0280000000000 0).toOption = none ∧ run 0x95F0280000000000 ≠ some .trapped ∧
      run 0x95F0000000000000 = some .trapped := by decide +kernel

/-- UnlistedWordsTrap: no instruction encodes to that word, as op 0x1E takes fn 0 to 9 (R154). -/
theorem test_unlisted_vtag : (decode 0x1EF0002806000000 0).toOption = none := by decide +kernel

/-- SelectAndRetagRules: words of op 0x0D and 0x1E that decode, and one with fn 10. -/
theorem witness_SelectAndRetag :
    decode (encode (.sel (toV 5) (.v 3) (.v 4) (.v 6))).get!.word 0 = .ok (.sel (toV 5) (.v 3) (.v 4) (.v 6)) ∧
    decode (encode (.vtag .i32 (toV 5) (.v 3))).get!.word 0 = .ok (.vtag .i32 (toV 5) (.v 3)) ∧
    bits 0x1EA0002806000000 63 56 = 0x1E ∧ bits 0x1EA0002806000000 55 52 = 10 := by decide +kernel

/-- EncodeDecodeRoundTrip: a well-formed instruction, and a word that decodes. -/
theorem witness_EncodeDecode : Instr.nop.wf = true ∧ decode 0x04A0002806020000 0 = .ok (.add ⟨true, false, .w8⟩ (toV 5) (.v 3) (.v 4)) := by
  decide +kernel

/-- EveryStepKeepsMemoryCanonical and ModeChangesOnlyByItsEvents: a step from reset that changes the mode. -/
theorem witness_Invariant :
    let s := { State.reset with agenda := [.event .powerOn], mode := .service }
    s.MemOk ∧ ∃ t, step s = .next t ∧ t.mode ≠ s.mode := ⟨rfl, _, rfl, by decide +kernel⟩

/-! ## Single words: the worked examples of spec/ -/

/-- The value of register r of the strand in lane l, and the strand's flags, after word i. -/
def after (s : State) (i : Instr) (l r : Nat) : Option (Reg × FFlags) :=
  match exec i s with
  | .next t => (t.strand? l).map fun y => (y.regs.reg r, y.regs.fstat)
  | _ => none

/-- The strand with these registers from v0. -/
def stV (l : List Reg) : Strand := { st0 with regs := { regs0 with v := l ++ List.replicate (64 - l.length) .zero } }

/-- 08 R147: the two saturating sums of the table. -/
theorem test_add_sat : let s := one (stV [.zero, .zero, .zero, ⟨0x7F1080FF, .i8x4⟩, ⟨0x0101FF01, .i8x4⟩])
    (after s (.add ⟨true, false, .w8⟩ (toV 5) (.v 3) (.v 4)) 0 5).map Prod.fst = some ⟨0x7F118000, .i8x4⟩ ∧
      (after s (.add ⟨true, true, .w8⟩ (toV 5) (.v 3) (.v 4)) 0 5).map Prod.fst = some ⟨0x8011FFFF, .i8x4⟩ := by decide +kernel

/-- 08 R156: ffma rounds once. -/
theorem test_ffma : let s := one (stV [.zero, ⟨0x3F800001, .f32⟩, ⟨0x3F7FFFFE, .f32⟩, ⟨0xBF800000, .f32⟩])
    after s (.ffma .rne (toV 5) (.v 1) (.v 2) (.v 3)) 0 5 = some (⟨0xA8800000, .f32⟩, 0) ∧
      (after s (.fmul .rne (toV 4) (.v 1) (.v 2)) 0 4).map (fun p => p.1) = some ⟨0x3F800000, .f32⟩ := by decide +kernel

/-- 08 R165 and R166: the error-feedback examples. -/
theorem test_cvt_ef : let s := one (stV (List.replicate 4 ⟨0x3F880000, .f32⟩))
    (after s (.cvt .t8 .f32 .ef (toV 20) (.v 0) 0) 0 20).map Prod.fst = some ⟨0x41404140, .t8x4⟩ ∧
      (after s (.cvtb .t8 .ef true (toV 8) 0 3 (.const 0)) 0 8).map Prod.fst = some ⟨0x00404140, .t8x4⟩ ∧
      (after s (.cvtb .t8 .ef true (toV 8) 0 3 (.const 0)) 0 9).map Prod.fst = some ⟨0x3D800000, .f32⟩ := by decide +kernel

/-- 07 R140: eight lanes, of which lane 5's predicate fails. -/
def s8 : State :=
  let y := fun (l : Nat) (v : Word) => { stV ([.zero, ⟨if l = 5 then 0 else 1, .i32⟩, .zero, .zero, ⟨v, .i32⟩]) with index := l }
  { s0 with
    strands := [3, 1, 4, 1, 5, 9, 2, 6].zipIdx.map fun p => (p.2, y p.2 p.1)
    quarters := [(0, { Quarter.idle with cur := some { x0 with mask := 0xFF } })] }

theorem test_scan : let i := Instr.scan .add true ⟨⟨false, 1⟩, 5, none⟩ (.v 4)
    (List.range 8).map (fun l => (after s8 i l 5).map fun p => p.1.val) = [0, 3, 4, 8, 9, 0, 14, 16].map some := by decide +kernel

theorem test_red : let i := Instr.red .maxS ⟨⟨false, 1⟩, 7, none⟩ (.v 4)
    (List.range 8).map (fun l => (after s8 i l 7).map fun p => p.1.val) = [6, 6, 6, 6, 6, 0, 6, 6].map some := by decide +kernel

/-- 07 R134: the branch of the example, with disp -2, from 0x2010 to 0x2000. -/
theorem test_bra : let s := { s0 with quarters := [(0, { Quarter.idle with cur := some { x0 with clause := 0x2010 } })] }
    (match exec (.bra false always 0xFFFFFFFE 0) s with
      | .next t => (t.strand? 0).map fun y => y.regs.pc
      | _ => none) = some ⟨0x2000, 0⟩ := by decide +kernel

/-- 09: the leaf of the worked walk, with frame 0x0035_0047_0000 at 64 KiB. -/
theorem test_leaf : let e := 0x9390003500470000
    leafSz e = 0 ∧ leafOrd e = .rc ∧ leafCacheable e = true ∧ denied .both e = none ∧ denied .exec e = some 5 ∧
      e.testBit 52 = true ∧ leafFrame e = 0x003500470000 := by decide +kernel

/-! ## More corners of the hypotheses -/

/-- PrefetchAndPins: service mode, a line that does not cache, half of the ways of a set taken, and a line to release. -/
theorem witness_Pins_codes :
    let q := hbmPart 1
    let line := 0x20040 / 128
    let full : List Pin := (List.range 31).map fun i => ⟨4, 1, line + 2048 * (i + 1), i + 1⟩
    let s := { sOp q plain (.line true 8) with mode := .test, pins := full }
    (sOp q plain (.line true 8)).mode = .service ∧ { q with cached := false }.cached = false ∧ s.cacheWays 0 / 2 ≤
      ((s.pins.filter fun m => m.way / 64 == 0 && lineSet m.line == lineSet line).map Pin.line).dedup.length ∧
      (s.pins.filter fun m => m.ctx == 3 && m.core == 0).length < ((s.ctxs.get? 3).map Ctx.pinq).getD 0 ∧
      (∀ m ∈ s.pins, m.line ≠ line) ∧ (⟨3, 0, line, 9⟩ : Pin) ∈ ({ s with pins := [⟨3, 0, line, 9⟩] } : State).pins := by
  decide +kernel

theorem witness_Pins_uncached (d : Nat) : let q : Part := { hbmPart 1 with cached := false }
    LastPiece (sOp q plain (.line true d)) 0 4 { st0 with outs := [pendOf q plain (.line true d)] } (pendOf q plain (.line true d)) 0
      q 0 plain (.line true d) :=
  lastPiece _ plain _ rfl (fun st _ => by simp [State.stillThere, hbmPart, pt])

/-- BankModeChanges: a cache bank that holds a pin, a FIFO that a push waits for, and a bank that the hank does not have. -/
theorem witness_BankModes :
    let s := fun (m : BankMode) (l : List Waiter) =>
      { sAct (.bankset 0 .scratch 8 []) with banks := [(0, ⟨m, some 7, [], l, [], []⟩)], pins := [⟨3, 0, 9, 0⟩, ⟨3, 0, 9, 1⟩] }
    ((s .cache []).bank 0).mode = .cache ∧ ((s .fifo [⟨0, 3, true, 6, allObservers⟩]).bank 0).mode = .fifo ∧
      ((s .fifo [⟨0, 3, true, 6, allObservers⟩]).bank 0).pops = [] ∧ ((s .fifo [⟨0, 3, true, 6, allObservers⟩]).bank 0).pushes.length ≤ 65536 ∧
      ((s .cache []).bank 0).hank = some st0.hank ∧ alone s0 x0 (.bankset .fifo (slot 0) 8 (.const 1)) 0 st0 = true ∧
      hank0.banks.length ≤ (s0.lane x0 0 st0).nat .i32 (.const 1) := by decide +kernel

/-- NoiseSymbols: a strand with an earlier word in its queue, alone and as the lower lane of two. -/
theorem witness_NoiseQueued :
    let i := Instr.anoise free 3 (.v 0) (.const 56)
    let x := { x0 with mask := 3 }
    let y := { st0 with outs := [⟨4, 15, 15, ⟨0x10000, 1⟩, false, none, 0, .affine, false, .affine i 0 0, []⟩] }
    let s := { one y with strands := [(0, y), (1, st0)], quarters := [(0, { Quarter.idle with cur := some x })] }
    lanesOf x.mask = [0, 1] ∧ s.active x i.info.pred = [(0, y), (1, st0)] ∧ s.cur = some x ∧ s.illegalHere x i = false ∧
      tagFailure y.regs i.info = none ∧ tagFailure st0.regs i.info = none ∧ queued y .affine = true ∧ queued st0 .affine = false ∧
      y.regs.pc = x.here ∧ alone (one y) x0 i 0 y = true ∧ s0.lowerStalls x0 0 = [] := by decide +kernel

/-- BarrierRequests: a wait on a phase to come, a drop of all, a barrier in use; BarrierClaims and ForeignBarriers: one of hank 8. -/
theorem witness_BarrierTraps :
    let y := withReg 2 10
    let words := [Instr.barWait true free 127 (.v 2), .barWait false free 127 (.v 2), .barDrop free 127 (.const 4),
      .barFree free 127, .barArrive true (slot 0) 127 8, .barArrive false (slot 0) 127 8, .barSync true free 127,
      .barSync false free 127, .barTest (slot 0) 127 8 (.v 2), .barStat (slot 0) 127 8, .barInitArr free 127 (.const 1)]
    (∀ i ∈ words, alone (sBar bar0 y) x0 i 0 y = true ∧ alone (sBar { bar0 with owner := 8 } y) x0 i 0 y = true ∧
      alone (sBar { bar0 with att := 1 } y) x0 i 0 y = true ∧ alone (sBar { bar0 with arr := 1 } y) x0 i 0 y = true) ∧
      2 ^ 31 ≤ (bar0.phase + 2 ^ 32 - ((sBar bar0 y).lane x0 0 y).nat .i32 (.v 2)) % 2 ^ 32 ∧
      bar0.exp ≤ ((sBar bar0 y).lane x0 0 y).nat .i32 (.const 4) ∧
      (∀ b, (sBar { bar0 with owner := 8 } y).barriers.get? 127 = some b → b.owner ≠ y.hank) := by
  refine ⟨by decide +kernel, by decide +kernel, by decide +kernel, fun b h => ?_⟩
  cases h
  decide

/-- KnotMembership: a full table, an occupied slot, an empty one, and a knot held already. -/
theorem witness_KnotTraps :
    let full := { s0 with knots := (List.range 64).map fun i => (i, knotOf []) }
    let s := sK (knotOf alone2)
    alone full x0 (.jnew (slot 0) 3 8) 0 st0 = true ∧ (∀ j < 64, (full.knot (0 * 64 + j)).live = true) ∧
      alone s x0 (.join (slot 0) 0 8 (.v 0)) 0 stK = true ∧ (stK.regs.n.getD 0 none).isSome = true ∧
      alone s x0 (.join (slot 0) 3 8 (.v 0)) 0 stK = true ∧ stK.regs.n.getD 3 none = none ∧
      (s.liveKnot stK ((s.lane x0 0 stK).nat .i32 (.v 0))).isSome = true ∧
      some ((s.lane x0 0 stK).nat .i32 (.v 0)) ∈ stK.regs.n ∧ s.heldKnot stK 3 = none ∧
      ([Instr.leave free 3, .jrank (slot 0) 3 8, .jsize true (slot 0) 3 8].all fun i => alone s x0 i 0 stK) = true := by
  decide +kernel

/-- KnotCollectives: an empty slot, and another collective under way. -/
theorem witness_CollectiveTraps :
    let kn := { knotOf [⟨0, 0⟩, ⟨5, 1⟩] with kind := some (.red .add) }
    let words := fun (n : Nat) => [Instr.jbar true free n, .jbar false free n, .jscan .add true false (slot 0) n 8 (.v 4),
      .jscan .fadd false true (slot 0) n 8 (.v 5), .jred .minS false (slot 0) n 8 (.v 4)]
    ((words 3).all fun i => alone (sK kn) x0 i 0 stK) = true ∧ (sK kn).heldKnot stK 3 = none ∧
      ((words 0).all fun i => alone (sK kn) x0 i 0 stK) = true ∧ (sK kn).heldKnot stK 0 = some (63, kn) ∧ kn.svc = none ∧
      kn.queue = [] := by decide +kernel

/-- RejectionTraps: an affine word that found no symbol, and a contraction's block. -/
theorem witness_LateRejections :
    let p := fun (k : PendKind) (cause : Nat) =>
      (⟨4, 3, 15, ⟨0x10000, 1⟩, false, none, 0, k, false, .refused cause 0 none, []⟩ : Pend)
    (∀ q ∈ [p .affine 9, p .closure 12, p (.contribution 0) 13],
      (one { st0 with outs := [q] }).pend? 0 4 = some q ∧ st0.deferred = none ∧ q.isFence = false) := by decide +kernel

/-- Contractions: two lanes that hold two knots, a block whose tile is gone, and one whose tile has another format. -/
theorem witness_ContractionLanes :
    let i := Instr.ctr .t8 2 false false free ref0 60 0
    let y := { stK with regs := { stK.regs with n := [some (62 * 2 ^ 17 + 5), none, none, none] } }
    let x := { x0 with mask := 3 }
    let s := { sK (knotOf alone2) with
      strands := [(0, stK), (1, y)], knots := [(62, knotOf [⟨1, 0⟩]), (63, knotOf alone2)]
      quarters := [(0, { Quarter.idle with cur := some x })] }
    let b : CtrBlock := ⟨63, 3, .i8, 2, [], [(0, 5)], 0x10000, 1⟩
    s.cur = some x ∧ s.illegalHere x i = false ∧ s.tagTraps x i = [] ∧ s.passing x i = [(0, stK), (1, y)] ∧
      s.heldKnot stK 0 = some (63, knotOf alone2) ∧ s.heldKnot y 0 = some (62, knotOf [⟨1, 0⟩]) ∧
      s.tileAt 63 3 = none ∧ (sK (knotOf alone2) stK [(7, tile0)]).tileAt b.knot b.tslot = some (7, tile0) ∧ tile0.fmt ≠ b.fmt := by
  decide +kernel

/-- Drains: the last of two members, the other of which arrived first; another collective; no tile; and an address that
translates to nothing, one that may not be written, and one that is not aligned. -/
theorem witness_DrainCodes :
    let i := Instr.tdrain .f32 .rne false (slot 0) ref0 63 8 0
    let kn : Knot := { knotOf [⟨5, 0⟩, ⟨0, 1⟩] with
      kind := some (.drain .f32 .rne false 3), arrivals := [(⟨5, 9, false, 0, 63, ⟨0x10040, 64, 0xFFFFFFFF, 0, 0⟩, ⟨0x10000, 1⟩⟩ : Arrival)] }
    let w := { stK with outs := [⟨9, 15, 15, ⟨0x10000, 1⟩, false, none, 0, .plain, false, .waiting, []⟩] }
    let s := { sK kn stK [(7, tile0)] with strands := [(0, stK), (5, w)] }
    let k1 := { kn with arrivals := kn.arrivals ++ [(⟨0, 5, false, 0, 63, ⟨0, 0, 0, 0, 0⟩, x0.here⟩ : Arrival)] }
    let codes := fun (s : State) (a : Nat) => ((failures (s.rowParts 0 3 a 64 64 16).flatten).map XFault.cause).head?
    alone s x0 i 0 stK = true ∧ s.heldKnot stK 0 = some (63, kn) ∧ s.tileAt 63 3 = some (7, tile0) ∧
      k1.byRank = [(0, k1.arrivals[0]!), (1, k1.arrivals[1]!)] ∧ s.strandWith 5 9 = some w ∧ samePlace 5 0 = false ∧
      (∀ y ∈ s.strands, samePlace y.1 0 = true → y.1 = 0) ∧ tile0.frozen = false ∧ s.saved = [] ∧
      some CollKind.bar ≠ some (.drain .f32 .rne false 3) ∧ (sK kn).tileAt 63 3 = none ∧
      codes s 0x10040 = none ∧ codes s 0x50040 = some 1 ∧
      codes { s with tlb := [⟨0, 3, 0x10000, 0x10000, leaf0 - 2 ^ 55⟩] } 0x10040 = some 4 ∧ 0x10042 % drainAlign .f32 ≠ 0 := by
  decide +kernel

/-- CopyWordsQueue: a closure attached, an empty register, and a barrier of another hank. -/
theorem witness_CopyAttachments :
    let i := Instr.cpb 3 (.closure 7) (slot 0) 8 2 58
    alone (sH 65534) x0 i 0 stH = true ∧ alone s0 x0 i 0 st0 = true ∧ stH.regs.k.getD 7 0 = handle5 ∧ st0.regs.k.getD 7 0 = 0 ∧
      ((sH 65534).env (envKey handle5)).st ≠ .free ∧ ((sH 65534).env (envKey handle5)).check = bits handle5.toNat 47 32 ∧
      ((sH 65534).env (envKey handle5)).refs < 65535 ∧
      alone (sBar { bar0 with owner := 8 }) x0 (.cpb 3 (.barrier 127) (slot 0) 8 2 58) 0 st0 = true ∧
      (∀ q ∈ stH.outs, q.isFence = false ∧ q.held = false) := by decide +kernel

/-- CopyCompletes: a barrier and a closure that were not attached, and a closure that was; a strand blocked on the class. -/
theorem witness_CopyClosures :
    let c := fun (a : Attach) (ok : Bool) =>
      { cmd0 .box a (some record0) with finished := true, attached := ok, handle := if ok then handle5 else 0 }
    let s := fun (c : CopyCmd) =>
      { sH 2 { stH with run := .blocked (.copyQueue 3) } with copyEngines := [(0, engine3 [c])] }
    (∀ d ∈ [c (.barrier 127) false, c (.closure 7) false, c (.closure 7) true],
      (((s d).engine 0).queue 3).head? = some d ∧ d.finished = true ∧ (s d).early = [] ∧ (s d).unacked copyFlit d.uid = false ∧
        3 < ((s d).engine 0).queues.length) := by decide +kernel

/-- CallsAndReturns: a call that spills the oldest of 32 entries, the largest frame that leaves room for it, one behind an access to
the place, and a return that refills. -/
theorem witness_Spills :
    let y := { st0 with regs := { st0.regs with calls := List.replicate 32 ⟨0x10000, 0x10000, 64, 0⟩, depth := 32 } }
    let z := { y with regs := { y.regs with depth := 33 } }
    let p := { pendOf (pt 0x20FE0 4 0x10FE0) plain (.load (.b32 .f32) 8) with id := 3 }
    (∀ i ∈ [Instr.call always 63 0, .calli always 2 63, .call always 64 0], alone (one y) x0 i 0 y = true) ∧
      alone (one { y with outs := [p] }) x0 (.call always 63 0) 0 { y with outs := [p] } = true ∧
      alone (one z) x0 (.ret always) 0 z = true ∧
      y.regs.fp.toNat + y.regs.size + 64 * 63 + 32 * (y.regs.depth - 31) ≤ y.stackE.toNat ∧
      y.stackE.toNat < y.regs.fp.toNat + y.regs.size + 64 * 64 + 32 * (y.regs.depth - 31) ∧
      (y.stackE - BitVec.ofNat 64 (32 * (y.regs.depth - 31))).toNat = 0x10FE0 ∧
      (one y).parts 0 3 .write 0x10FE0 32 = .ok [pt 0x20FE0 32 0x10FE0] ∧
      (one z).parts 0 3 .read 0x10FE0 32 = .ok [pt 0x20FE0 32 0x10FE0] ∧ (one y).reachFault true [pt 0x20FE0 32 0x10FE0] = none ∧
      (∃ v ∈ p.pieces, v.meets (pt 0x20FE0 32 0x10FE0) = true) := by decide +kernel

/-- ExitResults: a strand that holds a handle and a knot, and one with a closure word queued. -/
theorem witness_Exits :
    let y := { stK with regs := { stK.regs with k := List.replicate 7 0 ++ [handle5] } }
    let p : Pend := ⟨4, 15, 15, ⟨0x10000, 1⟩, false, none, 0, .closure, false, .closure (.kdrop free 7) [] none 1, []⟩
    let s := { sK (knotOf alone2) y with envs := [(5, env5 2)] }
    alone s x0 (.exit always) 0 y = true ∧ alone (sH 2 { stH with outs := [p] }) x0 (.exit always) 0 { stH with outs := [p] } = true ∧
      some id63 ∈ y.regs.n ∧ (s.knot (knotKey id63)).live = true ∧ (s.knot (knotKey id63)).queue = [] ∧
      p.kind = .closure ∧ p.id < stH.nextId := by decide +kernel

theorem runs_start (outs : List Pend) (k : List DWord) (n : List (Option Nat)) :
    Runs 0 { st0 with outs := outs, regs := { st0.regs with k := k, n := n } } := ⟨by simp [st0, Strand.new], rfl, rfl, by decide⟩

/-- Environment 5 with these spans, of the frame of the strand at 0 in its first incarnation. -/
def envS (refs : Nat) (spans : List (Nat × Nat)) (inc : Nat) : Env :=
  { env5 refs with spans := spans, fbase := 0x10040, ownerInc := inc }

/-- ClosureWordsResults: words whose register holds a handle, a second span and a fifth, one of another frame, more than one reference,
and the last count; what is read of an empty register. -/
theorem witness_ClosureCorners :
    let s := fun (e : Env) => { one stH with envs := [(5, e)] }
    ([Instr.cap free 7 (.pair 2) 8 16, .kdup free 7 7, .capr free 7 (.const 16) (.const 16), .kinfo .s (slot 0) 8 7].all fun i =>
      alone (s (envS 1 [(0, 16)] st0.inc)) x0 i 0 stH && alone (s (envS 65535 [] 0)) x0 i 0 stH &&
        alone (s (envS 1 (List.replicate 4 (0, 16)) st0.inc)) x0 i 0 stH && alone (s (envS 1 [(0, 16)] 2)) x0 i 0 stH) = true ∧
      stH.regs.k.getD 7 0 ≠ 0 ∧ stH.regs.fp = 0x10040 ∧ stH.regs.serial = (envS 1 [] 0).fserial ∧
      (s (envS 1 [(0, 16)] st0.inc)).spansFault (envS 1 [(0, 16)] st0.inc) = none ∧ st0.inc ≠ 2 ∧ stH.regs.size < 2 ^ 32 ∧
      alone s0 x0 (.kinfo .s (slot 0) 8 0) 0 st0 = true ∧ st0.regs.k.getD 0 0 = 0 := by decide +kernel

/-- ApplyAndSpawn: spans that live and spans that are dead; captures that need more registers than the strand has; no reference left,
and no lane left in four spawn braids. -/
theorem witness_ApplyCorners :
    let s := fun (y : Strand) (e : Env) => { one y with envs := [(5, e)] }
    let few := { stH with regs := { stH.regs with v := List.replicate 4 .zero } }
    let live := envS 1 [(0, 16)] st0.inc
    let full := { s stH live with
      hanks := (7, hank0) :: (List.range 4).map fun i => (8 + i, { spawnHank with braids := [1 + i], spawn := some i })
      strands := (0, stH) :: (List.range 128).map fun i => (32 + i, st0) }
    ([Instr.apply always 7 0, .spawn (slot 0) 8 7 (.v 2)].all fun i => alone (s stH live) x0 i 0 stH &&
      alone (s stH (envS 1 [(0, 16)] 2)) x0 i 0 stH && alone (s stH (envS 65535 [] 0)) x0 i 0 stH && alone full x0 i 0 stH) = true ∧
      (s stH live).spansFault live = none ∧ (s stH live).spansLive live = true ∧
      (s stH (envS 1 [(0, 16)] 2)).spansLive (envS 1 [(0, 16)] 2) = false ∧
      (s few { env5 1 with vals := List.replicate 5 .zero }).spansLive { env5 1 with vals := List.replicate 5 .zero } = true ∧
      alone (s few { env5 1 with vals := List.replicate 5 .zero }) x0 (.apply always 7 0) 0 few = true ∧
      few.regs.v.length < (5 + 1) / 2 * 2 ∧ (full.spawnBraids (envKey handle5 / 2048)).length = 4 ∧
      (∀ y ∈ full.spawnBraids (envKey handle5 / 2048), full.freeLane y.2.2 = none) := by decide +kernel

/-- HandleLoads: a malformed handle, one of an environment that another context owns, a dead one, and one at the last count. -/
theorem witness_HandleRefusals :
    let s := fun (v : Nat) (e : Env) =>
      { sOp (hbmPart 8) plain (.loadK 7) with mem := Memory.writeN 0x20040 v 8 [], envs := [(5, e)] }
    let v := handle5.toNat
    let read := fun (v : Nat) (e : Env) => (s v e).mem.readN 0x20040 8
    read (v + 1) (env5 1) = v + 1 ∧ bits (v + 1) 11 0 ≠ 0 ∧ bits (v + 2 ^ 56) 62 56 ≠ 0 ∧ 383 < bits (v + 511 * 2 ^ 23) 31 23 ∧
      (v % 2 ^ 64).testBit 63 = true ∧ bits v 62 56 = 0 ∧ bits v 11 0 = 0 ∧ bits v 31 23 ≤ 383 ∧ bits v 55 48 = 3 ∧
      ({ env5 1 with ctx := 4 } : Env).ctx ≠ 3 ∧ ((s v { env5 1 with ctx := 4 }).env 5).st ≠ .free ∧
      ((s v { env5 1 with check := 2 }).env 5).check ≠ bits v 47 32 ∧ ((s v (env5 1)).env 5).check = bits v 47 32 ∧
      65535 ≤ ((s v (env5 65535)).env 5).refs ∧ st0.frameId ≤ 4 ∧ stH.regs.k.getD 7 0 = handle5 := by decide +kernel

/-- TrapDelivery: a group of two lanes. -/
theorem witness_TrapDelivery_group :
    let y := { st0 with run := .trapped, trap := ⟨0x10000, 1, 4, 0, 0⟩ }
    let g : TrapGroup := ⟨3, 0, 0x10000, 4, 0, 0⟩
    let s := { one y with
      strands := [(0, y), (1, { y with index := 1 })], braids := [(0, ⟨7, 0, 1, BitVec.allOnes 32, 0, [g]⟩)]
      mem := Memory.writeN 0x20100 0xD000000000000000 8 (Memory.writeN 0x22020 0x10101 8 []) }
    let members := (lanesOf g.mask).filterMap fun l => (s.strand? (posOf 0 l)).map fun x => (posOf 0 l, x)
    members = [(0, y), (1, { y with index := 1 })] ∧ (∀ p ∈ s.braidStrands 0, p.2.handler = true → p.2.run = .exited) ∧
      s.handlerFor 0 3 ctx0 4 = .ok 0x10100 ∧
      (match members.foldl (fun (a : Except XFault State) y => a.bind fun u => u.writeFrame 3 ctx0 y.1) (.ok s) with
        | .ok _ => true | .error _ => false) = true := by decide +kernel

/-- TrapDelivery: a handler's clause whose words cross to a page that is not there. -/
theorem witness_TrapDelivery_words :
    let s := { s0 with mem := Memory.writeN 0x2FFF8 0xD000000000000000 8 [] }
    s.fetch8 0 3 0x1FFF8 = .ok 0xD000000000000000 ∧ bits 0xD000000000000000 63 60 = 13 ∧ bits 0xD000000000000000 39 0 = 0 ∧
      (match s.fetchWords 0 3 (0x1FFF8 + 8) 1 with | .ok _ => false | .error f => f.cause != 0) = true := by decide +kernel

/-- HandlerDecidesTarget: a held target, and a running one. -/
theorem witness_HandlerDecides :
    let y := stT ⟨0, 0, 4, 0, 0⟩
    (∀ target ∈ [{ st0 with held := true, index := 1 }, { st0 with index := 1 }],
      ([Instr.tresGo (slot 0) 8, .tresHold (slot 0) 8, .tresKill (slot 0) 8].all fun i => alone (sT target) x0 i 0 y) = true ∧
      (sT target).strands.find? (fun p => p.2.hank == y.hank && p.2.index == y.ttarget.toNat) = some (1, target) ∧
      target.handler = false ∧ target.regs.k = List.replicate 8 0 ∧ target.regs.n = [none, none, none, none] ∧
      target.outs = []) ∧ y.run = .candidate := by decide +kernel

/-- FencesIssueAndComplete: a release at .sy behind a write of the device's engines to another package; a fence past which a word was
read that has changed. -/
theorem witness_Fences_far :
    let f : Pend := { fence4 .rel [] with act := .fence .rel .sy none regs0 none [] [] }
    let s := { one { st0 with outs := [f] } with
      ports := [(3, { portDown with st := .active, buffer := [⟨3, 0, 5, engineFlit, 0, 3, 0⟩] })], spoiled := [(0, 4)] }
    s.pend? 0 4 = some f ∧ s.farReady (some .sy) = false ∧ s.farReady (some .p) = true ∧ (0, 4) ∈ s.spoiled := by decide +kernel

/-- HanksSwapOut: a hank whose strand stands at a clause boundary with nothing outstanding, and one with a load outstanding. -/
theorem witness_HanksSwapOut :
    let y := { st0 with run := .stalled .swap, regs := { regs0 with pc := ⟨0x10010, 0⟩ } }
    let s := fun (y : Strand) => { one y with
      quarters := [], events := [(0, [.swap 7])], hanks := [(7, { hank0 with stopping := true })] }
    (s y).hankQuiet 7 = true ∧ (s { y with outs := [early3 (.load .s8 8)] }).hankQuiet 7 = false ∧
      (∀ z ∈ (s y).hankStrands 7, z.2.outs = [] ∧ z.2.run = .stalled .swap) ∧ (s y).events.getD 0 [] = [.swap 7] ∧
      (s y).ctxs.get? hank0.ctx = some ctx0 ∧ ctx0.st = .active := by decide +kernel

/-- A launch packet with a start time. -/
def timedP (at_ : Nat) : Nat := launchP + 2 ^ 240 + 2 ^ 256 * at_

/-- PacketsRun: a start time that has come, and one that has not; PacketsRun and PacketFaults: a fence packet behind a launch. -/
theorem witness_PacketsRun_timed :
    atHead 4 (timedP 0) = true ∧ atHead 4 (timedP 1) = true ∧ ({ Packet.ofNat (timedP 1 % 2 ^ 64) with val := timedP 1 % 2 ^ 512 } : Packet).timed = true ∧
      ({ Packet.ofNat (timedP 1 % 2 ^ 64) with val := timedP 1 % 2 ^ 512 } : Packet).bytes 32 39 = 1 ∧
      (sP 4 (timedP 1)).time 0 < 1 ∧ ((sP 4 (timedP 1)).featOf (queue0 252 256)).testBit 6 = true ∧
      (let x := { queue0 252 253 with started := [⟨251, some 9⟩] }
       x.started ≠ [] ∧ (Packet.ofNat (packet 5 1 0)).sync = false ∧ ({ sP 1 (packet 5 1 0) with queues := [(1, x)] } : State).takes x = true) := by
  decide +kernel

/-- TlbInvalidates: one that is busy, with no access under way any more. -/
theorem witness_TlbInvalidates_end : ({ s0 with tlbinv := some (2 * 2 ^ 61) } : State).tlbinv = some (2 * 2 ^ 61) ∧
    (∀ p ∈ s0.strands, p.2.outs = []) ∧ s0.early = [] ∧ s0.tlb ≠ [] := by decide

/-- StoreCompletes and AtomicCompletes: a write readable to its core first, one that releases at .sy and is performed for every observer,
and one on a page of order .so. -/
theorem witness_FirstReaders :
    let x := { st0 with outs := [pendOf (hbmPart 8) plain (.store 1)] }
    (firstReaders s0 0 x plain (hbmPart 8) false).full = false ∧ (firstReaders s0 0 x ⟨none, some .sy⟩ (hbmPart 8) true).full = true ∧
      MayBeEarly (hbmPart 8) ∧ MayBeEarly sramPart ∧ ¬ MayBeEarly { hbmPart 8 with ord := .so } := by
  refine ⟨?_, ?_, ?_, ?_, ?_⟩
  · decide +kernel
  · decide +kernel
  · unfold MayBeEarly; decide
  · unfold MayBeEarly; decide
  · unfold MayBeEarly; decide

/-- EarlierResultsOutlasted: a register that a later word has written keeps that value, and one that an earlier word wrote does not. -/
theorem witness_EarlierResultsOutlasted :
    let p : Pend := ⟨4, 3, 15, ⟨0x10000, 1⟩, false, none, 0, .plain, false, .regs [(8, ⟨1, .i32⟩), (9, ⟨2, .i32⟩)] 0, []⟩
    let x := { st0 with outs := [p], outlasts := [(5, 8), (4, 9)] }
    (one x).strand? 0 = some x ∧ (one x).pend? 0 4 = some p ∧ x.run ≠ .exited ∧ x.leaving = [] ∧ 9 < x.regs.v.length ∧
      (∃ e ∈ x.outlasts, 4 < e.1 ∧ e.1 ≤ x.nextId ∧ e.2 = 8) ∧ ¬ ∃ e ∈ x.outlasts, 4 < e.1 ∧ e.1 ≤ x.nextId ∧ e.2 = 9 := by
  decide +kernel

/-- ContextLifeCycle: no context number free; a context in created; what cannot be read; copy commands of a context that stops. -/
theorem witness_ContextCorners :
    let full := { sC 1 (0x20000 * 2 ^ 64) with ctxs := (List.range 256).map fun n => (n, ctx0) }
    let c := { ctx0 with st := .faulted, recorded := false }
    (∀ n < 256, (full.ctxs.get? n).isSome = true) ∧ full.modeRefuses false = false ∧
      ({ sC 1 0 with mode := .recovery } : State).modeRefuses false = true ∧
      ({ sC 5 (3 * 2 ^ 64) with ctxs := [(3, c)] } : State).ctxs.get? 3 = some c ∧
      (match (sC 7 (3 * 2 ^ 64 + 2 ^ 190)).devRead 0 3 (2 ^ 62) 64 with | .ok _ => false | .error _ => true) = true ∧
      (cmd0 .box .nothing none).ctx = 3 ∧
      ({ s0 with copyEngines := [(0, engine3 [cmd0 .box .nothing none])] } : State).copyEngines.get? 0 = some (engine3 [cmd0 .box .nothing none]) := by
  refine ⟨?_, ?_, ?_, ?_, ?_, ?_, ?_⟩ <;> decide +kernel

/-- PortEvents: a replayed flit that is counted and one that is not; own flits before and behind the one asked for; lanes at the limits. -/
theorem witness_Ports_counts :
    let f := fun (n : Nat) => (⟨17, n, 5, 0, 4, 3, 0⟩ : Flit)
    let x : Port := ⟨true, .active, 4, 1, 2, 0, 0, [f 0, f 1], 1, 0, some (17, 1), 3, 7⟩
    x.buffer = [f 0] ++ f 1 :: [] ∧ (∀ g ∈ [f 0], g.seq < 1) ∧ x.counted = some (17, 1) ∧ ¬ 8 ≤ x.consecutive ∧
      (∃ g ∈ x.buffer.drop 1, x.counted = some (g.port, g.seq)) ∧ (¬ ∃ g ∈ x.buffer.drop 2, x.counted = some (g.port, g.seq)) ∧
      3 < x.lanes ∧ x.lanes ≤ 4 := by decide

/-- HostRegistersAreWritten, HostRegistersAreRead: recovery, and the last register of each table. -/
theorem witness_HostRegisters :
    ({ s0 with mode := .recovery } : State).mode = .recovery ∧ 95 < 96 ∧ 0x10000 + 256 * 95 + 16 * 7 + 8 < 0x16000 ∧ 0x100000 + 4 * 16383 < 2 ^ 26 ∧
      (s0.readReg 0x0FF8 8 = some 0) ∧ bits (3 * 2 ^ 61) 62 61 = 3 := by decide +kernel

/-- TelemetryAndTrip: the ring enabled at a host address, and at a BASE that is none. -/
theorem witness_Telemetry :
    ∀ base ∈ [0x1000, 0xFFFFFFFFFFFFF000], let s := { s0 with telctl := BitVec.ofNat 64 (base + 10 * 2 ^ 8 + 1) }
      s.telctl.toNat.testBit 0 = true ∧ s.early = [] ∧ bits s.telctl.toNat 11 8 ≤ 10 ∧ bits s.telctl.toNat 63 12 * 4096 = base := by
  decide +kernel

/-- A strand of a stopped braid, held at the word of a clause whose header and word these are, with a step of its quarter asked for. -/
def stepping (w : Nat) : State :=
  let y := { st0 with held := true, run := .trapped, trap := ⟨0x10000, 1, 17, 0, 0⟩, outs := [] }
  { one y with
    quarters := [(0, { Quarter.idle with step := some ⟨⟨0, 0, 0, [], 0⟩, 0, [], 0⟩ })]
    mem := Memory.writeN 0x20008 w 8 (Memory.writeN 0x20000 (0xD * 2 ^ 60 + 7 * 2 ^ 53) 8 [])
    agenda := [.stepWord 0] }

/-- SteppedWordRuns: where the fetch meets no uncorrectable error (log 39 leaves open whether it does), the step is formed at `add`,
which leaves its strand a candidate there; and no step is asked for. -/
theorem witness_SteppedWord :
    let i := Instr.add ⟨true, false, .w8⟩ (toV 5) (.v 3) (.v 4)
    let m := { stepping 0x04A0002806020000 with agenda := [], moves := 1 }
    let n := ((m.quarter 0).step.map fun r => (({ m with focus := 0, stepping := false } : State).formStep r).settleCur).getD m
    (stepping 0x04A0002806020000).agenda.head? = some (.stepWord 0) ∧ (m.quarter 0).cur = none ∧ n.stepping = true ∧
      n.cur.any (fun x =>
        let x' := { x with mask := maskOf ((n.reaching x).map Prod.fst) }
        !(n.reaching x).isEmpty && (match decode (x.words.getD (x.word - 1) 0).toNat (x.words.getD x.word 0).toNat with
          | .ok j => j == i | .error _ => false) &&
        (n.reaching x).all (fun p => [true, false].all fun room => (n.gate x' (.ok i) p.1 p.2 room).isNone) &&
        match exec i (n.setCur x') with
        | .next v => v.cur == some x' && v.stepping && v.focus == 0 && (v.quarter 0).step.isSome &&
          (v.strand? (posOf x.braid 0)).any fun y => y.run == .candidate && y.deferred.isNone && y.regs.pc == ⟨x.clause, x.word⟩
        | _ => false) = true ∧ (s0.quarter 0).step = none := by decide +kernel

/-- UnlistedWordsTrap: a word of op 0xA3 that no instruction has, reached by a strand whose predicate holds. -/
theorem witness_Unlisted_copy :
    let s := State.reset.withFetchWord 64 0xA3F0000000000000
    let r := { s.takeMove.2 with focus := 0, stepping := false }
    s.agenda.head? = some (.word 0) ∧ r.cur.isSome = true ∧
      (∀ x ∈ r.cur, r.reaching x ≠ [] ∧
        (decode (x.words.getD (x.word - 1) 0).toNat (x.words.getD x.word 0).toNat).toOption = none ∧
        ∀ p ∈ r.reaching x, p.2.handler = false ∧ p.2.pastFence = false ∧ p.2.outs = [] ∧ p.2.awaits = [] ∧
          predHolds p.2.regs ⟨bits 0xA3F0000000000000 51 51 == 1, bits 0xA3F0000000000000 50 43⟩ = true) := by decide +kernel

/-! ## Words past a register file, early writes, queues of words -/

/-- IllegalWordTraps: a tile word whose predicate register the strand does not have, its predicate then false. -/
theorem witness_IllegalPredicate :
    let i := Instr.tfree ⟨⟨false, 64⟩, 15, 15⟩ ref0
    i.wf = true ∧ strandWords i = true ∧ s0.illegalHere x0 i = true ∧ i.info.pred.reg ≠ 0 ∧ st0.regs.v.length ≤ i.info.pred.reg ∧
      predHolds st0.regs i.info.pred = false := by decide +kernel

/-- Bytes at HBM 0x20040 that the strand's instruction `id` wrote, readable to the strand alone. -/
def early0 (id : Nat) : EarlyWrite :=
  { reach := .one (strandAgent 0), ctx := 3, launch := none, by_ := .strand 0, id := id, parts := [hbmPart 4], val := 1 }

/-- IssuedResultsComplete: an instruction whose write the strand alone can read, and one with none such. -/
theorem witness_WriteCompletes :
    let p : Pend := ⟨4, 3, 15, ⟨0x10000, 1⟩, false, none, 0, .plain, false, .regs [(8, ⟨1, .i32⟩)] 0, []⟩
    let s := fun (id : Nat) => { sAct p.act with early := [early0 id] }
    (s 4).early = [early0 4] ∧ ((early0 4).reach.join (units [coreOf 0])).full = false ∧ NoneFirst (s 3) 0 4 ∧
      (s 3).pend? 0 4 = some p := by
  refine ⟨rfl, by decide +kernel, ?_, by decide +kernel⟩
  intro e he
  rw [List.mem_singleton.1 he]
  decide +kernel

/-- StoreCompletes: a store that its strand alone can read is not complete; FullEmptyWords: a release at .sy is not early. -/
theorem witness_ReadableTo :
    (firstReaders s0 0 st0 ⟨none, some .d⟩ (wordPart (bankKey 0 0x3FFFC)) true).full = false ∧
      (some Scope.d : Option Scope) ≠ some .sy := by decide +kernel

/-- BarrierRequests: a strand with an earlier load outstanding, that takes one instruction more. -/
theorem witness_NextInLine :
    NextInLine { st0 with outs := [early3 (.load .s8 8)] } ∧ NextInLine st0 := by
  refine ⟨⟨by decide, rfl, by decide, ?_⟩, ⟨by decide, rfl, by decide, ?_⟩⟩ <;> simp [st0, Strand.new, early3, pendOf]

/-- RejectionTraps: a closure word that is refused, with a later one queued; and one with none behind it. -/
theorem witness_RejectedClosures :
    let p : Pend := ⟨3, 15, 15, ⟨0x10000, 1⟩, false, none, 0, .closure, false, .refused 12 2 none, []⟩
    let q : Pend := ⟨4, 15, 15, ⟨0x10000, 2⟩, false, none, 0, .closure, false, .closure (.kdrop free 7) [] none 1, []⟩
    let y := { stH with outs := [p, q] }
    (sH 2 y).pend? 0 3 = some p ∧ y.run = .candidate ∧ (¬ ∀ o ∈ y.outs, o.kind = .closure → o.id ≤ 3) ∧ y.deferred = none ∧
      (∀ o ∈ y.outs, o.isFence = false) ∧ ∀ o ∈ ({ stH with outs := [p] } : Strand).outs, o.kind = .closure → o.id ≤ 3 := by
  decide +kernel

/-- TileLoads: a tile that is frozen, and one that has other dimensions by now, with the pieces of its rows. -/
theorem witness_TileLoads_changed :
    let ps : List (Nat × Part) := [(0, pt 0x20040 4 0x10040)]
    let p := fun (m n : Nat) => (⟨4, 15, 15, ⟨0x10000, 1⟩, false, none, 0, .contribution 0, false,
      .mem ps 0 plain (.tload 63 3 0x10040 64 m n), []⟩ : Pend)
    let y := fun (m n : Nat) => { stK with outs := [p m n] }
    let s := fun (m n : Nat) (f : Bool) => sK (knotOf alone2) (y m n) [(7, { tile0 with frozen := f })]
    let rows := (List.range 16).map fun j => (j * 64, (0x10040 + j * 64) % 2 ^ 64)
    (s 16 16 true).tileAt 63 3 = some (7, { tile0 with frozen := true }) ∧ (s 16 16 true).pend? 0 4 = some (p 16 16) ∧
      ((shapeMNK tile0.shape).1, (shapeMNK tile0.shape).2.1) = (16, 16) ∧ (s 8 16 false).pend? 0 4 = some (p 8 16) ∧
      (s 8 16 false).lowerLaneWaits 0 (p 8 16) = false ∧ (s 8 16 false).behindSwitch 0 4 (pt 0x20040 4 0x10040) = false ∧
      (y 8 16).mayPerform (p 8 16) ps plain 0 (pt 0x20040 4 0x10040) = true ∧
      (match (s 8 16 false).tloadPieces 0 3 64 rows with | .ok qs => qs.length == 16 | .error _ => false) = true := by
  decide +kernel

/-- Contractions: a block behind others at its knot, and one at a frozen tile. -/
theorem witness_ContractionsWait :
    let b : CtrBlock := ⟨63, 3, .t8, 2, [], [(0, 5)], 0x10000, 1⟩
    let s := sK { knotOf alone2 with queue := [b] }
    let u := sK (knotOf alone2) stK [(7, { tile0 with frozen := true })]
    (s.knot 63).queue ≠ [] ∧ (s.knot 63).svc = none ∧ u.tileAt b.knot b.tslot = some (7, { tile0 with frozen := true }) ∧
      (u.knot 63).queue = [] := by decide +kernel

/-! ## Spans, spawn braids, roll-backs, saved hanks -/

/-- Closures of a frame whose owner has a spilled entry that meets an uncorrectable error: ApplyPacketSpawns and CopyCompletes. -/
theorem witness_SpansFault :
    let y := { stH with regs := { stH.regs with calls := List.replicate 32 ⟨0x10000, 0x10000, 64, 0⟩, depth := 33 } }
    let e := envS 2 [(0, 16)] st0.inc
    let c := { cmd0 .box (.closure 7) (some record0) with finished := true, attached := true, handle := handle5 }
    let s := { one y with envs := [(5, e)], upsets := [0x20FE0 / 4], copyEngines := [(0, engine3 [c])] }
    let f : XFault := { va := 0x10FE0, cause := 7, level := 0 }
    let p := { sP 2 (applyP 0) with strands := [(0, y)], envs := [(5, e)], upsets := [0x20FE0 / 4] }
    s.spansFault (s.env (envKey c.handle)) = some f ∧ (s.engine 0).queue 3 = [c] ∧ c.att = .closure 7 ∧
      (sH 2).spansFault ((sH 2).env (envKey handle5)) = none ∧ s.early = [] ∧ s.unacked copyFlit c.uid = false ∧
      p.spansFault (p.env 5) = some f ∧ p.early = [] ∧ (∀ w, p.busFault w [pt 0x21018 8 0x11018] = none) ∧
      p.head (queue0 252 254) = .packet { Packet.ofNat (applyP 0 % 2 ^ 64) with val := applyP 0 % 2 ^ 256 } ∧
      (p.env 5).st = .live ∧ (p.env 5).ctx = 3 ∧ (p.env 5).check = bits 0x8003_0001_0000_5000 47 32 := by decide +kernel

/-- ApplyAndSpawn: no spawn braid yet, and one slot of the core free. -/
theorem witness_SpawnOpensBraid :
    let s := { sH 1 with braids := (List.range 63).map fun b => (b, ⟨7, 0, 1, BitVec.allOnes 32, 0, []⟩) }
    let core := envKey handle5 / 2048
    alone s x0 (.spawn (slot 0) 8 7 (.const 0)) 0 stH = true ∧ (s.env (envKey handle5)).spans = [] ∧ s.spawnBraids core = [] ∧
      s.freeSlots core = [63] ∧ s.regsFit core 2048 0 = true ∧ s.residencyFits core (s.ctxNum stH) = true ∧
      s.strand? (posOf 63 0) = none ∧ posOf 63 0 ≠ posOf x0.braid 0 ∧ s.ctxs.get? (s.ctxNum stH) = some ctx0 ∧
      (∀ o ∈ stH.outs, o.id ≠ stH.nextId) := by decide +kernel

/-- RollbackReturnsToCheckpoint: a deferred trap of a word behind the fence, and one of the acquire itself. -/
theorem witness_Rollback_deferred :
    let y := fun (n : Nat) => { st0 with
      outs := [fence4 .acq [0x8010]], deferred := some ⟨0x10000, 1, 4, 0, 0⟩, deferNum := n, run := .stalled (.ops [4]) }
    let s := fun (n : Nat) => { one (y n) with spoiled := [(0, 4)] }
    (∀ n ∈ [4, 5], (s n).strand? 0 = some (y n) ∧ (y n).fenceOf 0 = some (fence4 .acq [0x8010]) ∧ (0, 4) ∈ (s n).spoiled) ∧
      4 < (y 5).deferNum ∧ (y 4).deferNum ≤ 4 := by decide +kernel

/-- SavedHanksReturn: a hank that was saved at the instruction level, with a barrier, a bank and a byte of it. -/
theorem witness_SavedHanksReturn_instruction :
    let b : Bank := ⟨.scratch, some 7, [], [], [], []⟩
    let v : SavedHank := ⟨7, { hank0 with stopping := true }, false, [(0, ⟨7, 0, 1, BitVec.allOnes 32, 0, []⟩)], [(0, st0)],
      [(127, bar0)], [(0, b)], [(bankKey 0 16, 9)], [], [], []⟩
    let s := { s0 with strands := [], braids := [], hanks := [], banks := [], saved := [v], swapIn := [(0, [7])] }
    s.nextIn 0 = some v ∧ v.swap = false ∧ v.barriers = [(127, bar0)] ∧ v.banks = [(0, b)] ∧ v.bytes = [(bankKey 0 16, 9)] ∧
      s.imagesOf ctx0 v = [] ∧ s.ctxs.get? 3 = some ctx0 ∧ s.hankStrands 7 = [] ∧ v.events = [] ∧ v.copies = [] ∧ s.early = [] ∧
      Memory.wf s.mem = true := by decide +kernel

/-! ## Retirement, rings, ports -/

/-- HanksRetireAndLaunchesComplete: a hank of spawn braids; the last hank of a queue that is pre-empted at hank depth, and one of
two; a launch whose early writes are its own. -/
theorem witness_Retirement_preempt :
    let h := { hank0 with banks := [], spawn := some 0 }
    let s := { one { st0 with run := .exited } with hanks := [(7, h)] }
    let g := { hank0 with banks := [] }
    let x := { queue0 0 0 with preempting := some 0 }
    let l := { launch0 2 1 with next := 1 }
    let u := fun (more : AMap Hank) => { one { st0 with run := .exited } with
      hanks := (7, g) :: more, queues := [(1, x)], launches := [(9, l)] }
    let w := pt 0x21040 64 0x11040
    h.spawn ≠ none ∧ s.launches.get? h.launch = none ∧ (∀ p ∈ s.hankStrands 7, p.2.run = .exited) ∧
      (∀ more ∈ [[], [(8, { g with index := 1 })]], (u more).hanks.get? 7 = some g ∧ (u more).launches.get? g.launch = some l ∧
        (u more).queues.get? l.queue = some x ∧ (∀ p ∈ (u more).hankStrands 7, p.2.run = .exited) ∧
        (u more).launchesOf l.queue = [(g.launch, l)] ∧ (u more).queueSaved l.queue = [] ∧
        (u more).devParts 0 3 .write 2 ((x.desc.toNat + 64) % 2 ^ 64) 64 = .ok [w] ∧ (u more).busFault true [w] = none) ∧
      (u []).queueHanks 1 = [7] ∧ (∃ h ∈ (u [(8, { g with index := 1 })]).queueHanks 1, h ≠ 7) ∧ x.svc = none ∧ g.spawn = none ∧
      l.retired + 1 < l.count ∧ l.next ≠ l.count ∧ keyPackage w.key = none ∧ ({ early0 4 with launch := some 9 } : EarlyWrite).launch = some 9 := by
  decide +kernel

/-- FaultRecordsReachTheRing: what the device's engines wrote elsewhere acknowledged and not; a pending record that holds an
operation and one that does not. -/
theorem witness_FaultRecords_far :
    let s := { s0 with ports := [(3, { portDown with st := .active, buffer := [⟨3, 0, 5, engineFlit, 0, 3, 0⟩] })] }
    s.farReady (some .sy) = false ∧ s0.farReady (some .sy) = true ∧ (2 : Nat).testBit 1 = true ∧ (0 : Nat).testBit 1 = false ∧
      2 / 2 ^ 23 % 512 = 0 ∧ ctx0.faultRec = none ∧ ctx0.ringSent = false := by decide +kernel

/-- FaultsAreServed: a walk that meets an uncorrectable error; and a strand that waits in `rte.w` for the record. -/
theorem witness_FaultsAreServed_upset :
    let page : InService := ⟨0, 2 ^ 30, 3, 3 * 2 ^ 32, []⟩
    let c := { ctx0 with root := 2 ^ 63 + 0x30000, inService := [page] }
    let s := { s0 with ctxs := [(3, c)], upsets := [0xC000] }
    s.walk (dieOf (page.image / 2 ^ 23 % 512)) 3 c.root page.page = .fail { va := 0, cause := 7, level := 2 } ∧
      c.inService.find? (fun p => p.seq == 3) = some page ∧ c.st = .active ∧ c.stopping = false ∧ c.pendingRecs = [] := by
  decide +kernel

/-- PortEvents: a flit that stands in the sequence of another port, and a port number past 17. -/
theorem witness_Ports_moved :
    let x : Port := ⟨true, .active, 8, 1, 2, 0, 0, [], 1, 0, none, 0, 7⟩
    let y : Port := { portDown with st := .training, rxSeq := 6 }
    let s := { s0 with ports := [(3, y), (17, x)] }
    s.ports.getD 17 portDown = x ∧ s.ports.getD 3 portDown = y ∧ (3 : Nat) ≠ 17 ∧ y.rxSeq = 6 ∧
      (∀ q ∈ s.ports, q.1 ≠ 17 → q.2.st ≠ .failed ∧ q.2.st ≠ .down) ∧ (18 : Nat) ≤ 18 := by decide +kernel

/-! ## Images in the save area -/

/-- A TLB that holds every page, each at the same frame. -/
def Holds (T : List TlbEntry) (leaf : Nat) : Prop := ∀ va, va < 2 ^ 64 → ∃ i, 65536 * i ≤ va ∧ va < 65536 * i + 65536 ∧
  T.find? (fun t => t.hits 0 3 va) = some ⟨0, 3, 65536 * i, 65536, leaf⟩

theorem holds_exists (leaf : Nat) : ∃ T, Holds T leaf := by
  refine ⟨(List.range (2 ^ 48)).map fun i => ⟨0, 3, 65536 * i, 65536, leaf⟩, fun va h => ?_⟩
  cases hf : List.find? (fun t => t.hits 0 3 va) ((List.range (2 ^ 48)).map fun i => (⟨0, 3, 65536 * i, 65536, leaf⟩ : TlbEntry)) with
  | none =>
    have hn := List.find?_eq_none.1 hf ⟨0, 3, 65536 * (va / 65536), 65536, leaf⟩
      (List.mem_map.2 ⟨va / 65536, List.mem_range.2 (by omega), rfl⟩)
    refine absurd ?_ hn
    have h1 : 65536 * (va / 65536) ≤ va := by omega
    have h2 : va < 65536 * (va / 65536) + 65536 := by omega
    simp [TlbEntry.hits, h1, h2]
  | some e =>
    obtain ⟨i, _, rfl⟩ := List.mem_map.1 (List.mem_of_find?_eq_some hf)
    have hh := List.find?_some hf
    simp only [TlbEntry.hits, Bool.and_eq_true, beq_iff_eq, decide_eq_true_eq] at hh
    exact ⟨i, hh.2.1, hh.2.2, rfl⟩

/-- Pages of one frame: each part of an access lies in it. -/
theorem pages_part {s : State} {leaf base : Nat} (hT : Holds s.tlb leaf) (hs : ∀ va, s.inServiceAt 3 va = none)
    (hp : ∀ i va len, 65536 * i ≤ va → va + len ≤ 65536 * i + 65536 → va < 65536 * i + 65536 →
      s.place ⟨leaf, 65536 * i, 65536⟩ va len = .ok (base + va % 65536))
    (n : Need) (hn : denied n leaf = none) (va len : Nat) (hv : va < 2 ^ 64) (hl : len ≤ 65536 - va % 65536) :
    s.parts 0 3 n va len = .ok [⟨base + va % 65536, len, leafOrd leaf, va, leafCacheable leaf && decide (base + va % 65536 < 2 ^ 47),
      false, leafLevel leaf⟩] := by
  obtain ⟨i, h1, h2, h3⟩ := hT va hv
  have ht : s.translate 0 3 va = .ok ⟨leaf, 65536 * i, 65536⟩ := by simp [State.translate, State.tlbEntry, h3]
  have hq := hp i va len h1 (by omega) h2
  have hlen : len ≤ 2 ^ 16 - va % 2 ^ 16 := hl
  simp only [State.parts, if_pos hlen, List.map, State.part, hs, ht, hq, State.parts.go, List.find?, hn, Option.isSome]

theorem pages_devParts {s : State} {leaf base : Nat} (hT : Holds s.tlb leaf) (hs : ∀ va, s.inServiceAt 3 va = none)
    (hp : ∀ i va len, 65536 * i ≤ va → va + len ≤ 65536 * i + 65536 → va < 65536 * i + 65536 →
      s.place ⟨leaf, 65536 * i, 65536⟩ va len = .ok (base + va % 65536))
    (n : Need) (hn : denied n leaf = none) : ∀ fuel va len, va < 2 ^ 64 → ∃ ps, s.devParts 0 3 n fuel va len = .ok ps ∧
      (∀ p ∈ ps, base ≤ p.key ∧ p.key < base + 65536) ∧
      (0 < fuel → 0 < len → ∃ p r, ps = p :: r ∧ p.key = base + va % 65536 ∧ 0 < p.len ∧ p.va = va ∧ p.level = leafLevel leaf) ∧
      (0 < fuel → 0 < len → len ≤ 65536 - va % 65536 → ps = [⟨base + va % 65536, len, leafOrd leaf, va,
        leafCacheable leaf && decide (base + va % 65536 < 2 ^ 47), false, leafLevel leaf⟩])
  | 0, va, len, _ => ⟨[], rfl, by simp, by omega, by omega⟩
  | fuel + 1, va, len, hv => by
    by_cases hl : len = 0
    · exact ⟨[], by simp [State.devParts, hl], by simp, by omega, by omega⟩
    · have hk : Nat.min len (2 ^ 16 - va % 2 ^ 16) ≤ 65536 - va % 65536 := Nat.min_le_right ..
      have hk0 : 0 < Nat.min len (2 ^ 16 - va % 2 ^ 16) := by simp only [Nat.lt_min]; omega
      obtain ⟨ps, h1, h2, h3, h4⟩ := pages_devParts hT hs hp n hn fuel ((va + Nat.min len (2 ^ 16 - va % 2 ^ 16)) % 2 ^ 64)
        (len - Nat.min len (2 ^ 16 - va % 2 ^ 16)) (Nat.mod_lt _ (by decide))
      refine ⟨_, by simp only [State.devParts, if_neg hl, pages_part hT hs hp n hn va _ hv hk, h1]; rfl, ?_, ?_, ?_⟩
      · intro p hm
        rcases List.mem_cons.1 hm with rfl | hm
        · exact ⟨by simp, by simp; omega⟩
        · exact h2 p hm
      · exact fun _ _ => ⟨_, _, rfl, rfl, hk0, rfl, rfl⟩
      · intro _ _ hle
        have he : Nat.min len (2 ^ 16 - va % 2 ^ 16) = len := Nat.min_eq_left hle
        rw [he] at h1 ⊢
        have : ps = [] := by
          rw [Nat.sub_self] at h1
          cases fuel <;> simpa [State.devParts] using h1.symm
        subst this
        rfl
theorem place_leaf0 (s : State) : ∀ i va len, 65536 * i ≤ va → va + len ≤ 65536 * i + 65536 → va < 65536 * i + 65536 →
    s.place ⟨leaf0, 65536 * i, 65536⟩ va len = .ok (0x20000 + va % 65536) := by
  intro i va len h1 _ h2
  have hr : leafRem leaf0 = false := by decide
  have hl : leafFrame leaf0 = 0x20000 := by decide
  simp only [State.place, hr, hl]
  have : va - 65536 * i = va % 65536 := by omega
  simp [this]

theorem near_parts (s : State) (hu : s.upsets = []) (hb : s.busErrors = []) (ps : List Part)
    (h : ∀ p ∈ ps, keyPackage p.key = none) (w : Bool) : s.reachFault w ps = none := by
  have h1 : s.busFault w ps = none := by
    simp [State.busFault, State.upset, hu, hb]
  simp only [State.reachFault, h1, List.findSome?_eq_none_iff]
  intro p hp
  rw [h p hp]; rfl

theorem near_send (s : State) (pos id ctx core : Nat) (ps : List Part) (h : ∀ p ∈ ps, keyPackage p.key = none) :
    s.sendParts pos id ctx core ps = s := by
  unfold State.sendParts
  induction ps with
  | nil => rfl
  | cons p l ih =>
    simp only [List.foldl_cons, h p (List.mem_cons_self ..)]
    exact ih fun q hq => h q (List.mem_cons_of_mem _ hq)
theorem near {ps : List Part} (h : ∀ p ∈ ps, 0x20000 ≤ p.key ∧ p.key < 0x20000 + 65536) : ∀ p ∈ ps, keyPackage p.key = none := by
  intro p hp
  have := h p hp
  rw [keyPackage, if_neg]; omega

theorem write_ok {s : State} (hT : Holds s.tlb leaf0) (hi : ∀ va, s.inServiceAt 3 va = none) (hu : s.upsets = [])
    (hb : s.busErrors = []) {va : Nat} (hva : va < 2 ^ 64) (k v : Nat) : ∃ w, s.devWrite 0 3 va k v = .ok w := by
  obtain ⟨ps, h1, h2, -, -⟩ := pages_devParts hT hi (place_leaf0 s) .write (by decide) (k / 2 ^ 16 + 2) va k hva
  have h3 := near_parts s hu hb ps (near h2) true
  exact ⟨_, by simp only [State.devWrite, h1, h3]; rfl⟩

/-- An image with room in the save area is written, where every page of it lies in this package's HBM and is sound. -/
theorem image_ok {s : State} {c : Ctx} (hT : Holds s.tlb leaf0) (hc : s.ctxs.get? 3 = some c) (hs : c.inService = [])
    (hu : s.upsets = []) (hb : s.busErrors = []) (o : ImageOwner) (n k v : Nat) (hr : c.saveRoom n = some 0) :
    ∃ w, s.writeImage 0 3 o n k v = .ok w := by
  have hi : ∀ va, s.inServiceAt 3 va = none := by simp [State.inServiceAt, hc, hs]
  have hva : (c.saveBase.toNat + 0) % 2 ^ 64 < 2 ^ 64 := Nat.mod_lt _ (by decide)
  obtain ⟨ps, h1, h2, -, -⟩ := pages_devParts hT hi (place_leaf0 s) .write (by decide) (n / 2 ^ 16 + 2) _ n hva
  have h3 := near_parts s hu hb ps (near h2) true
  obtain ⟨m, e, x, he, -⟩ := State.land_only s ps
  have hw : ∃ m e x, s.scribbleParts 0 3 (2 ^ 40 * s.draws) ps = s.withWrites m e x := by
    unfold State.scribbleParts
    rw [near_send s _ _ _ _ ps (near h2), he]
    exact ⟨_, _, _, rfl⟩
  obtain ⟨m, e, x, hw⟩ := hw
  have hd : ∃ w, ({ s.scribbleParts 0 3 (2 ^ 40 * s.draws) ps with draws := s.draws + 1 } : State).devWrite 0 3
      ((c.saveBase.toNat + 0) % 2 ^ 64) k v = .ok w := by
    rw [hw]
    exact write_ok (s := { s.withWrites m e x with draws := s.draws + 1 }) hT hi hu hb hva k v
  obtain ⟨w, hd⟩ := hd
  exact ⟨_, by simp only [State.writeImage, hc, hr, h1, h3, hd]; rfl⟩

theorem image_full {s : State} {c : Ctx} (hc : s.ctxs.get? 3 = some c) (hi : c.images = []) {o : ImageOwner} {n k v core : Nat}
    (h : c.saveSize < n) : s.writeImage core 3 o n k v = .error .full := by
  have hr : c.saveRoom n = none := by simp [Ctx.saveRoom, hi]; omega
  simp only [State.writeImage, hc, hr]

/-- The package that a suspend or a recover saves, its context's save area of this size, behind a TLB that holds every page. -/
def saving (op : Nat) (c : Ctx) (T : List TlbEntry) : State :=
  { sC op (3 * 2 ^ 64) with ctxs := [(3, c)], tlb := T, quarters := [] }

theorem saving_byte (op : Nat) (h : op ∈ [3, 4, 5]) (c : Ctx) (T : List TlbEntry) : (saving op c T).cmd.byte 8 = 3 ∧
    Commanded (saving op c T) op [8] := by
  have h : ∀ op ∈ [3, 4, 5], (sC op (3 * 2 ^ 64)).cmd.byte 8 = 3 ∧ (sC op (3 * 2 ^ 64)).cmd.busy = true ∧
    (sC op (3 * 2 ^ 64)).cmd.byte 0 = op ∧ (sC op (3 * 2 ^ 64)).cmd.stray [8] = false := by decide +kernel
  exact h op ‹_›

theorem saving_ctx (op : Nat) (h : op ∈ [3, 4, 5]) (c : Ctx) (T : List TlbEntry) :
    (saving op c T).ctxs.get? ((saving op c T).cmd.byte 8) = some c := by
  rw [(saving_byte op h c T).1]; rfl

/-- The hanks of context 3 stop; a suspend has started. -/
def stopped (s : State) : State := s.stopHanks [7]
def begun (s : State) : State :=
  stopped { s with
    cmd := { s.cmd with started := true }
    ctxs := s.ctxs.modify 3 fun c => { c with stopping := true } }

/-- ContextsAreSaved: a quiet hank of a context that is suspended, whose image fits its save area; and its save area too small. -/
theorem witness_SuspendSaves : ∃ T, ∃ w,
    let c := fun (n : Nat) => { ctx0 with saveSize := n }
    let s := saving 3 (c (Config.saveSize 0)) T
    s.ctxs.get? (s.cmd.byte 8) = some (c (Config.saveSize 0)) ∧ BeginsSave .suspend s 3 (c (Config.saveSize 0)) (begun s) ∧
      s.ctxHanks 3 = [7] ∧ s.hanks.get? 7 = some hank0 ∧ (begun s).hankQuiet 7 = true ∧
      (∀ y ∈ s.hankStrands 7, y.2.outs = [] ∧ ∀ b, y.2.run ≠ .blocked b) ∧ (∃ y ∈ s.hankStrands 7, y.2.run ≠ .exited) ∧
      s.tiles = [] ∧ s.envs = [] ∧ s.early = [] ∧ s.queues = [] ∧
      (begun s).writeImage hank0.core 3 (.hank 7) (Config.saveSize s.draws) 0 0 = .ok w ∧
      (0 < Config.saveSize 0 → (begun (saving 3 (c 0) T)).writeImage hank0.core 3 (.hank 7) (Config.saveSize 0) 0 0 = .error .full) := by
  obtain ⟨T, hT⟩ := holds_exists leaf0
  obtain ⟨w, hw⟩ := image_ok (s := begun (saving 3 { ctx0 with saveSize := Config.saveSize 0 } T))
    (c := { ctx0 with saveSize := Config.saveSize 0, stopping := true }) hT rfl rfl rfl rfl (.hank 7) (Config.saveSize 0) 0 0
    (by simp [Ctx.saveRoom, ctx0])
  have hb := saving_byte 3 (by decide) { ctx0 with saveSize := Config.saveSize 0 } T
  refine ⟨T, w, saving_ctx 3 (by decide) _ T, .inl ⟨rfl, hb.2, rfl, rfl⟩, rfl, rfl, rfl, ?_, ⟨(0, st0), List.mem_singleton.2 rfl, ?_⟩,
    rfl, rfl, rfl, rfl, hw, fun h => image_full (c := { ctx0 with saveSize := 0, stopping := true }) rfl rfl h⟩
  · intro y hy
    rw [List.mem_singleton.1 (show y ∈ [(0, st0)] from hy)]
    exact ⟨rfl, by intro b h; cases h⟩
  · intro h; cases h

/-- ContextsAreSaved: a hank with a load outstanding, which a suspend waits for. -/
theorem witness_SuspendWaits (T : List TlbEntry) :
    let y := { st0 with outs := [early3 (.load .s8 8)] }
    let s := { saving 3 ctx0 T with strands := [(0, y)] }
    BeginsSave .suspend s 3 ctx0 (begun s) ∧ s.ctxHanks 3 = [7] ∧ s.hanks.get? 7 = some hank0 ∧ (begun s).hankQuiet 7 = false :=
  ⟨.inl ⟨rfl, (saving_byte 3 (by decide) ctx0 T).2, rfl, rfl⟩, rfl, rfl, rfl⟩

/-- A context that has faulted, its report written and released. -/
def fallen (n : Nat) : Ctx := { ctx0 with st := .faulted, recorded := true, faultCode := 9, saveSize := n }

theorem released {T : List TlbEntry} (hT : Holds T leaf0) (c : Ctx) (hc : c.inService = []) :
    ∃ v, ({ saving 5 c T with mem := [(0x25000, 1)] } : State).devRead 0 3 0x15000 8 = .ok v ∧ v.testBit 0 = true := by
  obtain ⟨ps, h1, -, -, h4⟩ := pages_devParts (s := { saving 5 c T with mem := [(0x25000, 1)] }) hT
    (by intro va; show ((some c).bind _ : Option InService) = none; simp [hc]) (place_leaf0 _) .read (by decide) (8 / 2 ^ 16 + 2) 0x15000 8 (by decide)
  have h4 := h4 (by decide) (by decide) (by decide)
  subst h4
  have hn := near_parts { saving 5 c T with mem := [(0x25000, 1)] } rfl rfl
    [⟨0x20000 + 0x15000 % 65536, 8, leafOrd leaf0, 0x15000, leafCacheable leaf0 && decide (0x20000 + 0x15000 % 65536 < 2 ^ 47), false,
      leafLevel leaf0⟩] (near (by decide)) false
  have hv : ({ s0 with mem := [(0x25000, 1)] } : State).seenParts (dieAgent (dieOf 0)) [⟨0x20000 + 0x15000 % 65536, 8, leafOrd leaf0,
    0x15000, leafCacheable leaf0 && decide (0x20000 + 0x15000 % 65536 < 2 ^ 47), false, leafLevel leaf0⟩] = 1 := by decide +kernel
  refine ⟨1, ?_, by decide⟩
  simp only [State.devRead, h1, hn]
  exact congrArg Except.ok hv

/-- ContextsAreSaved: a quiet hank, at a recover; and its save area too small. -/
theorem witness_RecoverSaves : ∃ T, ∃ w,
    let s := fun (n : Nat) => { saving 5 (fallen n) T with mem := [(0x25000, 1)] }
    let l := Config.saveSize 0
    BeginsSave .recover (s l) 3 (fallen l) (stopped (s l)) ∧ (s l).ctxHanks 3 = [7] ∧ (s l).hanks.get? 7 = some hank0 ∧
      (stopped (s l)).hankQuiet 7 = true ∧ (stopped (s l)).writeImage hank0.core 3 (.hank 7) l 0 0 = .ok w ∧
      (0 < l → BeginsSave .recover (s 0) 3 (fallen 0) (stopped (s 0)) ∧
        (stopped (s 0)).writeImage hank0.core 3 (.hank 7) l 0 0 = .error .full) := by
  obtain ⟨T, hT⟩ := holds_exists leaf0
  obtain ⟨w, hw⟩ := image_ok (s := stopped { saving 5 (fallen (Config.saveSize 0)) T with mem := [(0x25000, 1)] })
    (c := fallen (Config.saveSize 0)) hT rfl rfl rfl rfl (.hank 7) (Config.saveSize 0) 0 0 (by simp [Ctx.saveRoom, ctx0, fallen])
  have hb := fun c => (saving_byte 5 (by decide) c T).2
  exact ⟨T, w, .inr ⟨rfl, hb (fallen (Config.saveSize 0)), rfl, rfl, by decide, released hT (fallen (Config.saveSize 0)) rfl, rfl⟩, rfl, rfl, rfl, hw,
    fun h => ⟨.inr ⟨rfl, hb (fallen 0), rfl, rfl, by decide, released hT (fallen 0) rfl, rfl⟩, image_full (c := fallen 0) rfl rfl h⟩⟩

/-- The part of 16 bytes at the start of the save area. -/
def headerPart : Part := ⟨0x20000 + 0x10000 % 65536, 16, leafOrd leaf0, 0x10000,
  leafCacheable leaf0 && decide (0x20000 + 0x10000 % 65536 < 2 ^ 47), false, leafLevel leaf0⟩

/-- ContextsAreSaved: a live tile with no hank, whose image fits the save area; and a save area too small. -/
theorem witness_TileIsSaved : ∃ T, ∃ (w : Nat → State) (ps : List Part),
    let c := fun (n : Nat) => { ctx0 with saveSize := n }
    let s := fun (n : Nat) => { saving 3 (c n) T with
      hanks := [], strands := [], knots := [(63, knotOf alone2)], tiles := [(7, tile0)] }
    let len := 1024 * (Config.saveSize 0 % 96 + 1)
    BeginsSave .suspend (s 98304) 3 (c 98304) (begun (s 98304)) ∧ (s 98304).ctxHanks 3 = [] ∧
      ((s 98304).tiles.filter fun p => p.2.ctx == 3 && !p.2.frozen) = [(7, tile0)] ∧
      (∀ header, (begun (s 98304)).writeImage 0 3 (.tile 7) len 16 header = .ok (w header)) ∧ (c 98304).saveRoom len = some 0 ∧
      (∀ m, ({ s 98304 with mem := m } : State).devParts 0 3 .write 2 0x10000 16 = .ok [headerPart]) ∧
      Reached (s 98304) headerPart ∧ (s 98304).devParts 0 3 .write (len / 2 ^ 16 + 2) 0x10000 len = .ok ps ∧
      (∀ p ∈ ps, keyPackage p.key = none) ∧ (s 98304).MemOk ∧
      ∀ header, (begun (s 0)).writeImage 0 3 (.tile 7) len 16 header = .error .full := by
  obtain ⟨T, hT⟩ := holds_exists leaf0
  let c := fun (n : Nat) => { ctx0 with saveSize := n }
  let s := fun (n : Nat) => { saving 3 (c n) T with
    hanks := [], strands := [], knots := [(63, knotOf alone2)], tiles := [(7, tile0)] }
  have hr : (c 98304).saveRoom (1024 * (Config.saveSize 0 % 96 + 1)) = some 0 := by
    have : 1024 * (Config.saveSize 0 % 96 + 1) ≤ 98304 := by omega
    simp [Ctx.saveRoom, c, ctx0, this]
  have hw := fun header => image_ok (s := begun (s 98304)) (c := { c 98304 with stopping := true }) hT rfl rfl rfl rfl (.tile 7)
    (1024 * (Config.saveSize 0 % 96 + 1)) 16 header hr
  choose w hw using hw
  obtain ⟨ps, h1, h2, -, -⟩ := pages_devParts (s := s 98304) hT (fun _ => rfl) (place_leaf0 _) .write (by decide)
    (1024 * (Config.saveSize 0 % 96 + 1) / 2 ^ 16 + 2) 0x10000 (1024 * (Config.saveSize 0 % 96 + 1)) (by decide)
  have hq : ∀ m, ({ s 98304 with mem := m } : State).devParts 0 3 .write 2 0x10000 16 = .ok [headerPart] := by
    intro m
    obtain ⟨qs, g1, -, -, g4⟩ := pages_devParts (s := { s 98304 with mem := m }) hT (fun _ => rfl) (place_leaf0 _) .write (by decide)
      2 0x10000 16 (by decide)
    rw [g1, g4 (by decide) (by decide) (by decide)]
    rfl
  refine ⟨T, w, ps, .inl ⟨rfl, (saving_byte 3 (by decide) (c 98304) T).2, rfl, rfl⟩, rfl, rfl, hw, hr, hq, ⟨by decide, fun w => ?_⟩, h1,
    near h2, rfl, fun header => image_full (c := { c 0 with stopping := true }) rfl rfl (Nat.mul_pos (by decide) (Nat.succ_pos _))⟩
  show State.busFault s0 w [headerPart] = none
  cases w <;> decide +kernel

/-- A page of package 5, to which a route leads by port 3. -/
def leaf5 : Nat := leaf0 + 2 ^ 49 + 4 * 5
def far5 : AMap Nat := [(5, 2 ^ 3)]

theorem place_leaf5 (s : State) (hr : s.routes = far5) (hp : s.pkgid = 0) : ∀ i va len, 65536 * i ≤ va →
    va + len ≤ 65536 * i + 65536 → va < 65536 * i + 65536 →
    s.place ⟨leaf5, 65536 * i, 65536⟩ va len = .ok (6 * 2 ^ 48 + 0x20000 + va % 65536) := by
  intro i va len h1 h2 h3
  have e1 : leafRem leaf5 = true := by decide
  have e2 : leafFrame leaf5 = 0x20000 := by decide
  have e3 : leafPkg leaf5 = 5 := by decide
  have e4 : s.routed 5 = true := by simp [State.routed, hr, far5, AMap.getD, AMap.get?]
  have h : va - 65536 * i = va % 65536 := by omega
  simp [State.place, e1, e2, e3, e4, h, hp, Nat.add_assoc]
  rw [if_neg (by unfold hbmEnd; omega)]
  congr 1; omega

/-- The swap of hank 7 at its core, its context's save area of `n` bytes. -/
def swapping (n : Nat) (T : List TlbEntry) : State :=
  let y := { st0 with run := .stalled .swap, regs := { regs0 with pc := ⟨0x10010, 0⟩ } }
  { one y with
    quarters := [], events := [(0, [])], lastSource := [(0, 4)], hanks := [(7, { hank0 with stopping := true })]
    ctxs := [(3, { ctx0 with saveSize := n })], tlb := T }

/-- HanksSwapOut: an image that is written; one without room, one that meets an uncorrectable error and one that waits for a port, each
of at least one byte. -/
theorem witness_HanksSwapOut_images : ∃ T U, ∃ w,
    let l := Config.saveSize 0
    let image := fun (s : State) => s.writeImage 0 3 (.hank 7) l 0 0
    image (swapping l T) = .ok w ∧ (0 < l → image (swapping 0 T) = .error .full ∧
      (∃ f, image { swapping l T with upsets := [0x8000] } = .error (.fault f) ∧ f.cause = 7) ∧
      image { swapping l U with routes := far5 } = .error (.wait 5)) := by
  obtain ⟨T, hT⟩ := holds_exists leaf0
  obtain ⟨U, hU⟩ := holds_exists leaf5
  have hr : ({ ctx0 with saveSize := Config.saveSize 0 } : Ctx).saveRoom (Config.saveSize 0) = some 0 := by simp [Ctx.saveRoom, ctx0]
  obtain ⟨w, hw⟩ := image_ok (s := swapping (Config.saveSize 0) T) (c := { ctx0 with saveSize := Config.saveSize 0 }) hT rfl rfl rfl rfl
    (.hank 7) (Config.saveSize 0) 0 0 hr
  refine ⟨T, U, w, hw, fun h => ⟨image_full (c := { ctx0 with saveSize := 0 }) rfl rfl h, ?_, ?_⟩⟩
  · obtain ⟨ps, h1, -, h3, -⟩ := pages_devParts (s := { swapping (Config.saveSize 0) T with upsets := [0x8000] }) hT (fun _ => rfl)
      (place_leaf0 _) .write (by decide) (Config.saveSize 0 / 2 ^ 16 + 2) 0x10000 (Config.saveSize 0) (by decide)
    obtain ⟨p, r, rfl, hk, hl, -, -⟩ := h3 (by omega) h
    have hu : ({ swapping (Config.saveSize 0) T with upsets := [0x8000] } : State).upset p.key p.len = true := by
      have : p.key / 4 ≤ 0x8000 ∧ 0x8000 ≤ (p.key + p.len - 1) / 4 := by omega
      simp [State.upset, this]
    have hf : ({ swapping (Config.saveSize 0) T with upsets := [0x8000] } : State).reachFault true (p :: r) =
        some { va := p.va, cause := 7, level := p.level } := by
      simp only [State.reachFault, State.busFault, List.findSome?_cons, hu, if_true]
    refine ⟨{ va := p.va, cause := 7, level := p.level }, ?_, rfl⟩
    have hc : ({ swapping (Config.saveSize 0) T with upsets := [0x8000] } : State).ctxs.get? 3 =
      some { ctx0 with saveSize := Config.saveSize 0 } := rfl
    have ha : (({ ctx0 with saveSize := Config.saveSize 0 } : Ctx).saveBase.toNat + 0) % 2 ^ 64 = 0x10000 := by decide
    simp only [State.writeImage, hc, hr, ha, h1, hf]
    rfl
  · obtain ⟨ps, h1, h2, h3, -⟩ := pages_devParts (s := { swapping (Config.saveSize 0) U with routes := far5 }) hU (fun _ => rfl)
      (place_leaf5 _ rfl rfl) .write (by decide) (Config.saveSize 0 / 2 ^ 16 + 2) 0x10000 (Config.saveSize 0) (by decide)
    obtain ⟨p, r, rfl, hk, hl, -, -⟩ := h3 (by omega) h
    have hp : keyPackage p.key = some 5 := by
      have := h2 p (List.mem_cons_self ..)
      rw [keyPackage, if_pos (by omega)]
      congr 1; omega
    have hb : ({ swapping (Config.saveSize 0) U with routes := far5 } : State).busFault true (p :: r) = none := by
      simp [State.busFault, State.upset, swapping, one, State.reset]
    have hz : ({ swapping (Config.saveSize 0) U with routes := far5 } : State).portRoom 5 = 0 := by
      show State.portRoom { s0 with routes := far5 } 5 = 0
      decide +kernel
    have hf : ({ swapping (Config.saveSize 0) U with routes := far5 } : State).reachFault true (p :: r) =
        some { va := p.va, cause := 0, level := 0, page := 5 } := by
      simp [State.reachFault, hb, hp, hz]
    have hc : ({ swapping (Config.saveSize 0) U with routes := far5 } : State).ctxs.get? 3 =
      some { ctx0 with saveSize := Config.saveSize 0 } := rfl
    have ha : (({ ctx0 with saveSize := Config.saveSize 0 } : Ctx).saveBase.toNat + 0) % 2 ^ 64 = 0x10000 := by decide
    simp only [State.writeImage, hc, hr, ha, h1, hf]
    rfl

/-- SavedHanksReturn, ContextsMoveBetweenStates: an image in another package, to which no port is up; a trap table, a fault report, a
queue's descriptor and its RDIDX there, and at an address without a page. -/
theorem witness_ReadsWait :
    let i : SaveImage := ⟨.hank 7, 0x100, 64, 0⟩
    let v : SavedHank := ⟨7, hank0, false, [(0, ⟨7, 0, 1, BitVec.allOnes 32, 0, []⟩)], [(0, st0)], [], [], [], [], [], []⟩
    let c := { ctx0 with images := [i] }
    let s := fun (leaf : Nat) => { s0 with
      strands := [], braids := [], banks := [], hanks := [], saved := [v], swapIn := [(0, [7])], ctxs := [(3, c)], routes := far5
      tlb := [⟨0, 3, 0x10000, 0x10000, leaf⟩] }
    let cause := fun (r : Except XFault Nat) => match r with | .error f => some (f.cause, f.page) | .ok _ => none
    (s leaf5).nextIn 0 = some v ∧ (s leaf5).imageLink 3 c i = some 5 ∧ (s leaf5).imagesLink 3 c = some 5 ∧
      ((s leaf5).imagesOf c v).findSome? ((s leaf5).imageLink 3 c) = some 5 ∧ (s leaf0).imageLink 3 c i = none ∧
      (∀ r ∈ [(0x12000, 256), (0x15000, 8), (0x11000, 64), (0x11018, 8)],
        cause ((s leaf5).devRead 0 3 r.1 r.2) = some (0, 5) ∧ cause ((s leaf5).devRead 0 3 0x50000 r.2) = some (1, 0)) ∧
      cause (Queue.read (s leaf5) (queue0 0 0) 24 8) = some (0, 5) ∧
      cause (Queue.read (s leaf5) { queue0 0 0 with desc := 0x50000 } 24 8) = some (1, 0) := by decide +kernel

/-- ContextsMoveBetweenStates: a frozen tile of no saved hank's knot, whose image passes its checks; SavedHanksReturn: a hank with such
an image. -/
theorem witness_ImagesPass :
    let j : SaveImage := ⟨.tile 7, 0x100, 16, 0⟩
    let i : SaveImage := ⟨.hank 7, 0, 0, 0⟩
    let e := { tile0 with frozen := true, ovf := true }
    let v : SavedHank := ⟨7, hank0, false, [(0, ⟨7, 0, 1, BitVec.allOnes 32, 0, []⟩)], [(0, st0)], [], [], [], [], [], []⟩
    let s := fun (l : List SaveImage) (h : List SavedHank) => { sC 4 (3 * 2 ^ 64) with
      ctxs := [(3, { ctx0 with st := .suspended, images := l })], tiles := [(7, e)], knots := [(63, knotOf alone2)], strands := []
      hanks := [], saved := h, braids := [], banks := [], swapIn := [(0, [7])]
      mem := Memory.writeN 0x20100 (1 + 2 ^ 24 + 2 * 2 ^ 32 + 2 ^ 37 + 3 * 2 ^ 38 + knotId 63 5 * 2 ^ 96) 16 [] }
    let c := fun (l : List SaveImage) => { ctx0 with st := .suspended, images := l }
    (s [j] []).ctxs.get? ((s [j] []).cmd.byte 8) = some (c [j]) ∧ (s [j] []).modeRefuses (c [j]).firmware = false ∧
      ((s [j] []).tiles.filter fun p => p.2.ctx == 3 && p.2.frozen) = [(7, e)] ∧ ((s [j] []).knot (7 / 8 * 64 + e.entry)).queue = [] ∧
      (s [j] []).imagesLink 3 (c [j]) = none ∧ (s [j] []).imageBad 3 (c [j]) j = false ∧ (s [j] []).replays = [] ∧
      (c [j]).images.find? (fun i => i.owner == .tile 7) = some j ∧
      (match (s [j] []).devRead (7 / 8) 3 (((c [j]).saveBase.toNat + j.off) % 2 ^ 64) 16 with
        | .ok v => v.testBit 37 | .error _ => false) = true ∧
      (s [i] [v]).imagesOf (c [i]) v = [i] ∧ (s [i] [v]).imageBad 3 (c [i]) i = false ∧ (s [i] [v]).imageLink 3 (c [i]) i = none := by
  decide +kernel

end Sys2Proof.Tests
end

section
/-! PROOFS. Encoding and decoding: what the decoder reads from each field that the encoder writes, format by format, and that every
well-formed instruction reads back from its encoding (02 R31 to R52). -/

namespace Sys2Proof

/-! ## Codes of the enumerated fields -/

theorem codeIn_lt {α : Type} [DecidableEq α] {l : List α} {x : α} {k : Nat} (h : x ∈ l) (hk : l.length ≤ k := by decide) :
    codeIn l x < k := (List.idxOf_lt_length_of_mem h).trans_le hk

@[simp] theorem getElem?_codeIn {α : Type} [DecidableEq α] {l : List α} {x : α} (h : x ∈ l) : l[codeIn l x]? = some x :=
  List.getElem?_idxOf h

@[simp] theorem mem_tagCodes (t : Tag) : t ∈ tagCodes := by cases t <;> decide
@[simp] theorem mem_specialCodes (x : Special) : x ∈ specialCodes := by cases x <;> decide
@[simp] theorem mem_rmCodes (r : Rm) : r ∈ rmCodes := by cases r <;> decide
@[simp] theorem mem_rndCodes (r : Rnd) : r ∈ rndCodes := by cases r <;> decide
@[simp] theorem mem_iWidthCodes (w : IWidth) : w ∈ iWidthCodes := by cases w <;> decide
@[simp] theorem mem_condCodes (c : Cond) : c ∈ condCodes := by cases c <;> decide
@[simp] theorem mem_fCondCodes (c : FCond) : c ∈ fCondCodes := by cases c <;> decide
@[simp] theorem mem_packFmtCodes (f : PackFmt) : f ∈ packFmtCodes := by cases f <;> decide
@[simp] theorem mem_cvtFmtCodes (f : CvtFmt) : f ∈ cvtFmtCodes := by cases f <;> decide
@[simp] theorem mem_shflModeCodes (m : ShflMode) : m ∈ shflModeCodes := by cases m <;> decide
@[simp] theorem mem_voteModeCodes (m : VoteMode) : m ∈ voteModeCodes := by cases m <;> decide
@[simp] theorem mem_foldOpCodes (o : FoldOp) : o ∈ foldOpCodes := by cases o <;> decide
@[simp] theorem mem_scopeCodes (x : Scope) : x ∈ scopeCodes := by cases x <;> decide
@[simp] theorem mem_hintCodes (h : Hint) : h ∈ hintCodes := by cases h <;> decide
@[simp] theorem mem_bankModeCodes (m : BankMode) : m ∈ bankModeCodes := by cases m <;> decide
@[simp] theorem mem_prefLevelCodes (v : PrefLevel) : v ∈ prefLevelCodes := by cases v <;> decide
@[simp] theorem mem_atomOpCodes (o : AtomOp) : o ∈ atomOpCodes := by cases o <;> decide
@[simp] theorem mem_fenceKindCodes (k : FenceKind) : k ∈ fenceKindCodes := by cases k <;> decide
@[simp] theorem mem_tileFmtCodes (f : TileFmt) : f ∈ tileFmtCodes := by cases f <;> decide
@[simp] theorem mem_drainFmtCodes (f : DrainFmt) : f ∈ drainFmtCodes := by cases f <;> decide
@[simp] theorem mem_quantFmtCodes (f : QuantFmt) : f ∈ quantFmtCodes := by cases f <;> decide
@[simp] theorem mem_agetFormCodes (f : AgetForm) : f ∈ agetFormCodes := by cases f <;> decide
@[simp] theorem mem_kinfoFormCodes (f : KinfoForm) : f ∈ kinfoFormCodes := by cases f <;> decide
@[simp] theorem mem_moviFormCodes (f : MoviForm) : f ∈ moviFormCodes := by cases f <;> decide

/-! ## The fields that a word spells -/

theorem opAssigned_lt {op : Nat} (h : opAssigned op = true) : op < 256 := by
  by_contra hge
  have : 16 ≤ op / 16 := by omega
  unfold opAssigned at h
  split at h <;> simp_all

theorem bits_mul_add {hi k : Nat} (h : hi < k) (m n lo : Nat) : bits (2 ^ k * m + n) hi lo = bits n hi lo := by
  by_cases hlo : lo ≤ hi
  · have hk : 2 ^ k * m = 2 ^ lo * (2 ^ (hi + 1 - lo) * (2 ^ (k - (hi + 1)) * m)) := by
      rw [← mul_assoc, ← mul_assoc, ← pow_add, ← pow_add]
      congr 2
      omega
    rw [bits, bits, hk, Nat.mul_add_div (by positivity), Nat.mul_add_mod]
  · have hw : hi + 1 - lo = 0 := by omega
    simp [bits, hw, Nat.mod_one]

theorem bits_wordOf {op fn low hi lo : Nat} {p : Pred} (h : hi < 43) : bits (wordOf op fn p low) hi lo = bits low hi lo := by
  have hw : wordOf op fn p low = 2 ^ 43 * (op * 2 ^ 13 + fn * 2 ^ 9 + (if p.inv then 2 ^ 8 else 0) + p.reg) + low := by
    unfold wordOf
    split <;> omega
  rw [hw, bits_mul_add h]

theorem fieldsOf_wordOf {op fn low : Nat} {p : Pred} (hop : op < 256) (hfn : fn < 16) (hp : p.reg < 256) (hlow : low < 2 ^ 43) :
    fieldsOf (wordOf op fn p low) = { fieldsOf low with op := op, fn := fn, pred := p } := by
  have h1 : bits (wordOf op fn p low) 63 56 = op := by unfold bits wordOf; split <;> omega
  have h2 : bits (wordOf op fn p low) 55 52 = fn := by unfold bits wordOf; split <;> omega
  have h3 : (bits (wordOf op fn p low) 51 51 == 1) = p.inv := by
    unfold bits wordOf
    cases p.inv <;> simp <;> omega
  have h4 : bits (wordOf op fn p low) 50 43 = p.reg := by unfold bits wordOf; split <;> omega
  simp [fieldsOf, h1, h2, h3, h4, bits_wordOf]

theorem fieldsOf_lowA {d a b c : Nat} {cap : Option Nat} (ha : a < 1024) (hb : b < 1024) (hc : c < 1024)
    (hd : d < 256) (hcap : ∀ o ∈ cap, o < 8) :
    fieldsOf (lowA d a b c cap) = { fieldsOf (lowA d a b c cap) with d := d, a := a, b := b, c := c, cap := cap } := by
  cases cap with
  | none => simp [fieldsOf, lowA, bits]; omega
  | some o =>
    have := hcap o rfl
    simp [fieldsOf, lowA, bits]; omega

theorem fieldsOf_lowI {d imm : Nat} (hd : d < 256) (himm : imm < 2 ^ 25) :
    fieldsOf (lowI d imm) = { fieldsOf (lowI d imm) with d := d, imm := imm } := by
  simp [fieldsOf, lowI, bits]; omega

theorem fieldsOf_lowL {d a b e : Nat} {l : Long} (ha : a < 1024) (hb : b < 1024) (he : e < 128)
    (hd : d < 256) (hs : l.slot < 16) (hl : l.look < 16) :
    fieldsOf (lowL d a b e l) = { fieldsOf (lowL d a b e l) with d := d, a := a, b := b, e := e, slot := l.slot, look := l.look } := by
  simp [fieldsOf, lowL, bits]; omega

theorem fieldsOf_lowB {r disp hint : Nat} (hr : r < 256) (hd : disp < 2 ^ 32) (hh : hint < 8) :
    fieldsOf (lowB r disp hint) = { fieldsOf (lowB r disp hint) with d := r, disp := disp, hint := hint } := by
  simp [fieldsOf, lowB, bits]; omega

theorem fieldsOf_lowS {d a csr slot look : Nat} (hd : d < 256) (ha : a < 1024) (hc : csr < 2 ^ 16) (hs : slot < 16)
    (hl : look < 16) : fieldsOf (lowS d a csr slot look) =
      { fieldsOf (lowS d a csr slot look) with d := d, a := a, csr := csr, slot := slot, look := look } := by
  simp [fieldsOf, lowS, bits]; omega

/-! ## Fields of sources, orders and addresses -/

/-- The source has a code of its own (02 R40). -/
def Src.Coded : Src → Prop
  | .v n => n < 256
  | .o n => n < 8
  | .const i => i < 64
  | .ll | .special _ => True

theorem SrcUse.coded {s : SrcUse} (h : s.wf = true) : s.src.Coded := by
  obtain ⟨_, s, u⟩ := s
  cases s with
  | const i => cases u <;> simp [SrcUse.wf, constFits, Src.Coded] at h ⊢ <;> omega
  | _ => simp_all [SrcUse.wf, Src.Coded]

theorem encSrc_lt {s : Src} (h : s.Coded) : encSrc s < 1024 := by
  cases s with
  | special x =>
    have : codeIn specialCodes x < 14 := codeIn_lt (by simp)
    simp only [encSrc]
    omega
  | _ => simp only [Src.Coded, encSrc] at h ⊢; omega

theorem decSrc_encSrc {s : Src} (h : s.Coded) : decSrc (encSrc s) = some s := by
  cases s with
  | special x => cases x <;> rfl
  | v n => simp [decSrc, encSrc, show n < 256 from h]
  | o n =>
    have h : n < 8 := h
    have hr : ¬ 256 + n < 256 ∧ 256 + n < 264 := by omega
    simp [decSrc, encSrc, hr]
  | ll => rfl
  | const i =>
    have h : i < 64 := h
    have hr : ¬ 768 + i < 256 ∧ ¬ 768 + i < 264 ∧ 768 + i ≠ 512 ∧ 768 + i < 832 := by omega
    simp [decSrc, encSrc, hr]

/-- The pair source has a code of its own: two registers, or two constants (02 R40). -/
def PairSrc.Coded : PairSrc → Prop
  | .v n => n + 2 ≤ 256
  | .const i => i < 32

theorem encPair_lt {s : PairSrc} (h : s.Coded) : encPair s < 1024 := by
  cases s <;> simp only [PairSrc.Coded, encPair] at h ⊢ <;> omega

theorem decPair_encPair {s : PairSrc} (h : s.Coded) : decPair (encPair s) = some s := by
  cases s with
  | v n =>
    have hr : n < 256 := by
      simp only [PairSrc.Coded] at h
      omega
    simp [decPair, encPair, hr]
  | const i =>
    have h : i < 32 := h
    have hr : ¬ 768 + i < 256 ∧ 768 + i < 832 := by omega
    simp [decPair, encPair, hr]

@[simp] theorem decReg_of_lt {n : Nat} (h : n < 256) : decReg n = some n := if_pos h

theorem encBool_lt (b : Bool) : encBool b < 2 := by cases b <;> decide
@[simp] theorem decBool_encBool (b : Bool) : decBool (encBool b) = some b := by cases b <;> rfl

theorem encInt_lt (f : IntForm) : encInt f < 16 := by
  obtain ⟨s, n, w⟩ := f
  cases s <;> cases n <;> cases w <;> decide

@[simp] theorem decInt_encInt (f : IntForm) : decInt (encInt f) = some f := by
  obtain ⟨s, n, w⟩ := f
  cases s <;> cases n <;> cases w <;> rfl

theorem encOs_lt (x : Option Scope) : encOs x < 8 := by
  cases x with
  | none => decide
  | some x => exact codeIn_lt (mem_scopeCodes x)

theorem decOs_encOs {x : Option Scope} (h : osOk x = true) : decOs (encOs x) = some x := by
  cases x with
  | none => rfl
  | some x =>
    cases x with
    | b => cases h
    | _ => rfl

theorem encOrder_lt (o : AtomOrder) : encOrder o < 32 := by
  cases o with
  | plain => decide
  | acq x | rel x | ar x =>
    have : codeIn scopeCodes x < 8 := codeIn_lt (mem_scopeCodes x)
    simp only [encOrder]
    omega

@[simp] theorem decOrder_encOrder (o : AtomOrder) : decOrder (encOrder o) = some o := by
  cases o with
  | plain => rfl
  | acq x | rel x | ar x => cases x <;> rfl

/-- The address has a code of its own. -/
def Addr.Coded : Addr → Prop
  | .g p b => p + 2 ≤ 256 ∧ b.Coded ∧ offsetOk b = true
  | .s a b => a.Coded ∧ b.Coded ∧ offsetOk b = true

theorem encAddrA_lt {a : Addr} (h : a.Coded) : encAddrA a < 1024 := by
  cases a with
  | g p b =>
    have hp : p + 2 ≤ 256 := h.1
    simp only [encAddrA]
    omega
  | s a b => exact encSrc_lt h.1

theorem encAddrB_lt {a : Addr} (h : a.Coded) : encAddrB a < 1024 := by
  cases a <;> exact encSrc_lt h.2.1

theorem encSpace_lt (x : Option Scope) (a : Addr) : encSpace x a < 16 := by
  have := encOs_lt x
  cases a <;> simp only [encSpace] <;> omega

@[simp] theorem encSpace_mod (x : Option Scope) (a : Addr) : encSpace x a % 8 = encOs x := by
  have := encOs_lt x
  cases a <;> simp only [encSpace] <;> omega

theorem decAddr_encAddr {a : Addr} (x : Option Scope) (h : a.Coded) :
    decAddr (encSpace x a) (encAddrA a) (encAddrB a) = some a := by
  have := encOs_lt x
  cases a with
  | g p b => simp [decAddr, encSpace, encAddrA, encAddrB, decSrc_encSrc h.2.1, show p < 256 from Nat.lt_of_succ_lt h.1, this]
  | s a b => simp [decAddr, encSpace, encAddrA, encAddrB, decSrc_encSrc h.1, decSrc_encSrc h.2.1]

/-- The atomic's place has a code of its own. -/
def Place.Coded : Place → Prop
  | .g p => p + 2 ≤ 256
  | .s a => a.Coded

theorem encPlaceA_lt {a : Place} (h : a.Coded) : encPlaceA a < 1024 := by
  cases a with
  | g p =>
    have hp : p + 2 ≤ 256 := h
    simp only [encPlaceA]
    omega
  | s a => exact encSrc_lt h

theorem encPlaceE_lt (w : Bool) (o : AtomOrder) (a : Place) : encPlaceE w o a < 128 := by
  have := encOrder_lt o
  cases a <;> cases w <;> simp [encPlaceE] <;> omega

@[simp] theorem encPlaceE_mod (w : Bool) (o : AtomOrder) (a : Place) : encPlaceE w o a % 32 = encOrder o := by
  have := encOrder_lt o
  cases a <;> cases w <;> simp [encPlaceE] <;> omega

theorem decPlace_encPlace {a : Place} (w : Bool) (o : AtomOrder) (h : a.Coded) :
    decPlace (encPlaceE w o a) (encPlaceA a) = some a := by
  have := encOrder_lt o
  cases a with
  | g p =>
    have he : encPlaceE w o (.g p) / 32 % 2 = 0 := by cases w <;> simp [encPlaceE] <;> omega
    simp [decPlace, he, encPlaceA, show p < 256 from Nat.lt_of_succ_lt h]
  | s a =>
    have he : encPlaceE w o (.s a) / 32 % 2 ≠ 0 := by cases w <;> simp [encPlaceE] <;> omega
    simp [decPlace, he, encPlaceA, decSrc_encSrc h]

/-- The atomic's argument has a code of its own. -/
def AtomArg.Coded : AtomArg → Prop
  | .b32 b => b.Coded
  | .b64 b => b.Coded

theorem encArg_lt {b : AtomArg} (h : b.Coded) : encArg b < 1024 := by
  cases b with
  | b32 b => exact encSrc_lt h
  | b64 b => exact encPair_lt h

theorem decArg_encArg {b : AtomArg} (o : AtomOrder) (a : Place) (h : b.Coded) :
    decArg (encPlaceE b.is64 o a) (encArg b) = some b := by
  have := encOrder_lt o
  cases b with
  | b32 b =>
    have he : encPlaceE (AtomArg.b32 b).is64 o a / 64 = 0 := by cases a <;> simp [encPlaceE, AtomArg.is64] <;> omega
    simp [decArg, he, encArg, decSrc_encSrc h]
  | b64 b =>
    have he : encPlaceE (AtomArg.b64 b).is64 o a / 64 ≠ 0 := by cases a <;> simp [encPlaceE, AtomArg.is64]; omega
    simp [decArg, he, encArg, decPair_encPair h]

theorem encLdKind_lt (k : LdKind) : encLdKind k < 30 := by
  cases k with
  | b32 t | b128 t =>
    have : codeIn tagCodes t < 10 := codeIn_lt (mem_tagCodes t)
    simp only [encLdKind]
    omega
  | _ => decide

@[simp] theorem decLdKind_encLdKind (k : LdKind) : decLdKind (encLdKind k) = some k := by
  cases k with
  | b32 t | b128 t => cases t <;> rfl
  | _ => rfl

theorem encStKind_lt (k : StKind) : encStKind k < 30 := by cases k <;> decide
@[simp] theorem decStKind_encStKind (k : StKind) : decStKind (encStKind k) = some k := by cases k <;> rfl

/-- The attachment has a code of its own. -/
def Attach.Coded : Attach → Prop
  | .nothing => True
  | .barrier b => b < 128
  | .closure k => k < 8

theorem encAttach_fst_lt (t : Attach) : (encAttach t).1 < 3 := by cases t <;> simp [encAttach]

theorem encAttach_snd_lt {t : Attach} (h : t.Coded) : (encAttach t).2 < 128 := by
  cases t <;> simp only [Attach.Coded, encAttach] at h ⊢ <;> omega

@[simp] theorem decAttach_encAttach (t : Attach) : decAttach (encAttach t).1 (encAttach t).2 = some t := by
  cases t <;> rfl

/-- The tile has a code of its own: one of four contexts, one of four tiles. -/
def TileRef.Coded (r : TileRef) : Prop := r.k < 4 ∧ r.t < 4

theorem TileRef.code_lt {r : TileRef} (h : r.Coded) : r.code < 16 := by
  obtain ⟨hk, ht⟩ := h
  unfold TileRef.code
  omega

theorem tileOf_code_add {r : TileRef} (h : r.Coded) (m : Nat) : tileOf (16 * m + r.code) = r := by
  obtain ⟨hk, ht⟩ := h
  obtain ⟨k, t⟩ := r
  simp only [tileOf, TileRef.code, TileRef.mk.injEq] at *
  omega

theorem tileOf_code {r : TileRef} (h : r.Coded) : tileOf r.code = r := by
  simpa using tileOf_code_add h 0

/-! ## What well-formedness says of the fields -/

/-- Destination and capture in range, of a word that writes n registers. -/
def DstA.Coded (x : DstA) (n : Nat) : Prop := x.pred.reg < 256 ∧ x.d + n ≤ 256 ∧ ∀ o ∈ x.cap, o < 8

/-- Predicate, slot and lookahead in range. -/
def Long.Coded (l : Long) : Prop := l.pred.reg < 256 ∧ l.slot < 16 ∧ l.look < 16

/-- What the encoding needs of well-formedness: an instruction word, whose entry's checks pass and whose fields are in range. -/
def Info.Fits (x : Info) : Prop :=
  x.word = true ∧ x.ok = true ∧ x.pred.reg < 256 ∧ (∀ u ∈ x.srcs, u.src.Coded) ∧ (∀ r ∈ x.runs, r.first + r.n ≤ 256) ∧
  (∀ i ∈ x.pairConsts, i < 32) ∧ (∀ r ∈ x.writes, r.1 + r.2 ≤ 256) ∧ (∀ r ∈ x.affs, r < 16) ∧ (∀ o ∈ x.cap, o < 8) ∧
  ∀ l ∈ x.long, l.Coded

theorem Long.coded_of_wf {l : Long} {writes : Bool} (h : l.wf writes = true) : l.Coded := by
  simp only [Long.wf, Pred.wf, Bool.and_eq_true, Bool.or_eq_true, decide_eq_true_eq, beq_iff_eq] at h
  unfold Long.Coded
  omega

theorem Info.fits_of_wf {x : Info} (h : x.wf = true) : x.Fits := by
  simp only [Info.wf, Pred.wf, Bool.and_eq_true, List.all_eq_true, decide_eq_true_eq] at h
  obtain ⟨⟨⟨⟨⟨⟨⟨⟨⟨⟨hword, hok⟩, hpred, -⟩, hsrcs⟩, hruns⟩, hconsts⟩, hwrites⟩, -⟩, haffs⟩, hcap⟩, hlong⟩ := h
  refine ⟨hword, hok, hpred, fun u hu => SrcUse.coded (hsrcs u hu), hruns, hconsts, hwrites, haffs, fun o ho => ?_, fun l hl => ?_⟩
  · rw [Option.mem_def.1 ho] at hcap
    simp at hcap
    exact hcap.1
  · rw [Option.mem_def.1 hl] at hlong
    exact Long.coded_of_wf hlong

section Builders
variable (x : Info)

@[simp] theorem Info.fits_check (b : Bool) : (x.check b).Fits ↔ x.Fits ∧ b = true := by
  simp [Info.Fits, Info.check]; tauto

@[simp] theorem Info.fits_src (o : Nat) (s : Src) (u : Use) : (x.src o s u).Fits ↔ x.Fits ∧ s.Coded := by
  simp [Info.Fits, Info.src, or_imp, forall_and]; tauto

@[simp] theorem Info.fits_run (o r n : Nat) (t : Option Tag) : (x.run o r n t).Fits ↔ x.Fits ∧ r + n ≤ 256 := by
  simp [Info.Fits, Info.run, or_imp, forall_and]; tauto

@[simp] theorem Info.fits_dst (d n : Nat) : (x.dst d n).Fits ↔ x.Fits ∧ d + n ≤ 256 := by
  simp [Info.Fits, Info.dst, or_imp, forall_and]; tauto

@[simp] theorem Info.fits_evenReg (n : Nat) : (x.evenReg n).Fits ↔ x.Fits := Iff.rfl

@[simp] theorem Info.fits_ite_evenReg (c : Prop) [Decidable c] (n : Nat) : (if c then x else x.evenReg n).Fits ↔ x.Fits := by
  split <;> rfl

@[simp] theorem Info.fits_aff (l : List Nat) : (x.aff l).Fits ↔ x.Fits ∧ ∀ r ∈ l, r < 16 := by
  simp [Info.Fits, Info.aff, or_imp, forall_and]; tauto

@[simp] theorem Info.fits_pair (o n : Nat) : (x.pair o n).Fits ↔ x.Fits ∧ n + 2 ≤ 256 := by
  simp [Info.Fits, Info.pair, or_imp, forall_and]; tauto

@[simp] theorem Info.fits_pairSrc (o : Nat) (s : PairSrc) : (x.pairSrc o s).Fits ↔ x.Fits ∧ s.Coded := by
  cases s with
  | v n => exact x.fits_pair o n
  | const i => simp [Info.Fits, Info.pairSrc, PairSrc.Coded, or_imp, forall_and]; tauto

@[simp] theorem Info.fits_addr (a : Addr) : (x.addr a).Fits ↔ x.Fits ∧ a.Coded := by
  cases a <;> simp [Info.addr, Addr.Coded, and_assoc]

@[simp] theorem Info.fits_place (a : Place) : (x.place a).Fits ↔ x.Fits ∧ a.Coded := by
  cases a <;> simp [Info.place, Place.Coded]

@[simp] theorem Info.fits_atomArg (a : AtomArg) : (x.atomArg a).Fits ↔ x.Fits ∧ a.Coded := by
  cases a <;> simp [Info.atomArg, AtomArg.Coded]

@[simp] theorem Info.fits_tile (r : TileRef) : (x.tile r).Fits ↔ x.Fits ∧ r.Coded := by
  simp [Info.tile, TileRef.Coded]

end Builders


@[simp] theorem fits_infoA (x : DstA) (n : Nat) (l : List SrcUse) :
    (infoA x n l).Fits ↔ x.Coded n ∧ ∀ u ∈ l, u.src.Coded := by
  simp [infoA, Info.Fits, DstA.Coded]; tauto

@[simp] theorem fits_infoL (l : Long) : (infoL l).Fits ↔ l.Coded := by
  simp [infoL, Info.Fits, Long.Coded]

@[simp] theorem fits_pred (p : Pred) : ({ pred := p } : Info).Fits ↔ p.reg < 256 := by simp [Info.Fits]

/-! ## Encodings that read back -/

/-- The encoding r stands for i: its words are slot words, its op is assigned, no extension word is given where none is taken, and its
fields read as i. -/
def Spells (r : Option Encoded) (i : Instr) : Prop :=
  ∃ e, r = some e ∧ e.word < 2 ^ 64 ∧ e.ext < 2 ^ 64 ∧ opAssigned (fieldsOf e.word).op = true ∧
    (takesExt (fieldsOf e.word).op (fieldsOf e.word).fn = false → e.ext = 0) ∧ readFields (fieldsOf e.word) e.ext = some i

section Formats
variable {op fn : Nat} {i : Instr} (hop : opAssigned op = true)
include hop

/-- The header's fields read back from every word, so what is left to read is the format's own part. -/
theorem spells_word {low ext : Nat} {p : Pred} (hx : takesExt op fn = false → ext = 0) (hfn : fn < 16) (hp : p.reg < 256)
    (hlow : low < 2 ^ 43) (hext : ext < 2 ^ 64)
    (hread : readFields { fieldsOf low with op := op, fn := fn, pred := p } ext = some i) :
    Spells (some ⟨wordOf op fn p low, ext⟩) i := by
  have hlt := opAssigned_lt hop
  refine ⟨_, rfl, ?_, hext, ?_⟩
  · show wordOf op fn p low < 2 ^ 64
    unfold wordOf
    split <;> omega
  · simp only [fieldsOf_wordOf hlt hfn hp hlow]
    exact ⟨hop, hx, hread⟩

theorem spells_encA {x : DstA} {n a b c : Nat} (hfn : fn < 16) (h : x.Coded n) (hn : 0 < n)
    (ha : a < 1024) (hb : b < 1024) (hc : c < 1024)
    (hread : ∀ g : Fields,
      readFields { g with op := op, fn := fn, pred := x.pred, d := x.d, a := a, b := b, c := c, cap := x.cap } 0 = some i) :
    Spells (encA op fn x a b c) i := by
  obtain ⟨hp, hd, hcap⟩ := h
  refine spells_word hop (fun _ => rfl) hfn hp ?_ (by decide) ?_
  · unfold lowA
    cases hx : x.cap with
    | none => dsimp only; omega
    | some o =>
      have := hcap o hx
      dsimp only; omega
  · rw [fieldsOf_lowA ha hb hc (by omega) hcap]
    exact hread _

theorem spells_lowI {p : Pred} {d imm ext : Nat} (hx : takesExt op fn = false → ext = 0) (hfn : fn < 16) (hp : p.reg < 256)
    (hd : d < 256) (himm : imm < 2 ^ 25) (hext : ext < 2 ^ 64)
    (hread : ∀ g : Fields, readFields { g with op := op, fn := fn, pred := p, d := d, imm := imm } ext = some i) :
    Spells (some ⟨wordOf op fn p (lowI d imm), ext⟩) i := by
  refine spells_word hop hx hfn hp ?_ hext ?_
  · unfold lowI
    omega
  · rw [fieldsOf_lowI hd himm]
    exact hread _

theorem spells_lowL {l : Long} {d a b e ext : Nat} (hx : takesExt op fn = false → ext = 0) (hfn : fn < 16) (h : l.Coded)
    (hd : d < 256) (ha : a < 1024) (hb : b < 1024) (he : e < 128) (hext : ext < 2 ^ 64)
    (hread : ∀ g : Fields, readFields
      { g with op := op, fn := fn, pred := l.pred, d := d, a := a, b := b, e := e, slot := l.slot, look := l.look } ext = some i) :
    Spells (some ⟨wordOf op fn l.pred (lowL d a b e l), ext⟩) i := by
  obtain ⟨hp, hs, hl⟩ := h
  refine spells_word hop hx hfn hp ?_ hext ?_
  · unfold lowL
    omega
  · rw [fieldsOf_lowL ha hb he hd hs hl]
    exact hread _

theorem spells_encL {l : Long} {d a b e : Nat} (hfn : fn < 16) (h : l.Coded)
    (hd : d < 256) (ha : a < 1024) (hb : b < 1024) (he : e < 128)
    (hread : ∀ g : Fields, readFields
      { g with op := op, fn := fn, pred := l.pred, d := d, a := a, b := b, e := e, slot := l.slot, look := l.look } 0 = some i) :
    Spells (encL op fn l d a b e) i :=
  spells_lowL hop (fun _ => rfl) hfn h hd ha hb he (by decide) hread

theorem spells_encB {p : Pred} {r disp hint : Nat} (hfn : fn < 16) (hp : p.reg < 256) (hr : r < 256) (hd : disp < 2 ^ 32)
    (hh : hint < 8)
    (hread : ∀ g : Fields, readFields { g with op := op, fn := fn, pred := p, d := r, disp := disp, hint := hint } 0 = some i) :
    Spells (encB op fn p r disp hint) i := by
  refine spells_word hop (fun _ => rfl) hfn hp ?_ (by decide) ?_
  · unfold lowB
    omega
  · rw [fieldsOf_lowB hr hd hh]
    exact hread _

theorem spells_encS {l : Long} {d a csr : Nat} (hfn : fn < 16) (h : l.Coded) (hd : d < 256) (ha : a < 1024) (hc : csr < 2 ^ 16)
    (hread : ∀ g : Fields, readFields
      { g with op := op, fn := fn, pred := l.pred, d := d, a := a, csr := csr, slot := l.slot, look := l.look } 0 = some i) :
    Spells (encS op fn l d a csr) i := by
  obtain ⟨hp, hs, hl⟩ := h
  refine spells_word hop (fun _ => rfl) hfn hp ?_ (by decide) ?_
  · unfold lowS
    omega
  · rw [fieldsOf_lowS hd ha hc hs hl]
    exact hread _

end Formats

/-! ## Numbers of two digits -/

theorem digits_div {k n r : Nat} (h : r < k) : (k * n + r) / k = n := by
  rw [Nat.mul_add_div (by omega), Nat.div_eq_of_lt h, add_zero]

theorem digits_lt {k m n r : Nat} (hn : n < m) (hr : r < k) : k * n + r < k * m :=
  calc k * n + r < k * (n + 1) := by rw [Nat.mul_succ]; omega
    _ ≤ k * m := Nat.mul_le_mul_left k hn

theorem decide_le_digits {k r : Nat} (b : Bool) (h : r < k) : decide (k ≤ k * encBool b + r) = b := by
  cases b <;> simp [encBool, h]

@[simp] theorem encBool_mod_two (b : Bool) : encBool b % 2 = 1 ↔ b = true := by cases b <;> decide

/-! ## Entries whose checks bound their fields -/

theorem coded_bare {p : Pred} (h : p.reg < 256) : (bare p).Coded := ⟨h, by simp [bare], by simp [bare]⟩

theorem LdKind.regs_pos (k : LdKind) : 0 < k.regs := by cases k <;> simp [LdKind.regs]

theorem StKind.regs_pos (k : StKind) : 0 < k.regs := by cases k <;> decide

theorem CvtFmt.regs_pos (f : CvtFmt) {n : Nat} (h : 0 < n) : 0 < f.regs n := by
  have : 0 < f.elems := by cases f <;> decide
  unfold CvtFmt.regs
  split
  · decide
  · exact Nat.div_pos (by omega) this

theorem max_elems_pos (f g : CvtFmt) : 0 < Nat.max f.elems g.elems := by
  cases f <;> exact Nat.lt_of_lt_of_le (by decide) (Nat.le_max_left ..)

theorem Info.Fits.of_cvtSrc {x : Info} {f : CvtFmt} {n : Nat} {a : Src} (hn : 0 < n) (h : (x.cvtSrc f n a).Fits) :
    x.Fits ∧ a.Coded := by
  have := f.regs_pos hn
  unfold Info.cvtSrc at h
  split at h
  · simpa using h
  · cases a with
    | v r =>
      simp at h
      exact ⟨h.1, show r < 256 by omega⟩
    | _ => simp at h

theorem fits_cvt {tf ff : CvtFmt} {rm : Rnd} {x : DstA} {a : Src} {q : Nat} (h : (Instr.cvt tf ff rm x a q).info.Fits) :
    x.Coded (tf.regs (Nat.max tf.elems ff.elems)) ∧ a.Coded ∧ q < 256 := by
  have hpos := max_elems_pos tf ff
  simp only [Instr.info] at h
  split at h
  · have : 0 < ceilDiv (Nat.max tf.elems ff.elems) 2 := Nat.div_pos (by omega) (by decide)
    simp [and_assoc] at h
    obtain ⟨hi, -, -, -, hq⟩ := h
    have := hi.of_cvtSrc hpos
    simp at this
    exact ⟨this.1, this.2, by omega⟩
  · simp [and_assoc] at h
    obtain ⟨hi, -, -, -, rfl⟩ := h
    have := hi.of_cvtSrc hpos
    simp at this
    exact ⟨this.1, this.2, by decide⟩

theorem fits_cvtb {tf : CvtFmt} {rm : Rnd} {r : Bool} {x : DstA} {a n : Nat} {b : Src} (h : (Instr.cvtb tf rm r x a n b).info.Fits) :
    x.Coded (if r then tf.regs n + 1 else tf.regs n) ∧ a + n ≤ 256 ∧ (1 ≤ n ∧ n ≤ 16) ∧ b.Coded := by
  simp only [Instr.info] at h
  have hn : 1 ≤ n → 0 < ceilDiv n 2 := fun hn => Nat.div_pos (by omega) (by decide)
  split at h <;> simp [and_assoc] at h
  case h_1 =>
    obtain ⟨hx, ha, h1, h16, -, -, -, hb⟩ := h
    exact ⟨hx, ha, ⟨h1, h16⟩, hb⟩
  case h_2 q =>
    obtain ⟨hx, ha, h1, h16, -, -, -, -, hq⟩ := h
    have := hn h1
    exact ⟨hx, ha, ⟨h1, h16⟩, show q < 256 by omega⟩
  case h_4 =>
    obtain ⟨hx, ha, h1, h16, -, -, -, -, rfl⟩ := h
    exact ⟨hx, ha, ⟨h1, h16⟩, by simp [Src.Coded]⟩

theorem shapeOk_lt {f : TileFmt} {s : Nat} (h : shapeOk f s = true) : s < 10 := by
  cases f <;> simp [shapeOk] at h <;> omega

theorem ctrRegs_pos {f : TileFmt} {s : Nat} (h : shapeOk f s = true) : 0 < (ctrRegs f s).1 ∧ 0 < (ctrRegs f s).2 := by
  have hs := shapeOk_lt h
  cases f <;> interval_cases s <;> revert h <;> decide

theorem fits_ctr {f : TileFmt} {s : Nat} {an bn : Bool} {l : Long} {r : TileRef} {a b : Nat}
    (h : (Instr.ctr f s an bn l r a b).info.Fits) : l.Coded ∧ r.Coded ∧ a < 256 ∧ b < 256 ∧ s < 10 := by
  simp [Instr.info, and_assoc] at h
  obtain ⟨hl, hr, ha, hb, hs, -⟩ := h
  have := ctrRegs_pos hs
  exact ⟨hl, hr, by omega, by omega, shapeOk_lt hs⟩

theorem fits_tdrain {f : DrainFmt} {m : Rnd} {k : Bool} {l : Long} {r : TileRef} {d a q : Nat}
    (h : (Instr.tdrain f m k l r d a q).info.Fits) : l.Coded ∧ r.Coded ∧ a < 256 ∧ d < 256 ∧ q < 256 := by
  simp only [Instr.info] at h
  split at h <;> simp [and_assoc] at h
  · obtain ⟨hl, hr, ha, -, hd, -, hq, -⟩ := h
    exact ⟨hl, hr, by omega, by omega, by omega⟩
  · obtain ⟨hl, hr, ha, -, hd, -, rfl⟩ := h
    exact ⟨hl, hr, by omega, by omega, by decide⟩

theorem fits_copyInfo {c : Nat} {t : Attach} {l : Long} {d r n m : Nat} (h : (Instr.info.copyInfo c t l d r n m).Fits)
    (hm : 0 < m) : l.Coded ∧ r < 256 ∧ n < 256 ∧ d < 256 ∧ c < 4 ∧ t.Coded := by
  simp [Instr.info.copyInfo, and_assoc] at h
  obtain ⟨hl, hr, hn, hd, hc, -, ht⟩ := h
  refine ⟨hl, by omega, by omega, by omega, hc, ?_⟩
  cases t <;> simp_all [Attach.Coded]

/-! ## The families of the opcode map -/

/-- The rows of the opcode map that share a format and an encoding table (02 R51). -/
inductive Family where
  /-- Format A, groups 0x00 to 0x50 -/
  | alu
  /-- `nop`, and format I -/
  | imm
  /-- Format L, groups 0x60 and 0x70 -/
  | mem
  /-- Format L, group 0x80 -/
  | sync
  /-- Format L, groups 0x90 and 0xA0 -/
  | unit
  /-- Format L, group 0xB0 -/
  | affine
  /-- Format L, group 0xC0 -/
  | closure
  /-- Format B, group 0xE0 -/
  | control
  /-- Format S, group 0xF0 -/
  | system
  /-- no instruction word -/
  | event
  deriving DecidableEq

/-- The family of an instruction (02 R51). -/
def Instr.family : Instr → Family
  | .mov .. | .not .. | .clz .. | .popc .. | .brev .. | .fabs .. | .fneg .. | .fclass .. | .ffract .. | .ballot ..
  | .neg .. | .abs .. | .vtag .. | .fsqrt .. | .frcp .. | .frsq .. | .fexp2 .. | .flog2 .. | .vote .. | .red ..
  | .frnd .. | .scan .. | .and .. | .or .. | .xor .. | .shl .. | .shr .. | .sar .. | .fcsgn .. | .add .. | .sub ..
  | .mul .. | .min .. | .max .. | .mulh .. | .rot .. | .fmin .. | .fmax .. | .hmin .. | .hmax .. | .cmp .. | .fcmp ..
  | .hcmp .. | .fadd .. | .fsub .. | .fmul .. | .fdiv .. | .hadd .. | .hsub .. | .hmul .. | .unpack .. | .pack ..
  | .sel .. | .bfi .. | .mad .. | .bfe .. | .ffma .. | .hfma .. | .shfl .. | .lea .. | .add64 .. | .sub64 .. | .rngx ..
  | .cvt .. | .cvtb .. => .alu
  | .nop | .movi .. | .movx .. => .imm
  | .ld .. | .st .. | .ldw .. | .stw .. | .ldf .. | .fpop .. | .stf .. | .fpush .. | .fset .. | .pref .. | .lline ..
  | .uline .. | .bankset .. | .atom .. | .cas .. | .atomf .. | .xadd .. | .xget .. | .xclr .. => .mem
  | .fence .. | .barInitArr .. | .barDrop .. | .barInitRows .. | .barArrive .. | .barWait .. | .barSync ..
  | .barTest .. | .barStat .. | .barFree .. | .jnew .. | .jrank .. | .join .. | .leave .. | .jsize .. | .jbar ..
  | .jscan .. | .jred .. => .sync
  | .tall .. | .tfree .. | .tzero .. | .tload .. | .ctr .. | .tdrain .. | .cpb .. | .cpg .. | .cps .. | .cpf ..
  | .cqf .. => .unit
  | .aset .. | .anoise .. | .aadd .. | .asub .. | .amul .. | .aneg .. | .ascl .. | .aaddc .. | .acond .. | .aquant ..
  | .aget .. | .ald .. | .ast .. | .asymn .. | .amode .. => .affine
  | .cap .. | .capr .. | .kdup .. | .kdrop .. | .kst .. | .kld .. | .apply .. | .spawn .. | .kinfo .. => .closure
  | .bra .. | .jmp .. | .call .. | .calli .. | .ret .. | .exit .. | .yield .. | .brk .. => .control
  | .trap .. | .rte .. | .tswap .. | .csrr .. | .tins .. | .csrw .. | .tset .. | .tresGo .. | .tresHold ..
  | .tresKill .. | .tstep .. | .gettime .. | .sleep .. => .system
  | _ => .event

/-! ## Every family reads back -/

theorem spells_alu {i : Instr} (hi : i.family = .alu) (h : i.info.Fits) : Spells (encode i) i := by
  cases i with
  | mov x a | not x a | clz x a | popc x a | brev x a | fabs x a | fneg x a | fclass x a | ffract x a | ballot x a =>
    simp [Instr.info, useAll] at h
    obtain ⟨hx, ha⟩ := h
    exact spells_encA rfl (by decide) hx one_pos (encSrc_lt ha) (by decide) (by decide) fun g => by
      simp [readFields, read00, read10, read20, read30, read50, readA1, zeroFn, decSrc_encSrc ha, Fields.dst]
  | neg f x a | abs f x a =>
    simp [Instr.info, useAll] at h
    obtain ⟨⟨hx, ha⟩, -⟩ := h
    exact spells_encA rfl (encInt_lt f) hx one_pos (encSrc_lt ha) (by decide) (by decide) fun g => by
      simp [readFields, read00, readA1, decSrc_encSrc ha, Fields.dst]
  | vtag c x a | fsqrt c x a | frcp c x a | frsq c x a | fexp2 c x a | flog2 c x a | vote c x a | red c x a =>
    simp [Instr.info, useAll] at h
    obtain ⟨hx, ha⟩ := h
    exact spells_encA rfl (codeIn_lt (by simp)) hx one_pos (encSrc_lt ha) (by decide) (by decide) fun g => by
      simp [readFields, read10, read20, read30, read50, readA1, decSrc_encSrc ha, Fields.dst]
  | frnd e rm x a =>
    simp [Instr.info, useAll] at h
    obtain ⟨hx, ha⟩ := h
    have hc : codeIn rmCodes rm < 4 := codeIn_lt (by simp)
    have hfn : 4 * encBool e + codeIn rmCodes rm < 16 := (digits_lt (encBool_lt e) hc).trans (by decide)
    exact spells_encA rfl hfn hx one_pos (encSrc_lt ha) (by decide) (by decide) fun g => by
      simp [readFields, read20, readA1, digits_div hc, Nat.mod_eq_of_lt hc, decSrc_encSrc ha, Fields.dst]
  | scan op ex x a =>
    simp [Instr.info, useAll] at h
    obtain ⟨hx, ha⟩ := h
    have hc : codeIn foldOpCodes op < 8 := codeIn_lt (by simp)
    exact spells_encA rfl (digits_lt (encBool_lt ex) hc) hx one_pos (encSrc_lt ha) (by decide) (by decide) fun g => by
      simp [readFields, read50, readA1, decide_le_digits ex hc, Nat.mod_eq_of_lt hc, decSrc_encSrc ha, Fields.dst]
  | and x a b | or x a b | xor x a b | shl x a b | shr x a b | sar x a b | fcsgn x a b =>
    simp [Instr.info, useAll] at h
    obtain ⟨hx, ha, hb⟩ := h
    exact spells_encA rfl (by decide) hx one_pos (encSrc_lt ha) (encSrc_lt hb) (by decide) fun g => by
      simp [readFields, read10, read20, readA2, zeroFn, decSrc_encSrc ha, decSrc_encSrc hb, Fields.dst]
  | add f x a b | sub f x a b =>
    simp [Instr.info, useAll] at h
    obtain ⟨hx, ha, hb⟩ := h
    exact spells_encA rfl (encInt_lt f) hx one_pos (encSrc_lt ha) (encSrc_lt hb) (by decide) fun g => by
      simp [readFields, read00, readA2, decSrc_encSrc ha, decSrc_encSrc hb, Fields.dst]
  | mul f x a b | min f x a b | max f x a b =>
    simp [Instr.info, useAll] at h
    obtain ⟨⟨hx, ha, hb⟩, -⟩ := h
    exact spells_encA rfl (encInt_lt f) hx one_pos (encSrc_lt ha) (encSrc_lt hb) (by decide) fun g => by
      simp [readFields, read00, readA2, decSrc_encSrc ha, decSrc_encSrc hb, Fields.dst]
  | mulh c x a b | rot c x a b | fmin c x a b | fmax c x a b | hmin c x a b | hmax c x a b =>
    simp [Instr.info, useAll] at h
    obtain ⟨hx, ha, hb⟩ := h
    exact spells_encA rfl ((encBool_lt c).trans (by decide)) hx one_pos (encSrc_lt ha) (encSrc_lt hb) (by decide) fun g => by
      simp [readFields, read00, read10, read20, read30, readA2, decSrc_encSrc ha, decSrc_encSrc hb, Fields.dst]
  | cmp c x a b | fcmp c x a b | hcmp c x a b | fadd c x a b | fsub c x a b | fmul c x a b | fdiv c x a b | hadd c x a b
  | hsub c x a b | hmul c x a b | unpack c x a b =>
    simp [Instr.info, useAll] at h
    obtain ⟨hx, ha, hb⟩ := h
    exact spells_encA rfl (codeIn_lt (by simp)) hx one_pos (encSrc_lt ha) (encSrc_lt hb) (by decide) fun g => by
      simp [readFields, read10, read20, read30, read40, readA2, decSrc_encSrc ha, decSrc_encSrc hb, Fields.dst]
  | pack f ah bh x a b =>
    simp [Instr.info, useAll] at h
    obtain ⟨hx, ha, hb⟩ := h
    have hc : codeIn packFmtCodes f < 4 := codeIn_lt (by simp)
    have hfn : 8 * encBool bh + 4 * encBool ah + codeIn packFmtCodes f =
        4 * (2 * encBool bh + encBool ah) + codeIn packFmtCodes f := by ring
    have hbh : 8 ≤ 4 * (2 * encBool bh + encBool ah) + codeIn packFmtCodes f ↔ bh = true := by
      cases ah <;> cases bh <;> simp [encBool] <;> omega
    have hlt := digits_lt (digits_lt (encBool_lt bh) (encBool_lt ah)) hc
    exact spells_encA rfl (hfn ▸ hlt) hx one_pos (encSrc_lt ha) (encSrc_lt hb) (by decide) fun g => by
      simp [readFields, read40, readA2, hfn, hbh, digits_div hc, Nat.mod_eq_of_lt hc, decSrc_encSrc ha, decSrc_encSrc hb,
        Fields.dst]
  | sel x a b c | bfi x a b c =>
    simp [Instr.info, useAll] at h
    obtain ⟨hx, ha, hb, hc⟩ := h
    exact spells_encA rfl (by decide) hx one_pos (encSrc_lt ha) (encSrc_lt hb) (encSrc_lt hc) fun g => by
      simp [readFields, read00, read10, readA3, zeroFn, decSrc_encSrc ha, decSrc_encSrc hb, decSrc_encSrc hc, Fields.dst]
  | mad f x a b c =>
    simp [Instr.info, useAll] at h
    obtain ⟨hx, ha, hb, hc⟩ := h
    exact spells_encA rfl (encInt_lt f) hx one_pos (encSrc_lt ha) (encSrc_lt hb) (encSrc_lt hc) fun g => by
      simp [readFields, read00, readA3, decSrc_encSrc ha, decSrc_encSrc hb, decSrc_encSrc hc, Fields.dst]
  | bfe s x a b c =>
    simp [Instr.info, useAll] at h
    obtain ⟨hx, ha, hb, hc⟩ := h
    exact spells_encA rfl ((encBool_lt s).trans (by decide)) hx one_pos (encSrc_lt ha) (encSrc_lt hb) (encSrc_lt hc) fun g => by
      simp [readFields, read10, readA3, decSrc_encSrc ha, decSrc_encSrc hb, decSrc_encSrc hc, Fields.dst]
  | ffma m x a b c | hfma m x a b c | shfl m x a b c =>
    simp [Instr.info, useAll] at h
    obtain ⟨hx, ha, hb, hc⟩ := h
    exact spells_encA rfl (codeIn_lt (by simp)) hx one_pos (encSrc_lt ha) (encSrc_lt hb) (encSrc_lt hc) fun g => by
      simp [readFields, read20, read30, read50, readA3, decSrc_encSrc ha, decSrc_encSrc hb, decSrc_encSrc hc, Fields.dst]
  | lea n sh x a b =>
    simp [Instr.info] at h
    obtain ⟨⟨⟨hx, ha⟩, hb⟩, hsh⟩ := h
    exact spells_encA rfl (digits_lt (encBool_lt n) hsh) hx two_pos (encPair_lt ha) (encSrc_lt hb) (by decide) fun g => by
      simp [readFields, read00, decide_le_digits n hsh, Nat.mod_eq_of_lt hsh, decPair_encPair ha, decSrc_encSrc hb, Fields.dst]
  | add64 x a b | sub64 x a b =>
    simp [Instr.info] at h
    obtain ⟨⟨hx, ha⟩, hb⟩ := h
    exact spells_encA rfl (by decide) hx two_pos (encPair_lt ha) (encPair_lt hb) (by decide) fun g => by
      simp [readFields, read00, read10, zeroFn, decPair_encPair ha, decPair_encPair hb, Fields.dst]
  | rngx x a b =>
    simp [Instr.info] at h
    obtain ⟨⟨⟨⟨hx, ha⟩, hb⟩, -⟩, -⟩ := h
    have hab : a < 256 ∧ b < 256 := by omega
    exact spells_encA rfl (by decide) hx four_pos (by omega) (by omega) (by decide) fun g => by
      simp [readFields, read40, zeroFn, hab, Fields.dst]
  | cvt tf ff rm x a q =>
    obtain ⟨hx, ha, hq⟩ := fits_cvt h
    have hf : codeIn cvtFmtCodes ff < 32 := codeIn_lt (by simp)
    have ht : codeIn cvtFmtCodes tf < 32 := codeIn_lt (by simp)
    exact spells_encA rfl (codeIn_lt (by simp)) hx (tf.regs_pos (max_elems_pos tf ff)) (encSrc_lt ha) (by omega) (by omega)
      fun g => by
        simp [readFields, read40, mul_comm (codeIn cvtFmtCodes tf), digits_div hf, Nat.mod_eq_of_lt hf, hq, decSrc_encSrc ha,
          Fields.dst]
  | cvtb tf rm r x a n b =>
    obtain ⟨hx, ha, hn, hb⟩ := fits_cvtb h
    have ht : codeIn cvtFmtCodes tf < 32 := codeIn_lt (by simp)
    have hc : codeIn rndCodes rm < 8 := codeIn_lt (by simp)
    have hf : n - 1 < 32 := by omega
    have hn1 : n - 1 + 1 = n := by omega
    have ha' : a < 256 := by omega
    have hpos : 0 < if r then tf.regs n + 1 else tf.regs n := by
      have := tf.regs_pos hn.1
      split <;> omega
    exact spells_encA rfl (digits_lt (encBool_lt r) hc) hx hpos (by omega) (encSrc_lt hb) (by omega) fun g => by
      simp [readFields, read40, mul_comm (codeIn cvtFmtCodes tf), digits_div hf, Nat.mod_eq_of_lt hf, Nat.mod_eq_of_lt hc,
        decide_le_digits r hc, hn1, ha', decSrc_encSrc hb, Fields.dst]
  | _ => cases hi

theorem spells_imm {i : Instr} (hi : i.family = .imm) (h : i.info.Fits) : Spells (encode i) i := by
  cases i with
  | nop => exact ⟨⟨0, 0⟩, rfl, by decide, by decide, rfl, fun _ => rfl, rfl⟩
  | movi f p d imm =>
    simp [Instr.info, Info.Fits, Info.check] at h
    obtain ⟨himm, hp, hd⟩ := h
    exact spells_lowI rfl (fun _ => rfl) (codeIn_lt (by simp)) hp (by omega) himm (by decide) fun g => by
      simp [readFields, read00]
  | movx f p d lit =>
    cases f with
    | tagged t =>
      simp [Instr.info, Info.Fits] at h
      obtain ⟨hp, hd⟩ := h
      exact spells_lowI rfl (fun h => by cases h) (by decide) hp (by omega) (codeIn_lt (mem_tagCodes t)) lit.isLt fun g => by
        simp [readFields, read00]
    | pair =>
      simp [Instr.info, Info.Fits] at h
      obtain ⟨hp, hd⟩ := h
      exact spells_lowI rfl (fun h => by cases h) (by decide) hp (by omega) (by decide) lit.isLt fun g => by
        simp [readFields, read00]
  | _ => cases hi

theorem spells_mem {i : Instr} (hi : i.family = .mem) (h : i.info.Fits) : Spells (encode i) i := by
  cases i with
  | ld k os c l d a =>
    simp [Instr.info, and_assoc] at h
    obtain ⟨hl, ha, hd, hos⟩ := h
    have hk := encLdKind_lt k
    have hc : codeIn hintCodes c < 4 := codeIn_lt (by simp)
    have := k.regs_pos
    exact spells_encL rfl (encSpace_lt os a) hl (by omega) (encAddrA_lt ha) (encAddrB_lt ha) (by omega) fun g => by
      simp [readFields, read60, digits_div hc, Nat.mod_eq_of_lt hc, decOs_encOs hos, decAddr_encAddr os ha, Fields.long]
  | st k os c l d a =>
    simp [Instr.info, and_assoc] at h
    obtain ⟨hl, ha, hd, hos, -⟩ := h
    have hk := encStKind_lt k
    have hc : codeIn hintCodes c < 4 := codeIn_lt (by simp)
    have := k.regs_pos
    exact spells_encL rfl (encSpace_lt os a) hl (by omega) (encAddrA_lt ha) (encAddrB_lt ha) (by omega) fun g => by
      simp [readFields, read60, digits_div hc, Nat.mod_eq_of_lt hc, decOs_encOs hos, decAddr_encAddr os ha, Fields.long]
  | ldw t os c l d a =>
    simp [Instr.info, and_assoc] at h
    obtain ⟨hl, ha, hd, hos⟩ := h
    have ht : codeIn tagCodes t < 10 := codeIn_lt (by simp)
    have hc : codeIn hintCodes c < 4 := codeIn_lt (by simp)
    exact spells_encL rfl (encSpace_lt os a) hl (by omega) (encAddrA_lt ha) (encAddrB_lt ha) (by omega) fun g => by
      simp [readFields, read60, digits_div hc, Nat.mod_eq_of_lt hc, decOs_encOs hos, decAddr_encAddr os ha, Fields.long]
  | stw os c l d a =>
    simp [Instr.info, and_assoc] at h
    obtain ⟨hl, ha, hd, hos, -⟩ := h
    have hc : codeIn hintCodes c < 4 := codeIn_lt (by simp)
    exact spells_encL rfl (encSpace_lt os a) hl (by omega) (encAddrA_lt ha) (encAddrB_lt ha) (by omega) fun g => by
      simp [readFields, read60, Nat.mod_eq_of_lt hc, decOs_encOs hos, decAddr_encAddr os ha, Fields.long]
  | ldf t os l d a b | fpop t os l d a b =>
    simp [Instr.info, Addr.Coded, and_assoc] at h
    obtain ⟨hl, ha, hb, -, hd, hos⟩ := h
    have ht : codeIn tagCodes t < 10 := codeIn_lt (by simp)
    have hfn := (encOs_lt os).trans (by decide : 8 < 16)
    exact spells_encL rfl hfn hl (by omega) (encSrc_lt ha) (encSrc_lt hb) (by omega) fun g => by
      simp [readFields, read60, decOs_encOs hos, decSrc_encSrc ha, decSrc_encSrc hb, Fields.long]
  | stf os l d a b | fpush os l d a b =>
    simp [Instr.info, Addr.Coded, and_assoc] at h
    obtain ⟨hl, ha, hb, -, hd, hos⟩ := h
    have hfn := (encOs_lt os).trans (by decide : 8 < 16)
    exact spells_encL rfl hfn hl (by omega) (encSrc_lt ha) (encSrc_lt hb) (by decide) fun g => by
      simp [readFields, read60, decOs_encOs hos, decSrc_encSrc ha, decSrc_encSrc hb, Fields.long]
  | fset c l a b =>
    simp [Instr.info, Addr.Coded] at h
    obtain ⟨hl, ha, hb, -⟩ := h
    exact spells_encL rfl ((encBool_lt c).trans (by decide)) hl (by decide) (encSrc_lt ha) (encSrc_lt hb) (by decide) fun g => by
      simp [readFields, read60, decSrc_encSrc ha, decSrc_encSrc hb, Fields.long]
  | pref c l a b =>
    simp [Instr.info, Addr.Coded] at h
    obtain ⟨hl, ha, hb, -⟩ := h
    have ha' : a < 256 := by omega
    exact spells_encL rfl (codeIn_lt (by simp)) hl (by decide) (by omega) (encSrc_lt hb) (by decide) fun g => by
      simp [readFields, read60, ha', decSrc_encSrc hb, Fields.long]
  | lline l d a b | uline l d a b =>
    simp [Instr.info, Addr.Coded, and_assoc] at h
    obtain ⟨hl, ha, hb, -, hd⟩ := h
    have ha' : a < 256 := by omega
    exact spells_encL rfl (by decide) hl (by omega) (by omega) (encSrc_lt hb) (by decide) fun g => by
      simp [readFields, read60, zeroFn, ha', decSrc_encSrc hb, Fields.long]
  | bankset c l d a =>
    simp [Instr.info, and_assoc] at h
    obtain ⟨hl, ha, hd⟩ := h
    exact spells_encL rfl (codeIn_lt (by simp)) hl (by omega) (encSrc_lt ha) (by decide) (by decide) fun g => by
      simp [readFields, read60, decSrc_encSrc ha, Fields.long]
  | atom op o l d a b =>
    obtain ⟨hl, ha, hb, hd⟩ : l.Coded ∧ a.Coded ∧ b.Coded ∧ d < 256 := by
      cases b <;> simp [Instr.info, AtomArg.is64, and_assoc] at h <;> exact ⟨h.1, h.2.1, h.2.2.1, by omega⟩
    exact spells_encL rfl (codeIn_lt (by simp)) hl hd (encPlaceA_lt ha) (encArg_lt hb) (encPlaceE_lt ..) fun g => by
      simp [readFields, read70, decPlace_encPlace _ o ha, decArg_encArg o a hb, Fields.long]
  | cas o l d a b =>
    obtain ⟨hl, ha, hb, hd⟩ : l.Coded ∧ a.Coded ∧ b.Coded ∧ d < 256 := by
      cases b <;> simp [Instr.info, AtomArg.is64, and_assoc] at h <;> exact ⟨h.1, h.2.1, h.2.2.1, by omega⟩
    exact spells_encL rfl (by decide) hl hd (encPlaceA_lt ha) (encArg_lt hb) (encPlaceE_lt ..) fun g => by
      simp [readFields, read70, zeroFn, decPlace_encPlace _ o ha, decArg_encArg o a hb, Fields.long]
  | atomf m o l d a b =>
    simp [Instr.info, and_assoc] at h
    obtain ⟨hl, ha, hb, hd⟩ := h
    exact spells_encL rfl (codeIn_lt (by simp)) hl (by omega) (encPlaceA_lt ha) (encSrc_lt hb) (encPlaceE_lt ..) fun g => by
      simp [readFields, read70, decPlace_encPlace _ o ha, decSrc_encSrc hb, Fields.long]
  | xadd c o l a b =>
    simp [Instr.info, and_assoc] at h
    obtain ⟨hl, ha, hb⟩ := h
    exact spells_encL rfl ((encBool_lt c).trans (by decide)) hl (by decide) (encPlaceA_lt ha) (encSrc_lt hb) (encPlaceE_lt ..)
      fun g => by simp [readFields, read70, decPlace_encPlace _ o ha, decSrc_encSrc hb, Fields.long]
  | xget c m o l d a =>
    simp [Instr.info, and_assoc] at h
    obtain ⟨hl, ha, hd⟩ := h
    have hm : codeIn rmCodes m < 4 := codeIn_lt (by simp)
    have hfn : 4 * encBool c + codeIn rmCodes m < 16 := (digits_lt (encBool_lt c) hm).trans (by decide)
    exact spells_encL rfl hfn hl (by omega) (encPlaceA_lt ha) (by decide) (encPlaceE_lt ..) fun g => by
      simp [readFields, read70, digits_div hm, Nat.mod_eq_of_lt hm, decPlace_encPlace _ o ha, Fields.long]
  | xclr o l a =>
    simp [Instr.info] at h
    exact spells_encL rfl (by decide) h.1 (by decide) (encPlaceA_lt h.2) (by decide) (encPlaceE_lt ..) fun g => by
      simp [readFields, read70, zeroFn, decPlace_encPlace _ o h.2, Fields.long]
  | _ => cases hi

theorem spells_sync {i : Instr} (hi : i.family = .sync) (h : i.info.Fits) : Spells (encode i) i := by
  cases i with
  | fence k x l =>
    simp [Instr.info] at h
    exact spells_encL rfl (codeIn_lt (by simp)) h (by decide) (by decide) (by decide) (codeIn_lt (by simp)) fun g => by
      simp [readFields, read80, Fields.long]
  | barInitArr l b a | barDrop l b a =>
    simp [Instr.info, and_assoc] at h
    obtain ⟨hl, ha, hb⟩ := h
    exact spells_encL rfl (by decide) hl (by decide) (encSrc_lt ha) (by decide) hb fun g => by
      simp [readFields, read80, readBar, decSrc_encSrc ha, Fields.long]
  | barInitRows l b a c =>
    simp [Instr.info, and_assoc] at h
    obtain ⟨hl, ha, hc, hb⟩ := h
    exact spells_encL rfl (by decide) hl (by decide) (encSrc_lt ha) (encSrc_lt hc) hb fun g => by
      simp [readFields, read80, readBar, decSrc_encSrc ha, decSrc_encSrc hc, Fields.long]
  | barArrive x l b d =>
    simp [Instr.info, and_assoc] at h
    obtain ⟨hl, hd, hb⟩ := h
    cases x <;> exact spells_encL rfl (by decide) hl (by omega) (by decide) (by decide) hb fun g => by
      simp [readFields, read80, readBar, encBool, Fields.long]
  | barWait x l b a =>
    simp [Instr.info, and_assoc] at h
    obtain ⟨hl, ha, hb⟩ := h
    cases x <;> exact spells_encL rfl (by decide) hl (by decide) (encSrc_lt ha) (by decide) hb fun g => by
      simp [readFields, read80, readBar, encBool, decSrc_encSrc ha, Fields.long]
  | barSync x l b =>
    simp [Instr.info] at h
    cases x <;> exact spells_encL rfl (by decide) h.1 (by decide) (by decide) (by decide) h.2 fun g => by
      simp [readFields, read80, readBar, encBool, Fields.long]
  | barTest l b d a =>
    simp [Instr.info, and_assoc] at h
    obtain ⟨hl, ha, hd, hb⟩ := h
    exact spells_encL rfl (by decide) hl (by omega) (encSrc_lt ha) (by decide) hb fun g => by
      simp [readFields, read80, readBar, decSrc_encSrc ha, Fields.long]
  | barStat l b d =>
    simp [Instr.info, and_assoc] at h
    obtain ⟨hl, hd, hb⟩ := h
    exact spells_encL rfl (by decide) hl (by omega) (by decide) (by decide) hb fun g => by
      simp [readFields, read80, readBar, Fields.long]
  | barFree l b =>
    simp [Instr.info] at h
    exact spells_encL rfl (by decide) h.1 (by decide) (by decide) (by decide) h.2 fun g => by
      simp [readFields, read80, readBar, Fields.long]
  | jnew l k d | jrank l k d =>
    simp [Instr.info, and_assoc] at h
    obtain ⟨hl, hd, hk⟩ := h
    exact spells_encL rfl (by decide) hl (by omega) (by decide) (by decide) (by omega) fun g => by
      simp [readFields, read80, zeroFn, Fields.long]
  | join l k d a =>
    simp [Instr.info, and_assoc] at h
    obtain ⟨hl, ha, hd, hk⟩ := h
    exact spells_encL rfl (by decide) hl (by omega) (encSrc_lt ha) (by decide) (by omega) fun g => by
      simp [readFields, read80, zeroFn, decSrc_encSrc ha, Fields.long]
  | leave l k =>
    simp [Instr.info] at h
    exact spells_encL rfl (by decide) h.1 (by decide) (by decide) (by decide) (by omega) fun g => by
      simp [readFields, read80, zeroFn, Fields.long]
  | jsize c l k d =>
    simp [Instr.info, and_assoc] at h
    obtain ⟨hl, hd, hk⟩ := h
    exact spells_encL rfl ((encBool_lt c).trans (by decide)) hl (by omega) (by decide) (by decide) (by omega) fun g => by
      simp [readFields, read80, Fields.long]
  | jbar x l k =>
    simp [Instr.info] at h
    obtain ⟨hl, hk⟩ := h
    have he := (digits_lt (encBool_lt x) hk).trans (by decide : 4 * 2 < 128)
    exact spells_encL rfl (by decide) hl (by decide) (by decide) (by decide) (add_comm k _ ▸ he) fun g => by
      simp [readFields, read80, zeroFn, add_comm k, digits_div hk, Nat.mod_eq_of_lt hk, Fields.long]
  | jscan op ex x l k d a =>
    simp [Instr.info, and_assoc] at h
    obtain ⟨hl, ha, hd, hk⟩ := h
    have hc : codeIn foldOpCodes op < 8 := codeIn_lt (by simp)
    have he := (digits_lt (encBool_lt x) hk).trans (by decide : 4 * 2 < 128)
    exact spells_encL rfl (digits_lt (encBool_lt ex) hc) hl (by omega) (encSrc_lt ha) (by decide) (add_comm k _ ▸ he) fun g => by
      simp [readFields, read80, add_comm k, digits_div hk, Nat.mod_eq_of_lt hk, Nat.mod_eq_of_lt hc, decide_le_digits ex hc,
        decSrc_encSrc ha, Fields.long]
  | jred op x l k d a =>
    simp [Instr.info, and_assoc] at h
    obtain ⟨hl, ha, hd, hk⟩ := h
    have he := (digits_lt (encBool_lt x) hk).trans (by decide : 4 * 2 < 128)
    exact spells_encL rfl (codeIn_lt (by simp)) hl (by omega) (encSrc_lt ha) (by decide) (add_comm k _ ▸ he) fun g => by
      simp [readFields, read80, add_comm k, digits_div hk, Nat.mod_eq_of_lt hk, decSrc_encSrc ha, Fields.long]
  | _ => cases hi

theorem spells_unit {i : Instr} (hi : i.family = .unit) (h : i.info.Fits) : Spells (encode i) i := by
  cases i with
  | tall f s l r =>
    simp [Instr.info, and_assoc] at h
    obtain ⟨hl, hr, hs⟩ := h
    have hcode := TileRef.code_lt hr
    have hs' := shapeOk_lt hs
    exact spells_encL rfl (codeIn_lt (by simp)) hl (by omega) (by decide) (by decide) (by omega) fun g => by
      simp [readFields, read90, tileOf_code hr, Fields.long]
  | tfree l r | tzero l r =>
    simp [Instr.info] at h
    obtain ⟨hl, hr⟩ := h
    have hcode := TileRef.code_lt hr
    exact spells_encL rfl (by decide) hl (by omega) (by decide) (by decide) (by decide) fun g => by
      simp [readFields, read90, zeroFn, tileOf_code hr, Fields.long]
  | tload l r a b =>
    simp [Instr.info, and_assoc] at h
    obtain ⟨hl, hr, ha, hb⟩ := h
    have hcode := TileRef.code_lt hr
    have ha' : a < 256 := by omega
    exact spells_encL rfl (by decide) hl (by omega) (by omega) (encSrc_lt hb) (by decide) fun g => by
      simp [readFields, read90, zeroFn, tileOf_code hr, ha', decSrc_encSrc hb, Fields.long]
  | ctr f s an bn l r a b =>
    obtain ⟨hl, hr, ha, hb, hs⟩ := fits_ctr h
    have hcode := TileRef.code_lt hr
    have hd : r.code + 16 * encBool an + 32 * encBool bn = 16 * (2 * encBool bn + encBool an) + r.code := by ring
    have hlt := digits_lt (encBool_lt bn) (encBool_lt an)
    have hbn : (16 * (2 * encBool bn + encBool an) + r.code) / 32 = encBool bn := by
      have := encBool_lt an
      omega
    exact spells_encL rfl (codeIn_lt (by simp)) hl (by omega) (by omega) (by omega) (by omega) fun g => by
      simp [readFields, read90, hd, tileOf_code_add hr, digits_div hcode, hbn, ha, hb, Fields.long]
  | tdrain f m c l r d a q =>
    obtain ⟨hl, hr, ha, hd, hq⟩ := fits_tdrain h
    have hcode := TileRef.code_lt hr
    have hm : codeIn rndCodes m < 8 := codeIn_lt (by simp)
    have he := digits_lt (codeIn_lt (mem_drainFmtCodes f) : codeIn drainFmtCodes f < 8) hcode
    exact spells_encL rfl (digits_lt (encBool_lt c) hm) hl hd (by omega) (by omega) he fun g => by
      simp [readFields, read90, digits_div hcode, Nat.mod_eq_of_lt hm, decide_le_digits c hm, tileOf_code_add hr, ha, hq, Fields.long]
  | cpb c t l d r n | cpg c t l d r n | cps c t l d r n | cpf c t l d r n =>
    obtain ⟨hl, hr, hn, hd, hc, ht⟩ := fits_copyInfo h (by decide)
    have hfn := digits_lt ((encAttach_fst_lt t).trans (by decide : 3 < 4)) hc
    exact spells_encL rfl (add_comm c _ ▸ hfn) hl hd (by omega) (by omega) (encAttach_snd_lt ht) fun g => by
      simp [readFields, readA0, add_comm c, digits_div hc, Nat.mod_eq_of_lt hc, hr, hn, Fields.long]
  | cqf c m l d =>
    simp [Instr.info, and_assoc] at h
    obtain ⟨hl, hd, hc, hm⟩ := h
    exact spells_encL rfl (by omega) hl (by omega) (by decide) (by decide) (by omega) fun g => by
      simp [readFields, readA0, Fields.long]
  | _ => cases hi

theorem spells_affine {i : Instr} (hi : i.family = .affine) (h : i.info.Fits) : Spells (encode i) i := by
  cases i with
  | aset l d a b | anoise l d a b =>
    simp [Instr.info, and_assoc] at h
    obtain ⟨hl, ha, hb, hd⟩ := h
    exact spells_encL rfl (by decide) hl (by omega) (encSrc_lt ha) (encSrc_lt hb) (by decide) fun g => by
      simp [readFields, readB0, zeroFn, decSrc_encSrc ha, decSrc_encSrc hb, Fields.long]
  | aadd l d x y | asub l d x y | amul l d x y =>
    simp [Instr.info] at h
    obtain ⟨hl, hd, hx, hy⟩ := h
    exact spells_encL rfl (by decide) hl (digits_lt hx hd) (by decide) (by decide) (by omega) fun g => by
      simp [readFields, readB0, zeroFn, digits_div hd, Nat.mod_eq_of_lt hd, Fields.long]
  | aneg l d x =>
    simp [Instr.info] at h
    obtain ⟨hl, hd, hx⟩ := h
    exact spells_encL rfl (by decide) hl (digits_lt hx hd) (by decide) (by decide) (by decide) fun g => by
      simp [readFields, readB0, zeroFn, digits_div hd, Nat.mod_eq_of_lt hd, Fields.long]
  | ascl l d x a | aaddc l d x a | acond l d x a =>
    simp [Instr.info, and_assoc] at h
    obtain ⟨hl, ha, hd, hx⟩ := h
    exact spells_encL rfl (by decide) hl (digits_lt hx hd) (encSrc_lt ha) (by decide) (by decide) fun g => by
      simp [readFields, readB0, zeroFn, digits_div hd, Nat.mod_eq_of_lt hd, decSrc_encSrc ha, Fields.long]
  | aquant f m l d x =>
    simp [Instr.info] at h
    obtain ⟨hl, hd, hx⟩ := h
    exact spells_encL rfl (codeIn_lt (by simp)) hl (digits_lt hx hd) (by decide) (by decide) (codeIn_lt (by simp)) fun g => by
      simp [readFields, readB0, digits_div hd, Nat.mod_eq_of_lt hd, Fields.long]
  | aget f l d y =>
    simp [Instr.info, and_assoc] at h
    obtain ⟨hl, hd, hy⟩ := h
    exact spells_encL rfl (codeIn_lt (by simp)) hl (by omega) (by decide) (by decide) (by omega) fun g => by
      simp [readFields, readB0, Fields.long]
  | ald os l d a =>
    simp [Instr.info, and_assoc] at h
    obtain ⟨hl, ha, hd, hos⟩ := h
    exact spells_encL rfl (encSpace_lt os a) hl (by omega) (encAddrA_lt ha) (encAddrB_lt ha) (by decide) fun g => by
      simp [readFields, readB0, decOs_encOs hos, decAddr_encAddr os ha, Fields.long]
  | ast os l y a =>
    simp [Instr.info, and_assoc] at h
    obtain ⟨hl, ha, hy, hos⟩ := h
    exact spells_encL rfl (encSpace_lt os a) hl (by decide) (encAddrA_lt ha) (encAddrB_lt ha) (by omega) fun g => by
      simp [readFields, readB0, decOs_encOs hos, decAddr_encAddr os ha, Fields.long]
  | asymn c l d =>
    simp [Instr.info] at h
    exact spells_encL rfl ((encBool_lt c).trans (by decide)) h.1 (by omega) (by decide) (by decide) (by decide) fun g => by
      simp [readFields, readB0, Fields.long]
  | amode f l d =>
    cases f with
    | get =>
      simp [Instr.info] at h
      exact spells_encL rfl (by decide) h.1 (by omega) (by decide) (by decide) (by decide) fun g => by
        simp [readFields, readB0, Fields.long]
    | set a =>
      simp [Instr.info, and_assoc] at h
      obtain ⟨hl, ha, hd⟩ := h
      exact spells_encL rfl (by decide) hl (by omega) (encSrc_lt ha) (by decide) (by decide) fun g => by
        simp [readFields, readB0, decSrc_encSrc ha, Fields.long]
  | _ => cases hi

theorem spells_closure {i : Instr} (hi : i.family = .closure) (h : i.info.Fits) : Spells (encode i) i := by
  cases i with
  | cap l k e f n =>
    cases e with
    | pair p =>
      simp [Instr.info, and_assoc] at h
      obtain ⟨hl, hf, hk, hn, h0, hp⟩ := h
      have hp' : p < 256 := by omega
      exact spells_encL rfl (by omega) hl (by omega) (by omega) (by decide) (by omega) fun g => by
        simp [readFields, readC0, hk, hp', Fields.long]
    | literal x =>
      simp [Instr.info, and_assoc] at h
      obtain ⟨hl, hf, hk, hn, h0⟩ := h
      exact spells_lowL rfl (by simp [takesExt]) (by omega) hl (by omega) (by decide) (by decide) (by omega) x.isLt fun g => by
        simp [readFields, readC0, Fields.long]
  | capr l k a b =>
    simp [Instr.info, and_assoc] at h
    obtain ⟨hl, ha, hb, hk⟩ := h
    exact spells_encL rfl (by omega) hl (by decide) (encSrc_lt ha) (encSrc_lt hb) (by decide) fun g => by
      simp [readFields, readC0, decSrc_encSrc ha, decSrc_encSrc hb, Fields.long]
  | kdup l k j =>
    simp [Instr.info] at h
    exact spells_encL rfl (by omega) h.1 (by decide) (by decide) (by decide) (by omega) fun g => by
      simp [readFields, readC0, Fields.long]
  | kdrop l k =>
    simp [Instr.info] at h
    exact spells_encL rfl (by omega) h.1 (by decide) (by decide) (by decide) (by decide) fun g => by
      simp [readFields, readC0, Fields.long]
  | kst os l k a | kld os l k a =>
    simp [Instr.info, and_assoc] at h
    obtain ⟨hl, ha, hk, hos⟩ := h
    exact spells_encL rfl (encSpace_lt os a) hl (by decide) (encAddrA_lt ha) (encAddrB_lt ha) (by omega) fun g => by
      simp [readFields, readC0, decOs_encOs hos, decAddr_encAddr os ha, Fields.long]
  | apply p k n =>
    simp [Instr.info] at h
    obtain ⟨hp, hk, hn⟩ := h
    exact spells_encL rfl (by decide) (coded_bare hp) hn (by decide) (by decide) (by omega) fun g => by
      simp [readFields, readC0, zeroFn, bare]
  | spawn l d k a =>
    simp [Instr.info, and_assoc] at h
    obtain ⟨hl, ha, hd, hk⟩ := h
    exact spells_encL rfl (by decide) hl (by omega) (encPair_lt ha) (by decide) (by omega) fun g => by
      simp [readFields, readC0, zeroFn, decPair_encPair ha, Fields.long]
  | kinfo f l d k =>
    obtain ⟨hl, hd, hk⟩ : l.Coded ∧ d < 256 ∧ k < 8 := by
      cases f <;> simp [Instr.info, and_assoc] at h <;> exact ⟨h.1, by omega, h.2.2⟩
    exact spells_encL rfl (codeIn_lt (by simp)) hl hd (by decide) (by decide) (by omega) fun g => by
      simp [readFields, readC0, Fields.long]
  | _ => cases hi

theorem spells_control {i : Instr} (hi : i.family = .control) (h : i.info.Fits) : Spells (encode i) i := by
  cases i with
  | bra c p n t =>
    simp [Instr.info] at h
    exact spells_encB rfl ((encBool_lt c).trans (by decide)) h.1 (by decide) h.2.1 (by omega) fun g => by simp [readFields, readE0]
  | jmp p r t =>
    simp [Instr.info, and_assoc] at h
    exact spells_encB rfl (by decide) h.1 (by omega) (by decide) (by omega) fun g => by
      simp [readFields, readE0, zeroFn]
  | call p r n =>
    simp [Instr.info] at h
    exact spells_encB rfl (by decide) h.1 h.2.2 h.2.1 (by decide) fun g => by
      simp [readFields, readE0, zeroFn]
  | calli p r n =>
    simp [Instr.info, and_assoc] at h
    exact spells_encB rfl (by decide) h.1 (by omega) (by omega) (by decide) fun g => by
      simp [readFields, readE0, zeroFn]
  | ret p | exit p | yield p =>
    simp [Instr.info] at h
    exact spells_encB rfl (by decide) h (by decide) (by decide) (by decide) fun g => by
      simp [readFields, readE0, zeroFn]
  | brk p c =>
    simp [Instr.info] at h
    exact spells_encB rfl (by decide) h.1 (by decide) (by omega) (by decide) fun g => by
      simp [readFields, readE0, zeroFn]
  | _ => cases hi

theorem spells_system {i : Instr} (hi : i.family = .system) (h : i.info.Fits) : Spells (encode i) i := by
  cases i with
  | trap p c =>
    simp [Instr.info] at h
    exact spells_encS rfl (by decide) (coded_bare h.1) (by decide) (by decide) h.2 fun g => by
      simp [readFields, readF0, zeroFn, bare]
  | rte c p =>
    simp [Instr.info] at h
    exact spells_encS rfl ((encBool_lt c).trans (by decide)) (coded_bare h) (by decide) (by decide) (by decide) fun g => by
      simp [readFields, readF0, bare]
  | tswap p =>
    simp [Instr.info] at h
    exact spells_encS rfl (by decide) (coded_bare h) (by decide) (by decide) (by decide) fun g => by
      simp [readFields, readF0, zeroFn, bare]
  | csrr l d c | tins l d c =>
    simp [Instr.info, and_assoc] at h
    obtain ⟨hl, hd, hc⟩ := h
    exact spells_encS rfl (by decide) hl (by omega) (by decide) hc fun g => by
      simp [readFields, readF0, zeroFn, Fields.long]
  | csrw l d c a | tset l d c a =>
    simp [Instr.info, and_assoc] at h
    obtain ⟨hl, ha, hd, hc⟩ := h
    exact spells_encS rfl (by decide) hl (by omega) (encSrc_lt ha) hc fun g => by
      simp [readFields, readF0, zeroFn, decSrc_encSrc ha, Fields.long]
  | tresGo l d | tresHold l d | tresKill l d | tstep l d | gettime l d =>
    simp [Instr.info] at h
    exact spells_encS rfl (by decide) h.1 (by omega) (by decide) (by decide) fun g => by
      simp [readFields, readF0, zeroFn, Fields.long]
  | sleep l t =>
    cases t with
    | abs a =>
      simp [Instr.info] at h
      exact spells_encS rfl (by decide) h.1 (by decide) (encPair_lt h.2) (by decide) fun g => by
        simp [readFields, readF0, decPair_encPair h.2, Fields.long]
    | rel a =>
      simp [Instr.info] at h
      exact spells_encS rfl (by decide) h.1 (by decide) (encSrc_lt h.2) (by decide) fun g => by
        simp [readFields, readF0, decSrc_encSrc h.2, Fields.long]
  | _ => cases hi

theorem event_not_word (i : Instr) : (i.family == .event && i.info.word) = false := by cases i <;> rfl

/-- The encoding of an instruction whose fields are in range reads as it. -/
theorem spells_encode {i : Instr} (h : i.info.Fits) : Spells (encode i) i := by
  cases hi : i.family with
  | alu => exact spells_alu hi h
  | imm => exact spells_imm hi h
  | mem => exact spells_mem hi h
  | sync => exact spells_sync hi h
  | unit => exact spells_unit hi h
  | affine => exact spells_affine hi h
  | closure => exact spells_closure hi h
  | control => exact spells_control hi h
  | system => exact spells_system hi h
  | event => simpa [hi, h.1] using event_not_word i

/-! ## Decoding -/

theorem opAssigned_group {op : Nat} (h : opAssigned op = true) : op / 16 ≠ 13 := by
  intro hd
  simp [opAssigned, hd] at h

/-- The decoder answers an instruction that the fields read as, if its encoding is the word. -/
theorem decode_eq_ok {w x : Nat} {i : Instr} : decode w x = .ok i ↔
    opAssigned (fieldsOf w).op = true ∧ readFields (fieldsOf w) x = some i ∧ i.wf = true ∧
      encode i = some ⟨w, if takesExt (fieldsOf w).op (fieldsOf w).fn then x else 0⟩ := by
  constructor
  · fun_cases decode w x with
    | case5 f hgroup hop j hread hwf he =>
      rintro ⟨⟩
      exact ⟨by simpa using hop, hread, by simpa using hwf, he⟩
    | _ => rintro ⟨⟩
  · rintro ⟨hop, hread, hwf, he⟩
    simp [decode, opAssigned_group hop, hop, hread, hwf, he]

/-- The encoding of a well-formed instruction decodes to it. -/
theorem decode_encode {i : Instr} (h : i.wf = true) :
    ∃ e, encode i = some e ∧ e.word < 2 ^ 64 ∧ e.ext < 2 ^ 64 ∧ decode e.word e.ext = .ok i := by
  obtain ⟨e, he, hword, hext, hop, hx, hread⟩ := spells_encode (Info.fits_of_wf h)
  refine ⟨e, he, hword, hext, decode_eq_ok.2 ⟨hop, hread, h, ?_⟩⟩
  cases ht : takesExt (fieldsOf e.word).op (fieldsOf e.word).fn with
  | true => simpa using he
  | false => simpa [← hx ht] using he

/-- A word that decodes is the encoding of a well-formed instruction. -/
theorem encode_of_decode {w x : Nat} {i : Instr} (h : decode w x = .ok i) :
    i.wf = true ∧ ∃ e, encode i = some e ∧ e.word = w ∧ (takesExt (bits w 63 56) (bits w 55 52) = true → e.ext = x) := by
  obtain ⟨-, -, hwf, he⟩ := decode_eq_ok.1 h
  exact ⟨hwf, _, he, rfl, fun ht => if_pos ht⟩

end Sys2Proof
end

section
/-! PROOFS. A word that does not decode: the lanes that reach it come to it, are trapped there, and keep the trap through the end of
the word (02 R52). -/

namespace Sys2Proof.Machine

/-! ## What an issue set changes of a state -/

/-- What settling, issuing and ending a word change of a state: strands, braids and quarters. -/
def State.withIssue (s : State) (x : AMap Strand) (b : AMap Braid) (q : AMap Quarter) : State :=
  { s with strands := x, braids := b, quarters := q }

/-- Only that has changed. -/
def OnlyIssue (s t : State) : Prop := ∃ x b q, t = s.withIssue x b q

theorem OnlyIssue.refl (s : State) : OnlyIssue s s := ⟨s.strands, s.braids, s.quarters, rfl⟩

theorem OnlyIssue.trans {s t u : State} (h : OnlyIssue s t) (k : OnlyIssue t u) : OnlyIssue s u := by
  obtain ⟨x, b, q, rfl⟩ := h
  obtain ⟨x', b', q', rfl⟩ := k
  exact ⟨x', b', q', rfl⟩

section
variable {s t : State} (h : OnlyIssue s t)
include h

theorem OnlyIssue.mem : t.mem = s.mem := by obtain ⟨x, b, q, rfl⟩ := h; rfl
theorem OnlyIssue.ctxs : t.ctxs = s.ctxs := by obtain ⟨x, b, q, rfl⟩ := h; rfl
theorem OnlyIssue.moves : t.moves = s.moves := by obtain ⟨x, b, q, rfl⟩ := h; rfl
theorem OnlyIssue.focus : t.focus = s.focus := by obtain ⟨x, b, q, rfl⟩ := h; rfl
theorem OnlyIssue.stepping : t.stepping = s.stepping := by obtain ⟨x, b, q, rfl⟩ := h; rfl

end

theorem State.onlyIssue_strands (s : State) (x : AMap Strand) : OnlyIssue s { s with strands := x } :=
  ⟨x, s.braids, s.quarters, rfl⟩

theorem State.setQuarter_onlyIssue (s : State) (q : Nat) (x : Quarter) : OnlyIssue s (s.setQuarter q x) :=
  ⟨s.strands, s.braids, s.quarters.set q x, rfl⟩

theorem State.setCur_onlyIssue (s : State) (x : Issue) : OnlyIssue s (s.setCur x) := s.setQuarter_onlyIssue ..

theorem State.dropCur_onlyIssue (s : State) : OnlyIssue s s.dropCur := by
  unfold State.dropCur
  dsimp only
  split
  · exact .refl s
  · exact s.setQuarter_onlyIssue ..

theorem State.mapBraid_onlyIssue (s : State) (b : Nat) (f : Nat → Strand → Strand) : OnlyIssue s (s.mapBraid b f) :=
  s.onlyIssue_strands _

theorem State.slackReturn_onlyIssue (s : State) (b : Nat) : OnlyIssue s (s.slackReturn b) :=
  (s.onlyIssue_strands _).trans (State.onlyIssue_strands _ _)

theorem State.releaseGather_onlyIssue (s : State) (b : Nat) : OnlyIssue s (s.releaseGather b) :=
  s.onlyIssue_strands _

theorem State.settleBraid_onlyIssue (s : State) (b : Nat) : OnlyIssue s (s.settleBraid b) :=
  ((s.mapBraid_onlyIssue _ _).trans (State.releaseGather_onlyIssue _ _)).trans (State.slackReturn_onlyIssue _ _)

theorem State.joinGather_onlyIssue (s : State) : OnlyIssue s s.joinGather := by
  unfold State.joinGather
  split
  · exact .refl s
  · split
    · exact .refl s
    · split
      · exact .refl s
      · exact (s.onlyIssue_strands _).trans (State.setCur_onlyIssue _ _)

theorem State.settleCur_onlyIssue (s : State) : OnlyIssue s s.settleCur := by
  unfold State.settleCur
  split
  · exact (s.settleBraid_onlyIssue _).trans (State.joinGather_onlyIssue _)
  · exact .refl s

/-! ## The issue set of a quarter -/

@[simp] theorem State.quarter_setQuarter (s : State) (q : Nat) (x : Quarter) : (s.setQuarter q x).quarter q = x := by
  simp [State.quarter, State.setQuarter, AMap.getD]

theorem State.cur_setCur {s : State} {y : Issue} (h : s.cur = some y) (x : Issue) : (s.setCur x).cur = some x := by
  unfold State.setCur State.cur
  dsimp only
  simp only [State.stepping_setQuarter, State.focus_setQuarter, State.quarter_setQuarter]
  unfold State.cur at h
  split at h
  · rename_i hs
    simp only [hs, if_true, Option.map_map]
    obtain ⟨r, hr, -⟩ := Option.map_eq_some_iff.1 h
    simp [hr]
  · rename_i hs
    simp [hs]

@[simp] theorem State.strand?_setCur (s : State) (x : Issue) (p : Nat) : (s.setCur x).strand? p = s.strand? p := rfl

@[simp] theorem State.strand?_dropCur (s : State) (p : Nat) : s.dropCur.strand? p = s.strand? p := by
  unfold State.dropCur
  dsimp only
  split <;> rfl

theorem State.strand?_mapBraid (s : State) (b : Nat) (f : Nat → Strand → Strand) (p : Nat) :
    (s.mapBraid b f).strand? p = (s.strand? p).map fun y => if braidOf p = b then f p y else y := by
  simp [State.mapBraid, State.strand?, AMap.get?_mapVals]

/-- Settling a braid leaves a trapped strand. -/
theorem State.strand?_settleBraid_of_trapped {s : State} {p : Nat} {y : Strand} (b : Nat) (hs : s.strand? p = some y)
    (hy : y.run = .trapped) : (s.settleBraid b).strand? p = some y := by
  have h1 : (s.mapBraid b fun _ x => if s.stallOver x then { x with run := .candidate } else x).strand? p = some y := by
    rw [State.strand?_mapBraid, hs]
    simp [State.stallOver, hy]
  have h2 (t : State) (ht : t.strand? p = some y) : (t.releaseGather b).strand? p = some y := by
    have ht : AMap.get? t.strands p = some y := ht
    simp [State.releaseGather, State.strand?, AMap.get?_mapVals, ht, hy]
  have h3 (t : State) (ht : t.strand? p = some y) : (t.slackReturn b).strand? p = some y := by
    have ht : AMap.get? t.strands p = some y := ht
    simp [State.slackReturn, State.pruneWatch, State.strand?, AMap.get?_mapVals, ht, hy]
  exact h3 _ (h2 _ h1)

/-! ## Plain traps of several lanes -/

/-- One lane of a plain trap: its strand is trapped at the word. -/
theorem State.raiseOne_plain {s : State} {x : Issue} {k : Nat} {st : Strand} (c d : Nat)
    (hs : s.strand? (posOf x.braid k) = some st) (hh : st.handler = false) :
    s.raiseOne (posOf x.braid k) ⟨x.clause, x.word⟩ { cause := c, detail := d } =
      s.modStrand (posOf x.braid k) (trapPlain x st.nextId s.moves c d) := by
  have hu : TrapReq.upset { cause := c, detail := d } = false := rfl
  simp only [State.raiseOne, hs, State.recordTrap, State.holdPend, hu, hh, Bool.false_and, Bool.false_eq_true, if_false]
  rfl

/-- A strand trapped at the word of `x` with cause c, in issue set `set`. -/
def trappedHere (x : Issue) (set c : Nat) (y : Strand) : Strand :=
  { y with
    run := .trapped, trap := ⟨x.clause, x.word, c, 0, 0⟩, regs := { y.regs with pc := x.here }, trapSet := set, heldOn := none }

theorem Strand.trapAt_of_pastFence {y : Strand} (h : y.pastFence = false) (n : Nat) (p : Point) (r : TrapRec) :
    y.trapAt n p r = { y with run := .trapped, trap := r, regs := { y.regs with pc := p } } :=
  if_neg (ne_true_of_eq_false (Strand.fencedBefore_of_pastFence (x := { y with regs := { y.regs with pc := p } }) h n))

theorem trapPlain_eq {x : Issue} {st : Strand} (n set c : Nat) (hh : st.handler = false) (hf : st.pastFence = false) :
    trapPlain x n set c 0 st = trappedHere x set c st := by
  have hheld : (if st.handler then st.heldOn else none) = none := if_neg (ne_true_of_eq_false hh)
  rw [trapPlain, Strand.trapAt_of_pastFence hf, hheld]
  rfl

/-- The lanes of a list in turn: each strand of a lane listed is trapped, every other lane is as before. -/
theorem State.foldl_raiseOne_plain {x : Issue} (c : Nat) {lanes : List Nat} {s : State} (hn : lanes.Nodup)
    (hl : ∀ l ∈ lanes, ∃ st, s.strand? (posOf x.braid l) = some st ∧ st.handler = false ∧ st.pastFence = false) :
    let t := lanes.foldl (fun s l => s.raiseOne (posOf x.braid l) ⟨x.clause, x.word⟩ { cause := c }) s
    (∃ m, t = { s with strands := m }) ∧ ∀ l, t.strand? (posOf x.braid l) =
      if l ∈ lanes then (s.strand? (posOf x.braid l)).map (trappedHere x s.moves c) else s.strand? (posOf x.braid l) := by
  induction lanes generalizing s with
  | nil => exact ⟨⟨s.strands, rfl⟩, by simp⟩
  | cons k lanes ih =>
    obtain ⟨hk, hn⟩ := List.nodup_cons.1 hn
    obtain ⟨st, hs, hh, hf⟩ := hl k (List.mem_cons_self ..)
    have hstep := State.raiseOne_plain (x := x) c 0 hs hh
    have hother : ∀ l, l ≠ k → (s.modStrand (posOf x.braid k) (trapPlain x st.nextId s.moves c 0)).strand? (posOf x.braid l) =
        s.strand? (posOf x.braid l) := fun l hne => State.strand?_modStrand_ne _ _ fun e => hne (posOf_inj.1 e).symm
    have hne : ∀ l ∈ lanes, l ≠ k := fun l hm e => hk (e ▸ hm)
    obtain ⟨⟨m, hm⟩, ht⟩ := ih hn fun l hm => by
      rw [hother l (hne l hm)]
      exact hl l (List.mem_cons_of_mem _ hm)
    simp only [List.foldl_cons, hstep]
    refine ⟨⟨m, hm⟩, fun l => ?_⟩
    rw [ht l, State.moves_modStrand]
    by_cases hlk : l = k
    · subst hlk
      simp [hk, hs, trapPlain_eq _ _ _ hh hf]
    · simp [hother l hlk, hlk]

/-- A trap without a fault record of distinct lanes, none of them in a handler or past a fence: all of them are trapped at the word,
and nothing but strands and braids changes. -/
theorem State.raise_plain_lanes {s : State} {x : Issue} (c : Nat) {lanes : List Nat} (hx : s.cur = some x) (hn : lanes.Nodup)
    (hl : ∀ l ∈ lanes, ∃ st, s.strand? (posOf x.braid l) = some st ∧ st.handler = false ∧ st.pastFence = false) :
    let t := s.raise (lanes.map fun l => (l, { cause := c }))
    (∃ m b, t = { s with strands := m, braids := b }) ∧
      ∀ l ∈ lanes, t.strand? (posOf x.braid l) = (s.strand? (posOf x.braid l)).map (trappedHere x s.moves c) := by
  obtain ⟨⟨m, hm⟩, ht⟩ := State.foldl_raiseOne_plain c hn hl
  simp only [State.raise, hx, List.foldl_map]
  split
  · exact ⟨⟨m, s.braids, hm⟩, fun l hmem => by rw [ht l, if_pos hmem]⟩
  · refine ⟨?_, fun l hmem => by rw [State.strand?_addGroups, ht l, if_pos hmem]⟩
    obtain ⟨b, hb⟩ := State.addGroups_eq _ x.braid _ _
    exact ⟨m, b, by rw [hb, hm]⟩

/-! ## Coming to a word -/

theorem getLsbD_foldl_twoPow (l : List Nat) (m : BitVec 32) (k : Nat) :
    (l.foldl (fun m j => m ||| BitVec.twoPow 32 j) m).getLsbD k = (m.getLsbD k || decide (k < 32 ∧ k ∈ l)) := by
  induction l generalizing m with
  | nil => simp
  | cons j l ih =>
    rw [List.foldl_cons, ih, BitVec.getLsbD_or, BitVec.getLsbD_twoPow]
    grind

theorem mem_lanesOf_maskOf {l : List Nat} {k : Nat} : k ∈ lanesOf (maskOf l) ↔ k < 32 ∧ k ∈ l := by
  simp [mem_lanesOf, maskOf, getLsbD_foldl_twoPow]

theorem State.mem_reaching {s : State} {x : Issue} {l : Nat} {st : Strand} :
    (l, st) ∈ s.reaching x ↔ (l < 32 ∧ x.mask.getLsbD l = true) ∧ s.strand? (posOf x.braid l) = some st ∧
      st.run = .candidate ∧ (s.stepping ∨ ¬ st.held) ∧ st.regs.pc = x.here := by
  simp only [State.reaching, List.mem_filterMap, mem_lanesOf]
  constructor
  · rintro ⟨k, hk, h⟩
    cases hs : s.strand? (posOf x.braid k) with
    | none => simp [hs] at h
    | some y =>
      simp only [hs] at h
      split at h
      · rename_i hy
        cases h
        exact ⟨hk, hs, hy⟩
      · cases h
  · rintro ⟨hk, hs, hy⟩
    refine ⟨l, hk, ?_⟩
    simp only [hs]
    exact if_pos hy

/-- A lane that waits for no lookahead and no fence goes on to a word that does not decode. -/
theorem State.gate_of_undecoded {s : State} {x : Issue} {err : DecodeError} {l : Nat} {st : Strand} (room : Bool)
    (hlook : ∀ o ∈ st.outs, o.look ≠ 0) (hawait : st.awaits = []) : s.gate x (.error err) l st room = none := by
  have h : (st.outs.filter fun p => p.look == 0) = [] := by simpa using hlook
  simp [State.gate, h, hawait, pendIds]

/-- A fold over lanes whose steps only add the lane to the mask gathers the mask of the lanes. -/
theorem foldl_addLane {σ υ α : Type} {s : σ} {u : υ} {f : σ × BitVec 32 × υ → Nat × α → σ × BitVec 32 × υ} (l : List (Nat × α))
    (hf : ∀ m, ∀ p ∈ l, f (s, m, u) p = (s, m ||| BitVec.twoPow 32 p.1, u)) :
    l.foldl f (s, 0, u) = (s, maskOf (l.map Prod.fst), u) := by
  suffices ∀ (k : List (Nat × α)) (m : BitVec 32), (∀ p ∈ k, p ∈ l) →
      k.foldl f (s, m, u) = (s, (k.map Prod.fst).foldl (fun m j => m ||| BitVec.twoPow 32 j) m, u) from this l 0 fun _ h => h
  intro k
  induction k with
  | nil => intro m _; rfl
  | cons p k ih =>
    intro m hk
    rw [List.foldl_cons, hf m p (hk p (List.mem_cons_self ..))]
    exact ih _ fun q hq => hk q (List.mem_cons_of_mem _ hq)

/-- The issue set with the lanes that reach its word. -/
def State.reached (s : State) (x : Issue) : Issue := { x with mask := maskOf ((s.reaching x).map Prod.fst) }

theorem State.mem_reached {s : State} {x : Issue} {l : Nat} : l ∈ lanesOf (s.reached x).mask ↔ ∃ st, (l, st) ∈ s.reaching x := by
  simp only [State.reached, mem_lanesOf_maskOf, List.mem_map, Prod.exists, exists_and_right, exists_eq_right]
  exact ⟨And.right, fun ⟨st, h⟩ => ⟨(State.mem_reaching.1 h).1.1, st, h⟩⟩

/-- Lanes that reach a word which does not decode, none of them held back, all come to it. -/
theorem State.beginWord_of_undecoded {s : State} {x : Issue} {err : DecodeError} (hx : s.cur = some x) (hd : x.decoded = .error err)
    (hr : s.reaching x ≠ []) (hfree : ∀ p ∈ s.reaching x, (∀ o ∈ p.2.outs, o.look ≠ 0) ∧ p.2.awaits = []) :
    s.beginWord = (s.setCur (s.reached x), some (.error err)) := by
  have hmask : (s.reached x).mask ≠ 0 := by
    obtain ⟨⟨l, st⟩, hmem⟩ := List.exists_mem_of_ne_nil _ hr
    intro h0
    have hl := State.mem_reached.2 ⟨st, hmem⟩
    rw [h0] at hl
    simp [mem_lanesOf] at hl
  unfold State.beginWord
  rw [hx]
  dsimp only
  rw [show Issue.decoded { x with mask := maskOf ((s.reaching x).map Prod.fst) } = .error err from hd, foldl_addLane _ ?_]
  · exact if_neg hmask
  · intro m p hp
    dsimp only
    rw [State.gate_of_undecoded _ (hfree p hp).1 (hfree p hp).2]
    rfl

/-! ## Ending a word -/

theorem Strand.afterWord_of_trapped {y : Strand} {i : Issue} (was : Strand) (keep : Nat → Bool) (hy : y.run = .trapped)
    (hpc : y.regs.pc = i.here) : y.afterWord i was keep = y := by
  have he : y.executed was i = false := by simp [Strand.executed, hy]
  have hi : y.issued i.here was.nextId = false := by simp [Strand.issued, hy, hpc]
  simp [Strand.afterWord, he, hi, hy]

/-- The lanes of the issue set x after its word, and its braid settled. -/
def State.settleWord (before s : State) (x : Issue) : State :=
  (s.mapBraid x.braid fun pos y =>
    if x.mask.getLsbD (laneOf pos) then
      y.afterWord x ((before.strand? pos).getD y) (fun r => s.freeBit (256 * laneOf pos + r))
    else y).settleBraid x.braid

theorem State.settleWord_onlyIssue (before s : State) (x : Issue) : OnlyIssue s (before.settleWord s x) :=
  (s.mapBraid_onlyIssue _ _).trans (State.settleBraid_onlyIssue _ _)

theorem State.strand?_settleWord_of_trapped {s : State} {x : Issue} {p : Nat} {y : Strand} (before : State)
    (hs : s.strand? p = some y) (hy : y.run = .trapped) (hpc : y.regs.pc = x.here) :
    (before.settleWord s x).strand? p = some y := by
  refine State.strand?_settleBraid_of_trapped _ ?_ hy
  rw [State.strand?_mapBraid, hs]
  simp [Strand.afterWord_of_trapped _ _ hy hpc]

/-- A word that is not of a step ends with the set moved on or given up. -/
theorem State.endWord_cases {s : State} {x : Issue} (before : State) (hx : s.cur = some x) (hstep : s.stepping = false) :
    before.endWord s = (before.settleWord s x).dropCur ∨ ∃ z, before.endWord s = (before.settleWord s x).setCur z := by
  have hn : ¬ (before.settleWord s x).stepping = true := by
    rw [(State.settleWord_onlyIssue before s x).stepping, hstep]
    decide
  unfold State.endWord
  rw [hx]
  dsimp only
  split
  · rename_i hs
    exact absurd hs hn
  · split
    · exact .inl rfl
    · split
      · exact .inl rfl
      · exact .inr ⟨_, rfl⟩

theorem State.endWord_onlyIssue {s : State} {x : Issue} (before : State) (hx : s.cur = some x) (hstep : s.stepping = false) :
    OnlyIssue s (before.endWord s) := by
  have h := State.settleWord_onlyIssue before s x
  obtain he | ⟨z, he⟩ := State.endWord_cases before hx hstep <;> rw [he]
  · exact h.trans (State.dropCur_onlyIssue _)
  · exact h.trans (State.setCur_onlyIssue _ _)

theorem State.strand?_endWord_of_trapped {s : State} {x : Issue} {p : Nat} {y : Strand} (before : State) (hx : s.cur = some x)
    (hstep : s.stepping = false) (hs : s.strand? p = some y) (hy : y.run = .trapped) (hpc : y.regs.pc = x.here) :
    (before.endWord s).strand? p = some y := by
  have h := State.strand?_settleWord_of_trapped before hs hy hpc
  obtain he | ⟨z, he⟩ := State.endWord_cases before hx hstep <;> rw [he]
  · rwa [State.strand?_dropCur]
  · rwa [State.strand?_setCur]

/-! ## A step at a word that does not decode -/

theorem State.unlistedLanes_subset {s : State} {x : Issue} {l : Nat} (h : l ∈ s.unlistedLanes x) : l ∈ lanesOf x.mask := by
  unfold State.unlistedLanes at h
  dsimp only at h
  split at h
  · exact (List.mem_filter.1 h).1
  · exact h

theorem State.unlistedLanes_nodup (s : State) (x : Issue) : (s.unlistedLanes x).Nodup := by
  unfold State.unlistedLanes
  dsimp only
  split
  · exact (lanesOf_nodup _).filter _
  · exact lanesOf_nodup _

/-- A lane is trapped by an unlisted word, in the ops of tiles and copies if its predicate holds. -/
theorem State.mem_unlistedLanes {s : State} {x : Issue} {l : Nat} {st : Strand} (hl : l ∈ lanesOf x.mask)
    (hs : s.strand? (posOf x.braid l) = some st)
    (hp : let w := (x.words.getD (x.word - 1) 0).toNat
      (0x90 ≤ bits w 63 56 ∧ bits w 63 56 ≤ 0x95) ∨ (0xA0 ≤ bits w 63 56 ∧ bits w 63 56 ≤ 0xA4) →
        predHolds st.regs ⟨bits w 51 51 == 1, bits w 50 43⟩ = true) : l ∈ s.unlistedLanes x := by
  unfold State.unlistedLanes
  dsimp only
  split
  · rename_i hop
    refine List.mem_filter.2 ⟨hl, ?_⟩
    rw [hs]
    exact Bool.or_eq_true_iff.2 (.inl (hp hop))
  · exact hl

theorem State.clocksStopped_takeMove (s : State) : s.takeMove.2.clocksStopped = s.clocksStopped := rfl

/-- The lanes of an issue set at a word that does not decode: those that the word traps stand trapped there, cause 1. -/
theorem State.unlisted_traps {r : State} {x : Issue} (hx : r.cur = some x) (hstep : r.stepping = false)
    (hfree : ∀ p ∈ r.reaching x, p.2.handler = false ∧ p.2.pastFence = false) :
    let s := r.setCur (r.reached x)
    let t := State.endWord s (s.allIllegal (s.unlistedLanes (r.reached x)))
    OnlyIssue r t ∧ ∀ l st, (l, st) ∈ r.reaching x → l ∈ s.unlistedLanes (r.reached x) →
      t.strand? (posOf x.braid l) = some (trappedHere x r.moves cIllegal st) := by
  intro s t
  have hc : s.cur = some (r.reached x) := State.cur_setCur hx _
  have hlanes : ∀ l ∈ s.unlistedLanes (r.reached x), ∃ st, s.strand? (posOf (r.reached x).braid l) = some st ∧
      st.handler = false ∧ st.pastFence = false := by
    intro l hl
    obtain ⟨st, hst⟩ := State.mem_reached.1 (State.unlistedLanes_subset hl)
    exact ⟨st, (State.mem_reaching.1 hst).2.1, hfree _ hst⟩
  obtain ⟨⟨m, b, hraise⟩, htrap⟩ := State.raise_plain_lanes cIllegal hc (s.unlistedLanes_nodup _) hlanes
  have hu : OnlyIssue r (s.allIllegal (s.unlistedLanes (r.reached x))) :=
    (r.setCur_onlyIssue _).trans ⟨m, b, _, hraise⟩
  have hcu : (s.allIllegal (s.unlistedLanes (r.reached x))).cur = some (r.reached x) := by
    rw [show s.allIllegal (s.unlistedLanes (r.reached x)) = _ from hraise]
    exact hc
  have hsu := hu.stepping.trans hstep
  refine ⟨hu.trans (State.endWord_onlyIssue s hcu hsu), fun l st hst hl => ?_⟩
  obtain ⟨-, hs, -, -, hpc⟩ := State.mem_reaching.1 hst
  refine State.strand?_endWord_of_trapped s hcu hsu ?_ rfl rfl
  have h := htrap l hl
  rw [show s.strand? (posOf (r.reached x).braid l) = some st from hs] at h
  exact h

/-- A step of a quarter whose issue set stands at a word that does not decode. -/
theorem step_of_undecoded {s : State} {q : Nat} {x : Issue} {err : DecodeError} (hq : s.agenda.head? = some (.word q))
    (hlt : q < 1536) (hclk : s.clocksStopped = false)
    {r : State} (hr : r = ({ s.takeMove.2 with focus := q, stepping := false } : State).settleCur)
    (hx : r.cur = some x) (hne : r.reaching x ≠ []) (hd : x.decoded = .error err)
    (hfree : ∀ p ∈ r.reaching x, (∀ o ∈ p.2.outs, o.look ≠ 0) ∧ p.2.awaits = []) :
    let n := r.setCur (r.reached x)
    step s = .next (State.endWord n (n.allIllegal (n.unlistedLanes (r.reached x)))) := by
  intro n
  have hm : s.takeMove.1 = .word q := by
    rw [List.head?_eq_some_iff] at hq
    obtain ⟨l, hl⟩ := hq
    simp [State.takeMove, hl]
  obtain ⟨y, hy⟩ : ∃ y, (s.takeMove.2.quarter q).cur = some y := by
    refine Option.ne_none_iff_exists'.1 fun hnone => ?_
    have hcur : ({ s.takeMove.2 with focus := q, stepping := false } : State).cur = none := hnone
    rw [hr, State.settleCur, hcur] at hx
    rw [hcur] at hx
    cases hx
  have hrun : s.takeMove.2.runWord q = ({ s.takeMove.2 with focus := q, stepping := false } : State).runIssue := by
    simp only [State.runWord, hy, s.clocksStopped_takeMove, hclk]
    rw [if_neg (by omega)]
    simp
  have hcn : n.cur = some (r.reached x) := State.cur_setCur hx _
  show s.takeMove.2.runMove s.takeMove.1 = _
  rw [hm]
  show s.takeMove.2.runWord q = _
  rw [hrun]
  unfold State.runIssue
  rw [← hr, State.beginWord_of_undecoded hx hd hne hfree]
  show Host.Outcome.next (match n.cur with | some x => State.endWord n (n.allIllegal (n.unlistedLanes x)) | none => n) = _
  rw [hcn]

end Sys2Proof.Machine
end

section
/-! PROOFS. The obligations of the scope: encoding, decoding and unlisted words. -/

namespace Sys2Proof
open Sys2Proof.Machine

/-- Settles O55: the encoder's fields read back, family by family (`decode_encode`), and the decoder answers an instruction only after
it has compared its encoding with the word (`encode_of_decode`). -/
theorem encodeDecodeRoundTrip : Obligations.EncodeDecodeRoundTrip :=
  ⟨fun _ => decode_encode, fun _ _ _ => encode_of_decode⟩

/-- Settles O53: a word that decodes is an encoding, and the lanes that an unlisted word traps keep their trap through the end of the
word. -/
theorem unlistedWordsTrap : Obligations.UnlistedWordsTrap := by
  refine ⟨fun w x h => ?_, fun s q x err hq hlt hclk => ?_⟩
  · cases hd : decode w x with
    | error err => exact ⟨err, rfl⟩
    | ok i =>
      obtain ⟨hwf, e, he, hw, hext⟩ := encode_of_decode hd
      obtain ⟨ht, hne⟩ := h i e hwf he hw
      exact absurd (hext ht) hne
  · intro m r hx hne w hd hfree
    have hr := State.settleCur_onlyIssue ({ m with focus := q, stepping := false } : State)
    obtain ⟨ht, htrap⟩ := State.unlisted_traps hx hr.stepping fun p hp => ⟨(hfree p hp).1, (hfree p hp).2.1⟩
    refine ⟨_, step_of_undecoded hq hlt hclk rfl hx hne hd fun p hp => (hfree p hp).2.2, ht.mem.trans hr.mem,
      ht.ctxs.trans hr.ctxs, fun l st hst hp => ?_⟩
    obtain ⟨-, hs, -, -, hpc⟩ := State.mem_reaching.1 hst
    refine ⟨_, htrap l st hst (State.mem_unlistedLanes (State.mem_reached.2 ⟨st, hst⟩) hs hp), ?_⟩
    rw [hr.moves, trappedHere, ← hpc]

end Sys2Proof
end

section
/-! PROOFS. Every instruction answers a next state, and a move fails only at a quarter that the package does not have (01 R14). -/

namespace Sys2Proof.Machine

/-- The meaning of each constructor is a next state by its definition: no arm branches before its `.next`. -/
theorem exec_next (i : Instr) (s : State) : ∃ t, exec i s = .next t := by
  cases i <;> exact ⟨_, rfl⟩

theorem State.runIssue_next (s : State) : ∃ t, s.runIssue = .next t := by
  unfold State.runIssue
  split
  · exact ⟨_, rfl⟩
  · exact ⟨_, rfl⟩
  · rename_i r i _
    obtain ⟨t, ht⟩ := exec_next i r
    exact ⟨r.endWord t, by rw [ht]⟩

theorem State.runWord_next (s : State) {q : Nat} (hq : q < 1536) : ∃ t, s.runWord q = .next t := by
  unfold State.runWord
  rw [if_neg (by omega)]
  split
  · exact ⟨_, rfl⟩
  · split
    · exact ⟨_, rfl⟩
    · exact State.runIssue_next _

theorem State.runWord_fault (s : State) {q : Nat} (hq : 1536 ≤ q) : s.runWord q = .fault .noSuchQuarter := if_pos hq

theorem State.runStepWord_next (s : State) {q : Nat} (hq : q < 1536) : ∃ t, s.runStepWord q = .next t := by
  unfold State.runStepWord
  rw [if_neg (by omega)]
  split
  · exact ⟨_, rfl⟩
  · split
    · exact ⟨_, rfl⟩
    · exact ⟨_, rfl⟩
    · dsimp only
      split
      · exact ⟨_, rfl⟩
      · rename_i r _ _ _
        obtain ⟨t, ht⟩ := State.runIssue_next (({ s with focus := q, stepping := false } : State).formStep r)
        exact ⟨t.stepAgain, by rw [ht]⟩

theorem State.runStepWord_fault (s : State) {q : Nat} (hq : 1536 ≤ q) : s.runStepWord q = .fault .noSuchQuarter := if_pos hq

theorem State.runMove_event_next (s : State) (i : Instr) : ∃ t, s.runMove (.event i) = .next t := by
  simp only [State.runMove]
  split
  · exact ⟨s, rfl⟩
  · exact exec_next i s

/-- What a move comes to: a next state, or a stop at a quarter of 1,536 or more. -/
theorem State.runMove_cases (s : State) (m : Move) : (∃ t, s.runMove m = .next t) ∨
    (s.runMove m = .fault .noSuchQuarter ∧ ∃ q, 1536 ≤ q ∧ (m = .word q ∨ m = .stepWord q)) := by
  cases m with
  | word q =>
    obtain hq | hq := Nat.lt_or_ge q 1536
    · exact .inl (s.runWord_next hq)
    · exact .inr ⟨s.runWord_fault hq, q, hq, .inl rfl⟩
  | stepWord q =>
    obtain hq | hq := Nat.lt_or_ge q 1536
    · exact .inl (s.runStepWord_next hq)
    · exact .inr ⟨s.runStepWord_fault hq, q, hq, .inr rfl⟩
  | event i => exact .inl (s.runMove_event_next i)

end Sys2Proof.Machine

namespace Sys2Proof
open Sys2Proof.Machine

/-- Settles O60: each meaning is a next state (`exec_next`), and a move stops only before it runs anything, at the number of its quarter
(`State.runMove_cases`). -/
theorem stepsAlwaysComplete : Obligations.StepsAlwaysComplete :=
  ⟨exec_next, fun s => s.takeMove.2.runMove_cases s.takeMove.1⟩

end Sys2Proof
end

section
/-! PROOFS. What reads and writes come to while no early write is left (11 R223), and what a copy engine's queues leave of reads. -/

namespace Sys2Proof.Machine

/-! ## No early writes -/

theorem State.eta_of_early_nil {s : State} (h : s.early = []) : { s with early := [] } = s := by
  cases s; cases h; rfl

theorem State.widen_of_early_nil {s : State} (h : s.early = []) (p : EarlyWrite → Bool) (gs : Observers) : s.widen p gs = s := by
  unfold State.widen
  rw [h]
  exact State.eta_of_early_nil h

theorem State.learn_of_early_nil {s : State} (h : s.early = []) (who : Nat) (p : EarlyWrite → Bool) : s.learn who p = s := by
  unfold State.learn
  rw [h]
  exact State.eta_of_early_nil h

theorem State.bring_of_early_nil {s : State} (h : s.early = []) (p : EarlyWrite → Bool) (n : Nat) (d : Observers) (l : List Nat) :
    s.bring p n d l = s := by
  unfold State.bring
  rw [h]
  exact State.eta_of_early_nil h

theorem State.seenN_of_early_nil {s : State} (h : s.early = []) (g k n : Nat) : s.seenN g k n = s.mem.readN k n := by
  induction n generalizing k with
  | zero => rfl
  | succ n ih => simp only [State.seenN, Memory.readN, ih, State.seen, h, List.filter_nil, List.reverse_nil, List.findSome?_nil]

theorem State.seenParts_of_early_nil {s : State} (h : s.early = []) (g g' : Nat) (ps : List Part) :
    s.seenParts g ps = s.seenParts g' ps := by
  induction ps with
  | nil => rfl
  | cons p ps ih => simp only [State.seenParts, State.seenN_of_early_nil h, ih]

/-! ## What an engine's queues leave of reads -/

section
variable (s : State) (k : Nat) (x : CopyEngine)

@[simp] theorem State.tableEntry_setEngine : (s.setEngine k x).tableEntry = s.tableEntry := rfl

@[simp] theorem State.walkLevel_setEngine : (s.setEngine k x).walkLevel = s.walkLevel := by
  funext die va level base
  induction level generalizing base with
  | zero =>
    unfold State.walkLevel
    rw [s.tableEntry_setEngine]
  | succ l ih =>
    unfold State.walkLevel
    simp only [s.tableEntry_setEngine, ih]

@[simp] theorem State.part_setEngine : (s.setEngine k x).part = s.part := by
  funext core ctx va len
  unfold State.part State.translate State.walk
  rw [s.walkLevel_setEngine]
  rfl

@[simp] theorem State.parts_setEngine : (s.setEngine k x).parts = s.parts := by
  funext core ctx n va len
  unfold State.parts
  rw [s.part_setEngine]

@[simp] theorem State.seenN_setEngine : (s.setEngine k x).seenN = s.seenN := by
  funext g a n
  induction n generalizing a with
  | zero => rfl
  | succ n ih => exact congrArg ((s.seen g a).toNat + 256 * ·) (ih (a + 1))

@[simp] theorem State.seenParts_setEngine : (s.setEngine k x).seenParts = s.seenParts := by
  funext g ps
  induction ps with
  | nil => rfl
  | cons p ps ih => simp only [State.seenParts, s.seenN_setEngine, ih]

@[simp] theorem State.copyIndex_setEngine : (s.setEngine k x).copyIndex = s.copyIndex := by
  funext core c n
  unfold State.copyIndex
  rw [s.seenParts_setEngine]
  rfl

@[simp] theorem State.noteRow_setEngine : (s.setEngine k x).noteRow = s.noteRow := by
  funext core c r i
  unfold State.noteRow
  rw [s.copyIndex_setEngine]

@[simp] theorem State.copyMove_setEngine : (s.setEngine k x).copyMove = s.copyMove := by
  funext core c r i
  unfold State.copyMove
  rw [s.copyIndex_setEngine]

@[simp] theorem State.copyParts_setEngine : (s.setEngine k x).copyParts = s.copyParts := by
  funext core c write a len
  unfold State.copyParts
  rw [s.parts_setEngine]
  rfl

@[simp] theorem State.copyScratch_setEngine : (s.setEngine k x).copyScratch = s.copyScratch := rfl

end

/-! ## Writes -/

theorem State.copyLearns_of_early_nil {s : State} (h : s.early = []) (core cls : Nat) (ps : List Part) : s.copyLearns core cls ps = s :=
  State.learn_of_early_nil h _ _

theorem State.copySpan_bank {s : State} {hank base off fuel n : Nat} {ps : List Part} (h : s.copySpan hank base off fuel n = some ps) :
    ∀ p ∈ ps, 2 ^ 64 ≤ p.key ∧ p.ord = .rc := by
  induction fuel generalizing off n ps with
  | zero =>
    cases h
    simp
  | succ fuel ih =>
    unfold State.copySpan at h
    split at h
    · cases h
      simp
    · split at h
      · cases h
      · split at h
        · cases h
        · obtain ⟨l, hl, rfl⟩ := Option.map_eq_some_iff.1 h
          refine List.forall_mem_cons.2 ⟨⟨?_, rfl⟩, ih hl⟩
          simp only [bankKey]
          omega

theorem State.copyScratch_bank {s : State} {c : CopyCmd} {r base o : Nat} {ps : List Part} (h : s.copyScratch c r base o = .ok ps) :
    ∀ p ∈ ps, 2 ^ 64 ≤ p.key ∧ p.ord = .rc := by
  unfold State.copyScratch at h
  split at h
  · cases h
  · rename_i hs
    split at h
    · cases h
    · cases h
      exact State.copySpan_bank hs

theorem keyPackage_of_bank {k : Nat} (h : 2 ^ 64 ≤ k) : keyPackage k = none := if_neg (by omega)

theorem Part.mayBeEarly_of_bank {p : Part} (h : 2 ^ 64 ≤ p.key) (ho : p.ord = .rc) : p.mayBeEarly = true := by
  simp only [Part.mayBeEarly, ho, Bool.and_eq_true, decide_eq_true_eq]
  exact ⟨.inr h, rfl⟩

theorem State.sendParts_of_local (s : State) (pos id ctx core : Nat) {ps : List Part} (h : ∀ p ∈ ps, keyPackage p.key = none) :
    s.sendParts pos id ctx core ps = s := by
  induction ps with
  | nil => rfl
  | cons p ps ih =>
    obtain ⟨hp, hps⟩ := List.forall_mem_cons.1 h
    simpa only [State.sendParts, List.foldl_cons, hp] using ih hps

theorem Observers.full_units_singleton (n : Nat) : (units [n]).full = false := by
  have h : (units [n]).far ≠ BitVec.allOnes 394 := fun e => by
    have h0 := congrArg (·.getLsbD 0) e
    have h1 := congrArg (·.getLsbD 1) e
    simp [units] at h0 h1
    omega
  simpa [Observers.full] using h

theorem Observers.full_one (n : Nat) : (Observers.one n).full = false := by
  unfold Observers.one
  split
  · simp [Observers.full]
  · exact Observers.full_units_singleton _

theorem Observers.full_allObservers : allObservers.full = true := by simp [Observers.full, allObservers]

/-- A write for all, where no early write is left. -/
theorem State.putFirst_of_full {s : State} (he : s.early = []) {w : EarlyWrite} (hw : w.reach.full = true) :
    s.putFirst w = ({ s with mem := Memory.writeParts w.val w.parts s.mem } : State).spoil w.by_ (fun _ => true) w.parts := by
  simp only [State.putFirst, hw, Bool.not_true, Bool.and_false, Bool.false_eq_true, if_false, State.putParts, State.land,
    State.widen_of_early_nil he]

/-- A write for some observers first, where no early write is left. -/
theorem State.putFirst_of_early {s : State} (he : s.early = []) {w : EarlyWrite} (hp : ∀ p ∈ w.parts, p.mayBeEarly = true)
    (hw : w.reach.full = false) :
    s.putFirst w = ({ s with early := [w] } : State).spoil w.by_ w.reach.has w.parts := by
  have hall : (w.parts.all Part.mayBeEarly && !w.reach.full) = true := by simpa [hw] using hp
  simp only [State.putFirst, hall, if_true, State.putEarly, State.widen_of_early_nil he, he, List.nil_append]

/-- A unit written to the scratchpad, where no early write is left: for all, or as one early write (11 R223). -/
theorem State.copyWrite_scratch {s : State} {core cls : Nat} {c : CopyCmd} {r v base o : Nat} {sp : List Part} (he : s.early = [])
    (hs : s.copyScratch c r base o = .ok sp) :
    ∃ m e x, s.copyWrite core cls c r v (.scratch base o) = .ok (s.withWrites m e x) ∧
      (s.freeBit 2 = true → m = Memory.writeParts v sp s.mem ∧ e = []) ∧
      (s.freeBit 2 = false → m = s.mem ∧ e =
        [{ reach := if s.freeBit 3 then .one (coreAgent core) else units [core], ctx := c.ctx, launch := c.opener, by_ := .copy core
           id := c.uid, parts := sp, val := v, known := [copyKey core cls] }]) := by
  have hbank := State.copyScratch_bank hs
  have hsend := s.sendParts_of_local copyFlit c.uid c.ctx core fun p hp => keyPackage_of_bank (hbank p hp).1
  simp only [State.copyWrite, hs, hsend]
  cases h2 : s.freeBit 2 with
  | true =>
    simp only [if_true]
    rw [State.putFirst_of_full he Observers.full_allObservers]
    exact ⟨_, s.early, _, rfl, fun _ => ⟨rfl, he⟩, nofun⟩
  | false =>
    simp only [Bool.false_eq_true, if_false]
    rw [State.putFirst_of_early he fun p hp => Part.mayBeEarly_of_bank (hbank p hp).1 (hbank p hp).2]
    · exact ⟨s.mem, _, _, rfl, nofun, fun _ => ⟨rfl, rfl⟩⟩
    · cases s.freeBit 3 with
      | true => simp only [if_true, Observers.full_one]
      | false => simp only [Bool.false_eq_true, if_false, Observers.full_units_singleton]

end Sys2Proof.Machine
end

section
/-! PROOFS. The copy engine: its queues, one unit, a chunk, a start and a completion (15 R280 to R292). -/

namespace Sys2Proof.Machine

/-! ## The queues of an engine -/

@[simp] theorem State.engine_setEngine (s : State) (k : Nat) (x : CopyEngine) : (s.setEngine k x).engine k = x := by
  simp [State.engine, State.setEngine, AMap.getD]

theorem CopyEngine.queue_setQueue {e : CopyEngine} {cls : Nat} (h : cls < e.queues.length) (l : List CopyCmd) :
    (e.setQueue cls l).queue cls = l := by
  simp [CopyEngine.queue, CopyEngine.setQueue, List.getD, h]

theorem CopyEngine.lt_of_head {e : CopyEngine} {cls : Nat} {c : CopyCmd} (h : (e.queue cls).head? = some c) :
    cls < e.queues.length := by
  by_contra hn
  simp [CopyEngine.queue, List.getD, List.getElem?_eq_none (Nat.not_lt.1 hn)] at h

theorem State.head_setCopyHead {s : State} {core cls : Nat} (h : cls < (s.engine core).queues.length) (c : CopyCmd) :
    (((s.setCopyHead core cls c).engine core).queue cls).head? = some c := by
  simp only [State.setCopyHead, State.engine_setEngine, CopyEngine.queue_setQueue h, List.head?_cons]

theorem State.deficits_setCopyHead (s : State) (core cls : Nat) (c : CopyCmd) :
    ((s.setCopyHead core cls c).engine core).deficits = (s.engine core).deficits := by
  simp only [State.setCopyHead, State.engine_setEngine, CopyEngine.setQueue]

/-! ## One unit -/

/-- Noting the row of a unit changes nothing else of the command. -/
theorem State.noteRow_eq (s : State) (core : Nat) (c : CopyCmd) (r i : Nat) : ∃ x, s.noteRow core c r i = { c with row := x } := by
  unfold State.noteRow
  split
  · exact ⟨_, rfl⟩
  · exact ⟨c.row, rfl⟩

/-- The index that is noted is the one that stands there. -/
theorem State.copyIndex_noteRow (s : State) (core : Nat) (c : CopyCmd) (r i : Nat) :
    s.copyIndex core (s.noteRow core c r i) (i / recBox r 0) = s.copyIndex core c (i / recBox r 0) := by
  unfold State.noteRow
  split
  · dsimp only
    cases hx : s.copyIndex core c (i / recBox r 0) with
    | none => exact Option.map_eq_none_iff.2 (Option.map_eq_none_iff.1 hx)
    | some x =>
      obtain ⟨ps, hps, rfl⟩ := Option.map_eq_some_iff.1 hx
      exact Option.map_eq_some_iff.2 ⟨ps, hps, congrArg (Prod.mk ps) (if_pos rfl)⟩
  · rfl

theorem State.copyMove_noteRow (s : State) (core : Nat) (c : CopyCmd) (r i : Nat) :
    s.copyMove core (s.noteRow core c r i) r i = s.copyMove core c r i := by
  have h := s.copyIndex_noteRow core c r i
  obtain ⟨x, hx⟩ := s.noteRow_eq core c r i
  rw [hx] at h ⊢
  unfold State.copyMove
  rw [h]
  rfl

/-- One unit that moves: what is written is in the state, and the command has gone on by the unit. -/
theorem State.copyUnits_one {s t : State} {core cls : Nat} {c d : CopyCmd} {r v : Nat} {ps : List Part} {src dst : CopyEnd}
    (he : s.early = []) (hrow : s.noteRow core c r c.done = d) (hmove : s.copyMove core d r c.done = (src, dst))
    (hdst : dst ≠ .clipped)
    (hindex : ∀ x, c.indexed = true → s.copyIndex core d (c.done / recBox r 0) = some x → s.busFault false x.1 = none)
    (hread : s.copyRead core d r src = .ok (v, ps)) (hwrite : s.copyWrite core cls d r v dst = .ok t) :
    s.copyUnits core cls c r 1 = (t, { d with done := c.done + 1, bytes := c.bytes + recUnit r }) := by
  obtain ⟨row, hd⟩ := s.noteRow_eq core c r c.done
  rw [hrow] at hd
  have hb : s.busFault false (if d.indexed then ((s.copyIndex core d (c.done / recBox r 0)).map Prod.fst).getD [] else []) = none := by
    split
    · rename_i hi
      cases hx : s.copyIndex core d (c.done / recBox r 0) with
      | none => rfl
      | some x => exact hindex x (by rw [hd] at hi; exact hi) hx
    · rfl
  have hdone : d.done = c.done := by rw [hd]
  have hbytes : d.bytes = c.bytes := by rw [hd]
  simp only [State.copyUnits, hrow, hdone, hmove, hb, hdst, if_false, hread, State.copyLearns_of_early_nil he, hwrite, hbytes]

/-- One unit from global memory to the scratchpad: the command has gone on by the unit, and its bytes are written there for all, or
as one early write (11 R223). -/
theorem State.copyUnits_to_scratch {s : State} {core : Nat} (cls : Nat) {c d : CopyCmd} {r a base off : Nat} {ps sp : List Part}
    (he : s.early = []) (hrow : s.noteRow core c r c.done = d)
    (hmove : s.copyMove core d r c.done = (.global a, .scratch base off))
    (hindex : ∀ x, c.indexed = true → s.copyIndex core d (c.done / recBox r 0) = some x → s.busFault false x.1 = none)
    (hps : s.copyParts core d false a (recUnit r) = .ok ps) (hsp : s.copyScratch d r base off = .ok sp) :
    let v := s.seenParts (coreAgent core) ps
    ∃ m e x, s.copyUnits core cls c r 1 = (s.withWrites m e x, { d with done := c.done + 1, bytes := c.bytes + recUnit r }) ∧
      (s.freeBit 2 = true → m = Memory.writeParts v sp s.mem ∧ e = []) ∧
      (s.freeBit 2 = false → m = s.mem ∧ e =
        [{ reach := if s.freeBit 3 then .one (coreAgent core) else units [core], ctx := d.ctx, launch := d.opener, by_ := .copy core
           id := d.uid, parts := sp, val := v, known := [copyKey core cls] }]) := by
  intro v
  have hread : s.copyRead core d r (.global a) = .ok (v, ps) := by simp only [State.copyRead, hps, v]
  obtain ⟨m, e, x, hwrite, h⟩ := State.copyWrite_scratch (cls := cls) (v := v) he hsp
  exact ⟨m, e, x, State.copyUnits_one he hrow hmove nofun hindex hread hwrite, h⟩

/-! ## Chunks -/

/-- A chunk of one unit that is not clipped has the bytes of the unit. -/
theorem State.chunkBytes_one {s : State} {core : Nat} {c : CopyCmd} {r : Nat} (h : c.chunkUnits r = 1)
    (hdst : (s.copyMove core c r c.done).2 ≠ .clipped) : s.chunkBytes core c r = recUnit r := by
  simp [State.chunkBytes, h, List.range_one, hdst]

/-- The class being visited has spent n bytes of its credit. -/
def CopyEngine.spend (e : CopyEngine) (n : Nat) : CopyEngine :=
  { e with deficits := e.deficits.set e.visit (e.deficits.getD e.visit 0 - n) }

/-- The class being visited moves its chunk, where it has the credit for it. -/
theorem State.nextChunk_of_credit {s : State} {core n : Nat} {c : CopyCmd} {r : Nat} {e : CopyEngine} (he : s.engine core = e)
    (hcred : e.credited = true) (hhead : (e.queue e.visit).head? = some c) (hwork : s.hasWork core c = true)
    (hrec : c.record = some r) (hneed : s.chunkBytes core c r ≤ e.deficits.getD e.visit 0) :
    s.nextChunk core (n + 1) = (s.setEngine core (e.spend (s.chunkBytes core c r))).doChunk core e.visit c := by
  have heng : ∀ l, ({ e with deficits := l, credited := true } : CopyEngine) = { e with deficits := l } := fun l => by rw [← hcred]
  simp only [State.nextChunk, he, hhead, hcred, if_true, hrec, hwork, Nat.add_zero, hneed, and_self, heng, CopyEngine.spend]

/-- A chunk that ends the command, with nothing attached. -/
theorem State.doChunk_last {s t : State} {core cls : Nat} {c d : CopyCmd} {r : Nat} (hrec : c.record = some r)
    (hone : c.chunkUnits r = 1) (hunit : s.copyUnits core cls c r 1 = (t, d)) (hatt : d.att = .nothing)
    (hdone : d.total r ≤ d.done) :
    s.doChunk core cls c = t.setCopyHead core cls { d with rows := d.done / recBox r 0, finished := true } := by
  have hrows : (if recBox r 0 = 0 then 0 else d.done / recBox r 0) = d.done / recBox r 0 := by
    split
    · rename_i h
      rw [h, Nat.div_zero]
    · rfl
  have hcount : t.countRows core d r = (t, { d with rows := d.done / recBox r 0 }) := by
    simp only [State.countRows, hatt, hrows]
  have htot : CopyCmd.total { d with rows := d.done / recBox r 0 } r ≤ d.done := hdone
  simp only [State.doChunk, hrec, hone, hunit, hcount, htot, decide_true, Bool.or_true]

theorem Memory.read_writeParts_of_outside (m : Memory) (v : Nat) {ps : List Part} {j : Nat}
    (h : ∀ p ∈ ps, j < p.key ∨ p.key + p.len ≤ j) : (Memory.writeParts v ps m).read j = m.read j := by
  induction ps generalizing m v with
  | nil => rfl
  | cons p ps ih =>
    obtain ⟨hp, hps⟩ := List.forall_mem_cons.1 h
    exact (ih _ _ hps).trans (Memory.read_writeN_of_outside m v hp)

/-! ## Starts -/

section
variable {s : State} {core cls : Nat} {c : CopyCmd} (hhead : s.copyHead core cls = some c)
  (hidle : ¬ (c.kind = .fence ∨ c.record.isSome ∨ c.finished ∨ c.svc.isSome))
include hhead hidle

theorem execCommandStart_of_misaligned (h : c.recAddr.toNat % 64 ≠ 0) :
    execCommandStart core cls s = .next (s.setCopyHead core cls { c with code := 4, finished := true }) := by
  simp only [execCommandStart, hhead, if_neg hidle, if_pos h]

/-- A record that can be read, where no early write is left: it is kept, or ends the command with the code of its check. -/
theorem execCommandStart_of_record {ps : List Part} (hal : c.recAddr.toNat % 64 = 0) (hearly : s.early = [])
    (hread : s.copyParts core c false c.recAddr.toNat 64 = .ok ps) :
    let now := s.seenParts (coreAgent core) ps
    let r := if s.freeBit 4 then c.old.getD now else now
    (c.check r = 0 → execCommandStart core cls s = .next (s.setCopyHead core cls { c with record := some r })) ∧
      (c.check r ≠ 0 →
        execCommandStart core cls s = .next (s.setCopyHead core cls { c with code := c.check r, finished := true })) := by
  simp only [execCommandStart, hhead, if_neg hidle, if_neg (not_not.2 hal), hread, State.copyLearns_of_early_nil hearly]
  refine ⟨fun h => by simp only [h], fun h => ?_⟩
  split
  · exact absurd ‹_› h
  · rfl

end

/-! ## Completions -/

theorem State.copyRelease_of_early_nil {s : State} (h : s.early = []) (core cls : Nat) (c : CopyCmd) : s.copyRelease core cls c = s := by
  simp only [State.copyRelease, State.widen_of_early_nil h, State.bring_of_early_nil h]

/-- The head of a class has left its queue; an empty class has no credit (15 R280). -/
def State.popCopy (s : State) (core cls : Nat) : State :=
  let e := (s.engine core).setQueue cls (((s.engine core).queue cls).drop 1)
  s.setEngine core (if (((s.engine core).queue cls).drop 1).isEmpty then { e with deficits := e.deficits.set cls 0 } else e)

theorem State.queue_popCopy {s : State} {core cls : Nat} (h : cls < (s.engine core).queues.length) :
    ((s.popCopy core cls).engine core).queue cls = ((s.engine core).queue cls).drop 1 := by
  rw [State.popCopy, State.engine_setEngine]
  split
  · exact CopyEngine.queue_setQueue h _
  · exact CopyEngine.queue_setQueue h _

/-- The status of a command goes to the arbiter of its core, and strands blocked at its class go on. -/
def State.reportCopy (s : State) (core cls : Nat) (c : CopyCmd) : State := (s.pushEvent core (.copy cls c)).wakeCopies core cls

@[simp] theorem State.events_reportCopy (s : State) (core cls : Nat) (c : CopyCmd) :
    (s.reportCopy core cls c).events.getD core [] = s.events.getD core [] ++ [.copy cls c] := by
  simp [State.reportCopy, State.wakeCopies, State.pushEvent, AMap.getD]

section
variable (s : State) (core cls : Nat) (c : CopyCmd)

@[simp] theorem State.barriers_reportCopy : (s.reportCopy core cls c).barriers = s.barriers := rfl
@[simp] theorem State.envs_reportCopy : (s.reportCopy core cls c).envs = s.envs := rfl
@[simp] theorem State.braids_reportCopy : (s.reportCopy core cls c).braids = s.braids := rfl
@[simp] theorem State.hanks_reportCopy : (s.reportCopy core cls c).hanks = s.hanks := rfl

end

theorem State.strand?_reportCopy (s : State) (core cls : Nat) (c : CopyCmd) (p : Nat) :
    (s.reportCopy core cls c).strand? p = (s.strand? p).map fun x =>
      if coreOf p = core ∧ x.run = .blocked (.copyQueue cls) then x.unblock else x := by
  simp [State.reportCopy, State.wakeCopies, State.strand?, AMap.get?_mapVals]

theorem State.strand?_reportCopy_of_blocked {s : State} {core cls p : Nat} {x : Strand} (c : CopyCmd) (hs : s.strand? p = some x)
    (hp : coreOf p = core) (hx : x.run = .blocked (.copyQueue cls)) :
    (s.reportCopy core cls c).strand? p = some { x with run := .candidate } := by
  simp [State.strand?_reportCopy, hs, hp, hx, Strand.unblock]

theorem State.strand?_reportCopy_of_other {s : State} {core cls p : Nat} {x : Strand} (c : CopyCmd) (hs : s.strand? p = some x)
    (h : coreOf p ≠ core ∨ x.run ≠ .blocked (.copyQueue cls)) : (s.reportCopy core cls c).strand? p = some x := by
  have hn : ¬ (coreOf p = core ∧ x.run = .blocked (.copyQueue cls)) := fun ⟨hp, hx⟩ => h.elim (· hp) (· hx)
  rw [State.strand?_reportCopy, hs, Option.map_some, if_neg hn]

/-- What a reported completion leaves, where what it reached has changed neither strands nor memory. -/
theorem State.reportCopy_done {s u : State} {core cls : Nat} (h : cls < (s.engine core).queues.length)
    (hc : u.copyEngines = (s.popCopy core cls).copyEngines) (hs : u.strands = s.strands) (hm : u.mem = s.mem) (c : CopyCmd) :
    let t := u.reportCopy core cls c
    (t.engine core).queue cls = ((s.engine core).queue cls).drop 1 ∧
      (∀ pos y, s.strand? pos = some y → coreOf pos = core → y.run = .blocked (.copyQueue cls) →
        t.strand? pos = some { y with run := .candidate }) ∧
      (∀ pos y, s.strand? pos = some y → (coreOf pos ≠ core ∨ y.run ≠ .blocked (.copyQueue cls)) → t.strand? pos = some y) ∧
      t.mem = s.mem := by
  have hstrand : ∀ p, u.strand? p = s.strand? p := fun p => congrArg (AMap.get? · p) hs
  have heng : (u.reportCopy core cls c).engine core = (s.popCopy core cls).engine core :=
    congrArg (fun m => AMap.getD m core CopyEngine.idle) hc
  refine ⟨?_, fun pos y hy hp hrun => ?_, fun pos y hy hn => ?_, hm⟩
  · rw [heng, State.queue_popCopy h]
  · exact State.strand?_reportCopy_of_blocked c ((hstrand pos).trans hy) hp hrun
  · exact State.strand?_reportCopy_of_other c ((hstrand pos).trans hy) hn

/-- A command at the head that is finished, its writes acknowledged and no error met, where no early write is left. -/
theorem execCopyCompletion_of_finished {s t : State} {core cls : Nat} {c d : CopyCmd} (hhead : s.copyHead core cls = some c)
    (hfin : c.finished = true) (hack : s.unacked copyFlit c.uid = false) (hearly : s.early = []) (hspan : s.copySpansFault c = none)
    (hreach : (s.popCopy core cls).copyReaches core cls c = (t, d)) :
    execCopyCompletion core cls s = .next (t.reportCopy core cls d) := by
  have hnext : execCopyCompletion core cls s = .next (((s.popCopy core cls).copyReaches core cls c).1.reportCopy core cls
      ((s.popCopy core cls).copyReaches core cls c).2) := by
    simp only [execCopyCompletion, hhead, hfin, hack, hspan, State.copyRelease_of_early_nil hearly]
    rfl
  rw [hnext, hreach]

/-- A command whose closure's spans meet an uncorrectable error. -/
theorem execCopyCompletion_of_spansFault {s : State} {core cls : Nat} {c : CopyCmd} {f : XFault} (hhead : s.copyHead core cls = some c)
    (hfin : c.finished = true) (hack : s.unacked copyFlit c.uid = false) (hspan : s.copySpansFault c = some f) :
    execCopyCompletion core cls s = .next (s.upsetFault c.ctx core c.index srcSpill f) := by
  simp only [execCopyCompletion, hhead, hfin, hack, hspan]
  rfl

/-! ## What a completion reaches -/

/-- An arrival at a barrier changes barriers and events only. -/
theorem State.testBarrier_eq (s : State) (key : Nat) : ∃ b e, s.testBarrier key = { s with barriers := b, events := e } := by
  unfold State.testBarrier
  split
  · exact ⟨s.barriers, s.events, rfl⟩
  · split
    · exact ⟨_, _, rfl⟩
    · exact ⟨s.barriers, s.events, rfl⟩

theorem State.barArrival_eq (s : State) (key : Nat) : ∃ b e, s.barArrival key = { s with barriers := b, events := e } := by
  unfold State.barArrival
  split
  · exact ⟨s.barriers, s.events, rfl⟩
  · exact State.testBarrier_eq _ key

theorem State.barCopyArrival_eq (s : State) (key : Nat) (failed : Bool) :
    ∃ b e, s.barCopyArrival key failed = { s with barriers := b, events := e } := by
  unfold State.barCopyArrival
  split
  · exact ⟨s.barriers, s.events, rfl⟩
  · exact State.barArrival_eq _ key

@[simp] theorem State.get?_setBarrier_self (s : State) (key : Nat) (x : Barrier) : (s.setBarrier key x).barriers.get? key = some x :=
  AMap.get?_set_self _ _ _

/-- An arrival that does not complete the phase. -/
theorem State.barArrival_of_open {s : State} {key : Nat} {x : Barrier} (hx : s.barriers.get? key = some x)
    (h : min 4095 (x.arr + 1) < x.exp) : s.barArrival key = s.setBarrier key { x with arr := min 4095 (x.arr + 1) } := by
  have hmet : Barrier.met { x with arr := min 4095 (x.arr + 1) } = false := by
    simp only [Barrier.met, Bool.and_eq_false_iff, decide_eq_false_iff_not]
    exact .inl (Nat.not_le.2 h)
  unfold State.barArrival
  rw [hx]
  show State.testBarrier (s.setBarrier key { x with arr := min 4095 (x.arr + 1) }) key = _
  simp only [State.testBarrier, State.get?_setBarrier_self, hmet, Bool.false_eq_true, if_false]

theorem State.barCopyArrival_of_open {s : State} {key : Nat} {x : Barrier} (failed : Bool) (hx : s.barriers.get? key = some x)
    (h : min 4095 (x.arr + 1) < x.exp) :
    (s.barCopyArrival key failed).barriers.get? key = some
      { x with att := x.att - 1, arr := min 4095 (x.arr + 1), flt := x.flt || failed, rowsMet := x.rowsMet || failed } := by
  unfold State.barCopyArrival
  rw [hx]
  dsimp only
  have hself := s.get?_setBarrier_self key { x with att := x.att - 1, flt := x.flt || failed, rowsMet := x.rowsMet || failed }
  rw [State.barArrival_of_open hself h]
  exact State.get?_setBarrier_self _ _ _

theorem State.copySpansFault_of_no_closure {s : State} {c : CopyCmd} (h : ∀ n, c.att ≠ .closure n) : s.copySpansFault c = none := by
  unfold State.copySpansFault
  split
  · exact absurd ‹_› (h _)
  · rfl

theorem State.copySpansFault_of_unattached {s : State} {c : CopyCmd} (h : c.attached = false) : s.copySpansFault c = none := by
  unfold State.copySpansFault
  split
  · simp only [h, Bool.false_eq_true, if_false]
  · rfl

theorem State.copySpansFault_of_closure {s : State} {c : CopyCmd} {n : Nat} (hatt : c.att = .closure n) (hat : c.attached = true) :
    s.copySpansFault c = s.spansFault (s.env (envKey c.handle)) := by
  simp only [State.copySpansFault, hatt, hat, if_true]

section
variable {s : State} {core cls n : Nat} {c : CopyCmd}

theorem State.copyReaches_of_nothing (hatt : c.att = .nothing) : s.copyReaches core cls c = (s, c) := by
  simp only [State.copyReaches, hatt]

theorem State.copyReaches_of_barrier_unattached (hatt : c.att = .barrier n) (hun : c.attached = false) :
    s.copyReaches core cls c = (s, { c with code := if c.code = 0 then 5 else c.code }) := by
  simp only [State.copyReaches, hatt, hun, Bool.not_false, if_true]

theorem State.copyReaches_of_closure_unattached (hatt : c.att = .closure n) (hun : c.attached = false) :
    s.copyReaches core cls c = (s, { c with code := if c.code = 0 then 6 else c.code }) := by
  simp only [State.copyReaches, hatt, hun, Bool.not_false, if_true]

/-- A command attached to a barrier of its hank arrives there. -/
theorem State.copyReaches_of_barrier {x : Barrier} (hatt : c.att = .barrier n) (hat : c.attached = true)
    (hx : s.barriers.get? (barKey core n) = some x) (hown : x.owner = c.hank) :
    s.copyReaches core cls c = (s.barCopyArrival (barKey core n) (c.code != 0), c) := by
  simp only [State.copyReaches, hatt, hat, hx, Option.map_some, hown, beq_self_eq_true, Bool.not_true, Bool.false_eq_true, if_false,
    if_true]

/-- A command with a closure attached spawns it with its status word, and its reference is dropped. -/
theorem State.copyReaches_of_closure (hatt : c.att = .closure n) (hat : c.attached = true) :
    s.copyReaches core cls c =
      let r := s.spawn c.ctx c.handle (BitVec.ofNat 64 (copyStatus cls c)) c.prio c.opener [copyMark c.uid]
      (r.1.dropRef (envKey c.handle), if r.2 / 2 ^ 28 = 0 then c else { c with code := if c.code = 0 then 6 else c.code }) := by
  simp only [State.copyReaches, hatt, hat, Bool.not_true, Bool.false_eq_true, if_false]

end

/-! ## A spawn and the events -/

theorem State.addRef_events {s t : State} {key : Nat} (h : s.addRef key = some t) : t.events = s.events := by
  unfold State.addRef at h
  dsimp only at h
  split at h
  · cases h
    rfl
  · cases h

theorem State.spawnRoom_events {s t : State} {core ctx prio : Nat} {p : Nat × Nat × Nat × Nat}
    (h : s.spawnRoom core ctx prio = some (t, p)) : t.events = s.events := by
  unfold State.spawnRoom at h
  dsimp only at h
  split at h
  · cases h
    rfl
  · split at h
    · cases h
    · cases h
      rfl

theorem OnlyWrites.events {s t : State} (h : OnlyWrites s t) : t.events = s.events := by
  obtain ⟨m, e, x, rfl, -⟩ := h
  rfl

theorem State.beginObserving_events (s : State) (pos : Nat) (l : List Nat) : (s.beginObserving pos l).events = s.events := by
  unfold State.beginObserving
  split
  · exact (State.acquire_only ..).events
  · rfl

/-- A spawn sends no event to an arbiter. -/
theorem State.spawn_events (s : State) (ctx : Nat) (h arg : DWord) (prio : Nat) (opener : Option Nat) (l : List Nat) :
    (s.spawn ctx h arg prio opener l).1.events = s.events := by
  unfold State.spawn
  dsimp only
  split
  · rfl
  · split
    · rfl
    · rename_i hadd
      split
      · rfl
      · rename_i hroom
        exact (State.beginObserving_events _ _ _).trans ((State.spawnRoom_events hroom).trans (State.addRef_events hadd))

/-! ## Dropping a reference -/

theorem State.dropRef_eq (s : State) (key : Nat) : ∃ e, s.dropRef key = s.setEnv key e := by
  unfold State.dropRef
  dsimp only
  split
  · exact ⟨_, rfl⟩
  · exact ⟨_, rfl⟩

@[simp] theorem State.events_dropRef (s : State) (key : Nat) : (s.dropRef key).events = s.events := by
  obtain ⟨e, he⟩ := s.dropRef_eq key
  rw [he, State.events_setEnv]

@[simp] theorem State.braids_dropRef (s : State) (key : Nat) : (s.dropRef key).braids = s.braids := by
  obtain ⟨e, he⟩ := s.dropRef_eq key
  rw [he, State.braids_setEnv]

@[simp] theorem State.hanks_dropRef (s : State) (key : Nat) : (s.dropRef key).hanks = s.hanks := by
  obtain ⟨e, he⟩ := s.dropRef_eq key
  rw [he, State.hanks_setEnv]

end Sys2Proof.Machine
end

section
/-! PROOFS. The obligations of the copy engine. -/

namespace Sys2Proof
open Sys2Proof.Machine Sys2Proof.Claims

theorem copyCommandStarts : CopyCommandStarts := by
  intro s core cls c hhead hkind hrec hfin hsvc
  dsimp only
  have hidle : ¬ (c.kind = .fence ∨ c.record.isSome ∨ c.finished ∨ c.svc.isSome) := by simp [hkind, hrec, hfin, hsvc]
  refine ⟨fun hmis => ⟨_, execCommandStart_of_misaligned hhead hidle hmis, rfl⟩, fun q hal hearly hps hlen hfault => ?_⟩
  have hread : s.copyParts core c false c.recAddr.toNat 64 = .ok [q] := by
    simp only [State.copyParts, Bool.false_eq_true, if_false, hps, hfault]
  have hnow : s.seenParts (coreAgent core) [q] = s.mem.readN q.key 64 := by
    simp only [State.seenParts, State.seenN_of_early_nil hearly, hlen, Nat.mul_zero, Nat.add_zero]
  obtain ⟨hgood, hbad⟩ := execCommandStart_of_record hhead hidle hal hearly hread
  rw [hnow] at hgood hbad
  exact ⟨fun h => ⟨_, hgood h, rfl⟩, fun h => ⟨_, hbad h, rfl⟩⟩

/-- One round of the engine takes the class being visited, its one unit moves (`State.copyUnits_to_scratch`), and the command ends
(`State.doChunk_last`). -/
theorem copyChunkMoves : CopyChunkMoves := by
  intro s core c r e cls a base off v ps sp hE hvisit hcred hhead hwork hrec _ hatt hunits htotal hneed hearly d hmove hps hsp hindex hv
  subst hvisit
  have hd : s.noteRow core c r c.done = d := rfl
  clear_value d
  obtain ⟨row, hrow⟩ := s.noteRow_eq core c r c.done
  obtain rfl : d = { c with row := row } := hd.symm.trans hrow
  have hlen : e.visit < e.queues.length := CopyEngine.lt_of_head hhead
  have hbytes : s.chunkBytes core c r = recUnit r :=
    State.chunkBytes_one hunits (by rw [← s.copyMove_noteRow, hd, hmove]; nofun)
  have hnext := State.nextChunk_of_credit (n := 8) hE hcred hhead hwork hrec (hbytes.trans_le hneed)
  rw [hbytes] at hnext
  obtain ⟨m, w, x, hunit, hwrite⟩ := State.copyUnits_to_scratch (s := s.setEngine core (e.spend (recUnit r))) (core := core)
    (c := c) (d := { c with row := row }) e.visit (sp := sp) hearly
    (by rw [State.noteRow_setEngine]; exact hd) (by rw [State.copyMove_setEngine]; exact hmove)
    (by rw [State.copyIndex_setEngine]; exact hindex) (by rw [State.copyParts_setEngine]; exact hps) hsp
  rw [State.seenParts_setEngine, State.seenParts_of_early_nil hearly _ core, ← hv] at hwrite
  obtain ⟨hall, hsome⟩ := hwrite
  have hdo := State.doChunk_last hrec hunits hunit hatt htotal.le
  refine ⟨_, congrArg Host.Outcome.next (hnext.trans hdo), rfl, hall, hsome, fun j hj => ?_, ?_, ?_⟩
  · cases h2 : s.freeBit 2 with
    | true => exact (congrArg (·.read j) (hall h2).1).trans (Memory.read_writeParts_of_outside _ _ hj)
    | false => exact congrArg (·.read j) (hsome h2).1
  · refine State.head_setCopyHead ?_ _
    show e.visit < (((s.setEngine core (e.spend (recUnit r))).engine core).queues).length
    rw [State.engine_setEngine]
    exact hlen
  · rw [State.deficits_setCopyHead]
    show ((s.setEngine core (e.spend (recUnit r))).engine core).deficits = _
    rw [State.engine_setEngine]
    rfl

/-- The head leaves its queue, reaches what it has attached, and is reported; one case for each attachment. -/
theorem copyCompletes : CopyCompletes := by
  intro s core cls c hhead hlen hfin hearly hack
  dsimp only
  have hdone := fun u => State.reportCopy_done (u := u) hlen
  refine ⟨fun b hatt hun => ?_, fun n hatt hun => ?_, fun n f hatt hat hf => ?_, fun n hatt hat hf => ?_, fun hatt => ?_,
    fun b bar hatt hat hbar hown => ?_⟩
  · refine ⟨_, execCopyCompletion_of_finished hhead hfin hack hearly (State.copySpansFault_of_unattached hun)
      (State.copyReaches_of_barrier_unattached hatt hun), ?_⟩
    exact ⟨hdone _ rfl rfl rfl _, rfl, State.events_reportCopy ..⟩
  · refine ⟨_, execCopyCompletion_of_finished hhead hfin hack hearly (State.copySpansFault_of_unattached hun)
      (State.copyReaches_of_closure_unattached hatt hun), ?_⟩
    exact ⟨hdone _ rfl rfl rfl _, rfl, State.events_reportCopy ..⟩
  · exact ⟨_, execCopyCompletion_of_spansFault hhead hfin hack ((State.copySpansFault_of_closure hatt hat).trans hf), rfl⟩
  · refine ⟨_, execCopyCompletion_of_finished hhead hfin hack hearly ((State.copySpansFault_of_closure hatt hat).trans hf)
      (State.copyReaches_of_closure hatt hat), s.popCopy core cls, rfl, ?_⟩
    rw [State.envs_reportCopy, State.braids_reportCopy, State.hanks_reportCopy, State.events_reportCopy, State.braids_dropRef,
      State.hanks_dropRef, State.events_dropRef, State.spawn_events]
    exact ⟨rfl, rfl, rfl, rfl⟩
  · refine ⟨_, execCopyCompletion_of_finished hhead hfin hack hearly (State.copySpansFault_of_no_closure fun n => by rw [hatt]; nofun)
      (State.copyReaches_of_nothing hatt), ?_⟩
    exact ⟨hdone _ rfl rfl rfl _, rfl, State.events_reportCopy ..⟩
  · refine ⟨_, execCopyCompletion_of_finished hhead hfin hack hearly (State.copySpansFault_of_no_closure fun n => by rw [hatt]; nofun)
      (State.copyReaches_of_barrier (s := s.popCopy core cls) hatt hat hbar hown), ?_, ?_, fun hopen => ?_⟩
    · obtain ⟨bs, es, he⟩ := (s.popCopy core cls).barCopyArrival_eq (barKey core b) (c.code != 0)
      rw [he]
      exact hdone _ rfl rfl rfl c
    · rw [State.events_reportCopy]
      exact List.mem_append_right _ (List.mem_singleton_self _)
    · rw [State.barriers_reportCopy]
      exact State.barCopyArrival_of_open (s := s.popCopy core cls) _ hbar hopen

/-- Settles O26: a start, a last chunk and a completion, each by what its event does where no early write is left. -/
theorem copyEngineEvents : Obligations.CopyEngineEvents := ⟨copyCommandStarts, copyChunkMoves, copyCompletes⟩

end Sys2Proof
end

section
/-! PROOFS. Words of groups 0x00 to 0x5F: they act lane by lane at once, and change only the strands that execute them (08 R141). -/

namespace Sys2Proof.Machine
open Sys2Proof.Claims

/-- A word of groups 0x00 to 0x5F acts lane by lane at once, and no lane that executes it traps. -/
theorem exec_fixedLatency {i : Instr} (h : fixedLatency i = true) (s : State) :
    ∃ f, exec i s = .next (s.pointwise i f) ∧ ∀ x l st, (f x l st).trap = none := by
  unfold fixedLatency at h
  split at h
  case h_69 => cases h
  all_goals exact ⟨_, rfl, fun _ _ _ => rfl⟩

/-- A position where no lane executes keeps its strand among the results of the lanes. -/
theorem State.strand?_laneResults_other {s : State} {x : Issue} {i : Instr} (f : Issue → Nat → Strand → LaneOut) {p : Nat}
    (h : ∀ l st, (l, st) ∈ s.passing x i → posOf x.braid l ≠ p) :
    ({ s with strands := s.strands.mapVals (laneResult x.braid (s.laneOuts x i f)) } : State).strand? p = s.strand? p := by
  rw [State.strand?, AMap.get?_mapVals]
  cases hs : AMap.get? s.strands p with
  | none => exact hs.symm
  | some y =>
    rw [Option.map_some, State.laneResult_other f y h]
    exact hs.symm

/-- The frame of a word of groups 0x00 to 0x5F that no check stops: the first half of O8. -/
theorem exec_fixedLatency_onlyExecuting {s : State} {x : Issue} {i : Instr} (hi : fixedLatency i = true) (hx : s.cur = some x)
    (hl : s.illegalHere x i = false) (ht : s.tagTraps x i = []) : Completes i s fun t => OnlyExecuting s t x i := by
  obtain ⟨f, he, hn⟩ := exec_fixedLatency hi s
  refine ⟨_, he, ?_⟩
  rw [State.pointwise_of_no_trap f hx hl ht fun l st _ => hn x l st]
  exact ⟨rfl, fun p hp => State.strand?_laneResults_other f hp⟩

/-- An entry of a map that lists no key twice is what a lookup finds. -/
theorem AMap.get?_of_mem {α : Type} {m : AMap α} (hn : (m.map Prod.fst).Nodup) {p : Nat × α} (hp : p ∈ m) :
    AMap.get? m p.1 = some p.2 := by
  induction m with
  | nil => cases hp
  | cons q m ih =>
    obtain ⟨hq, hn⟩ := List.nodup_cons.1 hn
    rcases List.mem_cons.1 hp with rfl | hp
    · exact if_pos rfl
    · have hne : q.1 ≠ p.1 := fun e => hq (e ▸ List.mem_map_of_mem hp)
      rw [AMap.get?, if_neg hne]
      exact ih hn hp

/-- `nop` writes, captures and flags nothing in a strand. -/
theorem Strand.put_nothing (st : Strand) : st.put none ⟨[], 0⟩ = st := by simp [Strand.put, Regs.capture, Regs.write]

/-- Where `nop` changes nothing (02 R39): in a package whose map of strands lists no position twice. -/
theorem exec_nop_of_nodup {s : State} {x : Issue} (hn : (s.strands.map Prod.fst).Nodup) (hx : s.cur = some x)
    (hl : s.illegalHere x .nop = false) : exec .nop s = .next s := by
  have hlane : ∀ p ∈ s.strands, laneResult x.braid (s.laneOuts x .nop fun _ _ st => { st := st.put none ⟨[], 0⟩ }) p.1 p.2 = p.2 := by
    intro p hp
    unfold laneResult
    split
    · rename_i o ho
      obtain ⟨q, hq, rfl⟩ := List.mem_map.1 (List.mem_of_find?_eq_some ho)
      have hpos : posOf x.braid q.1 = p.1 := by simpa using List.find?_some ho
      obtain ⟨-, hst, -⟩ := State.mem_active.1 (State.mem_passing.1 hq).1
      rw [hpos, State.strand?, AMap.get?_of_mem hn hp] at hst
      exact (Strand.put_nothing q.2).trans (Option.some.inj hst).symm
    · rfl
  have htag : s.tagTraps x .nop = [] := List.filterMap_eq_nil_iff.2 fun _ _ => rfl
  show Host.Outcome.next (s.pointwise .nop fun _ _ st => { st := st.put none ⟨[], 0⟩ }) = .next s
  rw [State.pointwise_of_no_trap _ hx hl htag fun _ _ _ => rfl, AMap.mapVals,
    List.map_congr_left fun p hp => congrArg (Prod.mk p.1) (hlane p hp), List.map_id']

/-- A package whose map of strands lists position 0 twice, with different strands; the issue set is at a `nop` there. -/
def listedTwice : State :=
  { State.reset with
    strands := [(0, default), (0, { (default : Strand) with index := 1 })]
    quarters := [(0, { Quarter.idle with cur := some ⟨0, 1, 0, [0], 1⟩ })] }

end Sys2Proof.Machine

namespace Sys2Proof
open Sys2Proof.Machine Sys2Proof.Claims

/-- Refutes O8: the statement holds of every state, also of one whose map of strands lists a position twice. There `nop` gives both
entries the strand that a lookup finds, the first. Its frame holds (`exec_fixedLatency_onlyExecuting`), and its clause on `nop` wherever
no position is listed twice (`exec_nop_of_nodup`). -/
theorem not_fixedLatencyFrame : ¬ Obligations.FixedLatencyFrame := by
  rintro ⟨-, hnop⟩
  have h := Host.Outcome.next.inj (hnop listedTwice ⟨0, 1, 0, [0], 1⟩ rfl (by decide))
  exact absurd (congrArg (fun t : State => t.strands.map fun p => p.2.index) h) (by decide)

end Sys2Proof
end

section
/-! PROOFS. Traps of a word without a fault record: what they leave of each strand (18 R326, R330), and that a strand which is trapped
is pending for delivery (R328). -/

namespace Sys2Proof.Machine
open Sys2Proof.Claims

/-! ## One strand -/

/-- A trap of the word that executes, with no fault record to write. -/
structure TrapReq.Plain (t : TrapReq) : Prop where
  fault : t.fault = none
  hold : t.hold = none
  point : t.point = none
  set : t.set = none

/-- What its record carries as FAULTREC: SRC and the address of a misaligned access (18 R326). -/
def TrapReq.address (t : TrapReq) : Nat :=
  match t.vaddr with
  | some (src, va) => va * 2 ^ 64 + src * 2 ^ 8
  | none => 0

/-- The record of such a trap at a word. -/
def TrapReq.record (t : TrapReq) (pt : Point) : TrapRec := ⟨pt.clause, pt.word, t.cause, t.detail, t.address⟩

/-- The strand after it, in issue set `set`: with the record in a handler, else trapped, or past a fence with the trap deferred. -/
def Strand.take (y : Strand) (set : Nat) (pt : Point) (t : TrapReq) : Strand :=
  if y.handler && !y.fencedBefore y.nextId then { y with run := .trapped, trap := t.record pt }
  else { y.trapAt y.nextId (t.resume.getD pt) (t.record pt) with trapSet := set, heldOn := if y.handler then y.heldOn else none }

/-- A strand neither in a handler nor past a fence is trapped with the record, at the resume point. -/
theorem Strand.take_of_open {y : Strand} (hh : y.handler = false) (hf : y.pastFence = false) (set : Nat) (pt : Point) (t : TrapReq) :
    y.take set pt t = { y with
      run := .trapped, trap := t.record pt, regs := { y.regs with pc := t.resume.getD pt }, trapSet := set, heldOn := none } := by
  simp [Strand.take, hh, Strand.trapAt_of_pastFence hf]

@[simp] theorem Strand.handler_take (y : Strand) (set : Nat) (pt : Point) (t : TrapReq) : (y.take set pt t).handler = y.handler := by
  unfold Strand.take Strand.trapAt
  split
  · rfl
  · dsimp only
    split <;> rfl

@[simp] theorem Strand.depth_take (y : Strand) (set : Nat) (pt : Point) (t : TrapReq) :
    (y.take set pt t).regs.depth = y.regs.depth := by
  unfold Strand.take Strand.trapAt
  split
  · rfl
  · dsimp only
    split <;> rfl

/-- One that stands trapped then has the record of this trap: past a fence it would be stalled. -/
theorem Strand.trap_take {y : Strand} {set : Nat} {pt : Point} {t : TrapReq} (h : (y.take set pt t).run = .trapped) :
    (y.take set pt t).trap = t.record pt := by
  unfold Strand.take Strand.trapAt at h ⊢
  split
  · rfl
  · rename_i hn
    rw [if_neg hn] at h
    dsimp only at h ⊢
    split
    · rename_i hp
      rw [if_pos hp] at h
      cases h
    · rfl

theorem OnlyMemCtxs.braids {s t : State} (h : OnlyMemCtxs s t) : t.braids = s.braids := by
  obtain ⟨m, e, x, c, p, w, rfl, -⟩ := h
  rfl

theorem State.handlerTrap_strands (s : State) (pos ctx : Nat) (r : TrapRec) :
    (s.handlerTrap pos ctx r).strands = (s.modStrand pos fun x => { x with run := .trapped, trap := r }).strands :=
  (State.ctxFault_only ..).strands

theorem State.handlerTrap_braids (s : State) (pos ctx : Nat) (r : TrapRec) : (s.handlerTrap pos ctx r).braids = s.braids :=
  (State.ctxFault_only ..).braids

theorem State.recordTrap_of_plain {t : TrapReq} (ht : t.Plain) (s : State) (pos : Nat) (y : Strand) :
    s.recordTrap pos y t = (s, t.address, none) := by
  unfold State.recordTrap TrapReq.address
  rw [ht.fault]
  cases t.vaddr <;> rfl

theorem State.raiseOne_of_plain {s : State} {pos : Nat} {y : Strand} (hs : s.strand? pos = some y) {t : TrapReq} (ht : t.Plain)
    (pt : Point) : s.raiseOne pos pt t =
      if y.handler && !y.fencedBefore y.nextId then s.handlerTrap pos (s.ctxNum y) (t.record pt)
      else s.modStrand pos fun x => { x.trapAt y.nextId (t.resume.getD pt) (t.record pt) with
        trapSet := s.moves, heldOn := if x.handler then x.heldOn else none } := by
  have hup : t.upset = false := by simp [TrapReq.upset, ht.fault]
  simp only [State.raiseOne, hs, State.recordTrap_of_plain ht, ht.hold, ht.point, ht.set, hup, State.holdPend, Option.getD_none,
    Bool.false_eq_true, if_false, TrapReq.record]

/-- What a plain trap leaves: of its strand what `take` says, and every braid. -/
theorem State.raiseOne_plain_leaves {s : State} {pos : Nat} {t : TrapReq} (ht : t.Plain) (pt : Point) :
    (s.raiseOne pos pt t).strand? pos = (s.strand? pos).map (·.take s.moves pt t) ∧ (s.raiseOne pos pt t).braids = s.braids := by
  cases hs : s.strand? pos with
  | none => simp [State.raiseOne, hs]
  | some y =>
    rw [State.raiseOne_of_plain hs ht, Option.map_some, Strand.take]
    split
    · refine ⟨?_, State.handlerTrap_braids ..⟩
      rw [State.strand?, State.handlerTrap_strands]
      exact (State.strand?_modStrand_self ..).trans (congrArg _ hs)
    · exact ⟨(State.strand?_modStrand_self ..).trans (congrArg _ hs), rfl⟩

/-! ## The lanes of a word -/

/-- The lanes in turn: each strand takes its own trap, whatever those before it did. -/
theorem State.foldl_raiseOne_leaves {x : Issue} (pt : Point) {traps : List (Nat × TrapReq)} {s : State}
    (hn : (traps.map Prod.fst).Nodup) (hp : ∀ p ∈ traps, p.2.Plain) :
    let t := traps.foldl (fun s p => s.raiseOne (posOf x.braid p.1) pt p.2) s
    t.braids = s.braids ∧ t.cycles = s.cycles ∧ t.moves = s.moves ∧ t.stepping = s.stepping ∧
      (∀ p ∈ traps, t.strand? (posOf x.braid p.1) = (s.strand? (posOf x.braid p.1)).map (·.take s.moves pt p.2)) ∧
      ∀ k, k ∉ traps.map Prod.fst → t.strand? (posOf x.braid k) = s.strand? (posOf x.braid k) := by
  induction traps generalizing s with
  | nil => simp
  | cons q traps ih =>
    obtain ⟨hq, hn⟩ := List.nodup_cons.1 hn
    obtain ⟨hstrand, hbraids⟩ := State.raiseOne_plain_leaves (s := s) (pos := posOf x.braid q.1) (hp q (List.mem_cons_self ..)) pt
    have honly := State.raiseOne_traps s (posOf x.braid q.1) pt q.2
    have hother : ∀ k, k ≠ q.1 → (s.raiseOne (posOf x.braid q.1) pt q.2).strand? (posOf x.braid k) = s.strand? (posOf x.braid k) :=
      fun k hk => honly.strand? fun h => hk (posOf_inj.1 (List.mem_singleton.1 h))
    obtain ⟨hc, hm, hst⟩ : (s.raiseOne (posOf x.braid q.1) pt q.2).cycles = s.cycles ∧
        (s.raiseOne (posOf x.braid q.1) pt q.2).moves = s.moves ∧ (s.raiseOne (posOf x.braid q.1) pt q.2).stepping = s.stepping := by
      obtain ⟨_, _, _, _, _, _, _, _, h, -, -⟩ := honly
      rw [h]
      exact ⟨rfl, rfl, rfl⟩
    obtain ⟨ihb, ihc, ihm, ihst, ihin, ihout⟩ := ih (s := s.raiseOne (posOf x.braid q.1) pt q.2) hn fun p h => hp p (List.mem_cons_of_mem _ h)
    refine ⟨ihb.trans hbraids, ihc.trans hc, ihm.trans hm, ihst.trans hst, fun p h => ?_, fun k hk => ?_⟩
    · rcases List.mem_cons.1 h with rfl | h
      · exact (ihout _ hq).trans hstrand
      · rw [List.foldl_cons, ihin p h, hm, hother p.1 fun e => hq (e ▸ List.mem_map_of_mem h)]
    · rw [List.map_cons, List.mem_cons, not_or] at hk
      exact (ihout k hk.2).trans (hother k hk.1)

/-! ## Pending groups -/

/-- Group h takes lane l in, and is of the word, cause, set and cycle of g. -/
def TrapGroup.Covers (h : TrapGroup) (l : Nat) (g : TrapGroup) : Prop := h.mask.getLsbD l = true ∧ g.joins h = true

theorem TrapGroup.joins_iff {a b : TrapGroup} : a.joins b = true ↔
    a.depth = b.depth ∧ a.clause = b.clause ∧ a.cause = b.cause ∧ a.set = b.set ∧ a.cycle = b.cycle := by
  simp [TrapGroup.joins, and_assoc]

theorem mem_insertGroup {g h : TrapGroup} {l : List TrapGroup} : h ∈ insertGroup g l ↔ h = g ∨ h ∈ l := by
  induction l with
  | nil => simp [insertGroup]
  | cons k l ih =>
    unfold insertGroup
    split
    · rw [List.mem_cons]
    · rw [List.mem_cons, List.mem_cons, ih]
      tauto

/-- A group that joins the pending ones takes its own lanes in. -/
theorem joinGroup_covers {g g' : TrapGroup} {k : Nat} (hk : g.mask.getLsbD k = true) (hg : g'.joins g = true) (l : List TrapGroup) :
    ∃ h ∈ joinGroup g l, h.Covers k g' := by
  unfold joinGroup
  split
  · exact ⟨_, mem_insertGroup.2 (.inl rfl), by simp [hk], hg⟩
  · exact ⟨g, mem_insertGroup.2 (.inl rfl), hk, hg⟩

/-- A lane that is pending stays so when another group joins. -/
theorem joinGroup_keeps {g g' : TrapGroup} {k : Nat} {l : List TrapGroup} (h : ∃ h ∈ l, h.Covers k g') :
    ∃ h ∈ joinGroup g l, h.Covers k g' := by
  obtain ⟨h, hl, hk, hg⟩ := h
  unfold joinGroup
  split
  · rename_i o ho
    by_cases he : h = o
    · subst he
      have hj : g.joins h = true := List.find?_some ho
      refine ⟨_, mem_insertGroup.2 (.inl rfl), by simp [hk], ?_⟩
      rw [TrapGroup.joins_iff] at hg hj ⊢
      grind
    · exact ⟨h, mem_insertGroup.2 (.inr ((List.mem_erase_of_ne he).2 hl)), hk, hg⟩
  · exact ⟨h, mem_insertGroup.2 (.inr hl), hk, hg⟩

/-- A fold establishes what one of its steps establishes and every step keeps. -/
theorem foldl_establishes {α β : Type} {P Q : β → Prop} {f : β → α → β} {l : List α} {a : α} (ha : a ∈ l)
    (hP : ∀ b c, P b → P (f b c)) (hQ : ∀ b c, Q b → Q (f b c)) (hPQ : ∀ b, P b → Q (f b a)) {b : β} (h : P b) : Q (l.foldl f b) := by
  obtain ⟨l₁, l₂, rfl⟩ := List.append_of_mem ha
  rw [List.foldl_append, List.foldl_cons]
  exact foldl_keeps f hQ l₂ (hPQ _ (foldl_keeps f hP l₁ h))

/-- Braid b has a pending group that covers lane k for g. -/
def State.HasPending (s : State) (b k : Nat) (g : TrapGroup) : Prop :=
  ∃ br, s.braids.get? b = some br ∧ ∃ h ∈ br.pending, h.Covers k g

/-- Those lanes of a list that are trapped, in no handler and not held. -/
def State.trappedLanes (s : State) (b : Nat) (lanes : List Nat) : List (Nat × Strand) :=
  lanes.filterMap fun l => match s.strand? (posOf b l) with
    | some x => if x.run = .trapped ∧ ¬ x.handler ∧ ¬ x.held then some (l, x) else none
    | none => none

/-- Those of them with one cause and issue set join the pending groups. -/
def State.joinPending (b : Nat) (tr : List (Nat × Strand)) (s : State) (c : Nat × Nat) : State :=
  let g := tr.filter fun p => p.2.trap.cause == c.1 && p.2.trapSet == c.2
  match g with
  | [] => s
  | p :: _ => s.modBraid b fun br => { br with
      pending := joinGroup ⟨maskOf (g.map Prod.fst), p.2.regs.depth, p.2.trap.clause, c.1, c.2, s.cycles⟩ br.pending }

theorem State.addGroups_eq_foldl (s : State) (b : Nat) (lanes : List Nat) : s.addGroups b lanes =
    ((s.trappedLanes b lanes).map fun p => (p.2.trap.cause, p.2.trapSet)).dedup.foldl (State.joinPending b (s.trappedLanes b lanes)) s :=
  rfl

theorem State.mem_trappedLanes {s : State} {b k : Nat} {lanes : List Nat} {y : Strand} : (k, y) ∈ s.trappedLanes b lanes ↔
    k ∈ lanes ∧ s.strand? (posOf b k) = some y ∧ y.run = .trapped ∧ y.handler = false ∧ y.held = false := by
  simp only [State.trappedLanes, List.mem_filterMap]
  constructor
  · rintro ⟨j, hj, h⟩
    split at h
    · rename_i z hz
      split at h
      · rename_i hc
        cases h
        simpa [hj, hz] using hc
      · cases h
    · cases h
  · rintro ⟨hk, hs, hr, hh, hd⟩
    exact ⟨k, hk, by simp [hs, hr, hh, hd]⟩

theorem State.get?_modBraid (s : State) (b : Nat) (f : Braid → Braid) : (s.modBraid b f).braids.get? b = (s.braids.get? b).map f := by
  rw [State.modBraid, AMap.get?_modify, if_pos rfl]

/-- A group that joins keeps the braid and the time. -/
theorem State.joinPending_keeps {b : Nat} {tr : List (Nat × Strand)} {n : Nat} {s : State} (c : Nat × Nat)
    (h : (∃ br, s.braids.get? b = some br) ∧ s.cycles = n) :
    (∃ br, (State.joinPending b tr s c).braids.get? b = some br) ∧ (State.joinPending b tr s c).cycles = n := by
  obtain ⟨⟨br, hb⟩, hn⟩ := h
  unfold State.joinPending
  dsimp only
  split
  · exact ⟨⟨br, hb⟩, hn⟩
  · exact ⟨⟨_, (s.get?_modBraid b _).trans (congrArg _ hb)⟩, hn⟩

theorem State.joinPending_keeps_pending {b k : Nat} {tr : List (Nat × Strand)} {g : TrapGroup} {s : State} (c : Nat × Nat)
    (h : s.HasPending b k g) : (State.joinPending b tr s c).HasPending b k g := by
  obtain ⟨br, hb, hg⟩ := h
  unfold State.joinPending
  dsimp only
  split
  · exact ⟨br, hb, hg⟩
  · exact ⟨_, (s.get?_modBraid b _).trans (congrArg _ hb), joinGroup_keeps hg⟩

/-- The group of a lane's own cause and issue set makes it pending, with the depth and clause that all of the group have in common. -/
theorem State.joinPending_hasPending {b k : Nat} {tr : List (Nat × Strand)} {y : Strand} {s : State} (hk : (k, y) ∈ tr) (h32 : k < 32)
    (hall : ∀ p ∈ tr, p.2.regs.depth = y.regs.depth ∧ p.2.trap.clause = y.trap.clause) (hb : ∃ br, s.braids.get? b = some br) :
    (State.joinPending b tr s (y.trap.cause, y.trapSet)).HasPending b k
      ⟨0, y.regs.depth, y.trap.clause, y.trap.cause, y.trapSet, s.cycles⟩ := by
  obtain ⟨br, hb⟩ := hb
  have hg : (k, y) ∈ tr.filter fun p => p.2.trap.cause == y.trap.cause && p.2.trapSet == y.trapSet :=
    List.mem_filter.2 ⟨hk, by simp⟩
  unfold State.joinPending
  dsimp only
  split
  · rename_i he
    rw [he] at hg
    cases hg
  · rename_i p l he
    obtain ⟨hdepth, hclause⟩ := hall p (List.mem_filter.1 (he ▸ List.mem_cons_self ..)).1
    refine ⟨_, (s.get?_modBraid b _).trans (congrArg _ hb), joinGroup_covers ?_ ?_ _⟩
    · exact (mem_lanesOf.1 (mem_lanesOf_maskOf.2 ⟨h32, List.mem_map_of_mem hg⟩)).2
    · exact TrapGroup.joins_iff.2 ⟨hdepth.symm, hclause.symm, rfl, rfl, rfl⟩

/-- A lane that is trapped, in no handler and not held, becomes pending, with the clause and depth that it has in common with the others
of the list that do. -/
theorem State.addGroups_hasPending {s : State} {b k : Nat} {lanes : List Nat} {y : Strand} {br : Braid}
    (hk : (k, y) ∈ s.trappedLanes b lanes) (h32 : k < 32) (hb : s.braids.get? b = some br)
    (hall : ∀ p ∈ s.trappedLanes b lanes, p.2.regs.depth = y.regs.depth ∧ p.2.trap.clause = y.trap.clause) :
    (s.addGroups b lanes).HasPending b k ⟨0, y.regs.depth, y.trap.clause, y.trap.cause, y.trapSet, s.cycles⟩ := by
  rw [State.addGroups_eq_foldl]
  refine foldl_establishes (P := fun t : State => (∃ br, t.braids.get? b = some br) ∧ t.cycles = s.cycles)
    (Q := fun t : State => t.HasPending b k _) (List.mem_dedup.2 (List.mem_map_of_mem hk)) (fun t c => State.joinPending_keeps c)
    (fun t c => State.joinPending_keeps_pending c) (fun t ht => ?_) ⟨⟨br, hb⟩, rfl⟩
  rw [← ht.2]
  exact State.joinPending_hasPending hk h32 hall ht.1

/-! ## A strand that traps at a word -/

/-- Distinct lanes of one depth trap at a word, none with a fault record: one that is neither in a handler nor past a fence is trapped
with its record, and pending. -/
theorem State.raise_plain_traps {s : State} {x : Issue} {traps : List (Nat × TrapReq)} {l : Nat} {r : TrapReq} {st : Strand}
    (hx : s.cur = some x) (hn : (traps.map Prod.fst).Nodup) (hp : ∀ p ∈ traps, p.2.Plain) (hl : (l, r) ∈ traps) (h32 : l < 32)
    (hs : s.strand? (posOf x.braid l) = some st) (hh : st.handler = false) (hf : st.pastFence = false)
    (hd : ∀ p ∈ traps, ∀ y, s.strand? (posOf x.braid p.1) = some y → y.regs.depth = st.regs.depth) :
    Traps s (s.raise traps) x l st (r.record ⟨x.clause, x.word⟩) (r.resume.getD ⟨x.clause, x.word⟩) := by
  obtain ⟨hbraids, hcycles, -, hstep, hin, -⟩ := State.foldl_raiseOne_leaves (s := s) (x := x) ⟨x.clause, x.word⟩ hn hp
  have hst := (hin _ hl).trans (congrArg _ hs)
  unfold State.raise
  rw [hx]
  dsimp only
  generalize traps.foldl (fun s p => s.raiseOne (posOf x.braid p.1) ⟨x.clause, x.word⟩ p.2) s = u at *
  rw [Option.map_some, Strand.take_of_open hh hf] at hst
  refine ⟨?_, fun br hstepping hheld hb => ?_⟩
  · split
    · exact hst
    · rwa [State.strand?_addGroups]
  · rw [if_neg (by rw [hstep, hstepping]; decide)]
    have hall : ∀ p ∈ u.trappedLanes x.braid (traps.map Prod.fst), p.2.regs.depth = st.regs.depth ∧ p.2.trap.clause = x.clause := by
      rintro ⟨j, z⟩ hmem
      obtain ⟨hj, hz, hrun, -, -⟩ := State.mem_trappedLanes.1 hmem
      obtain ⟨⟨j, t⟩, ht, rfl⟩ := List.mem_map.1 hj
      rw [hin _ ht] at hz
      obtain ⟨y, hy, rfl⟩ := Option.map_eq_some_iff.1 hz
      exact ⟨(Strand.depth_take ..).trans (hd _ ht y hy), congrArg TrapRec.clause (Strand.trap_take hrun)⟩
    obtain ⟨b, hbr, g, hg, hmask, hj⟩ := State.addGroups_hasPending
      (State.mem_trappedLanes.2 ⟨List.mem_map_of_mem hl, hst, rfl, hh, hheld⟩) h32 (hbraids ▸ hb) hall
    obtain ⟨hdepth, hclause, hcause, hset, hcycle⟩ := TrapGroup.joins_iff.1 hj
    exact ⟨b, hbr, g, hg, hmask, hclause.symm, hdepth.symm, hcause.symm, hset.symm, hcycle.symm.trans hcycles⟩

end Sys2Proof.Machine
end

section
/-! PROOFS. Where words trap: illegal for their issue set, at a format tag, and `trap` itself (02 R52, 03 R73, R74, 18 R335). -/

namespace Sys2Proof.Machine
open Sys2Proof.Claims

/-! ## Illegal words -/

/-- A word and its checks: illegal for its issue set, it traps the lanes that it is checked by; else it acts as g says. -/
def State.checkedWord (s : State) (i : Instr) (g : Issue → State) : State :=
  match s.cur with
  | none => s
  | some x => if s.illegalHere x i then s.allIllegal (s.illegalLanes x i) else g x

/-- Every word but `ctr`, which goes on with the blocks that it has gathered, is checked once, before any of its lanes acts. -/
theorem exec_checkedWord {i : Instr} (h : (i.family == .event || isCtr i) = false) (s : State) :
    ∃ g, exec i s = .next (s.checkedWord i g) := by
  cases i <;> cases h <;> exact ⟨_, rfl⟩

theorem exec_of_illegal {i : Instr} {s : State} {x : Issue} (hi : i.info.word = true) (hx : s.cur = some x)
    (hl : s.illegalHere x i = true) : exec i s = .next (s.allIllegal (s.illegalLanes x i)) := by
  have hw : (i.family == .event) = false := by rw [← event_not_word i, hi, Bool.and_true]
  cases hc : isCtr i with
  | false =>
    obtain ⟨g, hg⟩ := exec_checkedWord (Bool.or_eq_false_iff.2 ⟨hw, hc⟩) s
    simp only [hg, State.checkedWord, hx, hl, if_true]
  | true =>
    cases i <;> cases hc
    simp only [exec_ctr, execCtr, State.inLaneOrder, hx, hl, if_true]

theorem State.illegalLanes_nodup (s : State) (x : Issue) (i : Instr) : (s.illegalLanes x i).Nodup := by
  unfold State.illegalLanes
  split
  · exact (lanesOf_nodup _).filter _
  · exact lanesOf_nodup _

/-- Which lanes of the set an illegal word traps: all, or for the words of tiles and copies those whose predicate holds and those that
have no such predicate (08 R142). -/
theorem State.mem_illegalLanes {s : State} {x : Issue} {i : Instr} {l : Nat} {st : Strand} (hs : s.strand? (posOf x.braid l) = some st) :
    l ∈ s.illegalLanes x i ↔ l ∈ lanesOf x.mask ∧ (strandWords i = true →
      predHolds st.regs i.info.pred = true ∨ i.info.pred.reg ≠ 0 ∧ st.regs.v.length ≤ i.info.pred.reg) := by
  unfold State.illegalLanes
  cases hw : strandWords i with
  | false => simp
  | true => simp [State.checkedLanes, hs]

/-! ## Traps of a word that acts lane by lane -/

/-- An executing lane's place among the results of the lanes. -/
theorem State.strand?_laneResults_of_mem {s : State} {x : Issue} {i : Instr} (f : Issue → Nat → Strand → LaneOut) {l : Nat} {st : Strand}
    (h : (l, st) ∈ s.passing x i) :
    ({ s with strands := s.strands.mapVals (laneResult x.braid (s.laneOuts x i f)) } : State).strand? (posOf x.braid l) =
      some (f x l st).st := by
  have hs : AMap.get? s.strands (posOf x.braid l) = some st := (State.mem_active.1 (State.mem_passing.1 h).1).2.1
  rw [State.strand?, AMap.get?_mapVals, hs, Option.map_some, laneResult, State.laneOuts, State.find_out (f x) h]

/-- The traps of a word that acts lane by lane: of the lanes that fail the format-tag check, and of those that execute. -/
def State.wordTraps (s : State) (x : Issue) (i : Instr) (f : Issue → Nat → Strand → LaneOut) : List (Nat × TrapReq) :=
  s.tagTraps x i ++ (s.laneOuts x i f).filterMap fun (o : Nat × LaneOut) => o.2.trap.map fun t => (o.1, t)

theorem State.mem_tagTraps {s : State} {x : Issue} {i : Instr} {l : Nat} {t : TrapReq} :
    (l, t) ∈ s.tagTraps x i ↔ ∃ st o, (l, st) ∈ s.active x i.info.pred ∧ tagFailure st.regs i.info = some o ∧
      t = { cause := cTag, detail := o } := by
  simp only [State.tagTraps, List.mem_filterMap, Option.map_eq_some_iff, Prod.exists, Prod.mk.injEq]
  constructor
  · rintro ⟨k, st, hk, o, ho, rfl, rfl⟩
    exact ⟨st, o, hk, ho, rfl⟩
  · rintro ⟨st, o, hk, ho, rfl⟩
    exact ⟨l, st, hk, o, ho, rfl, rfl⟩

theorem State.mem_outTraps {s : State} {x : Issue} {i : Instr} {f : Issue → Nat → Strand → LaneOut} {l : Nat} {t : TrapReq} :
    (l, t) ∈ (s.laneOuts x i f).filterMap (fun (o : Nat × LaneOut) => o.2.trap.map fun t => (o.1, t)) ↔
      ∃ st, (l, st) ∈ s.passing x i ∧ (f x l st).trap = some t := by
  simp only [State.laneOuts, List.filterMap_map, List.mem_filterMap, Function.comp, Option.map_eq_some_iff, Prod.exists, Prod.mk.injEq]
  constructor
  · rintro ⟨k, st, hk, t, ht, rfl, rfl⟩
    exact ⟨st, hk, ht⟩
  · rintro ⟨st, hk, ht⟩
    exact ⟨l, st, hk, t, ht, rfl, rfl⟩

/-- Keyed entries that a function drops or keeps under their key stand in order. -/
theorem map_fst_filterMap_sublist {α β : Type} {g : Nat × α → Option (Nat × β)} (h : ∀ p q, g p = some q → q.1 = p.1) (l : List (Nat × α)) :
    ((l.filterMap g).map Prod.fst).Sublist (l.map Prod.fst) := by
  induction l with
  | nil => exact List.Sublist.slnil
  | cons p l ih =>
    rw [List.filterMap_cons, List.map_cons]
    cases hg : g p with
    | none => exact ih.cons _
    | some q =>
      rw [List.map_cons, h p q hg]
      exact ih.cons_cons _

theorem fst_eq_of_map_eq_some {α β : Type} {k : Nat} {o : Option α} {f : α → β} {q : Nat × β} (h : (o.map fun a => (k, f a)) = some q) :
    q.1 = k := by
  obtain ⟨a, -, rfl⟩ := Option.map_eq_some_iff.1 h
  rfl

/-- No lane traps twice at a word: it fails the format-tag check, or executes. -/
theorem State.wordTraps_nodup (s : State) (x : Issue) (i : Instr) (f : Issue → Nat → Strand → LaneOut) :
    ((s.wordTraps x i f).map Prod.fst).Nodup := by
  rw [State.wordTraps, List.map_append, List.nodup_append]
  refine ⟨?_, ?_, ?_⟩
  · exact (State.active_fst_nodup s x _).sublist (map_fst_filterMap_sublist (fun _ _ => fst_eq_of_map_eq_some) _)
  · rw [State.laneOuts, List.filterMap_map]
    exact (State.passing_fst_nodup s x i).sublist (map_fst_filterMap_sublist (fun _ _ => fst_eq_of_map_eq_some (f := id)) _)
  · rintro l hl k hk rfl
    obtain ⟨⟨l, t⟩, ht, rfl⟩ := List.mem_map.1 hl
    obtain ⟨⟨k, u⟩, hu, hk⟩ := List.mem_map.1 hk
    cases hk
    obtain ⟨st, o, hst, ho, -⟩ := State.mem_tagTraps.1 ht
    obtain ⟨y, hy, -⟩ := State.mem_outTraps.1 hu
    obtain ⟨hy, hn⟩ := State.mem_passing.1 hy
    have e := (State.mem_active.1 hst).2.1.symm.trans (State.mem_active.1 hy).2.1
    cases e
    cases ho.symm.trans hn

/-- A word that acts lane by lane, none of whose traps has a fault record or changes its strand besides: a lane that traps, neither in
a handler nor past a fence, is trapped, and pending. -/
theorem State.pointwise_traps {s : State} {x : Issue} {i : Instr} {f : Issue → Nat → Strand → LaneOut} {l : Nat} {t : TrapReq} {st : Strand}
    (hx : s.cur = some x) (hl : s.illegalHere x i = false) (hd : OneDepth s x st.regs.depth)
    (hf : ∀ k y u, (f x k y).trap = some u → u.Plain ∧ (f x k y).st = y)
    (ht : (l, t) ∈ s.wordTraps x i f) (hs : s.strand? (posOf x.braid l) = some st) (hh : st.handler = false) (hfence : st.pastFence = false) :
    Traps s (s.pointwise i f) x l st (t.record ⟨x.clause, x.word⟩) (t.resume.getD ⟨x.clause, x.word⟩) := by
  have hlane : ∀ p ∈ s.wordTraps x i f, (p.1 < 32 ∧ x.mask.getLsbD p.1 = true) ∧ p.2.Plain ∧
      ({ s with strands := s.strands.mapVals (laneResult x.braid (s.laneOuts x i f)) } : State).strand? (posOf x.braid p.1) =
        s.strand? (posOf x.braid p.1) := by
    rintro ⟨k, u⟩ hk
    rcases List.mem_append.1 hk with hk | hk
    · obtain ⟨y, o, hy, ho, rfl⟩ := State.mem_tagTraps.1 hk
      obtain ⟨hlane, hstrand, -⟩ := State.mem_active.1 hy
      refine ⟨hlane, ⟨rfl, rfl, rfl, rfl⟩, State.strand?_laneResults_other f fun j z hz e => ?_⟩
      obtain ⟨hz, hnone⟩ := State.mem_passing.1 hz
      have hzy := (State.mem_active.1 hz).2.1.symm.trans ((congrArg _ e).trans hstrand)
      cases hzy
      cases ho.symm.trans hnone
    · obtain ⟨y, hy, hu⟩ := State.mem_outTraps.1 hk
      obtain ⟨hlane, hstrand, -⟩ := State.mem_active.1 (State.mem_passing.1 hy).1
      obtain ⟨hplain, hkeep⟩ := hf k y u hu
      exact ⟨hlane, hplain, by rw [State.strand?_laneResults_of_mem f hy, hkeep, hstrand]⟩
  rw [State.pointwise_eq f hx hl]
  exact State.raise_plain_traps (s := { s with strands := s.strands.mapVals (laneResult x.braid (s.laneOuts x i f)) }) hx
    (State.wordTraps_nodup s x i f) (fun p h => (hlane p h).2.1) ht (hlane _ ht).1.1 ((hlane _ ht).2.2.trans hs) hh hfence fun p h y hy =>
      hd p.1 y (hlane p h).1.1 (hlane p h).1.2 ((hlane p h).2.2.symm.trans hy)

end Sys2Proof.Machine

namespace Sys2Proof
open Sys2Proof.Machine Sys2Proof.Claims

theorem formatTagTrap : FormatTagTrap := by
  intro s x i l st o hi hx hl h32 hmask hs hpred htag hh hf hd
  obtain ⟨f, he, hn⟩ := exec_fixedLatency hi s
  have htrap : (l, { cause := cTag, detail := o }) ∈ s.tagTraps x i :=
    State.mem_tagTraps.2 ⟨st, o, State.mem_active.2 ⟨⟨h32, hmask⟩, hs, hpred⟩, htag, rfl⟩
  refine ⟨_, he, State.pointwise_traps hx hl hd (fun k y u hu => ?_) (List.mem_append_left _ htrap) hs hh hf⟩
  cases (hn x k y).symm.trans hu

theorem illegalWordTrapsTheSet : IllegalWordTrapsTheSet := by
  intro s x i l st hi hx hl h32 hmask hs hh hf hw hd
  have hlane : l ∈ s.illegalLanes x i := (State.mem_illegalLanes hs).2 ⟨mem_lanesOf.2 ⟨h32, hmask⟩, hw⟩
  have hn : (((s.illegalLanes x i).map fun l => (l, ({ cause := cIllegal } : TrapReq))).map Prod.fst).Nodup := by
    rw [List.map_map]
    exact (List.map_id' _).symm ▸ s.illegalLanes_nodup x i
  refine ⟨_, exec_of_illegal hi hx hl, State.raise_plain_traps (r := { cause := cIllegal }) hx hn ?_
    (List.mem_map_of_mem hlane) h32 hs hh hf ?_⟩
  · intro p hp
    obtain ⟨k, -, rfl⟩ := List.mem_map.1 hp
    exact ⟨rfl, rfl, rfl, rfl⟩
  · intro p hp y hy
    obtain ⟨k, hk, rfl⟩ := List.mem_map.1 hp
    obtain ⟨h32, hmask⟩ := mem_lanesOf.1 ((State.mem_illegalLanes hy).1 hk).1
    exact hd k y h32 hmask hy

theorem softwareTrapResumes : SoftwareTrapResumes := by
  intro s x k st p code hh hf hd hex
  let f : Issue → Nat → Strand → LaneOut := fun x _ st =>
    { st := st, trap := some { cause := cTrap, detail := code, resume := some (x.after (.trap p code)) } }
  have hout : (k, { cause := cTrap, detail := code, resume := some (x.after (.trap p code)) }) ∈ s.wordTraps x (.trap p code) f :=
    List.mem_append_right _ (State.mem_outTraps.2 ⟨st, hex.mem, rfl⟩)
  refine ⟨_, rfl, State.pointwise_traps hex.cur hex.legal hd (fun _ _ u hu => ?_) hout hex.strand hh hf⟩
  cases hu
  exact ⟨⟨rfl, rfl, rfl, rfl⟩, rfl⟩

/-- Settles O9: the traps of a word are those of distinct lanes of one depth, and raising them leaves each lane trapped and pending
(`State.raise_plain_traps`). -/
theorem wordTraps : Obligations.WordTraps := ⟨formatTagTrap, illegalWordTrapsTheSet, softwareTrapResumes⟩

end Sys2Proof
end

section
/-! PROOFS. Words of groups 0x60, 0x70 and 0xB0 whose address passes its checks: they issue their access (02 R45, 10 R194, 11 R221). -/

namespace Sys2Proof.Machine
open Sys2Proof.Claims

theorem Lane.bytes_wide (e : Lane) (d : Nat) : e.bytes d 16 64 = runNat (e.words d 16) % 2 ^ 512 := by
  rw [Lane.bytes, show 8 * 64 = 512 by decide]

/-- `kst` reads its handle at issue unless an earlier word of its queue still waits. -/
theorem Strand.kst_op (st : Strand) (os : Option Scope) (l : Long) (k : Nat) (a : Addr) :
    (match st.sourceNow (.kst os l k a) with
      | some h => MemOp.store h.toNat
      | none => .storeK k) = if queued st .closure then .storeK k else .store (st.regs.k.getD k 0).toNat := by
  have hq : st.closPending st.nextId = queued st .closure := rfl
  unfold Strand.sourceNow
  rw [hq]
  cases queued st .closure <;> rfl

/-- The words that `ask` speaks of act lane by lane, and each lane makes the access that it asks for. -/
theorem exec_of_ask {s : State} {i : Instr} {x : Issue} {k : Nat} {st : Strand} {a : Ask} (h : ask i (s.lane x k st) st = some a) :
    ∃ f, exec i s = .next (s.pointwise i f) ∧ f x k st = s.accessLane x i k st a.long a.kind a.wants a.order a.op := by
  unfold ask at h
  split at h
  case h_18 => cases h
  all_goals
    cases h
    refine ⟨_, rfl, ?_⟩
  case h_5.refl =>
    rw [← Lane.bytes_wide]
    rfl
  case h_7.refl =>
    exact congrArg (s.accessLane x _ k st _ _ _ _) (Strand.kst_op ..)
  case h_13.refl b =>
    have hw : (if b.is64 = true then 8 else 4) / 4 = if b.is64 = true then 2 else 1 := by cases b.is64 <;> rfl
    rw [hw]
    rfl
  all_goals rfl

theorem Strand.acquireFence_eq_issuing (st : Strand) (o : Order) (p next : Point) (g id : Nat) :
    st.acquireFence o p next g id = match o.acq with
      | some sc => issuing st ⟨⟨false, 0⟩, 15, 15⟩ p g .plain false (.fence .acq sc (some id) { st.regs with pc := next } none [] [])
      | none => st := by
  unfold Strand.acquireFence
  cases o.acq <;> rfl

theorem Strand.issueAccess_eq (st : Strand) (l : Long) (p next : Point) (g : Nat) (kind : PendKind) (n : Nat) (ps : List Part)
    (o : Order) (op : MemOp) :
    st.issueAccess l p next g kind n ps o op =
      (issuing st l p g kind (op.writes && st.pastFence) (.mem (pieces n ps) 0 (orderOn o ps) op)).acquireFence
        (orderOn o ps) p next g st.nextId := rfl

/-- An access whose address passes its checks issues with the pieces found. -/
theorem State.accessLane_of_reach {s : State} {x : Issue} {i : Instr} {k : Nat} {st : Strand} {l : Long} {kind : PendKind} {w : Wants}
    {o : Order} {op : MemOp} {ps : List Part} (h : s.reach (posOf x.braid k) st (s.lane x k st) w = .ok ps) :
    s.accessLane x i k st l kind w o op = { st := st.issueAccess l x.here (x.after i) s.moves kind w.len ps o op } := by
  unfold State.accessLane
  dsimp only
  rw [h]

end Sys2Proof.Machine

namespace Sys2Proof
open Sys2Proof.Machine Sys2Proof.Claims

/-- Settles O10: each lane makes the access that `ask` names, and one that reaches its address only issues it, with its fence. -/
theorem accessIssues : Obligations.AccessIssues := by
  intro s x i k st a ps hex hask hreach o held y z
  obtain ⟨f, he, hf⟩ := exec_of_ask hask
  rw [State.accessLane_of_reach hreach] at hf
  have hz : (f x k st).st = z := by
    rw [hf, Strand.issueAccess_eq, Strand.acquireFence_eq_issuing]
    rfl
  have ht : (f x k st).trap = none := by rw [hf]
  refine ⟨⟨_, he, ?_⟩, fun halone => ⟨_, he, ?_⟩⟩
  · exact (State.pointwise_lane f hex ht).trans (congrArg some hz)
  · rw [← hz]
    exact State.pointwise_alone f halone ht

end Sys2Proof
end

section
/-! PROOFS. The clause at an address, as the core fetches it from memory (02 R22 to R26). -/

namespace Sys2Proof.Machine
open Sys2Proof.Claims

/-- The part that holds a doubleword of code, within reach of the core. -/
structure State.CodeAt (s : State) (core ctx : Nat) (a : DWord) (k : Nat) (q : Part) : Prop where
  parts : s.parts core ctx .exec a.toNat 8 = .ok [q]
  key : q.key = k
  eight : q.len = 8
  reached : Reached s q

theorem State.reachFault_of_reached {s : State} {q : Part} (h : Reached s q) : s.reachFault false [q] = none := by
  obtain ⟨hnear, hsound⟩ := h
  simp [State.reachFault, hsound, hnear]

theorem State.fetch8_of_codeAt {s : State} (he : s.early = []) {core ctx : Nat} {a : DWord} {k : Nat} {q : Part}
    (h : s.CodeAt core ctx a k q) : s.fetch8 core ctx a = .ok (s.mem.readN k 8) := by
  unfold State.fetch8
  rw [h.parts]
  simp only [State.reachFault_of_reached h.reached, State.seenParts, State.seenN_of_early_nil he, h.key, h.eight, Nat.mul_zero,
    Nat.add_zero]

theorem doubleword_succ (a : DWord) (i : Nat) : a + BitVec.ofNat 64 (8 * (i + 1)) = a + 8 + BitVec.ofNat 64 (8 * i) := by
  rw [Nat.mul_succ, Nat.add_comm, BitVec.ofNat_add, ← BitVec.add_assoc]
  rfl

/-- The doublewords after the one at an address, each read from memory. -/
theorem State.fetchWords_of_codeAt {s : State} (he : s.early = []) {core ctx : Nat} (n : Nat) {a : DWord} {k : Nat}
    (h : ∀ i < n, ∃ q, s.CodeAt core ctx (a + BitVec.ofNat 64 (8 * (i + 1))) (k + 8 * (i + 1)) q) :
    s.fetchWords core ctx (a + 8) n = .ok ((List.range n).map fun i => BitVec.ofNat 64 (s.mem.readN (k + 8 * (i + 1)) 8)) := by
  induction n generalizing a k with
  | zero => rfl
  | succ n ih =>
    have hk : ∀ i, k + 8 * (i + 1) = k + 8 + 8 * i := fun i => by omega
    simp only [doubleword_succ, hk] at h
    obtain ⟨q, hq⟩ := h 0 (by omega)
    have hfirst : s.fetch8 core ctx (a + 8) = .ok (s.mem.readN (k + 8) 8) := State.fetch8_of_codeAt he (by simpa using hq)
    have hrest := ih fun i hi => h (i + 1) (by omega)
    simp only [State.fetchWords, hfirst, hrest, List.range_succ_eq_map, List.map_cons, List.map_map, Function.comp_def,
      Nat.succ_eq_add_one, hk, Nat.mul_zero, Nat.add_zero]

theorem headerOk_iff (h : Nat) : headerOk h = true ↔ bits h 63 60 = 0xD ∧ bits h 39 0 = 0 := by
  simp [headerOk]

theorem State.fetchClause_of_misaligned (s : State) (core ctx : Nat) {a : DWord} (h : a.toNat % 8 ≠ 0) :
    s.fetchClause core ctx a = .error (illegalClause a) := if_pos h

theorem State.fetchClause_of_noHeader {s : State} {core ctx : Nat} {a : DWord} {h : Nat} (hal : a.toNat % 8 = 0)
    (hh : s.fetch8 core ctx a = .ok h) (hno : headerOk h = false) : s.fetchClause core ctx a = .error (illegalClause a) := by
  unfold State.fetchClause
  rw [if_neg (not_not.2 hal), hh]
  simp only [hno, Bool.not_false, if_true]

theorem State.fetchClause_of_header {s : State} {core ctx : Nat} {a : DWord} {h : Nat} {ws : List DWord} (hal : a.toNat % 8 = 0)
    (hh : s.fetch8 core ctx a = .ok h) (hok : headerOk h = true) (hws : s.fetchWords core ctx (a + 8) (headerCount h) = .ok ws) :
    s.fetchClause core ctx a =
      if clauseOk ⟨bits h 55 53, headerWait h, ws⟩ then .ok ⟨bits h 55 53, headerWait h, ws⟩ else .error (illegalClause a) := by
  unfold State.fetchClause
  rw [if_neg (not_not.2 hal), hh]
  simp only [hok, Bool.not_true, Bool.false_eq_true, if_false, hws]

end Sys2Proof.Machine

namespace Sys2Proof
open Sys2Proof.Machine Sys2Proof.Claims

/-- Settles O51: the fetch reads the header, and after a header that is one its slot words; the rest is the validation. -/
theorem clausesAreFetchedFromMemory : Obligations.ClausesAreFetchedFromMemory := by
  intro s core ctx a k he word h hcode c bad header
  have hat : ∀ i ≤ bits h 59 56 + 1, ∃ q, s.CodeAt core ctx (a + BitVec.ofNat 64 (8 * i)) (k + 8 * i) q := fun i hi => by
    obtain ⟨q, hp, hk, hl, hr⟩ := hcode i hi
    exact ⟨q, hp, hk, hl, hr⟩
  have hhead : s.fetch8 core ctx a = .ok h := by
    obtain ⟨q, hq⟩ := hat 0 (by omega)
    exact State.fetch8_of_codeAt he (by simpa using hq)
  have hclause : a.toNat % 8 = 0 → header →
      s.fetchClause core ctx a = if clauseOk c then .ok c else .error (illegalClause a) := fun hal hh =>
    State.fetchClause_of_header hal hhead ((headerOk_iff h).2 hh)
      (State.fetchWords_of_codeAt he _ fun i hi => hat (i + 1) hi)
  have hbad : bad (illegalClause a) := ⟨rfl, rfl, rfl⟩
  refine ⟨fun hal hh hok => ?_, fun hal hh hok => ⟨_, ?_, hbad⟩, fun hal hh => ⟨_, ?_, hbad⟩, fun hal => ⟨_, ?_, hbad⟩⟩
  · rw [hclause hal hh, if_pos hok]
  · rw [hclause hal hh, if_neg (Bool.not_eq_true _ ▸ hok)]
  · have hno : headerOk h = false := by
      rw [← Bool.not_eq_true, headerOk_iff]
      exact hh
    exact State.fetchClause_of_noHeader hal hhead hno
  · exact s.fetchClause_of_misaligned core ctx hal

end Sys2Proof
end

section
/-! PROOFS. What an instruction whose results are known leaves when it completes (02 R45, R48): its strand, and the early writes that it
made (10 R195, 11 R223). -/

namespace Sys2Proof.Machine
open Sys2Proof.Claims

/-! ## Registers -/

/-- Values laid over registers, each by its number. -/
theorem getD_foldl_set (keep : List Nat) (f : Nat → Reg) (v : List Reg) (r : Nat) (z : Reg) (hr : r < v.length) :
    (keep.foldl (fun v i => v.set i (f i)) v).getD r z = if r ∈ keep then f r else v.getD r z := by
  induction keep generalizing v with
  | nil => simp
  | cons i keep ih =>
    rw [List.foldl_cons, ih _ (by simpa using hr)]
    by_cases hk : r ∈ keep
    · simp [hk]
    · by_cases hi : i = r
      · subst hi
        simp [hk, hr]
      · have hi' : ¬ r = i := fun e => hi e.symm
        simp [hk, hi, hi']

theorem Regs.reg_set_other (r : Regs) {n m : Nat} (h : n ≠ m) (v : Reg) : ({ r with v := r.v.set n v } : Regs).reg m = r.reg m := by
  simp [Regs.reg, h]

theorem Regs.length_write (r : Regs) (w : List (Nat × Reg)) (fl : FFlags) : (r.write w fl).v.length = r.v.length :=
  foldl_keeps (P := fun v : List Reg => v.length = r.v.length) _ (fun v p h => by simpa using h) w rfl

theorem Regs.reg_keeping {r n : Regs} {i : Nat} (h : i < n.v.length) (keep : List Nat) :
    (r.keeping keep n).reg i = if i ∈ keep then r.reg i else n.reg i := getD_foldl_set keep r.reg n.v i .zero h

theorem Strand.mem_outlasting {x : Strand} {id last r : Nat} :
    r ∈ x.outlasting id last ↔ ∃ e ∈ x.outlasts, id < e.1 ∧ e.1 ≤ last ∧ e.2 = r := by
  simp only [Strand.outlasting, List.mem_map, List.mem_filter, decide_eq_true_eq, and_assoc]

/-! ## The strand of a completing instruction -/

theorem Strand.run_finish (x : Strand) (p : Pend) (f : Regs → Regs) : (x.finish p f).run = x.run := by
  unfold Strand.finish
  split
  · rfl
  · split <;> rfl

theorem Strand.leaving_finish (x : Strand) (p : Pend) (f : Regs → Regs) : (x.finish p f).leaving = x.leaving := by
  unfold Strand.finish
  split
  · rfl
  · split <;> rfl

theorem Strand.outs_finish (x : Strand) (p : Pend) (f : Regs → Regs) : ∀ q ∈ (x.finish p f).outs, q.id ≠ p.id := by
  have hleft : ∀ q ∈ x.outs.filter fun q => q.id != p.id, q.id ≠ p.id := fun q hq => by
    simpa using (List.mem_filter.1 hq).2
  unfold Strand.finish
  split
  · exact hleft
  · split
    · exact hleft
    · intro q hq
      obtain ⟨a, ha, rfl⟩ := List.mem_map.1 hq
      refine ne_of_eq_of_ne ?_ (hleft a ha)
      split
      · rfl
      · split <;> rfl

theorem Strand.regs_finish_of_exited {x : Strand} (h : x.run = .exited) (p : Pend) (f : Regs → Regs) :
    (x.finish p f).regs = { x.regs with k := (f x.regs).k } := by
  simp only [Strand.finish, h, if_true]

theorem Strand.regs_finish_of_running {x : Strand} {p : Pend} (h : x.run ≠ .exited) (hm : p.mute = false) (w : List (Nat × Reg))
    (fl : FFlags) :
    (x.finish p fun r => r.write w fl).regs = x.regs.keeping (x.outlasting p.id x.nextId) (completing x.regs p.slot w fl) := by
  simp only [Strand.finish, h, if_false, hm, Bool.false_eq_true]
  rfl

theorem Strand.regs_finish_of_none_outlasts {x : Strand} {p : Pend} (h : x.run ≠ .exited) (hm : p.mute = false)
    (ho : x.outlasts = []) (w : List (Nat × Reg)) (fl : FFlags) :
    (x.finish p fun r => r.write w fl).regs = completing x.regs p.slot w fl := by
  rw [Strand.regs_finish_of_running h hm, Strand.outlasting, ho]
  rfl

theorem State.pend?_of_strand {s : State} {pos : Nat} {x : Strand} (h : s.strand? pos = some x) (id : Nat) :
    s.pend? pos id = x.outs.find? (·.id == id) := by
  unfold State.pend?
  rw [h]

theorem State.strand?_complete_self {s : State} {pos id : Nat} {x : Strand} {p : Pend} (h : s.strand? pos = some x)
    (hp : s.pend? pos id = some p) (w : List (Nat × Reg)) (fl : FFlags) :
    (s.complete pos id w fl).strand? pos = some (x.finish p fun r => r.write w fl) := by
  rw [State.complete, State.strand?_modStrand_self, h, Option.map_some, ← State.pend?_of_strand h, hp]

theorem State.strand?_complete_ne (s : State) {pos p : Nat} (h : p ≠ pos) (id : Nat) (w : List (Nat × Reg)) (fl : FFlags) :
    (s.complete pos id w fl).strand? p = s.strand? p := State.strand?_modStrand_ne _ _ h.symm

/-! ## Early writes -/

theorem widenList_of_none {l : List EarlyWrite} {p : EarlyWrite → Bool} (h : ∀ e ∈ l, p e = false) (gs : Observers) :
    widenList gs p l = (l, []) := by
  induction l with
  | nil => rfl
  | cons e l ih =>
    obtain ⟨he, hl⟩ := List.forall_mem_cons.1 h
    simp [widenList, ih hl, he, meetAny]

/-- A list paired with itself. -/
theorem eq_of_mem_zip_self {α : Type} {l : List α} {q : α × α} (h : q ∈ l.zip l) : q.1 = q.2 := by
  obtain ⟨i, hi, rfl⟩ := List.mem_iff_getElem.1 h
  simp

theorem State.widen_of_none {s : State} {p : EarlyWrite → Bool} (h : ∀ e ∈ s.early, p e = false ∧ e.reach.full = false)
    (gs : Observers) : s.widen p gs = s := by
  have hp : widenList gs p s.early = (s.early, []) := widenList_of_none (fun e he => (h e he).1) gs
  have hfull : (s.early.filter fun w => w.reach.full) = [] :=
    List.filter_eq_nil_iff.2 fun e he => by simp [(h e he).2]
  have hrest : (s.early.filter fun w => !w.reach.full) = s.early :=
    List.filter_eq_self.2 fun e he => by simp [(h e he).2]
  unfold State.widen
  simp only [hp, hfull, hrest, List.foldl_nil]
  rw [List.foldlRecOn (motive := (· = s)) (s.early.zip s.early) _ rfl]
  rintro t rfl q hq
  rw [eq_of_mem_zip_self hq, if_pos rfl]

theorem State.writeDone_of_noneFirst {s : State} {pos id : Nat} (h : NoneFirst s pos id) : s.writeDone pos id = s := by
  refine State.widen_of_none (fun e he => ?_) _
  obtain ⟨hother, hfull⟩ := h e he
  exact ⟨by simpa using hother, hfull⟩

/-- The only early write, of an instruction that completes and not readable to all, becomes readable to the core. -/
theorem State.writeDone_of_one {s : State} {pos : Nat} {e : EarlyWrite} (h : s.early = [e]) (hby : e.by_ = .strand pos)
    (hfull : (e.reach.join (units [coreOf pos])).full = false) :
    (s.writeDone pos e.id).mem = s.mem ∧ (s.writeDone pos e.id).early = [{ e with reach := e.reach.join (units [coreOf pos]) }] := by
  have hl : (widenList (units [coreOf pos]) (fun w => w.by_ == .strand pos && w.id == e.id) [e]).1 =
      [{ e with reach := e.reach.join (units [coreOf pos]) }] := by
    simp [widenList, hby]
  constructor
  · simp only [State.writeDone, State.widen, h, hl, List.filter_cons, hfull, Bool.false_eq_true, if_false, List.filter_nil,
      List.foldl_nil, List.zip_cons_cons, List.zip_nil_right, List.foldl_cons]
    split <;> rfl
  · simp [State.writeDone, State.widen, h, hl, hfull]

theorem State.strand?_writeDone (s : State) (pos id p : Nat) : (s.writeDone pos id).strand? p = s.strand? p := by
  obtain ⟨m, e, x, h, -⟩ := s.writeDone_only pos id
  rw [h]
  rfl

theorem State.pend?_writeDone (s : State) (pos id p n : Nat) : (s.writeDone pos id).pend? p n = s.pend? p n := by
  unfold State.pend?
  rw [State.strand?_writeDone]

theorem Observers.has_units_one {c : Nat} (hc : c < 394) (n : Nat) : (units [c]).has n = decide (unitOf n = c) := by
  have hfar : (units [c]).far = BitVec.twoPow 394 c := BitVec.zero_or
  have hnear : (units [c]).near = [] := rfl
  simp only [Observers.has, hfar, hnear, BitVec.getLsbD_twoPow, hc, decide_true, Bool.true_and, List.contains_nil, Bool.or_false]
  exact decide_eq_decide.2 eq_comm

theorem Observers.has_join (a b : Observers) (n : Nat) : (a.join b).has n = (a.has n || b.has n) := by
  simp only [Observers.has, Observers.join, BitVec.getLsbD_or]
  cases ha : a.far.getLsbD (unitOf n)
  · cases hb : b.far.getLsbD (unitOf n)
    · cases hn : a.near.contains n <;> simp_all
    · simp
  · simp

theorem State.seen_of_one {s : State} {e : EarlyWrite} (h : s.early = [e]) (g k : Nat) :
    s.seen g k = if e.reach.has g then (partsByte k e.parts e.val).getD (s.mem.read k) else s.mem.read k := by
  unfold State.seen
  rw [h]
  cases hg : e.reach.has g
  · simp [hg]
  · cases hb : partsByte k e.parts e.val <;> simp [hg, hb]

/-! ## Registers that show their value to come -/

/-- What the strand `x` has become while registers of `w` show a value of its outstanding instruction `p`, or again their own. -/
structure Strand.Shows (x : Strand) (p : Pend) (w : List (Nat × Reg)) (y : Strand) : Prop where
  rest : y = { x with regs := { x.regs with v := y.regs.v }, outs := y.outs }
  length : y.regs.v.length = x.regs.v.length
  others : ∀ r, r ∉ w.map Prod.fst → y.regs.reg r = x.regs.reg r
  stays : ∃ q ∈ y.outs, q.id = p.id ∧ q.act = p.act

theorem Strand.Shows.refl {x : Strand} {p : Pend} (h : p ∈ x.outs) (w : List (Nat × Reg)) : x.Shows p w x :=
  ⟨rfl, rfl, fun _ _ => rfl, p, h, rfl, rfl⟩

/-- One more register shows a value, and what it showed is noted with the instruction. -/
theorem Strand.Shows.put {x y : Strand} {p : Pend} {w : List (Nat × Reg)} (h : x.Shows p w y) {r : Nat} (hr : r ∈ w.map Prod.fst)
    (v : Reg) (sh : List (Nat × Reg)) :
    x.Shows p w { y with
      regs := { y.regs with v := y.regs.v.set r v }
      outs := y.outs.map fun a => if a.id = p.id then { a with shown := sh } else a } where
  rest := by rw [h.rest]
  length := by simpa using h.length
  others := fun m hm => by
    have hne : r ≠ m := fun e => hm (e ▸ hr)
    exact (Regs.reg_set_other y.regs hne v).trans (h.others m hm)
  stays := by
    obtain ⟨q, hq, hid, hact⟩ := h.stays
    exact ⟨{ q with shown := sh }, List.mem_map.2 ⟨q, hq, if_pos hid⟩, hid, hact⟩

theorem Strand.showEarly_shows {x : Strand} {p : Pend} (hp : p ∈ x.outs) (w : List (Nat × Reg)) (choose : Nat → Bool) :
    x.Shows p w (x.showEarly p w choose) := by
  refine List.foldlRecOn _ _ (.refl hp w) fun y hy q hq => ?_
  have hr : q.1.1 ∈ w.map Prod.fst := by
    obtain ⟨⟨a, n⟩, b⟩ := q
    exact List.mem_map.2 ⟨_, (List.mem_zipIdx (List.mem_filter.1 hq).1).2.2 ▸ List.getElem_mem _, rfl⟩
  dsimp only
  split
  · split
    · exact hy.put hr ..
    · exact hy.put hr ..
  · exact hy.put hr ..

/-! ## The completion -/

/-- A strand with nothing to leave and no handles to release stays where it is. -/
theorem State.windUp_of_settled {s : State} {pos : Nat} {y : Strand} (hy : s.strand? pos = some y)
    (hk : y.run ≠ .exited ∨ y.regs.k.all (· == 0) = true) (hl : y.leaving = []) (hp : pos < 384 * 2048) : s.windUp pos = s := by
  have hrel : s.releaseHandles pos = s := by
    unfold State.releaseHandles
    rw [hy]
    exact if_pos (hk.imp_right .inr)
  have hdep : s.depart pos = s := by
    unfold State.depart
    rw [hy]
    simp [hl]
  unfold State.windUp
  rw [hrel, hdep]
  exact if_neg fun h => absurd h.1 (Nat.not_le.2 hp)

theorem exec_completion_of_regs {s : State} {pos id : Nat} {x : Strand} {p : Pend} {w : List (Nat × Reg)} {fl : FFlags}
    (hs : s.strand? pos = some x) (hp : s.pend? pos id = some p) (hact : p.act = .regs w fl) (hheld : p.held = false)
    (hsvc : p.svc = none) (early : Bool) :
    exec (.longLatencyCompletion pos id early) s = .next ((s.finishRegs pos x p w fl early).windUp pos) := by
  rw [exec_longLatencyCompletion, execLongLatencyCompletion, hs, hp]
  simp [hheld, hsvc, State.advance, hact]

theorem State.id_of_pend? {s : State} {pos id : Nat} {p : Pend} (h : s.pend? pos id = some p) : p.id = id := by
  unfold State.pend? at h
  split at h
  · simpa using List.find?_some h
  · cases h

theorem State.mem_outs_of_pend? {s : State} {pos id : Nat} {x : Strand} {p : Pend} (hs : s.strand? pos = some x)
    (h : s.pend? pos id = some p) : p ∈ x.outs := by
  rw [State.pend?_of_strand hs] at h
  exact List.mem_of_find?_eq_some h

/-- A completion that writes its results: its strand finishes, after the writes that it made are performed at .c. -/
theorem exec_completion_of_write {s : State} {pos id : Nat} {x : Strand} {p : Pend} {w : List (Nat × Reg)} {fl : FFlags}
    {early : Bool} (hs : s.strand? pos = some x) (hp : s.pend? pos id = some p) (hact : p.act = .regs w fl) (hheld : p.held = false)
    (hsvc : p.svc = none) (hlate : (early && !p.mute && x.run != .exited) = false)
    (hk : x.run ≠ .exited ∨ x.regs.k.all (· == 0) = true) (hl : x.leaving = []) (hpos : pos < 384 * 2048) :
    exec (.longLatencyCompletion pos id early) s = .next ((s.writeDone pos id).complete pos id w fl) ∧
      ((s.writeDone pos id).complete pos id w fl).strand? pos = some (x.finish p fun r => r.write w fl) := by
  have hid := State.id_of_pend? hp
  have hstrand := State.strand?_complete_self ((s.strand?_writeDone pos id pos).trans hs)
    ((s.pend?_writeDone pos id pos id).trans hp) w fl
  refine ⟨?_, hstrand⟩
  rw [exec_completion_of_regs hs hp hact hheld hsvc, State.finishRegs, hlate, hid]
  refine congrArg Host.Outcome.next (State.windUp_of_settled hstrand ?_ ?_ hpos)
  · by_cases hx : x.run = .exited
    · refine .inr ?_
      rw [Strand.regs_finish_of_exited hx]
      exact hk.resolve_left (not_not.2 hx)
    · exact .inl (by rwa [Strand.run_finish])
  · rw [Strand.leaving_finish, hl]

end Sys2Proof.Machine

namespace Sys2Proof
open Sys2Proof.Machine Sys2Proof.Claims

theorem earlierResultsOutlasted : EarlierResultsOutlasted := by
  intro s pos id x p w fl hs hp hact hheld hsvc hmute hrun hl hpos
  obtain ⟨hexec, hstrand⟩ := exec_completion_of_write (early := false) hs hp hact hheld hsvc rfl (.inl hrun) hl hpos
  have hid := State.id_of_pend? hp
  refine ⟨_, hexec, _, hstrand, hid ▸ x.outs_finish p _, fun r hr => ?_⟩
  have hr' : r < (completing x.regs p.slot w fl).v.length := hr.trans_eq (x.regs.length_write w fl).symm
  rw [Strand.regs_finish_of_running hrun hmute, Regs.reg_keeping hr', hid]
  simp only [Strand.mem_outlasting]

theorem writeCompletes : WriteCompletes := by
  intro s pos id x p w fl e hs hp hact hheld hsvc hmute ⟨hrun, hl, _, hpos⟩ hone hby hid hfull
  subst hid
  obtain ⟨hexec, -⟩ := exec_completion_of_write (early := false) hs hp hact hheld hsvc rfl (.inl hrun) hl hpos
  obtain ⟨hmem, hearly⟩ := State.writeDone_of_one hone hby hfull
  refine ⟨_, hexec, hmem, fun c j => ?_⟩
  have hcore : coreOf pos < 394 := by unfold coreOf places; omega
  have hafter := (State.early_complete (s.writeDone pos e.id) pos e.id w fl).trans hearly
  rw [State.seen_of_one hafter, State.seen_of_one hone, Observers.has_join, Observers.has_units_one hcore,
    State.mem_complete, hmem]
  by_cases hc : unitOf c = coreOf pos
  · simp [hc]
  · simp [hc]

/-- Settles O14: a completion is the strand's `finish` after its writes (`exec_completion_of_write`), and an early one shows registers
(`Strand.showEarly_shows`). -/
theorem issuedResultsComplete : Obligations.IssuedResultsComplete := by
  refine ⟨earlierResultsOutlasted, writeCompletes, ?_⟩
  intro s pos id x p w fl early hs hp hact hheld hsvc
  have hid := State.id_of_pend? hp
  refine ⟨?_, ?_, ?_⟩
  · rintro hnone ⟨hrun, hl, hout, hpos⟩ hmute rfl
    obtain ⟨hexec, hstrand⟩ := exec_completion_of_write (early := false) hs hp hact hheld hsvc rfl (.inl hrun) hl hpos
    rw [State.writeDone_of_noneFirst hnone] at hexec hstrand
    exact ⟨_, hexec, ⟨⟨_, hstrand, Strand.regs_finish_of_none_outlasts hrun hmute hout w fl, hid ▸ x.outs_finish p _⟩,
      fun q hq => s.strand?_complete_ne hq id w fl, rfl⟩, rfl⟩
  · rintro ⟨hrun, hl, -, hpos⟩ hmute rfl
    obtain ⟨hrest, hlen, hothers, q, hq, hqid, hqact⟩ :=
      Strand.showEarly_shows (State.mem_outs_of_pend? hs hp) w s.freeBit
    have hstrand : (s.modStrand pos fun x => x.showEarly p w s.freeBit).strand? pos = some (x.showEarly p w s.freeBit) := by
      rw [State.strand?_modStrand_self, hs, Option.map_some]
    have hexec : exec (.longLatencyCompletion pos id true) s = .next (s.modStrand pos fun x => x.showEarly p w s.freeBit) := by
      have hearly : (true && !p.mute && x.run != .exited) = true := by simp [hmute, hrun]
      rw [exec_completion_of_regs hs hp hact hheld hsvc, State.finishRegs, if_pos hearly]
      refine congrArg Host.Outcome.next (State.windUp_of_settled hstrand (.inl ?_) ?_ hpos)
      · rwa [hrest]
      · rwa [hrest]
    exact ⟨_, hexec, rfl, fun q hq => State.strand?_modStrand_ne s _ hq.symm, x.showEarly p w s.freeBit,
      (x.showEarly p w s.freeBit).regs.v, hstrand, congrArg Strand.regs hrest, hlen, hothers, q, hq, hqid.trans hid, hqact.trans hact⟩
  · intro hnone hexit hl hk hpos
    obtain ⟨hexec, hstrand⟩ := exec_completion_of_write hs hp hact hheld hsvc (by simp [hexit]) (.inr hk) hl hpos
    rw [State.writeDone_of_noneFirst hnone] at hexec hstrand
    exact ⟨_, hexec, ⟨⟨_, hstrand, Strand.regs_finish_of_exited hexit p _, hid ▸ x.outs_finish p _⟩,
      fun q hq => s.strand?_complete_ne hq id w fl, rfl⟩, rfl⟩

end Sys2Proof
end

section
/-! PROOFS. A word that decodes, reached by lanes that none of its waits hold back: the move is its `exec` and the end of the word
(02 R22, R28; 07 R117), for an issue set inside a clause and for the set of a `tstep` (18 R341). -/

namespace Sys2Proof.Machine

/-! ## What the end of a word leaves of a package -/

/-- Memory, contexts and events are the same. -/
structure State.SameOutside (s t : State) : Prop where
  mem : t.mem = s.mem
  ctxs : t.ctxs = s.ctxs
  events : t.events = s.events

theorem State.SameOutside.refl (s : State) : s.SameOutside s := ⟨rfl, rfl, rfl⟩

theorem State.SameOutside.trans {s t u : State} (h : s.SameOutside t) (k : t.SameOutside u) : s.SameOutside u :=
  ⟨k.mem.trans h.mem, k.ctxs.trans h.ctxs, k.events.trans h.events⟩

theorem OnlyIssue.sameOutside {s t : State} (h : OnlyIssue s t) : s.SameOutside t := by
  obtain ⟨x, b, q, rfl⟩ := h
  exact ⟨rfl, rfl, rfl⟩

/-- The end of a step: the strands of its lanes are held with its record. -/
def State.heldAfterStep (s : State) (i : Issue) : State :=
  s.mapBraid i.braid fun pos x =>
    if i.mask.getLsbD (laneOf pos) ∧ x.run ≠ .exited then
      { x with held := true, trap := if x.run = .trapped ∨ x.deferred.isSome then x.trap else stepRecord i }
    else x

/-- Those who asked for a step have their answers. -/
def State.answerSteps (s : State) (l : List (Nat × Nat × Nat)) (st : Reg) : State :=
  l.foldl (fun s y => s.complete y.1 y.2.1 [(y.2.2, st)] 0) s

/-- The quarter becomes `x`, and no step is in progress. -/
def State.leaveStep (s : State) (x : Quarter) : State := { (s.setQuarter s.focus x) with stepping := false }

theorem State.endStep_of_step {s : State} {r : StepReq} (h : (s.quarter s.focus).step = some r) (i : Issue) :
    ∃ st, s.endStep i = ((s.heldAfterStep i).answerSteps r.by_ st).leaveStep { s.quarter s.focus with step := none } := by
  unfold State.endStep
  dsimp only
  split
  · rename_i hn
    rw [h] at hn
    cases hn
  · rename_i r' hr
    obtain rfl : r' = r := Option.some.inj (hr.symm.trans h)
    exact ⟨_, rfl⟩

theorem State.answerSteps_sameOutside (s : State) (l : List (Nat × Nat × Nat)) (st : Reg) : s.SameOutside (s.answerSteps l st) := by
  unfold State.answerSteps
  refine foldl_keeps (P := s.SameOutside) _ (fun t y h => ?_) l (.refl s)
  exact h.trans ⟨rfl, rfl, rfl⟩

theorem State.focus_answerSteps (s : State) (l : List (Nat × Nat × Nat)) (st : Reg) : (s.answerSteps l st).focus = s.focus := by
  unfold State.answerSteps
  refine foldl_keeps (P := fun t : State => t.focus = s.focus) _ (fun t y h => ?_) l rfl
  exact h

theorem State.quarter_leaveStep {s : State} {q : Nat} (h : s.focus = q) (x : Quarter) : (s.leaveStep x).quarter q = x := by
  subst h
  exact s.quarter_setQuarter s.focus x

theorem State.endStep_sameOutside (s : State) (i : Issue) : s.SameOutside (s.endStep i) := by
  cases h : (s.quarter s.focus).step with
  | none =>
    unfold State.endStep
    dsimp only
    rw [h]
    exact ⟨rfl, rfl, rfl⟩
  | some r =>
    obtain ⟨st, he⟩ := State.endStep_of_step h i
    rw [he]
    exact (s.mapBraid_onlyIssue ..).sameOutside.trans ((State.answerSteps_sameOutside _ r.by_ st).trans ⟨rfl, rfl, rfl⟩)

/-- The lanes of the issue set after its word, their braid not settled yet. -/
def State.lanesAfterWord (before s : State) (x : Issue) : State :=
  s.mapBraid x.braid fun pos y =>
    if x.mask.getLsbD (laneOf pos) then
      y.afterWord x ((before.strand? pos).getD y) (fun r => s.freeBit (256 * laneOf pos + r))
    else y

theorem State.settleWord_eq (before s : State) (x : Issue) :
    before.settleWord s x = (before.lanesAfterWord s x).settleBraid x.braid := rfl

/-- The lanes of the issue set whose strand issued the word, or trapped at it. -/
def State.steppedLanes (before s : State) (x : Issue) : List Nat :=
  (lanesOf x.mask).filter fun l =>
    ((before.lanesAfterWord s x).strand? (posOf x.braid l)).any fun y =>
        y.run == .trapped || y.deferred.isSome || y.issued x.here ((before.strand? (posOf x.braid l)).getD y).nextId

/-- A word of a step ends the step, unless no lane has come past it. -/
theorem State.endWord_of_stepping {s : State} {x : Issue} (before : State) (hx : s.cur = some x) (hstep : s.stepping = true) :
    before.endWord s =
      if (before.steppedLanes s x).isEmpty then before.settleWord s x
      else (before.settleWord s x).endStep { x with mask := maskOf (before.steppedLanes s x) } := by
  have hn : (before.settleWord s x).stepping = true := (State.settleWord_onlyIssue before s x).stepping.trans hstep
  unfold State.endWord
  rw [hx]
  dsimp only
  exact if_pos hn

theorem State.endWord_sameOutside (before s : State) : s.SameOutside (before.endWord s) := by
  cases hx : s.cur with
  | none =>
    unfold State.endWord
    rw [hx]
    exact .refl s
  | some x =>
    cases hstep : s.stepping with
    | false => exact (State.endWord_onlyIssue before hx hstep).sameOutside
    | true =>
      have hsettle := (State.settleWord_onlyIssue before s x).sameOutside
      rw [State.endWord_of_stepping before hx hstep]
      split
      · exact hsettle
      · exact hsettle.trans (State.endStep_sameOutside ..)

theorem State.stepAgain_sameOutside (s : State) : s.SameOutside s.stepAgain := by
  unfold State.stepAgain
  dsimp only
  split
  · exact ⟨rfl, rfl, rfl⟩
  · exact .refl s

theorem State.stepAgain_of_not_stepping {s : State} (h : s.stepping = false) : s.stepAgain = s :=
  if_neg (ne_true_of_eq_false h)

/-! ## A candidate after its word -/

theorem State.strand?_settleBraid_of_candidate {s : State} {p : Nat} {y : Strand} (b : Nat) (hs : s.strand? p = some y)
    (hy : y.run = .candidate) : (s.settleBraid b).strand? p = some y := by
  have h1 : (s.mapBraid b fun _ x => if s.stallOver x then { x with run := .candidate } else x).strand? p = some y := by
    rw [State.strand?_mapBraid, hs]
    simp [State.stallOver, hy]
  have h2 (t : State) (ht : t.strand? p = some y) : (t.releaseGather b).strand? p = some y := by
    have ht : AMap.get? t.strands p = some y := ht
    simp [State.releaseGather, State.strand?, AMap.get?_mapVals, ht, hy]
  have h3 (t : State) (ht : t.strand? p = some y) : (t.slackReturn b).strand? p = some y := by
    have ht : AMap.get? t.strands p = some y := ht
    simp [State.slackReturn, State.pruneWatch, State.strand?, AMap.get?_mapVals, ht, hy]
  exact h3 _ (h2 _ h1)

/-- What the notes on a word change of a strand: its outstanding instructions and the values that outlast them. -/
theorem Strand.overwrite_eq (y : Strand) (rs : List Nat) (keep : Nat → Bool) :
    ∃ o l, y.overwrite rs keep = { y with outs := o, outlasts := l } := by
  unfold Strand.overwrite
  split
  · exact ⟨_, _, rfl⟩
  · exact ⟨_, _, rfl⟩

theorem Strand.countWord_eq (y : Strand) (n : Nat) : ∃ o, y.countWord n = { y with outs := o } := ⟨_, rfl⟩

/-- The strand `y`, left a candidate at the word of `i`, goes on to the point after it. -/
structure Strand.MovedOn (y : Strand) (i : Issue) (z : Strand) : Prop where
  run : z.run = .candidate
  deferred : z.deferred = y.deferred
  regs : z.regs.v = y.regs.v
  pc : z.regs.pc = i.nextPoint

theorem Strand.movedOn_afterWord {y was : Strand} {i : Issue} (keep : Nat → Bool) (hy : y.run = .candidate)
    (hpc : y.regs.pc = i.here) (hh : was.handler = true → y.handler = true) : y.MovedOn i (y.afterWord i was keep) := by
  have hnotes : ∃ o l, (if y.executed was i then y.overwrite i.fixedWrites keep else y) = { y with outs := o, outlasts := l } := by
    split
    · exact y.overwrite_eq ..
    · exact ⟨_, _, rfl⟩
  obtain ⟨o, l, hnotes⟩ := hnotes
  have hcount : ∀ z : Strand, ∃ o, (if z.issued i.here was.nextId then z.countWord was.nextId else z) = { z with outs := o } := by
    intro z
    split
    · exact z.countWord_eq _
    · exact ⟨_, rfl⟩
  obtain ⟨o', hcount⟩ := hcount { y with outs := o, outlasts := l }
  have hgo : y.run = .candidate ∧ y.regs.pc = i.here ∧ ¬ (was.handler = true ∧ ¬ y.handler = true) :=
    ⟨hy, hpc, fun h => h.2 (hh h.1)⟩
  unfold Strand.afterWord
  dsimp only
  rw [hnotes, hcount, if_pos hgo]
  exact ⟨hy, rfl, rfl, rfl⟩

theorem laneOf_posOf {b l : Nat} (h : l < 32) : laneOf (posOf b l) = l := by
  unfold laneOf posOf
  omega

theorem braidOf_posOf {b l : Nat} (h : l < 32) : braidOf (posOf b l) = b := by
  unfold braidOf posOf
  omega

section
variable {before s : State} {x : Issue} {l : Nat} {y : Strand} (hl : l ∈ lanesOf x.mask)
  (hs : s.strand? (posOf x.braid l) = some y) (hy : y.run = .candidate) (hpc : y.regs.pc = x.here)
  (hh : ∀ y0, before.strand? (posOf x.braid l) = some y0 → y0.handler = true → y.handler = true)
include hl hs hy hpc hh

/-- A lane that its word left a candidate there, before its braid is settled. -/
theorem State.afterWord_moves_on : ∃ z, y.MovedOn x z ∧ (before.lanesAfterWord s x).strand? (posOf x.braid l) = some z := by
  obtain ⟨hlt, hmask⟩ := mem_lanesOf.1 hl
  have hwas : ((before.strand? (posOf x.braid l)).getD y).handler = true → y.handler = true := by
    cases hb : before.strand? (posOf x.braid l) with
    | none => exact id
    | some y0 => exact hh y0 hb
  refine ⟨_, Strand.movedOn_afterWord (fun r => s.freeBit (256 * l + r)) hy hpc hwas, ?_⟩
  unfold State.lanesAfterWord
  rw [State.strand?_mapBraid, hs, Option.map_some, if_pos (braidOf_posOf hlt), laneOf_posOf hlt, if_pos hmask]

theorem State.settleWord_moves_on : ∃ z, y.MovedOn x z ∧ (before.settleWord s x).strand? (posOf x.braid l) = some z := by
  obtain ⟨z, hz, hstrand⟩ := State.afterWord_moves_on hl hs hy hpc hh
  rw [State.settleWord_eq]
  exact ⟨z, hz, State.strand?_settleBraid_of_candidate _ hstrand hz.run⟩

theorem State.endWord_moves_on (hx : s.cur = some x) (hstep : s.stepping = false) :
    ∃ z, y.MovedOn x z ∧ (before.endWord s).strand? (posOf x.braid l) = some z := by
  obtain ⟨z, hz, hstrand⟩ := State.settleWord_moves_on hl hs hy hpc hh
  refine ⟨z, hz, ?_⟩
  obtain he | ⟨c, he⟩ := State.endWord_cases before hx hstep
  · rw [he, State.strand?_dropCur, hstrand]
  · rw [he, State.strand?_setCur, hstrand]

theorem State.mem_steppedLanes_of_candidate : l ∈ before.steppedLanes s x := by
  obtain ⟨z, hz, hstrand⟩ := State.afterWord_moves_on hl hs hy hpc hh
  refine List.mem_filter.2 ⟨hl, ?_⟩
  rw [hstrand]
  simp [Strand.issued, hz.run]

end

/-! ## A strand that is held after its step -/

/-- A strand that a step has left at a point, held, with its record. -/
structure Strand.HeldAt (p : Point) (r : TrapRec) (z : Strand) : Prop where
  held : z.held = true
  trap : z.trap = r
  pc : z.regs.pc = p

theorem Strand.HeldAt.finish {p : Point} {r : TrapRec} {z : Strand} (h : z.HeldAt p r) (a : Pend) (w : List (Nat × Reg))
    (fl : FFlags) : (z.finish a fun r => r.write w fl).HeldAt p r := by
  obtain ⟨hheld, htrap, hpc⟩ := h
  unfold Strand.finish
  split
  · exact ⟨hheld, htrap, hpc⟩
  · split
    · exact ⟨hheld, htrap, hpc⟩
    · exact ⟨hheld, htrap, hpc⟩

/-- The answers of a step leave a strand held where it is. -/
theorem State.answerSteps_heldAt {s : State} {pos : Nat} {p : Point} {r : TrapRec}
    (h : ∃ z, s.strand? pos = some z ∧ z.HeldAt p r) (l : List (Nat × Nat × Nat)) (st : Reg) :
    ∃ z, (s.answerSteps l st).strand? pos = some z ∧ z.HeldAt p r := by
  refine foldl_keeps (P := fun s => ∃ z, State.strand? s pos = some z ∧ z.HeldAt p r) _ (fun s y h => ?_) l h
  obtain ⟨z, hz, hat⟩ := h
  by_cases hp : y.1 = pos
  · subst hp
    rw [State.complete, State.strand?_modStrand_self, hz, Option.map_some]
    refine ⟨_, rfl, ?_⟩
    split
    · exact hat.finish ..
    · exact hat
  · exact ⟨z, (State.strand?_modStrand_ne _ _ hp).trans hz, hat⟩

theorem State.strand?_heldAfterStep {s : State} {i : Issue} {l : Nat} {z : Strand} (hl : l ∈ lanesOf i.mask)
    (hs : s.strand? (posOf i.braid l) = some z) (hrun : z.run = .candidate) (hdef : z.deferred = none) :
    ∃ y, (s.heldAfterStep i).strand? (posOf i.braid l) = some y ∧ y.HeldAt z.regs.pc (stepRecord i) := by
  obtain ⟨hlt, hmask⟩ := mem_lanesOf.1 hl
  unfold State.heldAfterStep
  rw [State.strand?_mapBraid, hs, Option.map_some, if_pos (braidOf_posOf hlt), laneOf_posOf hlt,
    if_pos ⟨hmask, by simp [hrun]⟩]
  exact ⟨_, rfl, rfl, if_neg (by simp [hrun, hdef]), rfl⟩

/-- The end of a step: it is over, and the strand of a lane that went on is held at the point after the word. -/
theorem State.endStep_holds {s : State} {r : StepReq} {i : Issue} {l : Nat} {z : Strand} (hr : (s.quarter s.focus).step = some r)
    (hl : l ∈ lanesOf i.mask) (hs : s.strand? (posOf i.braid l) = some z) (hrun : z.run = .candidate)
    (hdef : z.deferred = none) :
    ((s.endStep i).quarter s.focus).step = none ∧ (s.endStep i).stepping = false ∧
      ∃ y, (s.endStep i).strand? (posOf i.braid l) = some y ∧ y.HeldAt z.regs.pc (stepRecord i) := by
  obtain ⟨st, he⟩ := State.endStep_of_step hr i
  rw [he]
  refine ⟨?_, rfl, State.answerSteps_heldAt (State.strand?_heldAfterStep hl hs hrun hdef) r.by_ st⟩
  exact congrArg Quarter.step (State.quarter_leaveStep (q := s.focus) ((s.heldAfterStep i).focus_answerSteps r.by_ st) _)

/-! ## Coming to a word that decodes -/

/-- A fold over lanes whose steps add the lane to the mask, and change nothing of the state, gathers the mask of the lanes. -/
theorem foldl_gatherLanes {σ υ α : Type} {s : σ} {f : σ × BitVec 32 × υ → Nat × α → σ × BitVec 32 × υ} (l : List (Nat × α))
    (hf : ∀ m u, ∀ p ∈ l, f (s, m, u) p = (s, m ||| BitVec.twoPow 32 p.1, (f (s, m, u) p).2.2)) (m : BitVec 32) (u : υ) :
    l.foldl f (s, m, u) =
      (s, (l.map Prod.fst).foldl (fun m j => m ||| BitVec.twoPow 32 j) m, (l.foldl f (s, m, u)).2.2) := by
  induction l generalizing m u with
  | nil => rfl
  | cons p l ih =>
    rw [List.foldl_cons, hf m u p (List.mem_cons_self ..)]
    exact ih (fun m u q hq => hf m u q (List.mem_cons_of_mem _ hq)) _ _

theorem State.reached_mask_ne_zero {s : State} {x : Issue} (h : s.reaching x ≠ []) : (s.reached x).mask ≠ 0 := by
  obtain ⟨⟨l, st⟩, hmem⟩ := List.exists_mem_of_ne_nil _ h
  intro h0
  have hl := State.mem_reached.2 ⟨st, hmem⟩
  rw [h0] at hl
  simp [mem_lanesOf] at hl

/-- Lanes that reach a word, none of them held back, all come to it. -/
theorem State.beginWord_of_free {s : State} {x : Issue} (hx : s.cur = some x) (hne : s.reaching x ≠ [])
    (hfree : ∀ p ∈ s.reaching x, ∀ room, s.gate (s.reached x) x.decoded p.1 p.2 room = none) :
    s.beginWord = (s.setCur (s.reached x), some x.decoded) := by
  unfold State.beginWord
  rw [hx]
  dsimp only
  rw [foldl_gatherLanes (s.reaching x) ?_]
  · exact if_neg (State.reached_mask_ne_zero hne)
  · intro m u p hp
    have hgate : s.gate { x with mask := maskOf ((s.reaching x).map Prod.fst) }
        (Issue.decoded { x with mask := maskOf ((s.reaching x).map Prod.fst) }) p.1 p.2
        (decide (u < 64 - s.holdCount x.braid)) = none := hfree p hp _
    dsimp only
    rw [hgate]

/-- The move of an issue set at such a word is its `exec` and the end of the word. -/
theorem State.runIssue_of_free {s : State} {x : Issue} {i : Instr} (hx : s.settleCur.cur = some x)
    (hne : s.settleCur.reaching x ≠ []) (hd : x.decoded = .ok i)
    (hfree : ∀ p ∈ s.settleCur.reaching x, ∀ room, s.settleCur.gate (s.settleCur.reached x) (.ok i) p.1 p.2 room = none) {v : State}
    (hv : exec i (s.settleCur.setCur (s.settleCur.reached x)) = .next v) :
    s.runIssue = .next ((s.settleCur.setCur (s.settleCur.reached x)).endWord v) := by
  unfold State.runIssue
  rw [State.beginWord_of_free hx hne (hd ▸ hfree), hd]
  dsimp only
  rw [hv]

/-! ## Moves -/

theorem step_of_head {s : State} {m : Move} (h : s.agenda.head? = some m) : step s = s.takeMove.2.runMove m := by
  have hm : s.takeMove.1 = m := by
    rw [List.head?_eq_some_iff] at h
    obtain ⟨l, hl⟩ := h
    simp [State.takeMove, hl]
  rw [← hm]
  rfl

theorem State.runWord_of_stopped {s : State} {q : Nat} (hq : q < 1536) (h : s.clocksStopped = true) : s.runWord q = .next s := by
  unfold State.runWord
  rw [if_neg (Nat.not_le.2 hq), if_pos h]

theorem State.runWord_of_running {s : State} {q : Nat} (hq : q < 1536) (h : s.clocksStopped = false)
    (hcur : (s.quarter q).cur ≠ none) : s.runWord q = ({ s with focus := q, stepping := false } : State).runIssue := by
  obtain ⟨y, hy⟩ := Option.ne_none_iff_exists'.1 hcur
  unfold State.runWord
  rw [if_neg (Nat.not_le.2 hq), if_neg (ne_true_of_eq_false h), hy]

theorem State.runStepWord_of_waiting {s : State} {q : Nat} (hq : q < 1536)
    (h : s.clocksStopped = true ∨ (s.quarter q).step = none ∨ (s.quarter q).cur ≠ none) : s.runStepWord q = .next s := by
  unfold State.runStepWord
  rw [if_neg (Nat.not_le.2 hq)]
  split
  · rfl
  · rename_i hclk
    split
    · rfl
    · rfl
    · rename_i r hr hc
      simp [hclk, hr, hc] at h

theorem State.runStepWord_of_formed {s : State} {q : Nat} {r : StepReq} (hq : q < 1536) (h : s.clocksStopped = false)
    (hr : (s.quarter q).step = some r) (hc : (s.quarter q).cur = none)
    (hf : (({ s with focus := q, stepping := false } : State).formStep r).stepping = true) {t : State}
    (ht : (({ s with focus := q, stepping := false } : State).formStep r).runIssue = .next t) :
    s.runStepWord q = .next t.stepAgain := by
  unfold State.runStepWord
  rw [if_neg (Nat.not_le.2 hq), if_neg (ne_true_of_eq_false h), hr, hc]
  dsimp only
  rw [hf, ht]
  rfl

/-- Settling a braid brings no issue set to a quarter that has none. -/
theorem State.cur_of_settleCur {s : State} {x : Issue} (h : s.settleCur.cur = some x) : s.cur ≠ none := by
  intro hn
  unfold State.settleCur at h
  rw [hn] at h
  dsimp only at h
  rw [hn] at h
  cases h

end Sys2Proof.Machine

namespace Sys2Proof
open Sys2Proof.Machine Sys2Proof.Claims

theorem quarterAndEventSteps : QuarterAndEventSteps := by
  refine ⟨?_, fun s i hhead hword => ⟨fun hrun => ?_, fun hclk hun => ?_⟩, fun s q hhead hq hclk => ?_⟩
  · intro s q x i hhead hq hclk m r hx x' w size u hd hne hfree v hv
    have hm : m.clocksStopped = false := hclk
    have hstep : step s = .next (u.endWord v) := by
      rw [step_of_head hhead]
      exact (State.runWord_of_running hq hm (State.cur_of_settleCur hx)).trans
        (State.runIssue_of_free hx hne hd hfree hv)
    obtain ⟨hmem, hctxs, hevents⟩ := State.endWord_sameOutside u v
    refine ⟨_, hstep, hmem, hctxs, hevents, fun l y hl hy hcur hnot hrun hpc hh => ?_⟩
    have hlane : l ∈ lanesOf x'.mask := mem_lanesOf.2 ⟨BitVec.lt_of_getLsbD hl, hl⟩
    obtain ⟨z, hz, hstrand⟩ := State.endWord_moves_on hlane hy hrun hpc hh hcur hnot
    exact ⟨z, hstrand, hz.run, hz.regs, hz.pc⟩
  · have hgo : (i.info.word || (s.takeMove.2.clocksStopped && !unclocked i)) = false := by
      rw [s.clocksStopped_takeMove, hword]
      obtain h | h := hrun <;> simp [h]
    rw [step_of_head hhead]
    exact if_neg (ne_true_of_eq_false hgo)
  · have hstay : (i.info.word || (s.takeMove.2.clocksStopped && !unclocked i)) = true := by
      simp [s.clocksStopped_takeMove, hclk, hun]
    rw [step_of_head hhead]
    exact if_pos hstay
  · rw [step_of_head hhead]
    exact State.runWord_of_stopped hq hclk

theorem steppedWordRuns : SteppedWordRuns := by
  intro s q hhead hq m
  refine ⟨fun h => ?_, ?_⟩
  · rw [step_of_head hhead]
    exact State.runStepWord_of_waiting hq h
  · intro r x i hclk hr hc f n hf hx x' w size u hd hne hfree v hv hcur hstepping hfocus hstep
    have hm : m.clocksStopped = false := hclk
    have hrun : step s = .next (u.endWord v).stepAgain := by
      rw [step_of_head hhead]
      exact State.runStepWord_of_formed hq hm hr hc hf (State.runIssue_of_free hx hne hd hfree hv)
    obtain ⟨hmem, hctxs, hevents⟩ := (State.endWord_sameOutside u v).trans (State.stepAgain_sameOutside _)
    refine ⟨_, hrun, hmem, hctxs, hevents, fun l y hl hy hcand hdef hpc hh => ?_⟩
    have hlane : l ∈ lanesOf x'.mask := mem_lanesOf.2 ⟨BitVec.lt_of_getLsbD hl, hl⟩
    obtain ⟨z, hz, hstrand⟩ := State.settleWord_moves_on hlane hy hcand hpc hh
    have hmem := State.mem_steppedLanes_of_candidate hlane hy hcand hpc hh
    have hnone : (u.steppedLanes v x').isEmpty = false := List.isEmpty_eq_false_iff.2 (List.ne_nil_of_mem hmem)
    obtain ⟨r', hr'⟩ := Option.ne_none_iff_exists'.1 hstep
    have hq' : ((u.settleWord v x').quarter (u.settleWord v x').focus).step = some r' := by
      rw [← hr', (State.settleWord_onlyIssue u v x').focus, hfocus]
      rfl
    obtain ⟨hover, hdone, t, ht, hheld, htrap, hat⟩ := State.endStep_holds (i := { x' with mask := maskOf (u.steppedLanes v x') }) hq'
      (mem_lanesOf_maskOf.2 ⟨(mem_lanesOf.1 hlane).1, hmem⟩) hstrand hz.run (hz.deferred.trans hdef)
    rw [(State.settleWord_onlyIssue u v x').focus, hfocus] at hover
    have hend : (u.endWord v).stepAgain = (u.settleWord v x').endStep { x' with mask := maskOf (u.steppedLanes v x') } := by
      rw [State.endWord_of_stepping u hcur hstepping, hnone]
      exact State.stepAgain_of_not_stepping hdone
    rw [hend]
    exact ⟨hover, hdone, t, ht, hheld, htrap, hat.trans hz.pc⟩

/-- Settles O52: a free word is begun for the lanes that reach it (`State.beginWord_of_free`), and its end moves them on, or holds them
where they were stepped (`State.endWord_moves_on`, `State.endStep_holds`). -/
theorem stepRunsDecodedWord : Obligations.StepRunsDecodedWord := ⟨quarterAndEventSteps, steppedWordRuns⟩

end Sys2Proof
end

section
/-! PROOFS. How contexts move while device writes, records and faults pass (04 R77, R85; 09 R176 to R178): the command block stays. -/

namespace Sys2Proof.Machine

/-- The command block and the interrupts are as before, and each context has gone on as `R` says; none has come or gone. -/
structure Goes (R : Ctx → Ctx → Prop) (s t : State) : Prop where
  cmd : t.cmd = s.cmd
  msix : t.msix = s.msix
  ctxs : ∀ n, Option.Rel R (s.ctxs.get? n) (t.ctxs.get? n)

/-- A context keeps its state, its fault code and its count of records. -/
def Ctx.Stays (c d : Ctx) : Prop := d.st = c.st ∧ d.faultCode = c.faultCode ∧ d.seq = c.seq

/-- It stays, or has faulted from active with this code. -/
def Ctx.Faults (code : Nat) (c d : Ctx) : Prop :=
  c.Stays d ∨ (c.st = .active ∧ d.st = .faulted ∧ d.faultCode = code ∧ d.seq = c.seq)

/-- It keeps its state, or has faulted from active. -/
def Ctx.Moves (c d : Ctx) : Prop := d.st = c.st ∨ (c.st = .active ∧ d.st = .faulted)

theorem Ctx.Stays.refl (c : Ctx) : c.Stays c := ⟨rfl, rfl, rfl⟩

theorem Ctx.Stays.trans {c d e : Ctx} (h : c.Stays d) (k : d.Stays e) : c.Stays e :=
  ⟨k.1.trans h.1, k.2.1.trans h.2.1, k.2.2.trans h.2.2⟩

theorem Ctx.Faults.refl (code : Nat) (c : Ctx) : c.Faults code c := .inl (.refl c)

theorem Ctx.Faults.trans {code : Nat} {c d e : Ctx} (h : c.Faults code d) (k : d.Faults code e) : c.Faults code e := by
  rcases h with h | ⟨hc, hd, hcode, hseq⟩
  · rcases k with k | ⟨kd, ke, kcode, kseq⟩
    · exact .inl (h.trans k)
    · exact .inr ⟨h.1 ▸ kd, ke, kcode, kseq.trans h.2.2⟩
  · rcases k with ⟨kst, kcode, kseq⟩ | ⟨kd, -⟩
    · exact .inr ⟨hc, kst.trans hd, kcode.trans hcode, kseq.trans hseq⟩
    · cases hd.symm.trans kd

theorem Ctx.Moves.refl (c : Ctx) : c.Moves c := .inl rfl

theorem Ctx.Moves.trans {c d e : Ctx} (h : c.Moves d) (k : d.Moves e) : c.Moves e := by
  rcases h with h | ⟨hc, hd⟩
  · exact k.imp (·.trans h) fun ⟨kd, ke⟩ => ⟨h ▸ kd, ke⟩
  · rcases k with k | ⟨kd, -⟩
    · exact .inr ⟨hc, k.trans hd⟩
    · cases hd.symm.trans kd

theorem Ctx.Faults.moves {code : Nat} {c d : Ctx} (h : c.Faults code d) : c.Moves d :=
  h.imp (·.1) fun ⟨hc, hd, _⟩ => ⟨hc, hd⟩

/-- Contexts that fault with a code are faulted, or not active, after it. -/
theorem Ctx.Moves.faulted {c d : Ctx} (h : c.Moves d) (hc : c.st = .faulted) : d.st = .faulted := by
  rcases h with h | ⟨ha, -⟩
  · exact h.trans hc
  · cases hc.symm.trans ha

theorem Goes.of_ctxs {R : Ctx → Ctx → Prop} (hR : ∀ c, R c c) {s t : State} (hc : t.cmd = s.cmd) (hm : t.msix = s.msix)
    (hx : t.ctxs = s.ctxs) : Goes R s t := by
  refine ⟨hc, hm, fun n => ?_⟩
  rw [hx]
  cases s.ctxs.get? n with
  | none => exact .none
  | some c => exact .some (hR c)

theorem optionRel_mono {α : Type} {R S : α → α → Prop} (hS : ∀ {c d}, R c d → S c d) : ∀ {a b : Option α}, Option.Rel R a b → Option.Rel S a b
  | _, _, .some h => .some (hS h)
  | _, _, .none => .none

theorem optionRel_trans {α : Type} {R : α → α → Prop} (hR : ∀ {c d e : α}, R c d → R d e → R c e) :
    ∀ {a b c : Option α}, Option.Rel R a b → Option.Rel R b c → Option.Rel R a c
  | _, _, _, .some h, .some k => .some (hR h k)
  | _, _, _, .none, .none => .none

theorem Goes.mono {R S : Ctx → Ctx → Prop} {s t : State} (h : Goes R s t) (hS : ∀ {c d}, R c d → S c d) : Goes S s t :=
  ⟨h.cmd, h.msix, fun n => optionRel_mono (R := R) (S := S) hS (h.ctxs n)⟩

theorem Goes.trans {R : Ctx → Ctx → Prop} (hR : ∀ {c d e : Ctx}, R c d → R d e → R c e) {s t u : State} (h : Goes R s t) (k : Goes R t u) :
    Goes R s u := ⟨k.cmd.trans h.cmd, k.msix.trans h.msix, fun n => optionRel_trans (R := R) hR (h.ctxs n) (k.ctxs n)⟩

/-- What a context has become. -/
theorem Goes.get {R : Ctx → Ctx → Prop} {s t : State} (h : Goes R s t) {n : Nat} {c : Ctx} (hc : s.ctxs.get? n = some c) :
    ∃ d, t.ctxs.get? n = some d ∧ R c d := by
  have hn := h.ctxs n
  rw [hc] at hn
  generalize t.ctxs.get? n = b at hn
  cases hn with
  | some k => exact ⟨_, rfl, k⟩

theorem Goes.of_get {R : Ctx → Ctx → Prop} {s t : State} (h : Goes R s t) {n : Nat} {d : Ctx} (hd : t.ctxs.get? n = some d) :
    ∃ c, s.ctxs.get? n = some c ∧ R c d := by
  have hn := h.ctxs n
  rw [hd] at hn
  generalize s.ctxs.get? n = b at hn
  cases hn with
  | some k => exact ⟨_, rfl, k⟩

/-- A context changed as `R` allows of the one that a lookup finds. -/
theorem Goes.modCtx_at {R : Ctx → Ctx → Prop} (hR : ∀ c, R c c) {s : State} {n : Nat} {f : Ctx → Ctx}
    (hf : ∀ c, s.ctxs.get? n = some c → R c (f c)) : Goes R s (s.modCtx n f) := by
  refine ⟨rfl, rfl, fun m => ?_⟩
  rw [State.modCtx, AMap.get?_modify]
  by_cases hm : n = m
  · subst hm
    rw [if_pos rfl]
    cases hc : s.ctxs.get? n with
    | none => exact .none
    | some c => exact .some (hf c hc)
  · rw [if_neg hm]
    cases s.ctxs.get? m with
    | none => exact .none
    | some c => exact .some (hR c)

theorem Goes.modCtx {R : Ctx → Ctx → Prop} (hR : ∀ c, R c c) (s : State) (n : Nat) {f : Ctx → Ctx} (hf : ∀ c, R c (f c)) :
    Goes R s (s.modCtx n f) := .modCtx_at hR fun c _ => hf c

theorem State.get?_modCtx_self {s : State} {n : Nat} {c : Ctx} (h : s.ctxs.get? n = some c) (f : Ctx → Ctx) :
    (s.modCtx n f).ctxs.get? n = some (f c) := by
  rw [State.modCtx, AMap.get?_modify, if_pos rfl, h, Option.map_some]

theorem OnlyWrites.goes {R : Ctx → Ctx → Prop} (hR : ∀ c, R c c) {s t : State} (h : OnlyWrites s t) : Goes R s t := by
  obtain ⟨m, e, x, rfl, -⟩ := h
  exact .of_ctxs hR rfl rfl rfl

/-! ## Requests and writes of the device's engines -/

theorem State.sendParts_eq (s : State) (pos id ctx core : Nat) (ps : List Part) :
    ∃ p, s.sendParts pos id ctx core ps = { s with ports := p } := by
  refine foldl_keeps (P := fun t => ∃ p, t = { s with ports := p }) _ (fun t p h => ?_) ps ⟨s.ports, rfl⟩
  obtain ⟨l, rfl⟩ := h
  split
  · unfold State.sendFlit
    dsimp only
    split
    · exact ⟨_, rfl⟩
    · exact ⟨l, rfl⟩
  · exact ⟨l, rfl⟩

theorem State.awaitLink_eq (s : State) (o : Holder) (ctx core pkg : Nat) : ∃ w, s.awaitLink o ctx core pkg = { s with linkWaits := w } := by
  unfold State.awaitLink
  split
  · exact ⟨s.linkWaits, rfl⟩
  · exact ⟨_, rfl⟩

/-- What a device write changes of a state: memory and what stands with it, and the replay buffers of ports. -/
theorem State.devWrite_eq {s t : State} {core ctx va len v : Nat} (h : s.devWrite core ctx va len v = .ok t) :
    ∃ m e x p, t = { s.withWrites m e x with ports := p } := by
  unfold State.devWrite at h
  split at h
  · cases h
  · rename_i ps _
    split at h
    · cases h
    · obtain ⟨p, hp⟩ := s.sendParts_eq engineFlit 0 ctx core ps
      rw [hp] at h
      obtain ⟨m, e, x, hw, -⟩ := State.putParts_only { s with ports := p } (.engine (dieOf core)) v ps
      rw [hw] at h
      exact ⟨m, e, x, p, (Except.ok.inj h).symm⟩

section
variable {R : Ctx → Ctx → Prop} (hR : ∀ c, R c c)
include hR

theorem State.devWrite_goes {s t : State} {core ctx va len v : Nat} (h : s.devWrite core ctx va len v = .ok t) : Goes R s t := by
  obtain ⟨m, e, x, p, rfl⟩ := State.devWrite_eq h
  exact .of_ctxs hR rfl rfl rfl

theorem State.awaitLink_goes (s : State) (o : Holder) (ctx core pkg : Nat) : Goes R s (s.awaitLink o ctx core pkg) := by
  obtain ⟨w, h⟩ := s.awaitLink_eq o ctx core pkg
  rw [h]
  exact .of_ctxs hR rfl rfl rfl

theorem State.dieRelease_goes (s : State) (die : Nat) : Goes R s (s.dieRelease die) := (State.widen_only ..).goes hR

end

/-! ## Context faults -/

theorem State.writeFaultRec_goes (s : State) (n : Nat) : Goes Ctx.Stays s (s.writeFaultRec n) := by
  unfold State.writeFaultRec
  split
  · exact .of_ctxs .refl rfl rfl rfl
  · dsimp only
    split
    · exact .of_ctxs .refl rfl rfl rfl
    · split
      · rename_i h
        exact (((State.dieRelease_goes .refl s _).trans .trans (State.devWrite_goes .refl h)).trans .trans
          (.modCtx .refl _ n fun _ => .refl _))
      · split
        · exact State.awaitLink_goes .refl ..
        · exact .modCtx .refl s n fun _ => .refl _

/-- An active context that faults is faulted with the code, whether or not its record could be written. -/
theorem State.ctxFault_of_active {s : State} {n code die f r : Nat} {c : Ctx} (h : s.ctxs.get? n = some c) (ha : c.st = .active) :
    ∃ d, (s.ctxFault n code die f r).ctxs.get? n = some d ∧ d.st = .faulted ∧ d.faultCode = code ∧ d.seq = c.seq := by
  unfold State.ctxFault
  rw [h]
  dsimp only
  rw [if_pos ha]
  obtain ⟨d, hd, hst, hcode, hseq⟩ := (State.writeFaultRec_goes _ n).get (State.get?_modCtx_self h _)
  exact ⟨d, hd, hst, hcode, hseq⟩

theorem State.ctxFault_of_inactive {s : State} {n : Nat} (code die f r : Nat) (h : ∀ c, s.ctxs.get? n = some c → c.st ≠ .active) :
    s.ctxFault n code die f r = s := by
  unfold State.ctxFault
  cases hc : s.ctxs.get? n with
  | none => rfl
  | some c => exact if_neg (h c hc)

theorem State.ctxFault_goes (s : State) (n code die f r : Nat) : Goes (Ctx.Faults code) s (s.ctxFault n code die f r) := by
  unfold State.ctxFault
  split
  · exact .of_ctxs (.refl code) rfl rfl rfl
  · rename_i c hc
    split
    · rename_i ha
      refine (Goes.modCtx_at (.refl code) fun d hd => .inr ?_).trans .trans ((State.writeFaultRec_goes _ n).mono .inl)
      rw [hc] at hd
      exact ⟨Option.some.inj hd ▸ ha, rfl, rfl, rfl⟩
    · exact .of_ctxs (.refl code) rfl rfl rfl

/-! ## The fault ring -/

theorem State.ringFail_goes (s : State) (core n r : Nat) : Goes (Ctx.Faults 9) s (s.ringFail core n r) := State.ctxFault_goes ..

/-- What one write to the ring area leaves of the contexts: all. -/
def RingWrite.Stays (s : State) : RingWrite → Prop
  | .done t | .wait t => Goes Ctx.Stays s t
  | .failed => True

theorem RingWrite.Stays.trans {s t : State} (h : Goes Ctx.Stays s t) {r : RingWrite} (k : r.Stays t) : r.Stays s := by
  cases r with
  | failed => trivial
  | done => exact h.trans .trans k
  | wait => exact h.trans .trans k

theorem State.ringArea_stays (s : State) (core n a len v : Nat) : (s.ringArea core n a len v).Stays s := by
  unfold State.ringArea
  split
  · rename_i h
    exact State.devWrite_goes .refl h
  · split
    · exact State.awaitLink_goes .refl ..
    · trivial

theorem State.ringStep_stays (s : State) (core n : Nat) (c : Ctx) (h r : Nat) : (s.ringStep core n c h r).Stays s := by
  have hs : Goes Ctx.Stays s s := .of_ctxs .refl rfl rfl rfl
  unfold State.ringStep
  dsimp only
  split
  · split
    · exact .trans (State.dieRelease_goes .refl ..) (State.ringArea_stays ..)
    · exact hs
  · split
    · exact State.ringArea_stays ..
    · split
      · exact hs
      · exact State.ringArea_stays ..

theorem State.ringStep_done_stays {s t : State} {core n h r : Nat} {c : Ctx} (e : s.ringStep core n c h r = .done t) :
    Goes Ctx.Stays s t := by have := s.ringStep_stays core n c h r; rwa [e] at this

theorem State.ringStep_wait_stays {s t : State} {core n h r : Nat} {c : Ctx} (e : s.ringStep core n c h r = .wait t) :
    Goes Ctx.Stays s t := by have := s.ringStep_stays core n c h r; rwa [e] at this

theorem State.writePending_goes (s : State) (n fuel : Nat) : Goes (Ctx.Faults 9) s (s.writePending n fuel) := by
  have hmod : ∀ (s : State) (f : Ctx → Ctx), (∀ c : Ctx, c.Stays (f c)) → Goes (Ctx.Faults 9) s (s.modCtx n f) :=
    fun s f hf => .modCtx (.refl 9) s n fun c => .inl (hf c)
  have hself : Goes (Ctx.Faults 9) s s := .of_ctxs (.refl 9) rfl rfl rfl
  induction fuel generalizing s with
  | zero => exact hself
  | succ fuel ih =>
    unfold State.writePending
    split
    · exact hself
    · split
      · exact hself
      · dsimp only
        split
        · split
          · exact State.awaitLink_goes (.refl 9) ..
          · exact (hmod _ _ (by intro; exact .refl _)).trans .trans (State.ringFail_goes ..)
        · split
          · exact (hmod _ _ (by intro; exact .refl _)).trans .trans (State.ringFail_goes ..)
          · rename_i h
            exact (State.ringStep_wait_stays h).mono .inl
          · rename_i h
            have hdone : Goes (Ctx.Faults 9) s _ := (State.ringStep_done_stays h).mono .inl
            split
            · exact (hdone.trans .trans (hmod _ _ (by intro; exact .refl _))).trans .trans (ih _ (.of_ctxs (.refl 9) rfl rfl rfl))
            · exact (hdone.trans .trans (hmod _ _ (by intro; exact .refl _))).trans .trans (ih _ (.of_ctxs (.refl 9) rfl rfl rfl))

theorem State.rereadRing_goes (s : State) (n : Nat) : Goes (Ctx.Faults 9) s (s.rereadRing n) := State.writePending_goes ..

theorem State.ringWrite_goes (s : State) (core n seq r : Nat) (c2 : Bool) : Goes (Ctx.Faults 9) s (s.ringWrite core n seq r c2) := by
  unfold State.ringWrite
  refine (s.rereadRing_goes n).trans .trans ?_
  generalize s.rereadRing n = t
  have hself : Goes (Ctx.Faults 9) t t := .of_ctxs (.refl 9) rfl rfl rfl
  have hpend : Goes (Ctx.Faults 9) t ((t.modCtx n fun c => { c with pendingRecs := c.pendingRecs ++ [(seq, r)] }).rereadRing n) :=
    (Goes.modCtx (.refl 9) t n fun c => .inl (.refl c)).trans .trans (State.rereadRing_goes ..)
  dsimp only
  split
  · exact hself
  · split
    · exact hpend
    · split
      · exact hpend
      · split
        · rename_i h
          exact (State.ringStep_done_stays h).mono .inl
        · exact hpend
        · exact State.ringFail_goes ..

/-! ## Fault records -/

/-- Recording a fault moves contexts: from active to faulted at most. -/
theorem State.recordFault_goes (s : State) (n core strand src : Nat) (f : XFault) :
    Goes Ctx.Moves s (s.recordFault n core strand src f).1 := by
  have hself : Goes Ctx.Moves s s := .of_ctxs .refl rfl rfl rfl
  unfold State.recordFault
  dsimp only
  split
  · exact hself
  · split
    · exact hself
    · by_cases h : f.cause = 7
      · rw [if_pos h]
        exact ((Goes.modCtx .refl s n (by intro; exact .inl rfl)).trans .trans ((State.ringWrite_goes ..).mono Ctx.Faults.moves)).trans .trans
          ((State.ctxFault_goes ..).mono Ctx.Faults.moves)
      · rw [if_neg h]
        exact (Goes.modCtx .refl s n (by intro; exact .inl rfl)).trans .trans ((State.ringWrite_goes ..).mono Ctx.Faults.moves)

/-- An uncorrectable error, or a completion that does not come, faults an active context: with code 1, or 9 where the ring does not
take the record. -/
theorem State.recordFault_of_upset {s : State} {n : Nat} {c : Ctx} {f : XFault} (core strand src : Nat)
    (hc : s.ctxs.get? n = some c) (ha : c.st = .active) (hf : f.cause = 7) :
    ∃ d, (s.recordFault n core strand src f).1.ctxs.get? n = some d ∧ d.st = .faulted ∧ d.seq = c.seq + 1 ∧
      (d.faultCode = 1 ∨ d.faultCode = 9) := by
  unfold State.recordFault
  simp only [hf, hc]
  obtain ⟨e, he, hring⟩ := (State.ringWrite_goes (s.modCtx n fun c => { c with seq := c.seq + 1 }) core n c.seq.toNat
    (faultRecord f.va c.seq.toNat core strand (if f.link then srcLink else src) 7 f.level false) false).get
    (State.get?_modCtx_self hc _)
  rcases hring with ⟨hst, -, hseq⟩ | ⟨-, hst, hcode, hseq⟩
  · obtain ⟨d, hd, hdst, hdcode, hdseq⟩ := State.ctxFault_of_active (code := 1) (die := dieOf core)
      (f := faultRecord f.va c.seq.toNat core strand (if f.link then srcLink else src) 7 f.level false) (r := 0) he (hst.trans ha)
    exact ⟨d, hd, hdst, hdseq.trans hseq, .inl hdcode⟩
  · refine ⟨e, ?_, hst, hseq, .inr hcode⟩
    have hin := State.ctxFault_of_inactive (s := (s.modCtx n fun c => { c with seq := c.seq + 1 }).ringWrite core n c.seq.toNat
      (faultRecord f.va c.seq.toNat core strand (if f.link then srcLink else src) 7 f.level false) false) (n := n) 1 (dieOf core)
      (faultRecord f.va c.seq.toNat core strand (if f.link then srcLink else src) 7 f.level false) 0 fun d hd ha => by
        rw [he] at hd
        cases hd
        cases hst.symm.trans ha
    exact (congrArg (fun t : State => t.ctxs.get? n) hin).trans he

theorem State.holdIf_goes (s : State) (n : Nat) (q : Option Nat) (h : Holder) : Goes Ctx.Moves s (s.holdIf n q h) := by
  cases q with
  | none => exact .of_ctxs .refl rfl rfl rfl
  | some q => exact .modCtx .refl s n fun c => .inl rfl

end Sys2Proof.Machine
end

section
/-! PROOFS. What leaving a core, saving and pre-empting leave: the command block, and contexts but for faults (04 R79, R84; 18 R346). -/

namespace Sys2Proof.Machine

/-! ## A bank is freed, a hank leaves -/

/-- What freeing banks changes of a state: memory and what stands with it, events, and the banks. -/
def State.withBanks (s : State) (m : Memory) (f : List Nat) (e : List EarlyWrite) (v : AMap (List CoreEvent)) (b : AMap Bank) : State :=
  { s with mem := m, full := f, early := e, events := v, banks := b }

theorem State.refuseWaiters_eq (s : State) (l : List Waiter) : ∃ v, l.foldl State.refuseWaiter s = { s with events := v } := by
  refine foldl_keeps (P := fun t => ∃ v, t = { s with events := v }) _ (fun t w h => ?_) l ⟨s.events, rfl⟩
  obtain ⟨v, rfl⟩ := h
  exact ⟨_, rfl⟩

theorem State.freeBank_eq (s : State) (b : Nat) : ∃ m f e v, s.freeBank b = s.withBanks m f e v (s.banks.erase b) := by
  unfold State.freeBank
  dsimp only
  obtain ⟨v, hv⟩ := (s.wipeBank b).refuseWaiters_eq (s.bank b).waiters
  rw [hv]
  exact ⟨_, _, _, v, rfl⟩

theorem State.freeBanks_eq (s : State) (l : List Nat) :
    ∃ m f e v, l.foldl State.freeBank s = s.withBanks m f e v (l.foldl (fun b k => AMap.erase k b) s.banks) := by
  induction l generalizing s with
  | nil => exact ⟨s.mem, s.full, s.early, s.events, rfl⟩
  | cons b l ih =>
    obtain ⟨m, f, e, v, h⟩ := s.freeBank_eq b
    obtain ⟨m', f', e', v', h'⟩ := ih (s.freeBank b)
    refine ⟨m', f', e', v', ?_⟩
    rw [List.foldl_cons, h', h]
    rfl

/-- A hank that stands on its core leaves it. -/
theorem State.dropHank_eq {s : State} {h : Nat} {hank : Hank} (hh : s.hanks.get? h = some hank) :
    ∃ m f e v, s.dropHank h = { s.withBanks m f e v (hank.banks.foldl (fun b k => AMap.erase k b) s.banks) with
      strands := s.strands.filter fun p => p.2.hank != h
      braids := s.braids.filter fun p => p.2.hank != h
      barriers := s.barriers.filter fun p => p.2.owner != h
      hanks := s.hanks.erase h } := by
  obtain ⟨m, f, e, v, hb⟩ := s.freeBanks_eq hank.banks
  refine ⟨m, f, e, v, ?_⟩
  unfold State.dropHank
  rw [hh]
  dsimp only
  rw [hb]
  rfl

/-! ## The command block and the contexts stay -/

/-- The command block, the interrupts and the contexts are as before. -/
structure KeepsCtxs (s t : State) : Prop where
  cmd : t.cmd = s.cmd
  msix : t.msix = s.msix
  ctxs : t.ctxs = s.ctxs

theorem KeepsCtxs.refl (s : State) : KeepsCtxs s s := ⟨rfl, rfl, rfl⟩

theorem KeepsCtxs.trans {s t u : State} (h : KeepsCtxs s t) (k : KeepsCtxs t u) : KeepsCtxs s u :=
  ⟨k.cmd.trans h.cmd, k.msix.trans h.msix, k.ctxs.trans h.ctxs⟩

theorem KeepsCtxs.goes {s t : State} (h : KeepsCtxs s t) : Goes Ctx.Moves s t := .of_ctxs .refl h.cmd h.msix h.ctxs

theorem KeepsCtxs.foldl {α : Type} {f : State → α → State} (hf : ∀ s a, KeepsCtxs s (f s a)) (l : List α) (s : State) :
    KeepsCtxs s (l.foldl f s) := foldl_keeps (P := KeepsCtxs s) f (fun t a h => h.trans (hf t a)) l (.refl s)

theorem OnlyWrites.keepsCtxs {s t : State} (h : OnlyWrites s t) : KeepsCtxs s t := by
  obtain ⟨m, e, x, rfl, -⟩ := h
  exact ⟨rfl, rfl, rfl⟩

theorem State.dropHank_keepsCtxs (s : State) (h : Nat) : KeepsCtxs s (s.dropHank h) := by
  cases hh : s.hanks.get? h with
  | none =>
    have : s.dropHank h = s := by
      unfold State.dropHank
      rw [hh]
    rw [this]
    exact .refl s
  | some hank =>
    obtain ⟨m, f, e, v, hd⟩ := State.dropHank_eq hh
    rw [hd]
    exact ⟨rfl, rfl, rfl⟩

theorem State.rollHank_keepsCtxs (s : State) (h : Nat) : KeepsCtxs s (s.rollHank h) := by
  refine KeepsCtxs.foldl (fun t g => ?_) _ s
  split
  · exact ⟨rfl, rfl, rfl⟩
  · exact .refl t

theorem State.withdraw_keepsCtxs (s : State) (pos : Nat) (x : Strand) : KeepsCtxs s (s.withdraw pos x) := by
  have hrequest : KeepsCtxs s (match x.outs.find? fun p => match p.act with | .served .. => true | _ => false with
      | some p =>
        if s.serviceComes pos p.id then s
        else ((s.unwait pos p.id).complete pos p.id [] 0).modStrand pos fun x =>
          { x.unblock with regs := { x.regs with pc := p.at_ } }
      | none => s) := by
    split
    · split
      · exact .refl s
      · exact ⟨rfl, rfl, rfl⟩
    · exact .refl s
  unfold State.withdraw
  split
  · exact hrequest
  · exact hrequest
  · exact ⟨rfl, rfl, rfl⟩
  · exact ⟨rfl, rfl, rfl⟩
  · exact .refl s

theorem State.takeCopies_keepsCtxs (s : State) (core h : Nat) : KeepsCtxs s (s.takeCopies core h).2 :=
  KeepsCtxs.trans (by exact ⟨rfl, rfl, rfl⟩) (KeepsCtxs.foldl (f := fun s cls => s.wakeCopies core cls) (fun _ _ => ⟨rfl, rfl, rfl⟩) _ _)

theorem State.retire_keepsCtxs (s : State) (h : Nat) : KeepsCtxs s (s.retire h) := by
  unfold State.retire
  split
  · exact .refl s
  · dsimp only
    have hdrop := State.dropHank_keepsCtxs (s.fresh.2.setAside s.fresh.1 (s.fresh.2.hankStrands h)) h
    split
    · exact .trans (by exact ⟨rfl, rfl, rfl⟩) hdrop
    · exact .trans (.trans (by exact ⟨rfl, rfl, rfl⟩) hdrop) ⟨rfl, rfl, rfl⟩

/-! ## Images -/

theorem State.scribbleParts_eq (s : State) (core ctx draw : Nat) (ps : List Part) :
    ∃ m e x p, s.scribbleParts core ctx draw ps = { s.withWrites m e x with ports := p } := by
  obtain ⟨p, hp⟩ := s.sendParts_eq engineFlit 0 ctx core ps
  obtain ⟨m, e, x, hl, -⟩ := State.land_only { s with ports := p } ps
  unfold State.scribbleParts
  rw [hp, hl]
  exact ⟨_, _, _, p, rfl⟩

/-- An image that was written: memory has it, its draw is spent, and the context lists it. -/
theorem State.writeImage_eq {s t : State} {core ctx n k v : Nat} {o : ImageOwner} (h : s.writeImage core ctx o n k v = .ok t) :
    ∃ m e x p off, t = ({ s.withWrites m e x with ports := p, draws := s.draws + 1 } : State).modCtx ctx fun c =>
      { c with images := c.images ++ [⟨o, off, n, 2 ^ 40 * s.draws⟩] } := by
  unfold State.writeImage at h
  split at h
  · cases h
  · split at h
    · cases h
    · rename_i off _
      dsimp only at h
      split at h
      · cases h
      · rename_i ps _
        split at h
        · cases h
        · obtain ⟨m, e, x, p, hs⟩ := s.scribbleParts_eq core ctx (2 ^ 40 * s.draws) ps
          rw [hs] at h
          split at h
          · cases h
          · rename_i hw
            obtain ⟨m', e', x', p', rfl⟩ := State.devWrite_eq hw
            exact ⟨m', e', x', p', off, (Except.ok.inj h).symm⟩

theorem State.writeImage_goes {s t : State} {core ctx n k v : Nat} {o : ImageOwner} (h : s.writeImage core ctx o n k v = .ok t) :
    Goes Ctx.Moves s t := by
  obtain ⟨m, e, x, p, off, rfl⟩ := State.writeImage_eq h
  exact Goes.trans .trans (by exact .of_ctxs .refl rfl rfl rfl) (Goes.modCtx .refl _ ctx (by intro; exact .inl rfl))

theorem Except.map_eq_ok {α β ε : Type} {x : Except ε α} {f : α → β} {b : β} (h : x.map f = .ok b) : ∃ a, x = .ok a ∧ f a = b := by
  cases x with
  | error e => cases h
  | ok a => exact ⟨a, rfl, Except.ok.inj h⟩

theorem State.saveEnv_goes {s t : State} {key : Nat} {e : Env} (h : s.saveEnv key e = .ok t) : Goes Ctx.Moves s t := by
  obtain ⟨u, hu, rfl⟩ := Except.map_eq_ok h
  exact (State.writeImage_goes hu).trans .trans (.of_ctxs .refl rfl rfl rfl)

theorem State.freezeTile_goes {s t : State} {e : Nat} {tl : Tile} (h : s.freezeTile e tl = .ok t) : Goes Ctx.Moves s t := by
  obtain ⟨u, hu, rfl⟩ := Except.map_eq_ok h
  exact (State.writeImage_goes hu).trans .trans (.of_ctxs .refl rfl rfl rfl)

/-! ## Saving a hank -/

/-- What a hank gives up before its image is written: speculation, and requests that wait in banks; and where it leaves them, writes to
its banks are performed. -/
def State.readyHank (s : State) (h : Nat) (hank : Hank) (swap : Bool) : State :=
  let s := s.rollHank h
  let s := (s.hankStrands h).foldl (fun s p => s.withdraw p.1 p.2) s
  if swap then s else s.widen (fun w => w.parts.any fun q => hank.banks.any q.inBank) allObservers

/-- What is saved of a hank that leaves with these copies and events. -/
def State.savedHank (s : State) (h : Nat) (hank : Hank) (swap : Bool) (copies : List (Nat × CopyCmd)) (events : List (Nat × CoreEvent)) :
    SavedHank :=
  { uid := h, hank := hank, swap := swap, braids := s.braids.filter fun p => p.2.hank == h, strands := s.hankStrands h,
    barriers := s.hankBarriers h, banks := hank.banks.map fun b => (b, (s.bank b).unlisted),
    bytes := s.mem.filter fun c => inBanks hank.banks c.1, fulls := s.full.filter (inBanks hank.banks), copies := copies,
    events := events }

/-- It stands among the saved hanks, and on its core's list of those that are to come back. -/
def State.listSaved (s : State) (core : Nat) (v : SavedHank) : State :=
  { s with saved := s.saved ++ [v], swapIn := s.swapIn.set core (s.swapIn.getD core [] ++ [v.uid]) }

/-- A hank whose image has been written is listed as saved, its copies and events with it. -/
def State.listHank (s : State) (h : Nat) (hank : Hank) (swap : Bool) : State :=
  let c := s.takeCopies hank.core h
  let e := c.2.takeEvents hank.core h
  e.2.listSaved hank.core (e.2.savedHank h hank swap c.1 e.1)

/-- A hank whose image has been written leaves its core. -/
def State.takeHank (s : State) (h : Nat) (hank : Hank) (swap : Bool) : State :=
  let t := s.listHank h hank swap
  if swap then
    { t with
      strands := t.strands.filter fun p => p.2.hank != h
      braids := t.braids.filter fun p => p.2.hank != h
      hanks := t.hanks.erase h }
  else (hank.banks.foldl (fun s b => s.modBank b Bank.unlisted) t).dropHank h

theorem State.trySave_eq {s : State} {h : Nat} {hank : Hank} (hh : s.hanks.get? h = some hank) (swap : Bool) :
    s.trySave h swap =
      ((s.readyHank h hank swap).writeImage hank.core hank.ctx (.hank h) (Config.saveSize (s.readyHank h hank swap).draws) 0 0).map
        fun t => t.takeHank h hank swap := by
  unfold State.trySave
  rw [hh]
  rfl

theorem State.readyHank_keepsCtxs (s : State) (h : Nat) (hank : Hank) (swap : Bool) : KeepsCtxs s (s.readyHank h hank swap) := by
  have hs := (s.rollHank_keepsCtxs h).trans (.foldl (fun t p => t.withdraw_keepsCtxs p.1 p.2) ((s.rollHank h).hankStrands h) _)
  unfold State.readyHank
  split
  · exact hs
  · exact hs.trans (State.widen_only ..).keepsCtxs

theorem State.takeEvents_keepsCtxs (s : State) (core h : Nat) : KeepsCtxs s (s.takeEvents core h).2 := ⟨rfl, rfl, rfl⟩

theorem State.listSaved_keepsCtxs (s : State) (core : Nat) (v : SavedHank) : KeepsCtxs s (s.listSaved core v) := ⟨rfl, rfl, rfl⟩

theorem State.listHank_keepsCtxs (s : State) (h : Nat) (hank : Hank) (swap : Bool) : KeepsCtxs s (s.listHank h hank swap) :=
  ((s.takeCopies_keepsCtxs hank.core h).trans (State.takeEvents_keepsCtxs _ hank.core h)).trans (State.listSaved_keepsCtxs ..)

theorem State.modBank_keepsCtxs (s : State) (b : Nat) (f : Bank → Bank) : KeepsCtxs s (s.modBank b f) := ⟨rfl, rfl, rfl⟩

theorem State.takeHank_keepsCtxs (s : State) (h : Nat) (hank : Hank) (swap : Bool) : KeepsCtxs s (s.takeHank h hank swap) := by
  have hs := s.listHank_keepsCtxs h hank swap
  cases swap with
  | true =>
    obtain ⟨hcmd, hmsix, hctxs⟩ := hs
    exact ⟨hcmd, hmsix, hctxs⟩
  | false =>
    exact (hs.trans (KeepsCtxs.foldl (fun t b => t.modBank_keepsCtxs b Bank.unlisted) hank.banks _)).trans (State.dropHank_keepsCtxs _ h)

theorem State.trySave_goes {s t : State} {h : Nat} {swap : Bool} (e : s.trySave h swap = .ok t) : Goes Ctx.Moves s t := by
  cases hh : s.hanks.get? h with
  | none =>
    unfold State.trySave at e
    rw [hh] at e
    cases e
    exact (KeepsCtxs.refl s).goes
  | some hank =>
    rw [State.trySave_eq hh] at e
    obtain ⟨u, hu, rfl⟩ := Except.map_eq_ok e
    exact ((s.readyHank_keepsCtxs h hank swap).goes.trans .trans (State.writeImage_goes hu)).trans .trans
      (u.takeHank_keepsCtxs h hank swap).goes

/-! ## Saves in a row -/

theorem State.saveFail_goes (s : State) (ctx core : Nat) (e : SaveStop) : Goes Ctx.Moves s (s.saveFail ctx core e) := by
  have hfull : ∀ t : State, Goes Ctx.Moves t ((t.ctxFault ctx 8 (dieOf core) 0 0).modCtx ctx fun c => { c with faultCode := 8 }) :=
    fun t => ((t.ctxFault_goes ..).mono Ctx.Faults.moves).trans .trans (.modCtx .refl _ ctx fun _ => .inl rfl)
  cases e with
  | wait pkg => exact State.awaitLink_goes .refl ..
  | full => exact hfull s
  | fault f =>
    have hrec := s.recordFault_goes ctx core 0 srcStore f
    unfold State.saveFail
    dsimp only
    split
    · exact hrec
    · exact hrec.trans .trans (hfull _)

/-- Does every save of a plan, where it succeeds, leave the command block and move contexts at most by faults? -/
def Saves (l : List (Nat × (State → Except SaveStop State))) : Prop := ∀ p ∈ l, ∀ s t, p.2 s = .ok t → Goes Ctx.Moves s t

theorem State.saveSteps_goes {l : List (Nat × (State → Except SaveStop State))} (hl : Saves l) (s : State) (ctx : Nat) :
    Goes Ctx.Moves s (s.saveSteps ctx l) := by
  induction l generalizing s with
  | nil => exact (KeepsCtxs.refl s).goes
  | cons p l ih =>
    obtain ⟨hp, hrest⟩ := List.forall_mem_cons.1 hl
    obtain ⟨core, f⟩ := p
    unfold State.saveSteps State.saveStep
    cases hf : f s with
    | ok t => exact (hp s t hf).trans .trans (ih hrest t)
    | error e => exact s.saveFail_goes ctx core e

theorem Saves.append {l l' : List (Nat × (State → Except SaveStop State))} (h : Saves l) (h' : Saves l') : Saves (l ++ l') :=
  fun p hp => (List.mem_append.1 hp).elim (h p) (h' p)

theorem Saves.byCore {l : List (Nat × (State → Except SaveStop State))} (h : Saves l) : Saves (byCore l) := by
  intro p hp
  obtain ⟨c, -, hc⟩ := List.mem_flatMap.1 hp
  exact h p (List.mem_filter.1 hc).1

theorem State.savePlan_saves (s : State) (hs : List Nat) (tiles : AMap Tile) : Saves (s.savePlan hs tiles) := by
  refine Saves.append (fun p hp u t e => ?_) (fun p hp u t e => ?_)
  · obtain ⟨h, -, rfl⟩ := List.mem_map.1 hp
    dsimp only at e
    split at e
    · cases e
      exact (u.retire_keepsCtxs h).goes
    · exact State.trySave_goes e
  · obtain ⟨y, -, rfl⟩ := List.mem_map.1 hp
    exact State.freezeTile_goes e

theorem State.ctxPlan_saves (s : State) (n : Nat) : Saves (s.ctxPlan n) := by
  refine Saves.byCore ((s.savePlan_saves _ _).append fun p hp u t e => ?_)
  obtain ⟨y, -, rfl⟩ := List.mem_map.1 hp
  exact State.saveEnv_goes e

/-! ## Launch records and pre-emption -/

theorem State.engineFault_goes {s t : State} {x : Queue} {h : Holder} {f : XFault} {r : Nat × Option Nat}
    (e : s.engineFault x h f = some (t, r)) : Goes Ctx.Moves s t := by
  unfold State.engineFault at e
  split at e
  · cases e
  · cases e
    exact (s.recordFault_goes ..).trans .trans (State.holdIf_goes ..)

theorem State.writeRecord_goes (s : State) (q : Nat) (x : Queue) : Goes Ctx.Moves s (s.writeRecord q x).1 := by
  unfold State.writeRecord
  split
  · exact (KeepsCtxs.refl s).goes
  · split
    · rename_i h
      exact State.devWrite_goes .refl h
    · split
      · exact State.awaitLink_goes .refl ..
      · rename_i h
        have hf := State.engineFault_goes h
        split
        · exact hf.trans .trans (.of_ctxs .refl rfl rfl rfl)
        · split
          · exact hf
          · exact hf.trans .trans ((State.ctxFault_goes ..).mono Ctx.Faults.moves)

theorem State.suspendQueue_goes (s : State) (q : Nat) : Goes Ctx.Moves s (s.suspendQueue q) := by
  unfold State.suspendQueue
  split
  · exact (KeepsCtxs.refl s).goes
  · rename_i x _
    have h := (s.writeRecord_goes q x).trans .trans (u := (s.writeRecord q x).1.modQueue q fun y => { y with
      before := if x.preempting.isSome then .preempted else x.st
      st := .preempted, thread := false, preempting := none, susp := true }) (.of_ctxs .refl rfl rfl rfl)
    split
    · exact h
    · exact h
    · exact h
    · exact (KeepsCtxs.refl s).goes

theorem State.checkPreempt_goes (s : State) (q : Nat) : Goes Ctx.Moves s (s.checkPreempt q) := by
  unfold State.checkPreempt
  split
  · exact (KeepsCtxs.refl s).goes
  · rename_i x _
    split
    · exact (KeepsCtxs.refl s).goes
    · split
      · exact (KeepsCtxs.refl s).goes
      · have h := s.writeRecord_goes q x
        split
        · rename_i hw
          rw [hw] at h
          exact h.trans .trans (.of_ctxs .refl rfl rfl rfl)
        · rename_i hw
          rw [hw] at h
          exact h

theorem State.goOnPreempt_goes (s : State) (q : Nat) : Goes Ctx.Moves s (s.goOnPreempt q) := by
  unfold State.goOnPreempt
  split
  · exact (KeepsCtxs.refl s).goes
  · refine Goes.trans .trans ?_ (State.checkPreempt_goes _ q)
    split
    · dsimp only
      split
      · exact Goes.trans .trans (by exact KeepsCtxs.goes ⟨rfl, rfl, rfl⟩) (State.saveSteps_goes (Saves.byCore (State.savePlan_saves _ _ _)) _ _)
      · exact KeepsCtxs.goes ⟨rfl, rfl, rfl⟩
    · exact (KeepsCtxs.refl s).goes

theorem Goes.foldl {α : Type} {f : State → α → State} (hf : ∀ s a, Goes Ctx.Moves s (f s a)) (l : List α) (s : State) :
    Goes Ctx.Moves s (l.foldl f s) :=
  foldl_keeps (P := Goes Ctx.Moves s) f (fun t a h => h.trans .trans (hf t a)) l (KeepsCtxs.refl s).goes

/-! ## The save of a context -/

/-- The save of a context whose hanks have been told to stop. -/
def State.saveStopped (s : State) (n : Nat) : State :=
  if (s.ctxHanks n).all s.hankQuiet && s.ghostsQuiet n then
    let t := s.saveSteps n (s.ctxPlan n)
    if t.ctxSaved n then ((t.queues.filter fun p => p.2.ctx == n).map Prod.fst).foldl State.suspendQueue t else t
  else s

theorem State.saveCtx_eq (s : State) (n : Nat) : s.saveCtx n = (s.stopHanks (s.ctxHanks n)).saveStopped n := rfl

theorem State.saveStopped_goes (s : State) (n : Nat) : Goes Ctx.Moves s (s.saveStopped n) := by
  have hsteps := State.saveSteps_goes (s.ctxPlan_saves n) s n
  unfold State.saveStopped
  split
  · dsimp only
    split
    · exact hsteps.trans .trans (Goes.foldl (fun t q => t.suspendQueue_goes q) _ _)
    · exact hsteps
  · exact (KeepsCtxs.refl s).goes

/-- A save leaves the command block, and moves contexts at most from active to faulted. -/
theorem State.saveCtx_goes (s : State) (n : Nat) : Goes Ctx.Moves s (s.saveCtx n) :=
  Goes.trans .trans (by exact KeepsCtxs.goes ⟨rfl, rfl, rfl⟩) (State.saveStopped_goes (s.stopHanks (s.ctxHanks n)) n)

end Sys2Proof.Machine
end

section
/-! PROOFS. The command block: how a command is taken up, refused and completed (04 R86, R87). -/

namespace Sys2Proof.Machine
open Sys2Proof.Claims

theorem State.finishCmd_eq (s : State) (status result : Nat) : s.finishCmd status result = completed s status result := by
  unfold State.finishCmd completed
  dsimp only
  split
  · rfl
  · rw [List.append_nil]

/-! ## Taking a command up -/

theorem State.command_of_idle {s : State} (h : s.cmd.busy = false) (op : Nat) (used : List Nat) (f : State → State) :
    s.command op used f = s := by
  unfold State.command
  rw [h]
  rfl

theorem State.command_of_stray {s : State} {op : Nat} {used : List Nat} (hb : s.cmd.busy = true) (ho : s.cmd.byte 0 = op)
    (h : s.cmd.stray used = true) (f : State → State) : s.command op used f = completed s 1 0 := by
  unfold State.command
  simp only [hb, ho, h, if_true, bne_self_eq_false, Bool.not_true, Bool.or_self, Bool.false_eq_true, if_false, State.finishCmd_eq]

theorem State.command_of_commanded {s : State} {op : Nat} {used : List Nat} (h : Commanded s op used) (f : State → State) :
    s.command op used f = f s := by
  obtain ⟨hb, ho, hs⟩ := h
  unfold State.command
  simp only [hb, ho, hs, bne_self_eq_false, Bool.not_true, Bool.or_self, Bool.false_eq_true, if_false]

/-- The bytes that an operation uses count as a set. -/
theorem Cmd.stray_congr (c : Cmd) {l l' : List Nat} (h : ∀ i, l.contains i = l'.contains i) : c.stray l = c.stray l' := by
  simp only [Cmd.stray, h]

theorem Cmd.stray_of_flag {c : Cmd} (h : 2 ≤ c.byte 1) (used : List Nat) : c.stray used = true := by
  simp only [Cmd.stray, h, decide_true, Bool.true_or]

section
variable {s : State} {op : Nat} {used : List Nat} {c : Ctx}

theorem State.ctxCommand_of_none (h : Commanded s op (8 :: used)) (hn : s.ctxs.get? (s.cmd.byte 8) = none) (f : State → Nat → Ctx → State) :
    s.ctxCommand op used f = completed s 2 0 := by
  unfold State.ctxCommand
  rw [State.command_of_commanded h, ← State.finishCmd_eq]
  dsimp only
  rw [hn]

theorem State.ctxCommand_of_some (h : Commanded s op (8 :: used)) (hc : s.ctxs.get? (s.cmd.byte 8) = some c)
    (f : State → Nat → Ctx → State) : s.ctxCommand op used f = f s (s.cmd.byte 8) c := by
  unfold State.ctxCommand
  rw [State.command_of_commanded h]
  dsimp only
  rw [hc]

theorem State.queueCommand_of_some {q : Nat} {x : Queue} (h : Commanded s op (8 :: (quadAt16 ++ used)))
    (hc : (s.ctxs.get? (s.cmd.byte 8)).isSome = true)
    (hq : s.queueAt (s.cmd.byte 8) (BitVec.ofNat 64 (s.cmd.bytes 16 23)) = some (q, x)) (f : State → Nat → Queue → State) :
    s.queueCommand op used f = f s q x := by
  obtain ⟨c, hc⟩ := Option.isSome_iff_exists.1 hc
  unfold State.queueCommand
  rw [State.ctxCommand_of_some h hc]
  rw [hq]

end

/-! ## What a command comes to -/

/-- The command goes on, it completes with status 0, or it is refused and nothing else has changed (R86). -/
def Settles (s t : State) : Prop := t.cmd.busy = true ∨ t.cmd.status = 0 ∨ ∃ k, t = s.finishCmd k 0

theorem Settles.refused (s : State) (k : Nat) : Settles s (s.finishCmd k 0) := .inr (.inr ⟨k, rfl⟩)

theorem Settles.done (s t : State) (r : Nat) : Settles s (t.finishCmd 0 r) := .inr (.inl rfl)

theorem Settles.waits {s t : State} (hb : s.cmd.busy = true) (h : t.cmd = s.cmd) : Settles s t := .inl (by rw [h, hb])

theorem Settles.awaitLink {s : State} (hb : s.cmd.busy = true) (o : Holder) (ctx core pkg : Nat) :
    Settles s (s.awaitLink o ctx core pkg) := .waits hb (State.awaitLink_goes (R := Ctx.Stays) .refl s o ctx core pkg).cmd

section
variable {s : State} {op : Nat} {used : List Nat} (hb : s.cmd.busy = true)
include hb

theorem Settles.command {f : State → State} (hf : Settles s (f s)) : Settles s (s.command op used f) := by
  unfold State.command
  split
  · exact .waits hb rfl
  · split
    · exact .refused s 1
    · exact hf

theorem Settles.ctxCommand {f : State → Nat → Ctx → State} (hf : ∀ n c, Settles s (f s n c)) : Settles s (s.ctxCommand op used f) := by
  refine .command hb ?_
  dsimp only
  split
  · exact .refused s 2
  · exact hf _ _

theorem Settles.queueCommand {f : State → Nat → Queue → State} (hf : ∀ q x, Settles s (f s q x)) :
    Settles s (s.queueCommand op used f) := by
  refine .ctxCommand hb fun n c => ?_
  split
  · exact .refused s 2
  · exact hf _ _

/-! ## The driver's commands, one by one -/

theorem createContext_settles : ∃ t, exec .createContext s = .next t ∧ Settles s t := by
  refine ⟨_, rfl, .command hb ?_⟩
  dsimp only
  split
  · exact .refused s 8
  · split
    · exact .refused s 3
    · split
      · exact .refused s 5
      · split
        · exact .refused s 7
        · split
          · exact .refused s 5
          · exact .done ..

theorem activate_settles : ∃ t, exec .activate s = .next t ∧ Settles s t := by
  refine ⟨_, rfl, .ctxCommand hb fun n c => ?_⟩
  split
  · exact .refused s 8
  · split
    · exact .refused s 4
    · split
      · split
        · exact .awaitLink hb ..
        · exact .refused s 5
      · exact .done ..

theorem suspend_settles : ∃ t, exec .suspend s = .next t ∧ Settles s t := by
  refine ⟨_, rfl, .ctxCommand hb fun n c => ?_⟩
  split
  · split
    · exact .done ..
    · exact .refused s 4
  · dsimp only
    split
    · exact .done ..
    · split
      · exact .done ..
      · refine .inl ?_
        rw [(State.saveCtx_goes _ n).cmd]
        exact hb

theorem resume_settles : ∃ t, exec .resume s = .next t ∧ Settles s t := by
  refine ⟨_, rfl, .ctxCommand hb fun n c => ?_⟩
  split
  · exact .refused s 8
  · split
    · exact .refused s 4
    · split
      · exact .awaitLink hb ..
      · dsimp only
        split
        · exact .done ..
        · exact .done ..

theorem recover_settles : ∃ t, exec .recover s = .next t ∧ Settles s t := by
  refine ⟨_, rfl, .ctxCommand hb fun n c => ?_⟩
  split
  · exact .refused s 4
  · split
    · exact .refused s 7
    · split
      · split
        · exact .awaitLink hb ..
        · exact .refused s 7
      · split
        · exact .refused s 4
        · dsimp only
          split
          · exact .refused s 4
          · split
            · exact .done ..
            · exact .waits hb (s.saveCtx_goes n).cmd

theorem destroy_settles : ∃ t, exec .destroy s = .next t ∧ Settles s t :=
  ⟨_, rfl, .ctxCommand hb fun _ _ => .done ..⟩

theorem createQueue_settles : ∃ t, exec .createQueue s = .next t ∧ Settles s t := by
  refine ⟨_, rfl, .ctxCommand hb fun n c => ?_⟩
  dsimp only
  split
  · exact .refused s 8
  · split
    · exact .refused s 6
    · split
      · exact .refused s 4
      · split
        · split
          · exact .awaitLink hb ..
          · exact .refused s 7
        · split
          · exact .refused s 6
          · exact .done ..

theorem preEmptQueue_settles : ∃ t, exec .preEmptQueue s = .next t ∧ Settles s t := by
  refine ⟨_, rfl, .command hb ?_⟩
  dsimp only
  split
  · exact .refused s 1
  · refine .queueCommand hb fun q x => ?_
    split
    · split
      · exact .waits hb (s.goOnPreempt_goes q).cmd
      · exact .done ..
    · split
      · exact .refused s 4
      · split
        · refine .inl ?_
          show (s.preempt q (s.cmd.byte 9)).cmd.busy = true
          have hcmd : (s.preempt q (s.cmd.byte 9)).cmd = s.cmd := by
            unfold State.preempt
            split
            · rfl
            · split
              · rfl
              · exact (State.goOnPreempt_goes _ q).cmd
          rw [hcmd, hb]
        · exact .done ..

theorem resumeQueue_settles : ∃ t, exec .resumeQueue s = .next t ∧ Settles s t := by
  refine ⟨_, rfl, .queueCommand hb fun q x => ?_⟩
  dsimp only
  split
  · exact .refused s 8
  · split
    · exact .refused s 4
    · exact .done ..

theorem acknowledgeQueueFault_settles : ∃ t, exec .acknowledgeQueueFault s = .next t ∧ Settles s t := by
  refine ⟨_, rfl, .queueCommand hb fun q x => ?_⟩
  split
  · split
    · exact .refused s 4
    · split
      · split
        · exact .awaitLink hb ..
        · exact .refused s 7
      · exact .done ..
  · exact .refused s 4

theorem destroyQueue_settles : ∃ t, exec .destroyQueue s = .next t ∧ Settles s t :=
  ⟨_, rfl, .queueCommand hb fun _ _ => .done ..⟩

theorem enterTestMode_settles : ∃ t, exec .enterTestMode s = .next t ∧ Settles s t := by
  refine ⟨_, rfl, .command hb ?_⟩
  split
  · exact .done ..
  · exact .refused s 8

theorem enterServiceMode_settles : ∃ t, exec .enterServiceMode s = .next t ∧ Settles s t := by
  refine ⟨_, rfl, .command hb ?_⟩
  split
  · exact .done ..
  · exact .refused s 8

theorem unknownOpCommand_settles : ∃ t, exec .unknownOpCommand s = .next t ∧ Settles s t := by
  refine ⟨_, rfl, ?_⟩
  dsimp only
  split
  · exact .refused s 1
  · exact .waits hb rfl

/-- Every command goes on, completes with status 0, or is refused. -/
theorem command_settles {i : Instr} (hi : i ∈ Instr.unknownOpCommand :: commands) : ∃ t, exec i s = .next t ∧ Settles s t := by
  simp only [commands, List.mem_cons, List.not_mem_nil, or_false] at hi
  rcases hi with rfl | rfl | rfl | rfl | rfl | rfl | rfl | rfl | rfl | rfl | rfl | rfl | rfl | rfl
  · exact unknownOpCommand_settles hb
  · exact createContext_settles hb
  · exact activate_settles hb
  · exact suspend_settles hb
  · exact resume_settles hb
  · exact recover_settles hb
  · exact destroy_settles hb
  · exact createQueue_settles hb
  · exact preEmptQueue_settles hb
  · exact resumeQueue_settles hb
  · exact acknowledgeQueueFault_settles hb
  · exact destroyQueue_settles hb
  · exact enterTestMode_settles hb
  · exact enterServiceMode_settles hb

end

/-- Each command is its operation with the bytes that it uses. -/
theorem commands_command {n : Nat} {i : Instr} (hi : commands[n]? = some i) :
    ∃ (used : List Nat) (f : State → State), ∀ s, exec i s = .next (s.command (n + 1) used f) := by
  have hn : n < 13 := (List.getElem?_eq_some_iff.1 hi).1
  interval_cases n <;> cases hi <;> exact ⟨_, _, fun _ => rfl⟩

/-- Commands 2 to 6 are about the context of byte 8 and use no other. -/
theorem commands_ctxCommand {n : Nat} {i : Instr} (hi : commands[n]? = some i) (h1 : 1 ≤ n) (h5 : n ≤ 5) :
    ∃ f : State → Nat → Ctx → State, ∀ s, exec i s = .next (s.ctxCommand (n + 1) [] f) := by
  interval_cases n <;> cases hi <;> exact ⟨_, fun _ => rfl⟩

end Sys2Proof.Machine

namespace Sys2Proof
open Sys2Proof.Machine Sys2Proof.Claims

/-- Settles O58: each field of `State.reset` is the value that the spec gives. -/
theorem resetState : Obligations.ResetState := by
  refine ⟨rfl, rfl, rfl, rfl, rfl, rfl, rfl, rfl, rfl, rfl, rfl, rfl, rfl, rfl, ?_, ?_, ?_⟩
  · rfl
  · rfl
  · rfl

/-- Settles O45: a command that goes on is still busy, so that one which has completed with a nonzero status was refused
(`command_settles`); what it is refused with first stands in `State.command` and `State.ctxCommand`. -/
theorem refusedCommandsChangeNothing : Obligations.RefusedCommandsChangeNothing := by
  refine ⟨fun s i hi hb => ?_, fun s i t hi hb ht hbusy hst => ?_, fun s i n hi hb ho hflag => ?_, fun s hb ho => ?_,
    fun s i n hi h1 h5 hcmd hnone => ?_⟩
  · obtain ⟨n, hn⟩ := List.mem_iff_getElem?.1 hi
    obtain ⟨used, f, hexec⟩ := commands_command hn
    rw [hexec, State.command_of_idle hb]
  · obtain ⟨u, hu, hsettles⟩ := command_settles hb hi
    obtain rfl : u = t := Host.Outcome.next.inj (hu.symm.trans ht)
    rcases hsettles with h | h | ⟨k, rfl⟩
    · rw [hbusy] at h
      cases h
    · exact absurd h hst
    · exact State.finishCmd_eq s k 0
  · obtain ⟨used, f, hexec⟩ := commands_command hi
    rw [hexec, State.command_of_stray hb ho (Cmd.stray_of_flag hflag used)]
  · rw [exec_unknownOpCommand, execUnknownOpCommand]
    dsimp only
    rw [if_pos ⟨hb, ho⟩, State.finishCmd_eq]
  · obtain ⟨f, hexec⟩ := commands_ctxCommand hi h1 h5
    rw [hexec, State.ctxCommand_of_none hcmd hnone]

end Sys2Proof
end

section
/-! PROOFS. The commands about queues and modes (05 R89, R97; 04 R87; 20 R364). -/

namespace Sys2Proof.Machine
open Sys2Proof.Claims

/-! ## Create -/

section
variable {s : State} {c : Ctx} (hcmd : Commanded s 7 (8 :: quadAt16)) (hc : s.ctxs.get? (s.cmd.byte 8) = some c)
include hcmd hc

theorem execCreateQueue_of_refusingMode (h : s.modeRefuses c.firmware = true ∨ bits s.featAgreed.toNat 15 8 ≠ 1) :
    execCreateQueue s = .next (completed s 8 0) := by
  unfold execCreateQueue
  rw [State.ctxCommand_of_some hcmd hc, ← State.finishCmd_eq]
  dsimp only
  rw [if_pos (by simpa using h)]

variable (hmode : s.modeRefuses c.firmware = false) (hfeat : bits s.featAgreed.toNat 15 8 = 1)
include hmode hfeat

/-- Past the mode: the checks of the address, of another queue there, and of what stands there. -/
theorem execCreateQueue_eq :
    execCreateQueue s = .next (
      if s.cmd.bytes 16 23 % 64 ≠ 0 then completed s 6 0
      else if (s.queueAt (s.cmd.byte 8) (BitVec.ofNat 64 (s.cmd.bytes 16 23))).isSome then completed s 4 0
      else match s.devRead 0 (s.cmd.byte 8) (s.cmd.bytes 16 23) 64 with
        | .error f => if f.cause = 0 then s.awaitLink (.engine 0) (s.cmd.byte 8) 0 f.page else completed s 7 0
        | .ok d =>
          if bits d 95 91 < 8 ∨ 20 < bits d 95 91 ∨ d % 2 ^ 64 % 2 ^ (bits d 95 91 + 4) ≠ 0 then completed s 6 0
          else completed { s with
            uid := s.uid + 1
            queues := s.queues.set s.uid (.ofDescriptor (s.cmd.byte 8) (BitVec.ofNat 64 (s.cmd.bytes 16 23)) d) } 0 0) := by
  unfold execCreateQueue
  rw [State.ctxCommand_of_some hcmd hc]
  simp only [hmode, hfeat, bne_self_eq_false, Bool.or_self, Bool.false_eq_true, if_false, State.finishCmd_eq, State.fresh] <;> rfl

end

/-- The ring of a descriptor that passes its checks. -/
theorem ringSound_iff (d : Nat) :
    (8 ≤ bits d 95 91 ∧ bits d 95 91 ≤ 20 ∧ bits d 63 0 % (2 ^ bits d 95 91 * 16) = 0) ↔
      ¬ (bits d 95 91 < 8 ∨ 20 < bits d 95 91 ∨ d % 2 ^ 64 % 2 ^ (bits d 95 91 + 4) ≠ 0) := by
  have hbase : bits d 63 0 = d % 2 ^ 64 := by simp [bits]
  rw [hbase, pow_add, show (2 : Nat) ^ 4 = 16 from rfl]
  generalize d % 2 ^ 64 % (2 ^ bits d 95 91 * 16) = r
  omega

/-! ## Pre-empt -/

/-- No launch is of a queue that has none. -/
theorem State.launches_of_none {s : State} {q : Nat} (h : s.launchesOf q = []) (f : Launch → Launch) :
    (s.launches.mapVals fun _ l => if l.queue = q then f l else l) = s.launches := by
  have hne : ∀ p ∈ s.launches, ¬ p.2.queue = q := by simpa [State.launchesOf] using h
  exact (List.map_congr_left fun p hp => congrArg (Prod.mk p.1) (if_neg (hne p hp))).trans (List.map_id' _)

theorem State.writeRecord_of_noLaunch {s : State} {q : Nat} (h : s.launchesOf q = []) (x : Queue) : s.writeRecord q x = (s, true) := by
  unfold State.writeRecord State.recordOf
  rw [h]
  rfl

/-- Nothing is told to stop. -/
theorem State.stopHanks_nil (s : State) : s.stopHanks [] = s := by
  have h : (s.hanks.mapVals fun h x => if [].contains h then { x with stopping := true } else x) = s.hanks :=
    (List.map_congr_left fun p _ => rfl).trans (List.map_id' _)
  unfold State.stopHanks
  rw [h]

/-- A pre-empt under way of a queue with nothing to wait for ends. -/
theorem State.checkPreempt_of_idle {s : State} {q d : Nat} {x : Queue} (hx : s.queues.get? q = some x) (hp : x.preempting = some d)
    (hsvc : x.svc = none) (hl : s.launchesOf q = []) (hh : s.queueHanks q = []) (hv : s.queueSaved q = []) (hb : s.queueSpawned q = []) :
    s.checkPreempt q = s.modQueue q fun x => { x with st := .preempted, thread := false, preempting := none } := by
  have hbusy : s.preemptBusy q d = false := by
    unfold State.preemptBusy
    rw [hl, hh, hv, hb]
    simp
  unfold State.checkPreempt
  rw [hx]
  dsimp only
  rw [hp]
  dsimp only
  rw [hbusy, hsvc, State.writeRecord_of_noLaunch hl]
  rfl

theorem State.get?_modQueue_self {s : State} {q : Nat} {x : Queue} (h : s.queues.get? q = some x) (f : Queue → Queue) :
    (s.modQueue q f).queues.get? q = some (f x) := by
  rw [State.modQueue, AMap.get?_modify, if_pos rfl, h, Option.map_some]

theorem State.goOnPreempt_of_idle {s : State} {q d : Nat} {x : Queue} (hx : s.queues.get? q = some x) (hp : x.preempting = some d)
    (hsvc : x.svc = none) (hl : s.launchesOf q = []) (hh : s.queueHanks q = []) (hv : s.queueSaved q = []) (hb : s.queueSpawned q = []) :
    s.goOnPreempt q = s.modQueue q fun x => { x with st := .preempted, thread := false, preempting := none } := by
  have hplan : byCore (s.savePlan [] (s.hankTiles [])) = [] := by
    have htiles : s.hankTiles [] = [] := List.filter_eq_nil_iff.2 fun p _ => by simp
    rw [htiles]
    rfl
  rw [← State.checkPreempt_of_idle hx hp hsvc hl hh hv hb]
  unfold State.goOnPreempt
  rw [hx]
  dsimp only
  rw [hh, hb, List.nil_append, State.stopHanks_nil, hplan]
  split
  · split
    · rfl
    · rfl
  · rfl

/-- A pre-empt of a queue with a thread and with nothing resident, saved or launched ends at once. -/
theorem State.preempt_of_idle {s : State} {q : Nat} {x : Queue} (d : Nat) (hx : s.queues.get? q = some x)
    (hrun : x.st = .mapped ∨ x.st = .running ∨ x.st = .blocked) (hsvc : x.svc = none)
    (hh : s.queueHanks q = []) (hv : s.queueSaved q = []) (hb : s.queueSpawned q = []) (hl : s.launchesOf q = []) :
    s.preempt q d = (s.modQueue q fun x => { x with preempting := some (Nat.max d (x.preempting.getD 0)) }).modQueue q fun x =>
      { x with st := .preempted, thread := false, preempting := none } := by
  have hstop := fun f => State.launches_of_none (s := s.modQueue q f) hl fun l => { l with stopped := true }
  unfold State.preempt
  rw [hx]
  dsimp only
  rw [if_neg (by rcases hrun with h | h | h <;> simp [h]), hstop]
  have hx' := State.get?_modQueue_self hx fun x => { x with preempting := some (Nat.max d (x.preempting.getD 0)) }
  exact State.goOnPreempt_of_idle hx' rfl hsvc hl hh hv hb

/-- A pre-empt past its checks of status 1, not yet under way. -/
theorem execPreEmptQueue_eq {s : State} {q : Nat} {x : Queue} (hcmd : Commanded s 8 (8 :: 9 :: quadAt16))
    (hctx : (s.ctxs.get? (s.cmd.byte 8)).isSome = true)
    (hq : s.queueAt (s.cmd.byte 8) (BitVec.ofNat 64 (s.cmd.bytes 16 23)) = some (q, x)) (hd : s.cmd.byte 9 ≤ 1)
    (hstart : s.cmd.started = false) :
    execPreEmptQueue s = .next (
      if x.st ≠ .mapped ∧ x.st ≠ .running ∧ x.st ≠ .blocked then completed s 4 0
      else
        let t := s.preempt q (s.cmd.byte 9)
        if s.cmd.byte 9 = 1 ∧ t.preemptGoesOn q then { t with cmd := { t.cmd with started := true } } else completed t 0 0) := by
  have hcmd' : Commanded s 8 (8 :: (quadAt16 ++ [9])) := by
    obtain ⟨hb, ho, hs⟩ := hcmd
    refine ⟨hb, ho, (Cmd.stray_congr _ fun i => ?_).trans hs⟩
    rw [Bool.eq_iff_iff, List.contains_iff_mem, List.contains_iff_mem]
    simp only [quadAt16, List.cons_append, List.nil_append, List.mem_cons, List.not_mem_nil, or_false]
    omega
  unfold execPreEmptQueue
  rw [State.command_of_commanded hcmd]
  dsimp only
  rw [if_neg (by omega), State.queueCommand_of_some hcmd' hctx hq]
  simp only [hstart, Bool.false_eq_true, if_false, State.finishCmd_eq]

theorem execPreEmptQueue_of_depth {s : State} (hcmd : Commanded s 8 (8 :: 9 :: quadAt16)) (hd : 1 < s.cmd.byte 9) :
    execPreEmptQueue s = .next (completed s 1 0) := by
  unfold execPreEmptQueue
  rw [State.command_of_commanded hcmd]
  dsimp only
  rw [if_pos hd, State.finishCmd_eq]

/-- A pre-empt with nothing to wait for completes at once. -/
theorem execPreEmptQueue_of_idle {s : State} {q : Nat} {x : Queue} (hcmd : Commanded s 8 (8 :: 9 :: quadAt16))
    (hctx : (s.ctxs.get? (s.cmd.byte 8)).isSome = true)
    (hq : s.queueAt (s.cmd.byte 8) (BitVec.ofNat 64 (s.cmd.bytes 16 23)) = some (q, x)) (hx : s.queues.get? q = some x)
    (hd : s.cmd.byte 9 ≤ 1) (hstart : s.cmd.started = false) (hrun : x.st = .mapped ∨ x.st = .running ∨ x.st = .blocked)
    (hsvc : x.svc = none) (hh : s.queueHanks q = []) (hv : s.queueSaved q = []) (hb : s.queueSpawned q = [])
    (hl : s.launchesOf q = []) :
    ∃ l : AMap Queue, execPreEmptQueue s = .next (completed { s with queues := l } 0 0) ∧
      l.get? q = some { x with st := .preempted, thread := false, preempting := none } := by
  have hpre := State.preempt_of_idle (s.cmd.byte 9) hx hrun hsvc hh hv hb hl
  have hget := State.get?_modQueue_self (State.get?_modQueue_self hx fun x =>
    { x with preempting := some (Nat.max (s.cmd.byte 9) (x.preempting.getD 0)) }) fun x =>
      { x with st := .preempted, thread := false, preempting := none }
  refine ⟨_, ?_, hget⟩
  rw [execPreEmptQueue_eq hcmd hctx hq hd hstart, if_neg (by rcases hrun with h | h | h <;> simp [h]), hpre]
  have hgo : ¬ (s.cmd.byte 9 = 1 ∧ (((s.modQueue q fun x =>
      { x with preempting := some (Nat.max (s.cmd.byte 9) (x.preempting.getD 0)) }).modQueue q fun x =>
        { x with st := .preempted, thread := false, preempting := none }).preemptGoesOn q) = true) := by
    rintro ⟨-, h⟩
    unfold State.preemptGoesOn at h
    rw [hget] at h
    simp at h
  dsimp only
  rw [if_neg hgo]
  rfl

/-! ## Resume -/

section
variable {s : State} {q : Nat} {x : Queue} (hctx : (s.ctxs.get? (s.cmd.byte 8)).isSome = true)
  (hq : s.queueAt (s.cmd.byte 8) (BitVec.ofNat 64 (s.cmd.bytes 16 23)) = some (q, x))
include hctx hq

theorem execResumeQueue_eq (hcmd : Commanded s 9 (8 :: quadAt16)) (hmode : s.modeRefuses ((s.ctxs.get? x.ctx).any Ctx.firmware) = false) :
    execResumeQueue s = .next (
      if x.st ≠ .preempted then completed s 4 0
      else
        let y := { x with st := .unmapped, slice := 0 }
        completed (({ s with queues := s.queues.set q y } : State).request q y) 0 0) := by
  unfold execResumeQueue
  rw [State.queueCommand_of_some (by simpa using hcmd) hctx hq]
  simp only [hmode, Bool.false_eq_true, if_false, State.finishCmd_eq]

/-! ## Acknowledge -/

section
variable {code : Nat} (hcmd : Commanded s 10 (8 :: quadAt16)) (hst : x.st = .faulted code) (hcode : code ≠ 0)
include hcmd hst hcode

theorem execAcknowledgeQueueFault_of_read {rd : Nat} (hread : Queue.read s x 24 8 = .ok rd) :
    execAcknowledgeQueueFault s =
      .next (completed (s.modQueue q fun x => { x with st := .unmapped, rdidx := BitVec.ofNat 64 rd }) 0 0) := by
  unfold execAcknowledgeQueueFault
  rw [State.queueCommand_of_some (by simpa using hcmd) hctx hq]
  simp only [hst, if_neg hcode, show offRd = 24 from rfl, hread, State.finishCmd_eq]

theorem execAcknowledgeQueueFault_of_unread {f : XFault} (hread : Queue.read s x 24 8 = .error f) :
    execAcknowledgeQueueFault s =
      .next (if f.cause = 0 then s.awaitLink (.engine x.core) x.ctx x.core f.page else completed s 7 0) := by
  unfold execAcknowledgeQueueFault
  rw [State.queueCommand_of_some (by simpa using hcmd) hctx hq]
  simp only [hst, if_neg hcode, show offRd = 24 from rfl, hread, State.finishCmd_eq]

end

theorem execAcknowledgeQueueFault_of_sound (hcmd : Commanded s 10 (8 :: quadAt16)) (hst : ∀ code, x.st ≠ .faulted code) :
    execAcknowledgeQueueFault s = .next (completed s 4 0) := by
  unfold execAcknowledgeQueueFault
  rw [State.queueCommand_of_some (by simpa using hcmd) hctx hq]
  split
  · exact absurd ‹_› (hst _)
  · rw [State.finishCmd_eq]

/-! ## Destroy -/

theorem execDestroyQueue_eq (hcmd : Commanded s 11 (8 :: quadAt16)) :
    execDestroyQueue s = .next (completed { s with
      queues := s.queues.erase q
      mapLists := s.mapLists.set x.die ((s.mapList x.die).filter (· != q))
      launches := s.launches.mapVals fun _ l => if l.queue = q then { l with count := l.next, stopped := true } else l } 0 0) := by
  unfold execDestroyQueue
  rw [State.queueCommand_of_some (by simpa using hcmd) hctx hq]
  simp only [State.finishCmd_eq]

end

/-- A queue that asks where none waits before it: mapped where a thread is free, else the only one in the list. -/
theorem State.request_of_alone {s : State} {q : Nat} {x : Queue} (hx : s.queues.get? q = some x) (hl : s.mapList x.die = []) :
    (s.threadFree x = true → ∃ l m, s.request q x = { s with queues := l, launches := m } ∧
      l.get? q = some { x with st := .mapped, thread := true }) ∧
    (s.threadFree x = false → s.request q x = { s with mapLists := s.mapLists.set x.die [q] }) := by
  have hnext : s.nextMapped x.die = none := by
    unfold State.nextMapped
    rw [hl]
    rfl
  constructor
  · intro h
    refine ⟨_, (s.mapQueue q).launches, ?_, State.get?_modQueue_self hx fun x => { x with st := .mapped, thread := true }⟩
    unfold State.request
    rw [h, hnext, if_pos (by simp)]
    rfl
  · intro h
    unfold State.request State.askThread
    rw [h, if_neg (by simp), hl]
    rfl

/-! ## Modes -/

theorem State.anyActive_iff (s : State) : s.anyActive = true ↔ ∃ c ∈ s.ctxs, c.2.st = .active := by
  simp [State.anyActive]

theorem execEnterTestMode_eq {s : State} (hcmd : Commanded s 12 []) :
    execEnterTestMode s = .next (
      if s.mode = .service ∧ s.anyActive = false then completed { s with mode := .test } 0 0 else completed s 8 0) := by
  unfold execEnterTestMode
  rw [State.command_of_commanded hcmd]
  simp only [State.finishCmd_eq]

theorem execEnterServiceMode_eq {s : State} (hcmd : Commanded s 13 []) :
    execEnterServiceMode s = .next (if s.mode = .test then completed { s with mode := .service } 0 0 else completed s 8 0) := by
  unfold execEnterServiceMode
  rw [State.command_of_commanded hcmd]
  simp only [State.finishCmd_eq]

end Sys2Proof.Machine

namespace Sys2Proof
open Sys2Proof.Machine Sys2Proof.Claims

/-- Settles O46: each command by what it does past the checks of the command block, one lemma to a command. -/
theorem queueAndModeCommands : Obligations.QueueAndModeCommands := by
  refine ⟨fun s c hcmd hc => ⟨execCreateQueue_of_refusingMode hcmd hc, fun hmode hfeat => ?_⟩, fun s q x hctx hq hx => ?_,
    fun s hcmd hnone hserv => ?_, fun s hcmd h => ?_, fun s hcmd htest => ?_, fun s hcmd htest => ?_⟩
  · rw [exec_createQueue, execCreateQueue_eq hcmd hc hmode hfeat]
    refine ⟨fun ha => by rw [if_pos ha], fun ha hat => by rw [if_neg (not_not.2 ha), if_pos hat], fun d ha hat hd => ?_,
      fun f ha hat hf => ?_⟩
    · rw [if_neg (not_not.2 ha), hat, Option.isSome_none, if_neg Bool.false_ne_true, hd]
      dsimp only
      rw [ringSound_iff]
      refine ⟨fun hbad => by rw [if_pos (not_not.1 hbad)], fun hgood => ⟨_, ?_, rfl⟩⟩
      rw [exec_createQueue, execCreateQueue_eq hcmd hc hmode hfeat, if_neg (not_not.2 ha), hat, Option.isSome_none,
        if_neg Bool.false_ne_true, hd]
      dsimp only
      rw [if_neg hgood]
    · rw [if_neg (not_not.2 ha), hat, Option.isSome_none, if_neg Bool.false_ne_true, hf]
      exact ⟨fun h => by dsimp only; rw [if_neg h], fun h => by dsimp only; rw [if_pos h]⟩
  · refine ⟨?_, ?_, ?_, ?_, ?_, ?_, ?_, ?_, ?_⟩
    · intro hcmd hd hstart hrun hp hsvc hh hv hb hl
      obtain ⟨l, hexec, hget⟩ := execPreEmptQueue_of_idle hcmd hctx hq hx hd hstart hrun hsvc hh hv hb hl
      refine ⟨_, hexec, ⟨rfl, rfl⟩, ?_, rfl⟩
      rw [← hp] at hget
      exact hget
    · exact fun hcmd hd => execPreEmptQueue_of_depth hcmd hd
    · intro hcmd hd hstart hrun
      rw [exec_preEmptQueue, execPreEmptQueue_eq hcmd hctx hq hd hstart, if_pos (by simpa using hrun)]
    · intro hcmd hmode hst hlist
      have hreq := State.request_of_alone (s := { s with queues := s.queues.set q { x with st := .unmapped, slice := 0 } })
        (AMap.get?_set_self _ _ _) hlist
      have hexec := execResumeQueue_eq hctx hq hcmd hmode
      rw [if_neg (not_not.2 hst)] at hexec
      refine ⟨fun hfree => ?_, fun hfree => ?_⟩
      · obtain ⟨l, m, hr, hget⟩ := hreq.1 hfree
        refine ⟨_, hexec, ?_⟩
        dsimp only
        rw [hr]
        exact ⟨⟨rfl, rfl⟩, hget⟩
      · refine ⟨_, hexec, ?_⟩
        dsimp only
        rw [hreq.2 hfree]
        exact ⟨⟨rfl, rfl⟩, AMap.get?_set_self _ _ _, congrArg (Option.getD · []) (AMap.get?_set_self _ _ _)⟩
    · intro hcmd hmode hst
      rw [exec_resumeQueue, execResumeQueue_eq hctx hq hcmd hmode, if_pos hst]
    · intro code rd hcmd hst hcode hread
      exact ⟨_, execAcknowledgeQueueFault_of_read hctx hq hcmd hst hcode hread, rfl⟩
    · intro code f hcmd hst hcode hread
      rw [exec_acknowledgeQueueFault, execAcknowledgeQueueFault_of_unread hctx hq hcmd hst hcode hread]
      exact ⟨fun h => by rw [if_neg h], fun h => by rw [if_pos h]⟩
    · exact fun hcmd hst => execAcknowledgeQueueFault_of_sound hctx hq hcmd hst
    · intro hcmd
      refine ⟨_, execDestroyQueue_eq hctx hq hcmd, ⟨rfl, rfl⟩, ?_, ?_, fun l y hy => ?_, fun r hr => ?_⟩
      · exact (AMap.get?_erase _ _ _).trans (if_pos rfl)
      · show q ∉ ((s.mapLists.set x.die ((s.mapList x.die).filter (· != q))).get? x.die).getD []
        rw [AMap.get?_set_self]
        simp
      · exact (AMap.get?_mapVals
          (fun _ l => if l.queue = q then { l with count := l.next, stopped := true } else l) s.launches l).trans (congrArg (Option.map _) hy)
      · exact (AMap.get?_erase _ _ _).trans (if_neg hr.symm)
  · have hact : s.anyActive = false := by
      rw [← Bool.not_eq_true, State.anyActive_iff]
      rintro ⟨c, hc, h⟩
      exact hnone c hc h
    refine ⟨_, execEnterTestMode_eq hcmd, ?_⟩
    rw [if_pos ⟨hserv, hact⟩]
  · have hbad : ¬ (s.mode = .service ∧ s.anyActive = false) := by
      rintro ⟨hserv, hact⟩
      rw [← Bool.not_eq_true, State.anyActive_iff] at hact
      exact h.elim (· hserv) hact
    rw [exec_enterTestMode, execEnterTestMode_eq hcmd, if_neg hbad]
  · exact ⟨_, execEnterServiceMode_eq hcmd, by rw [if_pos htest]⟩
  · rw [exec_enterServiceMode, execEnterServiceMode_eq hcmd, if_neg htest]

end Sys2Proof
end

section
/-! PROOFS. The host's accesses to BAR 0 and BAR 4 (19 R355 to R358): one lemma per class of registers, then O48. -/

namespace Sys2Proof.Machine

/-! ## Fields of a number -/

theorem bits_eq_mod (n hi : Nat) : bits n hi 0 = n % 2 ^ (hi + 1) := by
  simp only [bits, pow_zero, Nat.div_one, Nat.sub_zero]

theorem bits_lt (n hi lo : Nat) : bits n hi lo < 2 ^ (hi + 1 - lo) := Nat.mod_lt _ (Nat.two_pow_pos _)

/-- What lies below k bits is no part of a number cut off there. -/
theorem mul_pow_add_div {k a b : Nat} (hb : b < 2 ^ k) : (a * 2 ^ k + b) / 2 ^ k = a := by
  rw [Nat.add_comm, Nat.add_mul_div_right _ _ (Nat.two_pow_pos k), Nat.div_eq_of_lt hb, Nat.zero_add]

/-- A byte below k bits does not depend on what stands above them. -/
theorem byte_mul_pow_add {j k : Nat} (h : j + 8 ≤ k) (a b : Nat) : (a * 2 ^ k + b) / 2 ^ j % 256 = b / 2 ^ j % 256 := by
  obtain ⟨m, rfl⟩ := Nat.exists_eq_add_of_le h
  rw [show a * 2 ^ (j + 8 + m) = a * 2 ^ m * 256 * 2 ^ j by ring, Nat.add_comm, Nat.add_mul_div_right _ _ (Nat.two_pow_pos j),
    Nat.add_mul_mod_self_right]

/-! ## Registers written -/

theorem isRoute_iff (off : Nat) : isRoute off = true ↔ 0x100000 ≤ off ∧ off < 0x100000 + 4 * 16384 := by
  simp [isRoute]

theorem isRoute_of_lt {off : Nat} (h : off < 0x100000) : isRoute off = false := by
  rw [← Bool.not_eq_true, isRoute_iff]
  omega

theorem barBad_eight {off : Nat} (h8 : off % 8 = 0) (hlt : off < 0x100000) : barBad off 8 = false := by
  simp [barBad, h8, isRoute_of_lt hlt]

theorem barBad_four {off : Nat} (h4 : off % 4 = 0) (h : isReg8 off = false) : barBad off 4 = false := by
  simp [barBad, h4, h]

/-- The gaps between the first registers: no access of four bytes is theirs, and none of eight is aligned. -/
theorem barBad_of_gap : ∀ off ∈ [0x04, 0x0C, 0x14, 0x24, 0x2C, 0x34, 0x3C],
    barBad off 4 = true ∧ barBad off 8 = true ∧ off < 2 ^ 26 := by decide

theorem barBad_route {r : Nat} (hr : r < 16384) : barBad (0x100000 + 4 * r) 4 = false := by
  refine barBad_four (by omega) ?_
  unfold isReg8
  simp only [Bool.or_eq_false_iff, Bool.and_eq_false_iff, decide_eq_false_iff_not, List.contains_eq_mem, List.mem_cons,
    List.not_mem_nil, or_false]
  omega

theorem exec_hostRegisterWrite_of_good {off width : Nat} (h : off < 2 ^ 26) (hb : barBad off width = false) (v : DWord) (s : State) :
    exec (.hostRegisterWrite off width v) s = .next (s.writeReg off v) := by
  rw [exec_hostRegisterWrite]
  unfold execHostRegisterWrite
  rw [if_neg (Nat.not_le.2 h), if_neg (by simp [hb])]

theorem exec_hostRegisterWrite_eight {off : Nat} (h8 : off % 8 = 0) (hlt : off < 0x100000) (v : DWord) (s : State) :
    exec (.hostRegisterWrite off 8 v) s = .next (s.writeReg off v) :=
  exec_hostRegisterWrite_of_good (by omega) (barBad_eight h8 hlt) v s

theorem exec_hostRegisterWrite_of_bad {off width : Nat} (h : off < 2 ^ 26) (hb : barBad off width = true) (v : DWord) (s : State) :
    exec (.hostRegisterWrite off width v) s = .next { s with unsupported := s.unsupported + 1 } := by
  rw [exec_hostRegisterWrite]
  unfold execHostRegisterWrite
  rw [if_neg (Nat.not_le.2 h), if_pos hb]

section
variable {s : State} (v : DWord) (hopen : s.regsOpen = true)

theorem State.writeReg_cmdbuf {i : Nat} (hi : i < 8) : s.writeReg (0x800 + 8 * i) v = s.writeCmdbuf i v := by
  unfold State.writeReg
  dsimp only
  rw [if_pos (by omega), show (0x800 + 8 * i) / 8 % 8 = i by omega]

theorem State.writeReg_cmdgo : s.writeReg 0x880 v = s.writeCmdgo := rfl

include hopen

theorem State.writeReg_featoffer : s.writeReg 0x00 v = s.writeFeatoffer v := by
  simp [State.writeReg, hopen]

theorem State.writeReg_pkgid : s.writeReg 0x10 v = s.writePkgid v := by
  simp [State.writeReg, hopen]

theorem State.writeReg_tlbinv : s.writeReg 0x20 v = s.writeTlbinv v := by
  simp [State.writeReg, hopen]

theorem State.writeReg_faultdone : s.writeReg 0x28 v = s.faultDone (bits v.toNat 63 56) (bits v.toNat 31 0) := by
  simp [State.writeReg, hopen]

theorem State.writeReg_linktmo : s.writeReg 0x30 v = { s with linkTmo := v.toNat % 2 ^ 32 } := by
  simp [State.writeReg, hopen]

theorem State.writeReg_telctl : s.writeReg 0x38 v = { s with telctl := BitVec.ofNat 64 (v.toNat / 256 * 256 + v.toNat % 2) } := by
  simp [State.writeReg, hopen]

theorem State.writeReg_pwrctl {d : Nat} (hd : d < 8) : s.writeReg (0x100 + 8 * d) v = { s with
    governors := s.governors.set d { s.governors.getD d governorIdle with
      spacing := bits v.toNat 47 32, slew := bits v.toNat 24 16 } } := by
  unfold State.writeReg
  dsimp only
  rw [if_neg (by omega), if_neg (by omega), if_neg (by simp [hopen]), if_neg (by omega), if_neg (by omega), if_neg (by omega),
    if_neg (by omega), if_neg (by omega), if_neg (by omega), if_pos (by omega), show (0x100 + 8 * d) / 8 % 8 = d by omega]

theorem State.writeReg_copyq {d : Nat} (hd : d < 8) : s.writeReg (0x200 + 8 * d) v = { s with copyq := s.copyq.set d v } := by
  unfold State.writeReg
  dsimp only
  rw [if_neg (by omega), if_neg (by omega), if_neg (by simp [hopen]), if_neg (by omega), if_neg (by omega), if_neg (by omega),
    if_neg (by omega), if_neg (by omega), if_neg (by omega), if_neg (by omega), if_pos (by omega),
    show (0x200 + 8 * d) / 8 % 8 = d by omega]

/-- At and above 0x840 but for CMDGO and the classes of ports, routes and ranges, no register is written. -/
theorem State.writeReg_of_none {off : Nat} (hlo : 0x8A0 ≤ off) (hhi : off < 0x1000) : s.writeReg off v = s := by
  unfold State.writeReg
  dsimp only
  rw [if_neg (by omega), if_neg (by omega), if_neg (by simp [hopen]), if_neg (by omega), if_neg (by omega), if_neg (by omega),
    if_neg (by omega), if_neg (by omega), if_neg (by omega), if_neg (by omega), if_neg (by omega), if_neg (by omega),
    if_neg (by simp [isRoute_of_lt (show off < 0x100000 by omega)]), if_neg (by omega)]

theorem State.writeReg_route {r : Nat} (hr : r < 16384) : s.writeReg (0x100000 + 4 * r) v =
    { s with routes := s.routes.set r (v.toNat % 2 ^ 18) }.moveStranded := by
  unfold State.writeReg
  dsimp only
  rw [if_neg (by omega), if_neg (by omega), if_neg (by simp [hopen]), if_neg (by omega), if_neg (by omega), if_neg (by omega),
    if_neg (by omega), if_neg (by omega), if_neg (by omega), if_neg (by omega), if_neg (by omega), if_neg (by omega),
    if_pos ((isRoute_iff _).2 (by omega)), show (0x100000 + 4 * r - 0x100000) / 4 = r by omega]

theorem State.writeReg_range {c r : Nat} (hc : c < 96) (hr : r < 8) (high : Bool) :
    s.writeReg (0x10000 + 256 * c + 16 * r + (if high then 8 else 0)) v = s.writeRange c r high v := by
  obtain ⟨k, hk, hhigh⟩ : ∃ k, (if high then 8 else 0) = 8 * k ∧ k < 2 ∧ (k == 1) = high := by
    cases high
    · exact ⟨0, rfl, by omega, rfl⟩
    · exact ⟨1, rfl, by omega, rfl⟩
  obtain ⟨hlt, rfl⟩ := hhigh
  rw [hk]
  have hreg : isReg8 (0x10000 + 256 * c + 16 * r + 8 * k) = true := by
    unfold isReg8
    rw [Bool.or_eq_true, Bool.and_eq_true, decide_eq_true_eq, decide_eq_true_eq]
    right
    omega
  unfold State.writeReg
  dsimp only
  rw [if_neg (by omega), if_neg (by omega), if_neg (by simp [hopen]), if_neg (by omega), if_neg (by omega), if_neg (by omega),
    if_neg (by omega), if_neg (by omega), if_neg (by omega), if_neg (by omega), if_neg (by omega), if_neg (by omega),
    if_neg (by rw [isRoute_iff]; omega), if_pos ⟨hreg, by omega⟩,
    show (0x10000 + 256 * c + 16 * r + 8 * k - 0x10000) / 256 = c by omega,
    show (0x10000 + 256 * c + 16 * r + 8 * k) % 256 / 16 = r by omega,
    show (0x10000 + 256 * c + 16 * r + 8 * k) / 8 % 2 = k by omega]

end

/-! ## What the writes come to -/

theorem State.writeFeatoffer_eq (s : State) (v : DWord) : s.writeFeatoffer v =
    let low := bits v.toNat 6 0 ||| 1
    { s with
      featOffer := BitVec.ofNat 64 (bits v.toNat 15 8 * 256 + low)
      featAgreed := BitVec.ofNat 64 (low + if bits v.toNat 15 8 = 1 then 256 else 0) } := by
  have hlow : (v.toNat % 128 ||| 1) < 2 ^ 7 := Nat.or_lt_two_pow (Nat.mod_lt _ (by decide)) (by decide)
  have hhigh : v.toNat % 2 ^ 16 / 256 = bits v.toNat 15 8 := by
    simp only [bits]
    omega
  have hoffer : bits (bits v.toNat 15 8 * 256 + (v.toNat % 128 ||| 1)) 15 8 = bits v.toNat 15 8 := by
    have := bits_lt v.toNat 15 8
    rw [bits, show 256 = 2 ^ 8 by rfl, mul_pow_add_div (hlow.trans (by decide)), Nat.mod_eq_of_lt this]
  have hagreed : (bits v.toNat 15 8 * 256 + (v.toNat % 128 ||| 1)) &&& featSupported = (v.toNat % 128 ||| 1) := by
    rw [show featSupported = 2 ^ 7 - 1 by rfl, Nat.and_two_pow_sub_one_eq_mod]
    omega
  unfold State.writeFeatoffer
  dsimp only
  rw [hhigh, hoffer, hagreed, bits_eq_mod]
  rfl

theorem telctl_fields {n : Nat} (h : n < 2 ^ 64) :
    n / 256 * 256 + n % 2 = bits n 63 12 * 2 ^ 12 + bits n 11 8 * 2 ^ 8 + bits n 0 0 := by
  simp only [bits]
  omega

/-- TLBINV written by the host, or by its own event (09 R175). -/
theorem State.writeTlbinv_of_idle {s : State} (h : s.tlbinv = none) (v : DWord) :
    (bits v.toNat 62 61 = 0 → s.writeTlbinv v = s.invalidate ⟨0, bits v.toNat 60 53, bits v.toNat 38 0⟩) ∧
    (bits v.toNat 62 61 = 1 → s.writeTlbinv v = s.invalidate ⟨1, bits v.toNat 60 53, 0⟩) ∧
    (bits v.toNat 62 61 = 2 → s.writeTlbinv v = s.invalidate ⟨2, 0, 0⟩) ∧
    (bits v.toNat 62 61 = 3 → s.writeTlbinv v = s) := by
  unfold State.writeTlbinv
  rw [h]
  exact ⟨fun hk => by rw [hk]; rfl, fun hk => by rw [hk]; rfl, fun hk => by rw [hk]; rfl, fun hk => by rw [hk]; rfl⟩

theorem State.writePkgid_eq (s : State) (v : DWord) : s.writePkgid v =
    if (∃ p ∈ s.ports, p.2.en = true) ∨ s.ctxs ≠ [] ∨ 9215 < bits v.toNat 13 0 then s
    else { s with pkgid := bits v.toNat 13 0 } := by
  unfold State.writePkgid
  simp only [List.any_eq_true, bits_eq_mod]

theorem State.writeRange_eq (s : State) (c r : Nat) (v : DWord) :
    let k := c * 8 + r
    let old := s.ranges.getD k ⟨0, 0⟩
    s.writeRange c r false v = { s with ranges := s.ranges.set k { old with low := v.toNat } } ∧
    s.writeRange c r true v = { s with ranges := s.ranges.set k { old with val := rangeValue (old.low + v.toNat * 2 ^ 64) } } :=
  ⟨rfl, rfl⟩

/-- A half of a range register written by its own event. -/
theorem exec_rangeRegisterWrite_of_open {s : State} {c r : Nat} (hopen : s.regsOpen = true) (hc : c < 96) (hr : r < 8) (high : Bool)
    (v : DWord) : exec (.rangeRegisterWrite c r high v) s = .next (s.writeRange c r high v) := by
  rw [exec_rangeRegisterWrite]
  unfold execRangeRegisterWrite
  rw [if_pos ⟨hopen, hc, hr⟩]

theorem State.writeCmdbuf_of_busy {s : State} (h : s.cmd.busy = true) (i : Nat) (v : DWord) : s.writeCmdbuf i v = s := by
  simp [State.writeCmdbuf, h]

theorem State.writeCmdgo_of_busy {s : State} (h : s.cmd.busy = true) : s.writeCmdgo = s := by
  simp [State.writeCmdgo, h]

theorem State.writeCmdgo_of_idle {s : State} (h : s.cmd.busy = false) (hopen : s.regsOpen = true) : s.writeCmdgo =
    { s with cmd := { s.cmd with busy := true, firmware := s.mode == .recovery && s.pick 2 == 1, started := false } } := by
  simp [State.writeCmdgo, h, hopen]

/-- The quadword written is the bytes of CMDBUF from 8 × i on, and the others stay. -/
theorem State.writeCmdbuf_of_idle {s : State} (h : s.cmd.busy = false) (i : Nat) (v : DWord) :
    s.writeCmdbuf i v = { s with cmd := { s.cmd with buf := (s.writeCmdbuf i v).cmd.buf } } ∧
    (s.writeCmdbuf i v).cmd.bytes (8 * i) (8 * i + 7) = v.toNat ∧
    ∀ j, j < 8 * i ∨ 8 * i + 8 ≤ j → (s.writeCmdbuf i v).cmd.byte j = s.cmd.byte j := by
  have heq : s.writeCmdbuf i v = { s with cmd := { s.cmd with
      buf := (s.cmd.buf / 2 ^ (64 * (i + 1)) * 2 ^ 64 + v.toNat) * 2 ^ (64 * i) + s.cmd.buf % 2 ^ (64 * i) } } := by
    unfold State.writeCmdbuf
    dsimp only
    rw [h, if_neg (by decide), show 64 * (i + 1) = 64 + 64 * i by ring, pow_add, Nat.add_mul, Nat.mul_assoc]
  have hlow : s.cmd.buf % 2 ^ (64 * i) < 2 ^ (64 * i) := Nat.mod_lt _ (Nat.two_pow_pos _)
  rw [heq]
  refine ⟨rfl, ?_, fun j hj => ?_⟩
  · unfold Cmd.bytes
    dsimp only
    rw [show 8 * (8 * i) = 64 * i by ring, mul_pow_add_div hlow, show 8 * (8 * i + 7 + 1 - 8 * i) = 64 by omega]
    rw [Nat.mul_comm, Nat.mul_add_mod, Nat.mod_eq_of_lt v.isLt]
  · unfold Cmd.byte
    dsimp only
    rcases hj with hj | hj
    · rw [byte_mul_pow_add (by omega)]
      conv_rhs => rw [← Nat.div_add_mod' s.cmd.buf (2 ^ (64 * i)), byte_mul_pow_add (by omega)]
    · obtain ⟨m, hm⟩ := Nat.exists_eq_add_of_le (show 64 * i + 64 ≤ 8 * j by omega)
      rw [hm, pow_add, pow_add, ← Nat.div_div_eq_div_mul, ← Nat.div_div_eq_div_mul, mul_pow_add_div hlow, mul_pow_add_div v.isLt,
        ← Nat.div_div_eq_div_mul, ← pow_add, show 64 * i + 64 = 64 * (i + 1) by ring]

/-! ## Flits that have nowhere to go -/

theorem State.moveStranded_of_empty {s : State} (h : ∀ p ∈ s.ports, p.2.buffer = []) : s.moveStranded = s := by
  suffices ∀ l : AMap Port, (∀ p ∈ l, p.2.buffer = []) →
      l.foldl (fun s p => if p.2.gone then p.2.buffer.foldl (fun s f => s.moveFlit p.1 f) s else s) s = s from this _ h
  intro l hl
  induction l with
  | nil => rfl
  | cons p l ih =>
    obtain ⟨hp, hl⟩ := List.forall_mem_cons.1 hl
    rw [List.foldl_cons, hp, List.foldl_nil, ite_self]
    exact ih hl

/-! ## Registers read -/

theorem readable_of_good {off width : Nat} (h : off < 2 ^ 26) (hb : barBad off width = false) :
    ¬ (barBad off width = true ∨ 2 ^ 26 ≤ off) := by
  rw [hb]
  exact not_or.2 ⟨Bool.false_ne_true, Nat.not_le.2 h⟩

/-- Each field of LINKCS, in its place (R350). -/
theorem Port.linkcs_fields {x : Port} (hl : x.lanes < 16) (hg : x.peerPkg < 2 ^ 14) (hp : x.peerPort < 32) (hr : x.replays < 2 ^ 16)
    (he : x.crcErr < 2 ^ 16) :
    x.linkcs.testBit 63 = x.en ∧ bits x.linkcs 62 60 = x.st.code ∧ bits x.linkcs 59 56 = x.lanes ∧ bits x.linkcs 55 42 = x.peerPkg ∧
      bits x.linkcs 41 37 = x.peerPort ∧ bits x.linkcs 36 32 = 0 ∧ bits x.linkcs 31 16 = x.replays ∧ bits x.linkcs 15 0 = x.crcErr := by
  have hst : x.st.code < 6 := by cases x.st <;> decide
  obtain ⟨k, hk, hk2, hen⟩ : ∃ k, (if x.en then 2 ^ 63 else 0) = k * 2 ^ 63 ∧ k < 2 ∧ decide (k = 1) = x.en := by
    cases x.en
    · exact ⟨0, rfl, by omega, rfl⟩
    · exact ⟨1, rfl, by omega, rfl⟩
  unfold Port.linkcs
  rw [hk, Nat.testBit_eq_decide_div_mod_eq, ← hen]
  simp only [bits]
  refine ⟨?_, by omega, by omega, by omega, by omega, by omega, by omega, by omega⟩
  congr 1
  rw [eq_iff_iff]
  omega

theorem PortState.get_code (st : PortState) :
    [PortState.down, .training, .active, .degraded, .retraining, .failed][st.code]? = some st := by
  cases st <;> rfl

theorem State.readReg_linkcs (s : State) {p : Nat} (hp : p < 18) :
    s.readReg (0x1000 + 8 * p) 8 = some (s.ports.getD p portDown).linkcs := by
  unfold State.readReg
  rw [if_neg (readable_of_good (by omega) (barBad_eight (by omega) (by omega))), if_neg (by omega), if_neg (by omega),
    if_neg (by omega), if_neg (by omega), if_neg (by omega), if_neg (by omega), if_neg (by omega), if_neg (by omega),
    if_neg (by omega), if_neg (by omega), if_pos (by omega), show (0x1000 + 8 * p - 0x1000) / 8 = p by omega]
  rfl

theorem isReg8_of_none {off : Nat} (hlo : 0x8A0 ≤ off) (hhi : off < 0x1000) : isReg8 off = false := by
  unfold isReg8
  simp only [Bool.or_eq_false_iff, Bool.and_eq_false_iff, decide_eq_false_iff_not, List.contains_eq_mem, List.mem_cons,
    List.not_mem_nil, or_false]
  omega

theorem State.readReg_of_none (s : State) {off width : Nat} (hb : barBad off width = false) (hlo : 0x8A0 ≤ off) (hhi : off < 0x1000) :
    s.readReg off width = some 0 := by
  unfold State.readReg
  rw [if_neg (readable_of_good (by omega) hb), if_neg (by omega), if_neg (by omega), if_neg (by omega),
    if_neg (by omega), if_neg (by omega), if_neg (by omega), if_neg (by omega), if_neg (by omega), if_neg (by omega),
    if_neg (by omega), if_neg (by omega), if_neg (by simp [isRoute_of_lt (show off < 0x100000 by omega)]), if_neg (by omega)]

theorem State.readReg_of_bad (s : State) {off width : Nat} (hb : barBad off width = true) : s.readReg off width = none :=
  if_pos (.inl hb)

/-- What BAR 0 reads of the range registers is their values, not what is held aside. -/
theorem State.readReg_congr_ranges {s : State} {m : AMap RangeReg} (h : ∀ k, (m.getD k ⟨0, 0⟩).val = (s.ranges.getD k ⟨0, 0⟩).val)
    (off width : Nat) : { s with ranges := m }.readReg off width = s.readReg off width := by
  unfold State.readReg
  simp only [h]
  rfl

/-! ## BAR 4 -/

theorem bytesNat_div_mod (l : List Byte) {i : Nat} (hi : i < l.length) : l[i]? = some (BitVec.ofNat 8 (bytesNat l / 256 ^ i)) := by
  induction l generalizing i with
  | nil => cases hi
  | cons b l ih =>
    cases i with
    | zero =>
      rw [List.getElem?_cons_zero, pow_zero, Nat.div_one, bytesNat]
      congr 1
      apply BitVec.eq_of_toNat_eq
      rw [BitVec.toNat_ofNat]
      have := b.isLt
      omega
    | succ i =>
      rw [List.getElem?_cons_succ, ih (Nat.lt_of_succ_lt_succ hi), bytesNat, pow_succ', ← Nat.div_div_eq_div_mul]
      have := b.isLt
      rw [show (b.toNat + 256 * bytesNat l) / 256 = bytesNat l by omega]

/-- With no early write, bytes from outside go straight to memory. -/
theorem State.putBytes_of_early_nil {s : State} (h : s.early = []) (w : Writer) (a : Nat) (l : List Byte) :
    s.putBytes w a l = { s with mem := s.mem.writeN a (bytesNat l) l.length, spoiled := (s.putBytes w a l).spoiled } := by
  unfold State.putBytes State.putParts State.land
  rw [State.widen_of_early_nil h]
  rfl

theorem State.readHbm_of_le (s : State) {a len : Nat} (h : a + len ≤ 1280 * 10 ^ 9) : s.readHbm a len = some (s.seenN hostAgent a len) :=
  if_neg (Nat.not_lt.2 h)

theorem State.readHbm_of_lt (s : State) {a len : Nat} (h : 1280 * 10 ^ 9 < a + len) : s.readHbm a len = none := if_pos h

theorem exec_hostHbmRead {s : State} {a len : Nat} (h : a + len ≤ 1280 * 10 ^ 9) : exec (.hostHbmAccess (.read a len)) s = .next s := by
  rw [exec_hostHbmAccess]
  unfold execHostHbmAccess
  dsimp only
  rw [State.readHbm_of_le s h]
  rfl

theorem exec_hostHbmRead_beyond {s : State} {a len : Nat} (h : 1280 * 10 ^ 9 < a + len) :
    exec (.hostHbmAccess (.read a len)) s = .next { s with unsupported := s.unsupported + 1 } := by
  rw [exec_hostHbmAccess]
  unfold execHostHbmAccess
  dsimp only
  rw [State.readHbm_of_lt s h]
  rfl

theorem exec_hostHbmWrite {s : State} {a : Nat} {l : List Byte} (h : a + l.length ≤ 1280 * 10 ^ 9) :
    exec (.hostHbmAccess (.write a l)) s = .next (if l = [] then s else s.putBytes .host a l) := by
  rw [exec_hostHbmAccess]
  unfold execHostHbmAccess
  dsimp only
  rw [if_neg (show ¬ hbmEnd < a + l.length from Nat.not_lt.2 h)]

theorem exec_hostHbmWrite_beyond {s : State} {a : Nat} {l : List Byte} (h : 1280 * 10 ^ 9 < a + l.length) :
    exec (.hostHbmAccess (.write a l)) s = .next { s with unsupported := s.unsupported + 1 } := by
  rw [exec_hostHbmAccess]
  unfold execHostHbmAccess
  dsimp only
  rw [if_pos (show hbmEnd < a + l.length from h)]

end Sys2Proof.Machine

namespace Sys2Proof
open Machine

theorem hostRegistersAreWritten : Claims.HostRegistersAreWritten := by
  unfold Claims.HostRegistersAreWritten
  intro s v hopen
  dsimp only
  have hgo : s.writeReg 0x880 v = s.writeCmdgo := State.writeReg_cmdgo v
  have eight : ∀ {off : Nat}, off % 8 = 0 → off < 0x100000 → exec (.hostRegisterWrite off 8 v) s = .next (s.writeReg off v) :=
    fun h8 hlt => exec_hostRegisterWrite_eight h8 hlt v s
  have hgo : s.writeReg 0x880 v = s.writeCmdgo := State.writeReg_cmdgo v
  refine ⟨⟨⟨_, eight (by decide) (by decide), ?_⟩, _, exec_featofferWrite v s, ?_⟩,
    ⟨⟨_, eight (by decide) (by decide), ?_⟩, _, exec_pkgidWrite v s, ?_⟩,
    ⟨_, eight (by decide) (by decide), ?_⟩, ⟨_, eight (by decide) (by decide), ?_⟩,
    fun d hd => ⟨_, eight (by omega) (by omega), State.writeReg_copyq v hopen hd⟩,
    fun d hd => ⟨_, eight (by omega) (by omega), State.writeReg_pwrctl v hopen hd⟩,
    fun hidle => ?_, ?_, fun hbusy => ⟨⟨_, eight (by decide) (by decide), ?_⟩, fun i hi => ⟨_, eight (by omega) (by omega), ?_⟩⟩,
    fun hidle hm => ⟨_, eight (by decide) (by decide), ?_⟩, fun hidle => ⟨_, eight (by decide) (by decide), ?_⟩,
    fun i hidle hi => ⟨_, eight (by omega) (by omega), ?_⟩, fun c r hc hr => ?_, fun r hr hroutes hbuf => ?_, fun off hoff => ?_,
    fun off hlt h8 hlo hhi => ⟨⟨_, eight h8 (by omega), State.writeReg_of_none v hopen hlo hhi⟩, _,
      exec_hostRegisterWrite_of_good hlt (barBad_four (by omega) (isReg8_of_none hlo hhi)) v s, State.writeReg_of_none v hopen hlo hhi⟩⟩
  · rw [State.writeReg_featoffer v hopen, s.writeFeatoffer_eq]
  · rw [if_pos hopen, s.writeFeatoffer_eq]
  · rw [State.writeReg_pkgid v hopen, s.writePkgid_eq]
  · rw [if_pos hopen, s.writePkgid_eq]
  · rw [State.writeReg_linktmo v hopen, bits_eq_mod]
  · rw [State.writeReg_telctl v hopen, telctl_fields v.isLt]
  · obtain ⟨hpage, hctx, hall, hnone⟩ := State.writeTlbinv_of_idle hidle v
    have hwrite : exec (.hostRegisterWrite 0x20 8 v) s = .next (s.writeTlbinv v) := by
      rw [eight (by decide) (by decide), State.writeReg_tlbinv v hopen]
    refine ⟨fun hk => ?_, fun hk => ?_, fun hk => ?_, fun hk => ⟨_, hwrite, hnone hk⟩⟩
    · rw [hwrite, hpage hk, exec_tlbinvPage, execTlbinvPage, Nat.mod_eq_of_lt (bits_lt v.toNat 38 0)]
    · rw [hwrite, hctx hk, exec_tlbinvContext, execTlbinvContext]
    · rw [hwrite, hall hk, exec_tlbinvAll, execTlbinvAll]
  · rw [eight (by decide) (by decide), State.writeReg_faultdone v hopen, exec_faultdone, execFaultdone]
  · exact hgo.trans (State.writeCmdgo_of_busy hbusy)
  · exact (State.writeReg_cmdbuf v hi).trans (State.writeCmdbuf_of_busy hbusy i v)
  · rw [hgo, State.writeCmdgo_of_idle hidle hopen, hm]
    rfl
  · refine ⟨s.mode == .recovery && s.pick 2 == 1, hgo.trans (State.writeCmdgo_of_idle hidle hopen), fun hm => ?_⟩
    rw [Bool.and_eq_false_iff, beq_eq_false_iff_ne]
    exact .inl hm
  · rw [State.writeReg_cmdbuf v hi]
    exact State.writeCmdbuf_of_idle hidle i v
  · obtain ⟨hlow, hhigh⟩ := s.writeRange_eq c r v
    refine ⟨⟨⟨_, eight (by omega) (by omega), ?_⟩, _, exec_rangeRegisterWrite_of_open hopen hc hr false v, hlow⟩,
      ⟨_, eight (by omega) (by omega), ?_⟩, _, exec_rangeRegisterWrite_of_open hopen hc hr true v, hhigh⟩
    · exact (State.writeReg_range v hopen hc hr false).trans hlow
    · exact (State.writeReg_range v hopen hc hr true).trans hhigh
  · refine ⟨_, exec_hostRegisterWrite_of_good (by omega) (barBad_route hr) v s, ?_⟩
    rw [State.writeReg_route v hopen hr,
      State.moveStranded_of_empty (s := { s with routes := s.routes.set r (v.toNat % 2 ^ 18) }) hbuf, hroutes, bits_eq_mod]
    rfl
  · obtain ⟨h4, h8, hlt⟩ := barBad_of_gap off hoff
    refine ⟨⟨_, exec_hostRegisterWrite_of_bad hlt h4 v s, rfl⟩, ⟨_, exec_hostRegisterWrite_of_bad hlt h8 v s, rfl⟩,
      _, exec_unsupportedRequest .., ?_⟩
    rw [if_pos (.inl ⟨rfl, hlt, h8⟩)]

theorem hostRegistersAreRead : Claims.HostRegistersAreRead := by
  unfold Claims.HostRegistersAreRead
  intro s
  refine ⟨rfl, rfl, rfl, rfl, rfl, fun p hp => ?_, fun c r v hc hr => ?_, fun off hoff => ?_, fun off h8 hlo hhi => ?_⟩
  · intro x hl hg hpp hr he
    obtain ⟨hen, hst, hfields⟩ := Port.linkcs_fields hl hg hpp hr he
    exact ⟨_, s.readReg_linkcs hp, hen, by rw [hst]; exact x.st.get_code, hfields⟩
  · rw [Claims.Completes, exec_rangeRegisterWrite, execRangeRegisterWrite]
    split
    · refine ⟨_, rfl, State.readReg_congr_ranges fun k => ?_⟩
      rw [AMap.getD, AMap.get?_set]
      split
      · rename_i h
        rw [← h]
        rfl
      · rfl
    · exact ⟨_, rfl, fun _ _ => rfl⟩
  · obtain ⟨h4, h8, -⟩ := barBad_of_gap off hoff
    exact ⟨State.readReg_of_bad s h4, State.readReg_of_bad s h8⟩
  · exact ⟨s.readReg_of_none (barBad_eight h8 (by omega)) hlo hhi,
      s.readReg_of_none (barBad_four (by omega) (isReg8_of_none hlo hhi)) hlo hhi⟩

theorem hostAccessesAndTimeouts : Claims.HostAccessesAndTimeouts := by
  unfold Claims.HostAccessesAndTimeouts
  refine ⟨fun s addr data hend hearly hmem => ?_, fun s addr len hend => ?_, fun s addr len hend => ?_,
    fun s addr data len hdata hlen => ⟨?_, ?_, fun ha => ?_⟩, fun s ctx core strand va src c hc ha => ?_⟩
  · have hput := State.putBytes_of_early_nil hearly .host addr data
    refine ⟨_, exec_hostHbmWrite hend, ?_⟩
    by_cases hnil : data = []
    · subst hnil
      rw [if_pos rfl]
      exact ⟨rfl, fun i hi => absurd hi (Nat.not_lt_zero i), fun _ _ => rfl⟩
    rw [if_neg hnil, hput]
    refine ⟨rfl, fun i hi => ?_, fun j hj => Memory.read_writeN_of_outside _ _ hj⟩
    rw [Memory.read_writeN_of_inside _ _ hi hmem]
    exact bytesNat_div_mod data hi
  · have hread := State.readHbm_of_le s hend
    exact ⟨exec_hostHbmRead hend, hread, fun he => hread.trans (congrArg some (State.seenN_of_early_nil he _ _ _))⟩
  · exact State.readHbm_of_lt s hend
  · exact ⟨_, exec_hostHbmWrite_beyond hdata, rfl⟩
  · exact ⟨_, exec_hostHbmRead_beyond hlen, rfl⟩
  · refine ⟨_, exec_unsupportedRequest .., ?_⟩
    rw [if_pos (.inr ⟨rfl, ha, hlen⟩)]
  · obtain ⟨d, hd, hst, hseq, -⟩ := State.recordFault_of_upset (f := { va := va.toNat, cause := 7, level := s.stopLevel core ctx va.toNat })
      core strand src hc ha rfl
    exact ⟨_, exec_pcieCompletionTimeout .., d, hd, hst, hseq⟩

/-- Settles O48: the lemma of each class of registers, and for BAR 4 that a write of the host with nothing early before it goes
straight to memory. -/
theorem hostAccess : Obligations.HostAccess :=
  ⟨hostRegistersAreWritten, hostRegistersAreRead, hostAccessesAndTimeouts⟩

end Sys2Proof
end

section
/-! PROOFS. Ports and links (19 R348 to R352): what each event makes of a port of a package without routes, and where the flits of a
port that fails go; O49. -/

namespace Sys2Proof.Machine

theorem AMap.set_set {α : Type} (m : AMap α) (k : Nat) (v w : α) : (m.set k v).set k w = m.set k w := by
  induction m with
  | nil => simp [AMap.set]
  | cons p m ih =>
    simp only [AMap.set]
    split_ifs with h h2
    · simp [AMap.set]
    · simp [AMap.set]
    · simp [AMap.set, h, h2, ih]

/-! ## A package without routes -/

theorem State.openPorts_of_noRoutes {s : State} (h : s.routes = []) (g : Nat) : s.openPorts g = [] := by
  have hroute : s.routePorts g = [] := by
    unfold State.routePorts
    rw [h]
    simp [AMap.getD]
  unfold State.openPorts
  rw [hroute]
  rfl

theorem State.moveFlit_of_noRoutes {s : State} (h : s.routes = []) (p : Nat) (f : Flit) : s.moveFlit p f = s := by
  unfold State.moveFlit
  simp [State.openPorts_of_noRoutes h]

/-- Without a route no flit moves. -/
theorem State.setPort_of_noRoutes {s : State} (h : s.routes = []) (p : Nat) (x : Port) :
    s.setPort p x = { s with ports := s.ports.set p x } := by
  have hmove : ∀ t : State, t.routes = [] → t.moveStranded = t := fun t ht =>
    List.foldl_fixed' (fun q => by
      rw [List.foldl_fixed' (fun f => State.moveFlit_of_noRoutes ht q.1 f), ite_self]) t.ports
  exact hmove _ h

theorem State.retrain_of_usable {s : State} {p : Nat} (hroutes : s.routes = []) {x : Port} (h : x.usable = true) :
    s.retrain p x = { s with ports := s.ports.set p (x.unlink s.devTime .retraining) } := by
  rw [State.retrain, if_pos h, State.setPort_of_noRoutes hroutes]

/-- A port once EN has been written 1 at a device time (R351). -/
def Port.enabled (x : Port) (now : Nat) : Port :=
  match x.st with
  | .down | .failed => { x with en := true }.unlink now .training
  | .degraded => { x with en := true }.unlink now .retraining
  | _ => { x with en := true }

/-- A port once EN has been written 0 (R351). -/
def Port.disabled (x : Port) (now : Nat) : Port :=
  match x.st with
  | .down => { x with en := false }
  | _ => { x with en := false }.unlink now .down

theorem Port.enabled_of_idle {x : Port} (h : x.st = .down ∨ x.st = .failed) (now : Nat) :
    x.enabled now = { x with en := true }.unlink now .training := by
  obtain ⟨en, st⟩ := x
  dsimp only at h
  rcases h with rfl | rfl <;> rfl

theorem Port.enabled_of_degraded {x : Port} (h : x.st = .degraded) (now : Nat) :
    x.enabled now = { x with en := true }.unlink now .retraining := by
  obtain ⟨en, st⟩ := x
  dsimp only at h
  subst h
  rfl

theorem Port.enabled_of_busy {x : Port} (h : x.st = .active ∨ x.st = .training ∨ x.st = .retraining) (now : Nat) :
    x.enabled now = { x with en := true } := by
  obtain ⟨en, st⟩ := x
  dsimp only at h
  rcases h with rfl | rfl | rfl <;> rfl

theorem Port.disabled_of_down {x : Port} (h : x.st = .down) (now : Nat) : x.disabled now = { x with en := false } := by
  obtain ⟨en, st⟩ := x
  dsimp only at h
  subst h
  rfl

theorem Port.disabled_of_up {x : Port} (h : x.st ≠ .down) (now : Nat) :
    x.disabled now = { x with en := false }.unlink now .down := by
  obtain ⟨en, st⟩ := x
  cases st with
  | down => exact absurd rfl h
  | training | active | degraded | retraining | failed => rfl

section
variable {s : State} {p : Nat} (hp : p < 18) (hroutes : s.routes = [])
include hp

/-- An event of a port that the package has is about that port. -/
theorem State.portEvent_of_lt (f : Port → State) : s.portEvent p f = f (s.port p) := if_pos hp

theorem exec_replayLimit_eq : exec (.replayLimit p) s =
    .next (if 8 ≤ (s.port p).consecutive then s.retrain p (s.port p) else s) := by
  rw [exec_replayLimit, execReplayLimit, State.portEvent_of_lt hp]

theorem exec_laneLoss_eq (lanes : Nat) : exec (.laneLoss p lanes) s =
    .next (if lanes < (s.port p).lanes then s.retrain p (s.port p) else s) := by
  rw [exec_laneLoss, execLaneLoss, State.portEvent_of_lt hp]

theorem exec_trainingTimeout_eq : exec (.trainingTimeout p) s =
    .next (if (s.port p).trains = true ∧ s.trainedOut (s.port p) = true then
      s.setPort p ((s.port p).unlink s.devTime .failed) else s) := by
  rw [exec_trainingTimeout, execTrainingTimeout, State.portEvent_of_lt hp, State.failPort]

include hroutes

theorem exec_linkEnable_of_open (hopen : s.regsOpen = true) : exec (.linkEnable p) s =
    .next { s with ports := s.ports.set p ((s.port p).enabled s.devTime) } := by
  rw [exec_linkEnable, execLinkEnable, if_pos hopen, State.portEvent_of_lt hp, State.enablePort, Port.enabled]
  simp only [State.setPort_of_noRoutes hroutes]
  cases (s.port p).st <;> rfl

theorem exec_linkDisable_of_open (hopen : s.regsOpen = true) : exec (.linkDisable p) s =
    .next { s with ports := s.ports.set p ((s.port p).disabled s.devTime) } := by
  rw [exec_linkDisable, execLinkDisable, if_pos hopen, State.portEvent_of_lt hp, State.disablePort, Port.disabled]
  simp only [State.setPort_of_noRoutes hroutes]
  cases (s.port p).st <;> rfl

/-- Training that fails. -/
theorem exec_trainingEnds_of_failing {lanes pkg port : Nat} (ht : (s.port p).trains = true)
    (h : lanes < 2 ∨ s.trainedOut (s.port p) = true) : exec (.trainingEnds p lanes pkg port) s =
      .next { s with ports := s.ports.set p ((s.port p).unlink s.devTime .failed) } := by
  rw [exec_trainingEnds, execTrainingEnds, State.portEvent_of_lt hp, ht, if_neg (by decide), if_pos h, State.failPort,
    State.setPort_of_noRoutes hroutes]

/-- Training that succeeds. -/
theorem exec_trainingEnds_of_good {lanes pkg port : Nat} (ht : (s.port p).trains = true) (hl : 2 ≤ lanes)
    (ho : s.trainedOut (s.port p) = false) (hport : port < 18) (hpkg : pkg < 2 ^ 14) :
    let n := if 8 ≤ lanes then 8 else if 4 ≤ lanes then 4 else 2
    exec (.trainingEnds p lanes pkg port) s = .next { s with ports := s.ports.set p { s.port p with
      st := if n = 8 then .active else .degraded, lanes := n, peerPkg := pkg, peerPort := port, consecutive := 0 } } := by
  intro n
  have hfail : ¬ (lanes < 2 ∨ s.trainedOut (s.port p) = true) := by
    rw [ho]
    exact not_or.2 ⟨Nat.not_lt.2 hl, Bool.false_ne_true⟩
  rw [exec_trainingEnds, execTrainingEnds, State.portEvent_of_lt hp, ht, if_neg (show ¬ (!true) = true by decide), if_neg hfail,
    if_neg (show ¬ 17 < port by omega)]
  dsimp only
  rw [State.setPort_of_noRoutes hroutes, Nat.mod_eq_of_lt hpkg]

end

/-! ## The replay buffer of a port that holds its own flits -/

theorem Port.origins_of_own {x : Port} {p : Nat} (h : ∀ f ∈ x.buffer, f.port = p) : x.origins p = [p] := by
  have hnone : x.buffer.filter (fun f => f.port != p) = [] :=
    List.filter_eq_nil_iff.2 fun f hf => by rw [h f hf]; simp
  unfold Port.origins
  rw [hnone]
  rfl

theorem ackFlits_eq_drop {p : Nat} {l : List Flit} (h : ∀ f ∈ l, f.port = p) (k : Nat) : ackFlits p k l = l.drop k := by
  induction k generalizing l with
  | zero => cases l <;> rfl
  | succ k ih =>
    cases l with
    | nil => rfl
    | cons f l =>
      obtain ⟨hf, hl⟩ := List.forall_mem_cons.1 h
      rw [ackFlits, if_pos hf, List.drop_succ_cons, ih hl]

/-- Acknowledged flits are the first ones. -/
theorem Port.acked_of_own {x : Port} {p : Nat} (h : ∀ f ∈ x.buffer, f.port = p) (k : Nat → Nat) :
    x.acked p k = { x with buffer := x.buffer.drop (k p) }.recount := by
  unfold Port.acked
  rw [Port.origins_of_own h, List.foldl_cons, List.foldl_nil, ackFlits_eq_drop h]

theorem Port.recount_eq (x : Port) : x.recount =
    if 8 ≤ x.consecutive ∨ ∃ f ∈ x.buffer, x.counted = some (f.port, f.seq) then x else { x with counted := none, consecutive := 0 } := by
  have hcond : (x.counted.any fun c => x.buffer.any fun f => f.port == c.1 && f.seq == c.2) = true ↔
      ∃ f ∈ x.buffer, x.counted = some (f.port, f.seq) := by
    rw [Option.any_eq_true]
    constructor
    · rintro ⟨⟨o, n⟩, hc, h⟩
      obtain ⟨f, hf, h⟩ := List.any_eq_true.1 h
      obtain ⟨rfl, rfl⟩ : f.port = o ∧ f.seq = n := by simpa using h
      exact ⟨f, hf, hc⟩
    · rintro ⟨f, hf, hc⟩
      exact ⟨_, hc, List.any_eq_true.2 ⟨f, hf, by simp⟩⟩
  unfold Port.recount
  simp only [hcond]

/-- A replay of a flit that the buffer holds: those numbered before it are acknowledged. -/
theorem Port.from_of_own {x : Port} {p seq : Nat} {l r : List Flit} {f : Flit} (h : ∀ g ∈ x.buffer, g.port = p)
    (hb : x.buffer = l ++ f :: r) (hf : f.seq = seq) (hl : ∀ g ∈ l, g.seq < seq) (hr : ∀ g ∈ r, seq ≤ g.seq) :
    x.from p p seq = f :: r := by
  rw [hb] at h
  have hfp : f.port = p := h f (List.mem_append_right l (List.mem_cons_self ..))
  have hin : (x.buffer.any fun g => g.port == p && g.seq == seq) = true :=
    List.any_eq_true.2 ⟨f, hb ▸ List.mem_append_right l (List.mem_cons_self ..), by simp [hfp, hf]⟩
  have hleft : l.filter (fun g => g.port != p || decide (seq ≤ g.seq)) = [] := List.filter_eq_nil_iff.2 fun g hg => by
    have hgp := h g (List.mem_append_left _ hg)
    have hgs := hl g hg
    simp [hgp, hgs]
  have hright : (f :: r).filter (fun g => g.port != p || decide (seq ≤ g.seq)) = f :: r :=
    List.filter_eq_self.2 fun g hg => by
      rcases List.mem_cons.1 hg with rfl | hg
      · simp [hf]
      · simp [hr g hg]
  unfold Port.from
  rw [if_pos hin, hb, List.filter_append, hleft, hright, List.nil_append]

theorem Port.replay_of_own {x : Port} {p seq : Nat} {l r : List Flit} {f : Flit} (h : ∀ g ∈ x.buffer, g.port = p)
    (hb : x.buffer = l ++ f :: r) (hf : f.seq = seq) (hl : ∀ g ∈ l, g.seq < seq) (hr : ∀ g ∈ r, seq ≤ g.seq) :
    x.replay p p seq = if 8 ≤ x.consecutive then { x with buffer := f :: r } else
      { x with buffer := f :: r, counted := some (p, seq)
               consecutive := if x.counted = some (p, seq) then x.consecutive + 1 else 1 } := by
  have hfp : f.port = p := h f (hb ▸ List.mem_append_right l (List.mem_cons_self ..))
  have hfind : (f :: r).find? (fun g => g.port == p) = some f := List.find?_cons_of_pos (by simp [hfp])
  unfold Port.replay
  dsimp only
  rw [Port.from_of_own h hb hf hl hr, hfind]
  subst hf
  rfl

/-! ## Flits received -/

theorem State.performRemote_only (s : State) (w : Option (Nat × List Byte)) : OnlyWrites s (s.performRemote w) := by
  unfold State.performRemote State.putBytes
  split
  · split
    · exact State.putParts_only ..
    · exact .refl s
  · exact .refl s

section
variable {s : State} {p o seq : Nat} (hp : p < 18)
include hp

theorem exec_flitReceived_of_deaf {crc : Bool} (h : (s.port p).usable = false ∨ 18 ≤ o) :
    exec (.flitReceived p ⟨o, seq⟩ crc) s = .next s := by
  rw [exec_flitReceived, execFlitReceived, State.portEvent_of_lt hp]
  dsimp only
  rw [if_pos (by simpa using h)]

variable (hu : (s.port p).usable = true) (ho : o < 18)
include hu ho

/-- What a usable port makes of a flit. -/
theorem exec_flitReceived_of_usable (crc : Bool) : exec (.flitReceived p ⟨o, seq⟩ crc) s = .next
    (if !crc then
      s.setPort p { s.port p with crcErr := saturate16 ((s.port p).crcErr + 1), replays := saturate16 ((s.port p).replays + 1) }
    else if seq = (s.port o).rxSeq then
      let s' := s.setPort p ((s.port p).acked p (Config.flitAcks s.moves))
      (s'.setPort o { s'.port o with rxSeq := (s.port o).rxSeq + 1 }).performRemote (Config.remoteWrite s.moves)
    else if (s.port o).rxSeq < seq then s.setPort p { s.port p with replays := saturate16 ((s.port p).replays + 1) }
    else s) := by
  rw [exec_flitReceived, execFlitReceived, State.portEvent_of_lt hp]
  dsimp only
  rw [if_neg (by simp [hu, ho])]

end

/-- A flit that is accepted: what it acknowledges goes, its number is expected no more, and its request may be performed. -/
theorem exec_flitReceived_of_expected {s : State} {p o seq : Nat} (hp : p < 18) (hroutes : s.routes = [])
    (hu : (s.port p).usable = true) (ho : o < 18) (hown : ∀ f ∈ (s.port p).buffer, f.port = p) (hseq : seq = (s.port o).rxSeq) :
    let y := { s.port p with buffer := (s.port p).buffer.drop (Config.flitAcks s.moves p) }.recount
    Claims.Completes (.flitReceived p ⟨o, seq⟩ true) s fun t => t.strands = s.strands ∧
      (o = p → t.ports = s.ports.set p { y with rxSeq := seq + 1 }) ∧
      (o ≠ p → t.ports = (s.ports.set p y).set o { s.port o with rxSeq := seq + 1 }) := by
  dsimp only
  refine ⟨_, exec_flitReceived_of_usable hp hu ho true, ?_⟩
  rw [if_neg (by decide), if_pos hseq]
  dsimp only
  rw [Port.acked_of_own hown, State.setPort_of_noRoutes hroutes]
  generalize hy : { s.port p with buffer := (s.port p).buffer.drop (Config.flitAcks s.moves p) }.recount = y
  rw [State.setPort_of_noRoutes (s := { s with ports := s.ports.set p y }) hroutes, ← hseq]
  obtain ⟨m, e, x, h, -⟩ := State.performRemote_only
    { s with ports := (s.ports.set p y).set o { State.port { s with ports := s.ports.set p y } o with rxSeq := seq + 1 } }
    (Config.remoteWrite s.moves)
  rw [h]
  refine ⟨rfl, fun hop => ?_, fun hop => ?_⟩
  · subst hop
    show (s.ports.set o y).set o { ((s.ports.set o y).get? o).getD portDown with rxSeq := seq + 1 } = _
    rw [AMap.set_set, AMap.get?_set_self]
    rfl
  · show (s.ports.set p y).set o { ((s.ports.set p y).get? o).getD portDown with rxSeq := seq + 1 } = _
    rw [AMap.get?_set_ne _ _ (Ne.symm hop)]
    rfl

theorem exec_replayRequest_eq {s : State} {p : Nat} (hp : p < 18) (hroutes : s.routes = [])
    (hown : ∀ f ∈ (s.port p).buffer, f.port = p) (o seq : Nat) : exec (.replayRequest p ⟨o, seq⟩) s =
      .next (if (s.port p).usable = true ∧ o = p then { s with ports := s.ports.set p ((s.port p).replay p o seq) } else s) := by
  rw [exec_replayRequest, execReplayRequest, State.portEvent_of_lt hp, Port.origins_of_own hown, State.setPort_of_noRoutes hroutes]
  simp

/-! ## Requests that wait, and flits that move -/

section
variable {s : State} {ctx core pkg : Nat}

/-- Has a request of the context at the core waited longer than LINKTMO for a port to the package? -/
theorem linkLate_iff :
    (s.linkWaits.any fun w => w.ctx == ctx && w.core == core && w.pkg == pkg && decide (s.linkTmo * 1000 < s.devTime - w.since)) = true ↔
      ∃ w ∈ s.linkWaits.filter fun w => w.ctx == ctx && w.core == core && w.pkg == pkg, s.linkTmo * 1000 < s.devTime - w.since := by
  simp only [List.any_eq_true, List.mem_filter, Bool.and_eq_true, decide_eq_true_eq, and_assoc]

theorem exec_linkTimeout_of_late {w : LinkWait} (hw : w ∈ s.linkWaits.filter fun w => w.ctx == ctx && w.core == core && w.pkg == pkg)
    (h : s.linkTmo * 1000 < s.devTime - w.since) :
    exec (.linkTimeout ctx core pkg) s = .next (s.ctxFault ctx 5 (dieOf core) 0 0) := by
  rw [exec_linkTimeout, execLinkTimeout, if_pos (linkLate_iff.2 ⟨w, hw, h⟩)]

theorem exec_linkTimeout_of_early (h : ∀ w ∈ s.linkWaits.filter fun w => w.ctx == ctx && w.core == core && w.pkg == pkg,
    s.devTime - w.since ≤ s.linkTmo * 1000) : exec (.linkTimeout ctx core pkg) s = .next s := by
  rw [exec_linkTimeout, execLinkTimeout, if_neg]
  rw [linkLate_iff]
  rintro ⟨w, hw, hlate⟩
  exact absurd (h w hw) (Nat.not_le.2 hlate)

end

theorem testBit_two_pows {p q : Nat} (h : p < q) (r : Nat) : (2 ^ p + 2 ^ q).testBit r = (decide (p = r) || decide (q = r)) := by
  have hor : 2 ^ q * 1 + 2 ^ p = 2 ^ q * 1 ||| 2 ^ p := Nat.two_pow_add_eq_or_of_lt (Nat.pow_lt_pow_right (by decide) h) 1
  rw [Nat.mul_one] at hor
  rw [Nat.add_comm, hor, Nat.testBit_or, Nat.testBit_two_pow, Nat.testBit_two_pow, Bool.or_comm]

theorem filter_range_eq_singleton {q : Nat} (hq : q < 18) : (List.range 18).filter (fun r => decide (r = q)) = [q] := by
  have : ∀ q < 18, (List.range 18).filter (fun r => decide (r = q)) = [q] := by decide
  exact this q hq

/-- Where all that a package holds of ports is two on a route, of which the second carries requests, that one is the route. -/
theorem State.openPorts_of_second {s : State} {p q g : Nat} {x y : Port} (hports : s.ports = [(p, x), (q, y)]) (hpq : p < q) (hq : q < 18)
    (hroutes : s.routes = [(g, 2 ^ p + 2 ^ q)]) (hx : x.usable = false) (hy : y.usable = true) (hroom : y.buffer.length < 512) :
    s.openPorts g = [q] := by
  have hportp : s.port p = x := by simp [State.port, hports, AMap.getD, AMap.get?]
  have hportq : s.port q = y := by simp [State.port, hports, AMap.getD, AMap.get?, Nat.ne_of_lt hpq]
  have hbits : s.routes.getD g 0 = 2 ^ p + 2 ^ q := by simp [hroutes, AMap.getD, AMap.get?]
  have hroute : s.routePorts g = [q] := by
    rw [← filter_range_eq_singleton hq, State.routePorts, hbits]
    refine List.filter_congr fun r _ => ?_
    rw [testBit_two_pows hpq]
    by_cases hrq : r = q
    · subst hrq
      simp [hportq, hy]
    · by_cases hrp : r = p
      · subst hrp
        simp [hportp, hx, hrq]
      · simp [hrq, Ne.symm hrq, Ne.symm hrp]
  rw [State.openPorts, hroute]
  simp [hportq, hroom]

/-- The flit of a port that has failed moves to the other one of its route. -/
theorem State.setPort_of_failing {s : State} {p q : Nat} {x y z : Port} {f : Flit} (hports : s.ports = [(p, z), (q, y)]) (hpq : p < q)
    (hq : q < 18) (hroutes : s.routes = [(f.pkg, 2 ^ p + 2 ^ q)]) (hx : x.st = .failed) (hbuf : x.buffer = [f]) (hy : y.st = .active)
    (hroom : y.buffer.length < 512) :
    s.setPort p x = { s with ports := [(p, { x with buffer := [] }), (q, { y with buffer := y.buffer ++ [f] })] } := by
  have hset : ∀ w : Port, AMap.set p w s.ports = [(p, w), (q, y)] := fun w => by rw [hports]; simp [AMap.set]
  have hopen : State.openPorts { s with ports := [(p, x), (q, y)] } f.pkg = [q] :=
    State.openPorts_of_second rfl hpq hq hroutes (by simp [Port.usable, hx]) (by simp [Port.usable, hy]) hroom
  have hmove : State.moveFlit { s with ports := [(p, x), (q, y)] } p f =
      { s with ports := [(p, { x with buffer := [] }), (q, { y with buffer := y.buffer ++ [f] })] } := by
    unfold State.moveFlit
    rw [hopen]
    simp [State.pick, State.port, AMap.set, AMap.getD, AMap.get?, Nat.ne_of_lt hpq, hbuf, Nat.lt_asymm hpq]
  rw [State.setPort, hset]
  unfold State.moveStranded
  simp only [List.foldl_cons, List.foldl_nil]
  rw [if_neg (by simp [Port.gone, hy]), if_pos (by simp [Port.gone, hx]), hbuf, List.foldl_cons, List.foldl_nil, hmove]

end Sys2Proof.Machine

namespace Sys2Proof
open Machine

theorem portEvents : Claims.PortEvents := by
  unfold Claims.PortEvents
  intro s p x hp hroutes hx hown hothers
  dsimp only
  obtain rfl : s.port p = x := hx
  have husable : ((s.port p).st = .active ∨ (s.port p).st = .degraded) ↔ (s.port p).usable = true := by simp [Port.usable]
  have htrains : ((s.port p).st = .training ∨ (s.port p).st = .retraining) ↔ (s.port p).trains = true := by simp [Port.trains]
  have hout : (s.port p).since + 100000000 ≤ s.devTime ↔ s.trainedOut (s.port p) = true := by simp [State.trainedOut]
  have hport : ∀ o, s.ports.getD o portDown = s.port o := fun _ => rfl
  simp only [husable, htrains, hout, hport]
  refine ⟨fun hopen => ⟨fun h => ?_, fun h => ?_, fun h => ?_, fun h => ?_, fun h => ?_⟩, fun o seq crc h => ?_,
    fun o seq hu ho => ⟨?_, fun hseq => ?_, fun hseq => ?_, fun hseq => ?_⟩, fun o seq ho => ?_,
    fun seq hu l f r hb hf hl hr => ?_, fun hu h8 => ?_, fun h8 => ?_, fun lanes hu hl => ?_, fun lanes hl => ?_,
    fun lanes pkg port ht hpkg => ⟨fun hport ho => ⟨fun hl => ?_, fun hl hl' => ?_, fun hl hl' => ?_⟩, fun h => ?_⟩,
    fun ht ho => ?_, fun h => ?_⟩
  · refine ⟨_, exec_linkEnable_of_open hp hroutes hopen, ?_⟩
    rw [Port.enabled_of_idle h]
    rfl
  · refine ⟨_, exec_linkEnable_of_open hp hroutes hopen, ?_⟩
    rw [Port.enabled_of_degraded h]
    rfl
  · refine ⟨_, exec_linkEnable_of_open hp hroutes hopen, ?_⟩
    rw [← htrains] at h
    rw [Port.enabled_of_busy h]
  · refine ⟨_, exec_linkDisable_of_open hp hroutes hopen, ?_⟩
    rw [Port.disabled_of_down h]
  · refine ⟨_, exec_linkDisable_of_open hp hroutes hopen, ?_⟩
    rw [Port.disabled_of_up h]
    rfl
  · exact exec_flitReceived_of_deaf hp (by simpa using h)
  · exact ⟨_, exec_flitReceived_of_usable hp hu ho false, State.setPort_of_noRoutes hroutes p _⟩
  · obtain ⟨t, ht, hstrands, hself, hother⟩ := exec_flitReceived_of_expected hp hroutes hu ho hown hseq
    refine ⟨t, ht, hstrands, Config.flitAcks s.moves p, fun hcounts => ?_, fun hcounts => ?_⟩
    · rw [Port.recount_eq, if_pos hcounts] at hself hother
      exact ⟨hself, hother⟩
    · rw [Port.recount_eq, if_neg hcounts] at hself hother
      exact ⟨hself, hother⟩
  · refine ⟨_, exec_flitReceived_of_usable hp hu ho true, ?_⟩
    rw [if_neg (by decide), if_neg (Nat.ne_of_gt hseq), if_pos hseq]
    exact State.setPort_of_noRoutes hroutes p _
  · rw [exec_flitReceived_of_usable hp hu ho true, if_neg (by decide), if_neg (Nat.ne_of_lt hseq), if_neg (Nat.lt_asymm hseq)]
  · rw [exec_replayRequest_eq hp hroutes hown, if_neg fun h => ho h.2]
  · refine ⟨_, exec_replayRequest_eq hp hroutes hown p seq, ?_⟩
    rw [if_pos (show (s.port p).usable = true ∧ p = p from ⟨hu, rfl⟩), Port.replay_of_own hown hb hf hl hr]
  · refine ⟨_, exec_replayLimit_eq hp, ?_⟩
    rw [if_pos h8, State.retrain_of_usable hroutes hu]
    rfl
  · rw [exec_replayLimit_eq hp, if_neg (Nat.not_le.2 h8)]
  · refine ⟨_, exec_laneLoss_eq hp lanes, ?_⟩
    rw [if_pos hl, State.retrain_of_usable hroutes hu]
    rfl
  · rw [exec_laneLoss_eq hp, if_neg (Nat.not_lt.2 hl)]
  · refine ⟨_, exec_trainingEnds_of_good hp hroutes ht (by omega) (by simpa using ho) hport hpkg, ?_⟩
    rw [if_pos hl]
    rfl
  · refine ⟨_, exec_trainingEnds_of_good hp hroutes ht (by omega) (by simpa using ho) hport hpkg, ?_⟩
    rw [if_neg (Nat.not_le.2 hl'), if_pos hl]
    rfl
  · refine ⟨_, exec_trainingEnds_of_good hp hroutes ht hl (by simpa using ho) hport hpkg, ?_⟩
    rw [if_neg (show ¬ 8 ≤ lanes by omega), if_neg (Nat.not_le.2 hl')]
    rfl
  · exact ⟨_, exec_trainingEnds_of_failing hp hroutes ht h, rfl⟩
  · refine ⟨_, exec_trainingTimeout_eq hp, ?_⟩
    rw [if_pos ⟨ht, ho⟩]
    exact State.setPort_of_noRoutes hroutes p _
  · rw [exec_trainingTimeout_eq hp, if_neg fun hto => h.elim (· hto.1) (· hto.2)]

theorem linksFailOver : Claims.LinksFailOver := by
  unfold Claims.LinksFailOver
  refine ⟨fun s ctx core pkg => ⟨fun w c hw hlate hc ha => ?_, fun hearly => ?_⟩,
    fun s p q x y f hports hpq hq hroutes hx hsince hy hroom hbuf => ?_⟩
  · refine ⟨_, exec_linkTimeout_of_late hw hlate, ?_⟩
    obtain ⟨d, hd, hst, hcode, -⟩ := State.ctxFault_of_active (code := 5) (die := dieOf core) (f := 0) (r := 0) hc ha
    obtain ⟨m, e, v, cs, ps, ws, h, -⟩ := s.ctxFault_only ctx 5 (dieOf core) 0 0
    refine ⟨?_, d, hd, hst, hcode⟩
    rw [h]
    rfl
  · exact exec_linkTimeout_of_early hearly
  · have hport : s.port p = x := by simp [State.port, hports, AMap.getD, AMap.get?]
    refine ⟨_, exec_trainingTimeout_eq (hpq.trans hq), ?_⟩
    rw [hport, if_pos ⟨by simp [Port.trains, hx], by simp [State.trainedOut, hsince]⟩]
    exact State.setPort_of_failing (x := x.unlink s.devTime .failed) hports hpq hq hroutes rfl hbuf hy hroom

/-- Settles O49: one lemma per event of a port, and the route of a failed port's flit computed. -/
theorem linksAndPorts : Obligations.LinksAndPorts := ⟨portEvents, linksFailOver⟩

end Sys2Proof
end

section
/-! PROOFS. The arbiter (11 R235): the only event of a core is the next one, and what it brings completes the instruction of its
strand, which goes on. -/

namespace Sys2Proof.Machine

/-! ## The only event of a core -/

/-- An event of a core is taken: it was the only one. -/
def State.taken (s : State) (core : Nat) (e : CoreEvent) : State :=
  { s with events := s.events.set core [], lastSource := s.lastSource.set core e.source }

theorem CoreEvent.source_lt (e : CoreEvent) : e.source < 6 := by
  have : ∀ n ∈ [0, 1, 2, 3, 4, 5], n < 6 := by decide
  apply this
  cases e <;> simp [CoreEvent.source]

section
variable {s : State} {core : Nat} {e : CoreEvent} (he : s.events.getD core [] = [e])
include he

/-- Each of the six sources is asked: whichever was served last, the only event is found. -/
theorem State.nextEvent_of_single (hr : s.eventReady e = true) : s.nextEvent core = some e := by
  have hk : ∃ k, k < 6 ∧ e.source = (s.lastSource.getD core 5 + 1 + k) % 6 :=
    ⟨(e.source + 6 * (s.lastSource.getD core 5 + 1) - (s.lastSource.getD core 5 + 1)) % 6, Nat.mod_lt _ (by decide), by
      have := e.source_lt
      omega⟩
  obtain ⟨k, hk, hsource⟩ := hk
  have hall : ∀ j, (([e] : List CoreEvent).find? fun e => e.source == (s.lastSource.getD core 5 + 1 + j) % 6).filter s.eventReady =
      if e.source = (s.lastSource.getD core 5 + 1 + j) % 6 then some e else none := fun j => by
    by_cases h : e.source = (s.lastSource.getD core 5 + 1 + j) % 6
    · simp [h, hr]
    · simp [h]
  unfold State.nextEvent
  simp only [he, hall]
  cases hfind : (List.range 6).findSome? fun j => if e.source = (s.lastSource.getD core 5 + 1 + j) % 6 then some e else none with
  | none => exact absurd (List.findSome?_eq_none_iff.1 hfind k (List.mem_range.2 hk)) (by simp [hsource])
  | some d =>
    obtain ⟨j, -, hj⟩ := List.exists_of_findSome?_eq_some hfind
    split at hj
    · exact hj.symm
    · cases hj

theorem State.nextEvent_of_unready (hr : s.eventReady e = false) : s.nextEvent core = none := by
  unfold State.nextEvent
  simp only [he]
  refine List.findSome?_eq_none_iff.2 fun k _ => ?_
  by_cases h : e.source = (s.lastSource.getD core 5 + 1 + k) % 6
  · simp [h, hr]
  · simp [h]

theorem exec_eventApplication_of_unready (hr : s.eventReady e = false) : exec (.eventApplication core) s = .next s := by
  rw [exec_eventApplication, execEventApplication, State.nextEvent_of_unready he hr]

/-- The only event, where it is no swap. -/
theorem exec_eventApplication_of_single (hr : ∀ h, e ≠ .swap h) :
    exec (.eventApplication core) s = .next ((s.taken core e).applyEvent core e) := by
  have hready : s.eventReady e = true := by
    cases e with
    | swap h => exact absurd rfl (hr h)
    | barrier | knot | copy | service | wake => rfl
  have htaken : ({ s with
      events := s.events.set core ((s.events.getD core []).erase e)
      lastSource := s.lastSource.set core e.source } : State) = s.taken core e := by
    rw [he, List.erase_cons_head]
    rfl
  rw [exec_eventApplication, execEventApplication, State.nextEvent_of_single he hready]
  dsimp only
  rw [htaken]
  cases e with
  | swap h => exact absurd rfl (hr h)
  | barrier | knot | copy | service | wake => rfl

end

/-! ## What completing an instruction leaves -/

/-- The events and the other strands are as before, and with nothing early memory is too. -/
structure StrandOnly (pos : Nat) (s t : State) : Prop where
  events : t.events = s.events
  mem : s.early = [] → t.early = [] ∧ t.mem = s.mem
  others : ∀ q, q ≠ pos → t.strand? q = s.strand? q

theorem StrandOnly.refl (pos : Nat) (s : State) : StrandOnly pos s s := ⟨rfl, fun h => ⟨h, rfl⟩, fun _ _ => rfl⟩

theorem StrandOnly.trans {pos : Nat} {s t u : State} (h : StrandOnly pos s t) (k : StrandOnly pos t u) : StrandOnly pos s u where
  events := k.events.trans h.events
  mem := fun he => by
    obtain ⟨ht, hm⟩ := h.mem he
    obtain ⟨hu, hm'⟩ := k.mem ht
    exact ⟨hu, hm'.trans hm⟩
  others := fun q hq => (k.others q hq).trans (h.others q hq)

theorem State.modStrand_strandOnly (s : State) (pos : Nat) (f : Strand → Strand) : StrandOnly pos s (s.modStrand pos f) where
  events := rfl
  mem := fun h => ⟨h, rfl⟩
  others := fun _ hq => State.strand?_modStrand_ne _ _ hq.symm

theorem State.acquire_of_early_nil {s : State} (h : s.early = []) (pos : Nat) (x : Strand) (sc : Scope) (l : List Nat) :
    s.acquire pos x sc l = s := by
  unfold State.acquire
  dsimp only
  rw [State.widen_of_early_nil h, State.learn_of_early_nil h]

theorem State.acquireAt_only (s : State) (pos : Nat) (a : Option (Nat × Scope)) : OnlyWrites s (s.acquireAt pos a) := by
  unfold State.acquireAt
  split
  · exact .refl s
  · split
    · exact State.acquire_only ..
    · exact .refl s

theorem State.acquireAt_of_early_nil {s : State} (h : s.early = []) (pos : Nat) (a : Option (Nat × Scope)) : s.acquireAt pos a = s := by
  unfold State.acquireAt
  split
  · rfl
  · split
    · exact State.acquire_of_early_nil h ..
    · rfl

/-- What only writes leaves every strand, and with nothing early all. -/
theorem OnlyWrites.strandOnly {s t : State} (h : OnlyWrites s t) (he : s.early = [] → t = s) (pos : Nat) :
    StrandOnly pos s t ∧ t.strands = s.strands := by
  obtain ⟨m, e, x, rfl, -⟩ := h
  exact ⟨⟨rfl, fun hs => by rw [he hs]; exact ⟨hs, rfl⟩, fun _ _ => rfl⟩, rfl⟩

theorem State.acquireAt_strandOnly (s : State) (pos : Nat) (a : Option (Nat × Scope)) :
    StrandOnly pos s (s.acquireAt pos a) ∧ (s.acquireAt pos a).strands = s.strands :=
  (s.acquireAt_only pos a).strandOnly (State.acquireAt_of_early_nil · pos a) pos

theorem State.writeDone_strandOnly (s : State) (pos id : Nat) :
    StrandOnly pos s (s.writeDone pos id) ∧ (s.writeDone pos id).strands = s.strands :=
  (s.writeDone_only pos id).strandOnly (State.widen_of_early_nil · _ _) pos

theorem State.strand?_congr {s t : State} (h : t.strands = s.strands) (pos : Nat) : t.strand? pos = s.strand? pos := by
  unfold State.strand?
  rw [h]

theorem State.pend?_congr {s t : State} (h : t.strands = s.strands) (pos id : Nat) : t.pend? pos id = s.pend? pos id := by
  unfold State.pend?
  rw [State.strand?_congr h]

/-- The strand of an instruction that completes for it: what it becomes, and nothing else changes. -/
theorem State.resume_eq {s : State} {pos id : Nat} {x : Strand} {p : Pend} (hs : s.strand? pos = some x) (hp : s.pend? pos id = some p)
    (w : List (Nat × Reg)) (fl : FFlags) :
    (s.resume pos id w fl).strand? pos = some ((x.finish p fun r => r.write w fl).goOn p) ∧
      StrandOnly pos s (s.resume pos id w fl) := by
  obtain ⟨hdone, hstrands⟩ := s.writeDone_strandOnly pos id
  obtain ⟨hacq, hstrands'⟩ := (s.writeDone pos id).acquireAt_strandOnly pos p.acquires
  have hsame := hstrands'.trans hstrands
  have hcomplete := State.strand?_complete_self ((State.strand?_congr hsame pos).trans hs) ((State.pend?_congr hsame pos id).trans hp) w fl
  have heq : s.resume pos id w fl =
      ((((s.writeDone pos id).acquireAt pos p.acquires)).complete pos id w fl).modStrand pos fun x => x.goOn p := by
    unfold State.resume
    rw [hp]
  rw [heq]
  refine ⟨by rw [State.strand?_modStrand_self, hcomplete]; rfl, ?_⟩
  exact ((hdone.trans hacq).trans (State.modStrand_strandOnly ..)).trans (State.modStrand_strandOnly ..)

/-! ## The strand goes on -/

theorem Strand.goOn_of_blocked {x : Strand} {b : Block} (h : x.run = .blocked b) (p : Pend) :
    (x.goOn p).run = .candidate ∧ (x.goOn p).outs = x.outs ∧
      (x.goOn p).regs = if x.regs.pc = p.at_ then { x.regs with pc := p.next } else x.regs := by
  have hun : x.unblock = { x with run := .candidate } := by
    unfold Strand.unblock
    rw [h]
  unfold Strand.goOn
  rw [hun]
  dsimp only
  split <;> exact ⟨rfl, rfl, rfl⟩

/-- A blocked strand whose instruction completes goes on with its results, past the word where it still stood at it. -/
theorem Strand.goOn_finish {x : Strand} {p : Pend} {b : Block} (hb : x.run = .blocked b) (hm : p.mute = false) (ho : x.outlasts = [])
    (w : List (Nat × Reg)) (fl : FFlags) :
    let y := (x.finish p fun r => r.write w fl).goOn p
    y.run = .candidate ∧ y.regs = (if x.regs.pc = p.at_ then { Claims.completing x.regs p.slot w fl with pc := p.next }
      else Claims.completing x.regs p.slot w fl) ∧ ∀ q ∈ y.outs, q.id ≠ p.id := by
  have hrun : x.run ≠ .exited := by
    rw [hb]
    exact fun h => by cases h
  obtain ⟨hr, houts, hregs⟩ := Strand.goOn_of_blocked ((x.run_finish p fun r => r.write w fl).trans hb) p
  rw [Strand.regs_finish_of_none_outlasts hrun hm ho] at hregs
  dsimp only
  rw [houts]
  exact ⟨hr, hregs, x.outs_finish p _⟩

/-! ## What each event brings -/

section
variable {s : State} {pos id : Nat} {p : Pend} (hp : s.pend? pos id = some p)
include hp

theorem State.sendTo_of_pend (core : Nat) (e : CoreEvent) : s.sendTo core pos id e = s.applyTo pos id e := by
  unfold State.sendTo
  rw [hp, if_pos Option.isSome_some]

theorem State.applyEvent_barrier (core : Nat) : s.applyEvent core (.barrier [(pos, id)]) = s.resume pos id [] 0 :=
  s.sendTo_of_pend hp core _

theorem State.applyEvent_wake (core : Nat) : s.applyEvent core (.wake pos id) = s.resume pos id [] 0 := s.sendTo_of_pend hp core _

theorem State.applyEvent_knot (core : Nat) (w : List (Nat × Reg)) (fl : FFlags) :
    s.applyEvent core (.knot [⟨pos, id, w, fl, none⟩]) = s.resume pos id w fl := by
  refine (s.sendTo_of_pend hp core _).trans ?_
  simp [State.applyTo]

theorem State.applyEvent_service_value (core : Nat) {v : Word} {d : Nat × Tag} {n : Point} {a : Option (Nat × Scope)}
    (hact : p.act = .served (some d) n a) :
    s.applyEvent core (.service pos id (some v) false) = s.resume pos id [(d.1, ⟨v, d.2⟩)] 0 := by
  refine (s.sendTo_of_pend hp core _).trans ?_
  simp only [State.applyTo, hp, hact]

theorem State.applyEvent_service_none (core : Nat) {n : Point} {a : Option (Nat × Scope)} (hact : p.act = .served none n a) :
    s.applyEvent core (.service pos id none false) = s.resume pos id [] 0 := by
  refine (s.sendTo_of_pend hp core _).trans ?_
  simp only [State.applyTo, hp, hact]

/-- A status word of a copy completes its instruction; the wait on it may acquire. -/
theorem State.applyEvent_copy (core cls : Nat) {c : CopyCmd} (hpos : c.pos = pos) (hid : c.pend = id) : ∃ u : State,
    s.applyEvent core (.copy cls c) = u.complete pos id [(c.dst, Reg.stat (copyStatus cls c))] 0 ∧ u.strands = s.strands ∧
      u.events = s.events := by
  subst hpos hid
  obtain ⟨hacq, hstrands⟩ := s.acquireAt_strandOnly c.pos (some (copyMark c.uid, .c))
  refine ⟨if (s.pend? c.pos c.pend).any (fun p => decide (p.slot < 12 ∨ p.look < 15)) then
    s.acquireAt c.pos (some (copyMark c.uid, .c)) else s, ?_, ?_, ?_⟩
  · exact s.sendTo_of_pend hp core (.copy cls c)
  · split
    · exact hstrands
    · rfl
  · split
    · exact hacq.events
    · rfl

end

end Sys2Proof.Machine

namespace Sys2Proof
open Machine

theorem arbiterEventsApply : Claims.ArbiterEventsApply := by
  unfold Claims.ArbiterEventsApply
  intro s core pos id x p e he hs hp hm ho
  have hid : p.id = id := State.id_of_pend? hp
  have hpt : ∀ e, (s.taken core e).pend? pos id = some p := fun _ => hp
  have resumes : ∀ (b : Block) (w : List (Nat × Reg)) (fl : FFlags), (∀ h, e ≠ .swap h) →
      (s.taken core e).applyEvent core e = (s.taken core e).resume pos id w fl → x.run = .blocked b →
      Claims.Completes (.eventApplication core) s fun t =>
        (∃ y, t.strand? pos = some y ∧ y.run = .candidate ∧ y.regs =
            (if x.regs.pc = p.at_ then { Claims.completing x.regs p.slot w fl with pc := p.next }
              else Claims.completing x.regs p.slot w fl) ∧
          ∀ q ∈ y.outs, q.id ≠ id) ∧
        t.events.getD core [] = [] ∧ (s.early = [] → t.mem = s.mem) ∧ ∀ q, q ≠ pos → t.strand? q = s.strand? q := by
    intro b w fl hswap happly hb
    obtain ⟨hstrand, hevents, hmem, hothers⟩ := State.resume_eq (s := s.taken core e) hs hp w fl
    obtain ⟨hrun, hregs, houts⟩ := Strand.goOn_finish hb hm ho w fl
    refine ⟨_, (exec_eventApplication_of_single he hswap).trans (congrArg _ happly), ⟨_, hstrand, hrun, hregs, hid ▸ houts⟩, ?_,
      fun hearly => (hmem hearly).2, hothers⟩
    rw [hevents]
    exact congrArg (Option.getD · []) (AMap.get?_set_self ..)
  refine ⟨fun h => ?_, fun w fl h => ?_, fun v d n a h hact => ?_, fun v d n a h hact => ?_, fun n a h hact => ?_, fun n a h hact => ?_,
    fun dl h => ?_, fun cls c h hpos hcid hrun => ?_⟩
  · exact resumes .barrier [] 0 (by rw [h]; simp) (by rw [h]; exact State.applyEvent_barrier (hpt _) core)
  · exact resumes .knot w fl (by rw [h]; simp) (by rw [h]; exact State.applyEvent_knot (hpt _) core w fl)
  · exact resumes .word _ 0 (by rw [h]; simp) (by rw [h]; exact State.applyEvent_service_value (hpt _) core hact)
  · exact resumes .fifo _ 0 (by rw [h]; simp) (by rw [h]; exact State.applyEvent_service_value (hpt _) core hact)
  · exact resumes .word [] 0 (by rw [h]; simp) (by rw [h]; exact State.applyEvent_service_none (hpt _) core hact)
  · exact resumes .fifo [] 0 (by rw [h]; simp) (by rw [h]; exact State.applyEvent_service_none (hpt _) core hact)
  · exact resumes (.sleep dl) [] 0 (by rw [h]; simp) (by rw [h]; exact State.applyEvent_wake (hpt _) core)
  · obtain ⟨u, happly, hstrands, hevents⟩ := State.applyEvent_copy (s := s.taken core e) hp core cls hpos hcid
    have hrun' : x.run ≠ .exited := by
      rw [hrun]
      exact fun h => by cases h
    rw [← h] at happly
    refine ⟨_, (exec_eventApplication_of_single he (by rw [h]; simp)).trans (congrArg _ happly), ?_, _,
      State.strand?_complete_self ((State.strand?_congr hstrands pos).trans hs) ((State.pend?_congr hstrands pos id).trans hp) _ _,
      Strand.regs_finish_of_none_outlasts hrun' hm ho _ _⟩
    show u.events.getD core [] = []
    rw [hevents]
    exact congrArg (Option.getD · []) (AMap.get?_set_self ..)

end Sys2Proof
end

section
/-! PROOFS. A hank leaves its core (18 R344; 04 R79): what is saved of it, and what a swap leaves. -/

namespace Sys2Proof.Machine

/-! ## A hank with nothing outstanding -/

section
variable {s : State} {h : Nat}

theorem State.rollHank_of_settled (hs : ∀ y ∈ s.hankStrands h, y.2.outs = []) : s.rollHank h = s := by
  have hnone : ((s.hankStrands h).flatMap fun p =>
      (p.2.outs.filter fun f => f.isAcqFence && p.2.speculates f).map fun f => (braidOf p.1, f.group)) = [] :=
    List.flatMap_eq_nil_iff.2 fun y hy => by rw [hs y hy]; rfl
  unfold State.rollHank
  rw [hnone]
  rfl

theorem State.withdraw_of_unblocked {x : Strand} (hx : ∀ b, x.run ≠ .blocked b) (pos : Nat) : s.withdraw pos x = s := by
  unfold State.withdraw
  split
  · exact absurd ‹_› (hx _)
  · exact absurd ‹_› (hx _)
  · exact absurd ‹_› (hx _)
  · exact absurd ‹_› (hx _)
  · rfl

/-- Nothing outstanding and nothing blocked: the hank is ready to be swapped out as it stands. -/
theorem State.readyHank_of_settled (hs : ∀ y ∈ s.hankStrands h, y.2.outs = [] ∧ ∀ b, y.2.run ≠ .blocked b) (hank : Hank)
    {swap : Bool} (hw : swap = true ∨ s.early = []) : s.readyHank h hank swap = s := by
  have hroll : s.rollHank h = s := State.rollHank_of_settled fun y hy => (hs y hy).1
  have hdraw : (s.hankStrands h).foldl (fun s p => s.withdraw p.1 p.2) s = s := by
    suffices ∀ l : AMap Strand, (∀ y ∈ l, ∀ b, y.2.run ≠ .blocked b) → l.foldl (fun s p => s.withdraw p.1 p.2) s = s from
      this _ fun y hy => (hs y hy).2
    intro l hl
    induction l with
    | nil => rfl
    | cons y l ih =>
      obtain ⟨hy, hl⟩ := List.forall_mem_cons.1 hl
      rw [List.foldl_cons, State.withdraw_of_unblocked hy, ih hl]
  unfold State.readyHank
  dsimp only
  rw [hroll, hdraw]
  rcases hw with rfl | he
  · rfl
  · rw [State.widen_of_early_nil he, ite_self]

end

/-! ## What is saved of it -/

/-- Entries that a map leaves alone and keeps in the filter are those of the filter. -/
theorem AMap.filter_mapVals {α : Type} {m : AMap α} {f : Nat → α → α} {q : α → Bool} (hq : ∀ k v, q (f k v) = q v)
    (hf : ∀ p ∈ m, q p.2 = true → f p.1 p.2 = p.2) :
    (m.mapVals f).filter (fun p => q p.2) = m.filter fun p => q p.2 := by
  have hsame : ∀ p ∈ m, q (f p.1 p.2) = true → (p.1, f p.1 p.2) = p := fun p hp h => by
    rw [hf p hp (hq p.1 p.2 ▸ h)]
  induction m with
  | nil => rfl
  | cons p m ih =>
    have ih := ih (fun p hp => hf p (List.mem_cons_of_mem _ hp)) (fun p hp => hsame p (List.mem_cons_of_mem _ hp))
    have hp := hsame p (List.mem_cons_self ..)
    show (((p.1, f p.1 p.2) :: AMap.mapVals f m).filter fun p => q p.2) = _
    rw [List.filter_cons, List.filter_cons, ih]
    dsimp only
    rw [hq] at hp ⊢
    split
    · rename_i h
      rw [hp h]
    · rfl

/-- Strands of a hank that wait for room with no copy queue stay when strands that do go on. -/
theorem State.hankStrands_wakeCopies {s : State} {h : Nat} (hs : ∀ y ∈ s.hankStrands h, ∀ b, y.2.run ≠ .blocked b) (core cls : Nat) :
    (s.wakeCopies core cls).hankStrands h = s.hankStrands h := by
  refine AMap.filter_mapVals (m := s.strands) (q := fun x : Strand => x.hank == h)
    (f := fun pos x => if coreOf pos = core ∧ x.run = .blocked (.copyQueue cls) then x.unblock else x) (fun k x => ?_) fun y hy hq => ?_
  · split
    · unfold Strand.unblock
      split <;> rfl
    · rfl
  · exact if_neg fun hb => hs y (List.mem_filter.2 ⟨hy, hq⟩) _ hb.2

/-- Taking a hank's copies from its core changes copy engines, and strands of which it wakes some. -/
theorem State.takeCopies_eq (s : State) (core h : Nat) : ∃ ce st, (s.takeCopies core h).2 = { s with copyEngines := ce, strands := st } ∧
    ((∀ y ∈ s.hankStrands h, ∀ b, y.2.run ≠ .blocked b) → st.filter (fun p => p.2.hank == h) = s.hankStrands h) := by
  let t := s.setEngine core { s.engine core with queues := (s.engine core).queues.map fun q => q.filter fun c => c.hank != h }
  suffices ∀ l : List Nat, ∃ ce st, l.foldl (fun s cls => s.wakeCopies core cls) t = { s with copyEngines := ce, strands := st } ∧
      ((∀ y ∈ s.hankStrands h, ∀ b, y.2.run ≠ .blocked b) → st.filter (fun p => p.2.hank == h) = s.hankStrands h) from this _
  intro l
  refine foldl_keeps (P := fun u : State => ∃ ce st, u = { s with copyEngines := ce, strands := st } ∧
    ((∀ y ∈ s.hankStrands h, ∀ b, y.2.run ≠ .blocked b) → st.filter (fun p => p.2.hank == h) = s.hankStrands h)) _ (fun u cls hu => ?_) l
    ⟨_, s.strands, rfl, fun _ => rfl⟩
  obtain ⟨ce, st, rfl, hst⟩ := hu
  refine ⟨ce, _, rfl, fun hs => ?_⟩
  have hst := hst hs
  exact (State.hankStrands_wakeCopies (s := { s with copyEngines := ce, strands := st }) (by
    intro y hy
    exact hs y (by rw [← hst]; exact hy)) core cls).trans hst

/-- The copy commands of the hank that its core had queued are among those taken. -/
theorem State.mem_takeCopies {s : State} {core h cls : Nat} {c : CopyCmd} (hc : c ∈ (s.engine core).queue cls) (hh : c.hank = h) :
    (cls, c) ∈ (s.takeCopies core h).1 := by
  unfold CopyEngine.queue at hc
  rw [List.getD_eq_getElem?_getD] at hc
  cases hq : (s.engine core).queues[cls]? with
  | none =>
    rw [hq] at hc
    cases hc
  | some q =>
    rw [hq] at hc
    refine List.mem_flatMap.2 ⟨(q, cls), List.mem_zipIdx_iff_getElem?.2 hq, ?_⟩
    exact List.mem_map.2 ⟨c, List.mem_filter.2 ⟨hc, by simp [hh]⟩, rfl⟩

/-- All that is saved of a hank, as it stood. -/
structure SavedFrom (s : State) (h : Nat) (hank : Hank) (swap : Bool) (v : SavedHank) : Prop where
  uid_eq : v.uid = h
  swap_eq : v.swap = swap
  hank_eq : v.hank = hank
  braids_eq : v.braids = s.braids.filter fun p => p.2.hank == h
  barriers_eq : v.barriers = s.hankBarriers h
  banks_eq : v.banks = hank.banks.map fun b => (b, (s.bank b).unlisted)
  bytes_eq : v.bytes = s.mem.filter fun c => inBanks hank.banks c.1
  fulls_eq : v.fulls = s.full.filter (inBanks hank.banks)
  mem_copies : ∀ cls c, c ∈ (s.engine hank.core).queue cls → c.hank = h → (cls, c) ∈ v.copies
  strands_eq : (∀ y ∈ s.hankStrands h, ∀ b, y.2.run ≠ .blocked b) → v.strands = s.hankStrands h

/-- What listing a hank as saved changes. -/
def State.withListed (s : State) (ce : AMap CopyEngine) (st : AMap Strand) (ev : AMap (List CoreEvent)) (core : Nat) (v : SavedHank) :
    State :=
  { s with copyEngines := ce, strands := st, events := ev, saved := s.saved ++ [v], swapIn := s.swapIn.set core (s.swapIn.getD core [] ++ [v.uid]) }

theorem State.listHank_eq (s : State) (h : Nat) (hank : Hank) (swap : Bool) : ∃ ce st ev v,
    s.listHank h hank swap = s.withListed ce st ev hank.core v ∧ SavedFrom s h hank swap v := by
  obtain ⟨ce, st, hc, hst⟩ := s.takeCopies_eq hank.core h
  unfold State.listHank
  dsimp only
  rw [hc]
  exact ⟨ce, st, _, _, rfl, rfl, rfl, rfl, rfl, rfl, rfl, rfl, rfl, fun _ _ hc hh => State.mem_takeCopies hc hh, hst⟩

/-- A hank that has been swapped out: its barriers and banks stay. -/
theorem State.takeHank_swap (s : State) (h : Nat) (hank : Hank) : ∃ ce st br ev v, s.takeHank h hank true =
    { s.withListed ce st ev hank.core v with braids := br, hanks := s.hanks.erase h } ∧ SavedFrom s h hank true v ∧
    (∀ y ∈ st, y.2.hank ≠ h) ∧ ∀ y ∈ br, y.2.hank ≠ h := by
  obtain ⟨ce, st, ev, v, hl, hv⟩ := s.listHank_eq h hank true
  refine ⟨ce, st.filter fun p => p.2.hank != h, s.braids.filter fun p => p.2.hank != h, ev, v, ?_, hv, ?_, ?_⟩
  · unfold State.takeHank
    rw [hl]
    rfl
  · exact fun y hy => by simpa using (List.mem_filter.1 hy).2
  · exact fun y hy => by simpa using (List.mem_filter.1 hy).2

/-! ## Where it cannot be saved -/

/-- A save area that does not take an image, or an image that cannot be written, faults an active context. -/
theorem State.saveFail_of_active {s : State} {n : Nat} {c : Ctx} {e : SaveStop} (core : Nat) (hc : s.ctxs.get? n = some c)
    (ha : c.st = .active) (he : ∀ g, e ≠ .wait g) :
    let upset := ∃ f, e = .fault f ∧ f.cause = 7
    ∃ d, (s.saveFail n core e).ctxs.get? n = some d ∧ d.st = .faulted ∧ (¬ upset → d.faultCode = 8) ∧
      (upset → d.faultCode = 1 ∨ d.faultCode = 9) := by
  have hact : (s.ctxs.get? n).any (fun c => c.st == .active) = true := by simp [hc, ha]
  have hcode : ∀ t : State, (∃ d, t.ctxs.get? n = some d ∧ (d.st = .active ∨ d.st = .faulted)) →
      ∃ d, ((t.ctxFault n 8 (dieOf core) 0 0).modCtx n fun c => { c with faultCode := 8 }).ctxs.get? n = some d ∧ d.st = .faulted ∧
        d.faultCode = 8 := by
    rintro t ⟨d, hd, hact | hf⟩
    · obtain ⟨d', hd', hst, -⟩ := State.ctxFault_of_active (code := 8) (die := dieOf core) (f := 0) (r := 0) hd hact
      exact ⟨_, State.get?_modCtx_self hd' _, hst, rfl⟩
    · have hin := State.ctxFault_of_inactive (s := t) (n := n) 8 (dieOf core) 0 0 fun d' hd' ha' => by
        rw [hd] at hd'
        cases hd'
        cases hf.symm.trans ha'
      rw [hin]
      exact ⟨_, State.get?_modCtx_self hd _, hf, rfl⟩
  dsimp only
  cases e with
  | wait g => exact absurd rfl (he g)
  | full =>
    obtain ⟨d, hd, hst, hcode⟩ := hcode s ⟨c, hc, .inl ha⟩
    exact ⟨d, hd, hst, fun _ => hcode, fun ⟨f, hf, _⟩ => by cases hf⟩
  | fault f =>
    unfold State.saveFail
    dsimp only
    rw [hact]
    by_cases h7 : f.cause = 7
    · rw [if_pos ⟨h7, rfl⟩]
      obtain ⟨d, hd, hst, -, hcode⟩ := State.recordFault_of_upset core 0 srcStore hc ha h7
      exact ⟨d, hd, hst, fun hn => absurd ⟨f, rfl, h7⟩ hn, fun _ => hcode⟩
    · rw [if_neg fun h => h7 h.1]
      obtain ⟨d, hd, hmoves⟩ := (State.recordFault_goes s n core 0 srcStore f).get hc
      obtain ⟨d', hd', hst, hcode⟩ := hcode _ ⟨d, hd, hmoves.imp (·.trans ha) And.right⟩
      exact ⟨d', hd', hst, fun _ => hcode, fun ⟨f', hf', h⟩ => by cases hf'; exact absurd h h7⟩

theorem State.saveFail_only (s : State) (n core : Nat) (e : SaveStop) : OnlyMemCtxs s (s.saveFail n core e) := by
  have hfault : ∀ t : State, OnlyMemCtxs t ((t.ctxFault n 8 (dieOf core) 0 0).modCtx n fun c => { c with faultCode := 8 }) := fun t =>
    (State.ctxFault_only ..).trans (State.modCtx_only ..)
  unfold State.saveFail
  dsimp only
  split
  · exact State.awaitLink_only ..
  · exact hfault s
  · split
    · exact State.recordFault_only ..
    · exact (State.recordFault_only ..).trans (hfault _)

/-- The swap of a hank as the only event of a core: it is saved, or its context faults, or the event waits for a port. -/
theorem exec_eventApplication_of_swap {s : State} {core h : Nat} {hank : Hank} (he : s.events.getD core [] = [.swap h])
    (hr : s.eventReady (.swap h) = true) (hh : s.hanks.get? h = some hank) :
    let s1 := s.taken core (.swap h)
    (∀ t, s1.trySave h true = .ok t → exec (.eventApplication core) s = .next t) ∧
    (∀ stop, s1.trySave h true = .error stop → (∀ g, stop ≠ .wait g) →
      exec (.eventApplication core) s = .next (s1.saveFail hank.ctx core stop)) ∧
    (∀ g, s1.trySave h true = .error (.wait g) →
      exec (.eventApplication core) s = .next (s.awaitLink (.engine core) hank.ctx core g)) := by
  have htaken : ({ s with
      events := s.events.set core ((s.events.getD core []).erase (.swap h))
      lastSource := s.lastSource.set core (CoreEvent.source (.swap h)) } : State) = s.taken core (.swap h) := by
    rw [he, List.erase_cons_head]
    rfl
  dsimp only
  rw [exec_eventApplication, execEventApplication, State.nextEvent_of_single he hr]
  dsimp only
  rw [htaken, hh]
  refine ⟨fun t ht => by rw [ht], fun stop hstop hwait => ?_, fun g hg => by rw [hg]; rfl⟩
  rw [hstop]
  cases stop with
  | wait g => exact absurd rfl (hwait g)
  | full | fault => rfl

end Sys2Proof.Machine

namespace Sys2Proof
open Machine

theorem hanksSwapOut : Claims.HanksSwapOut := by
  unfold Claims.HanksSwapOut
  intro s core h hank he hh
  refine ⟨fun hq => ?_, fun hq hset => ?_⟩
  · exact exec_eventApplication_of_unready he (by simp [State.eventReady, hh, hq])
  · intro s1 image
    have hready : s.eventReady (.swap h) = true := by simp [State.eventReady, hq]
    have htry : s1.trySave h true = image.map fun t => t.takeHank h hank true := by
      rw [State.trySave_eq (s := s1) hh true, State.readyHank_of_settled (s := s1) hset hank (.inl rfl)]
    have hexec := exec_eventApplication_of_swap he hready hh
    refine ⟨fun u hu => ?_, fun c stop hstop hwait hc ha => ?_, fun g hg => ?_⟩
    · obtain ⟨ce, st, br, ev, v, htake, hv, hst, hbr⟩ := u.takeHank_swap h hank
      obtain ⟨m, e, x, p, off, hw⟩ := State.writeImage_eq hu
      rw [hu] at htry
      refine ⟨_, hexec.1 _ htry, ?_⟩
      dsimp only
      rw [htake]
      refine ⟨by rw [hw]; rfl, hst, hbr, by rw [hw]; rfl, by rw [hw]; rfl, rfl, ?_, v, List.mem_append_right _ (List.mem_singleton_self v),
        hv.uid_eq, hv.swap_eq, hv.hank_eq, ?_⟩
      · show h ∈ ((u.swapIn.set hank.core (u.swapIn.getD hank.core [] ++ [v.uid])).get? hank.core).getD []
        rw [AMap.get?_set_self, hv.uid_eq]
        simp
      · have hsame : u.hankStrands h = s.hankStrands h := by rw [hw]; rfl
        rw [hv.strands_eq (by rw [hsame]; exact fun y hy => (hset y hy).2), hsame]
    · rw [hstop] at htry
      refine ⟨_, hexec.2.1 _ htry hwait, ?_⟩
      obtain ⟨d, hd, hst, hcode⟩ := State.saveFail_of_active (s := s1) core hc ha hwait
      obtain ⟨m, e, x, cs, ps, ws, hsave, -⟩ := s1.saveFail_only hank.ctx core stop
      exact ⟨(congrArg State.hanks hsave :), (congrArg State.saved hsave :), d, hd, hst, hcode⟩
    · rw [hg] at htry
      exact ⟨_, hexec.2.2 _ htry, rfl⟩

end Sys2Proof
end

section
/-! PROOFS. A saved hank returns (18 R345): what its return puts back, and that what follows it, tiles that thaw and sleepers that
wake, leaves that; O38. -/

namespace Sys2Proof.Machine

/-! ## Entries put into a map -/

theorem AMap.mem_set {α : Type} {m : AMap α} {k : Nat} {v : α} {y : Nat × α} (h : y ∈ m.set k v) : y = (k, v) ∨ y ∈ m := by
  induction m with
  | nil => exact .inl (List.mem_singleton.1 h)
  | cons p m ih =>
    simp only [AMap.set] at h
    split_ifs at h
    · exact (List.mem_cons.1 h).imp_right (List.mem_cons_of_mem _)
    · exact List.mem_cons.1 h
    · rcases List.mem_cons.1 h with rfl | h
      · exact .inr (List.mem_cons_self ..)
      · exact (ih h).imp_right (List.mem_cons_of_mem _)

theorem AMap.mem_putAll {α : Type} {m l : AMap α} {y : Nat × α} (h : y ∈ m.putAll l) : y ∈ l ∨ y ∈ m := by
  induction l generalizing m with
  | nil => exact .inr h
  | cons p l ih =>
    rcases ih (m := m.set p.1 p.2) h with h | h
    · exact .inl (List.mem_cons_of_mem _ h)
    · exact (AMap.mem_set h).imp_left fun h => by rw [h]; exact List.mem_cons_self ..

theorem AMap.get?_putAll_of_not_mem {α : Type} {m l : AMap α} {k : Nat} (h : ∀ p ∈ l, p.1 ≠ k) :
    (m.putAll l).get? k = m.get? k := by
  induction l generalizing m with
  | nil => rfl
  | cons p l ih =>
    obtain ⟨hp, hl⟩ := List.forall_mem_cons.1 h
    exact (ih (m := m.set p.1 p.2) hl).trans (AMap.get?_set_ne _ _ hp)

/-- What is put in at a key stands there, the last of it. -/
theorem AMap.get?_putAll_of_mem {α : Type} {m l : AMap α} {k : Nat} (h : ∃ p ∈ l, p.1 = k) :
    ∃ v, (k, v) ∈ l ∧ (m.putAll l).get? k = some v := by
  induction l generalizing m with
  | nil => obtain ⟨p, hp, -⟩ := h; cases hp
  | cons p l ih =>
    by_cases hl : ∃ q ∈ l, q.1 = k
    · obtain ⟨v, hv, hget⟩ := ih (m := m.set p.1 p.2) hl
      exact ⟨v, List.mem_cons_of_mem _ hv, hget⟩
    · have hp : p.1 = k := by
        obtain ⟨q, hq, hk⟩ := h
        rcases List.mem_cons.1 hq with rfl | hq
        · exact hk
        · exact absurd ⟨q, hq, hk⟩ hl
      subst hp
      exact ⟨p.2, List.mem_cons_self .., (AMap.get?_putAll_of_not_mem fun q hq hk => hl ⟨q, hq, hk⟩).trans (AMap.get?_set_self ..)⟩

theorem AMap.putAll_one {α : Type} (m : AMap α) (k : Nat) (v : α) : m.putAll [(k, v)] = m.set k v := rfl

theorem AMap.mem_modify {α : Type} {m : AMap α} {k : Nat} {f : α → α} {y : Nat × α} (h : y ∈ m.modify k f) :
    ∃ z ∈ m, z.1 = y.1 ∧ (y.2 = z.2 ∨ y.2 = f z.2) := by
  obtain ⟨z, hz, rfl⟩ := List.mem_map.1 h
  refine ⟨z, hz, ?_⟩
  split
  · exact ⟨rfl, .inr rfl⟩
  · exact ⟨rfl, .inl rfl⟩

/-! ## What a return leaves -/

/-- A strand in its place that has not exited, all of whose outstanding instructions have left the hold buffer and have no pieces. -/
def Strand.Ready (pos : Nat) (x : Strand) : Prop :=
  x.run ≠ .exited ∧ x.leaving = [] ∧ pos < 384 * 2048 ∧ ∀ p ∈ x.outs, p.held = false ∧ p.pieces = []

/-- What follows the return of a hank leaves: the hanks, their barriers and banks, memory while nothing is early, which hanks are saved,
whose every strand is; strands that are ready stay so, and those with nothing outstanding as they are. -/
structure Returning (s t : State) : Prop where
  hanks : t.hanks = s.hanks
  banks : t.banks = s.banks
  barriers : t.barriers = s.barriers
  swapIn : t.swapIn = s.swapIn
  saved : t.saved.map SavedHank.uid = s.saved.map SavedHank.uid
  mem : s.early = [] → t.early = [] ∧ t.mem = s.mem
  places : ∀ y ∈ t.strands, ∃ z ∈ s.strands, z.1 = y.1 ∧ z.2.hank = y.2.hank
  ready : ∀ k x, s.strand? k = some x → Strand.Ready k x → ∃ y, t.strand? k = some y ∧ Strand.Ready k y
  quiet : ∀ k x, s.strand? k = some x → x.outs = [] → t.strand? k = some x

theorem Returning.trans {s t u : State} (h : Returning s t) (k : Returning t u) : Returning s u where
  hanks := k.hanks.trans h.hanks
  banks := k.banks.trans h.banks
  barriers := k.barriers.trans h.barriers
  swapIn := k.swapIn.trans h.swapIn
  saved := k.saved.trans h.saved
  mem := fun he => by
    obtain ⟨ht, hm⟩ := h.mem he
    obtain ⟨hu, hm'⟩ := k.mem ht
    exact ⟨hu, hm'.trans hm⟩
  places := fun y hy => by
    obtain ⟨z, hz, hk, hh⟩ := k.places y hy
    obtain ⟨w, hw, hk', hh'⟩ := h.places z hz
    exact ⟨w, hw, hk'.trans hk, hh'.trans hh⟩
  ready := fun n x hx hr => by
    obtain ⟨y, hy, hr'⟩ := h.ready n x hx hr
    exact k.ready n y hy hr'
  quiet := fun n x hx ho => k.quiet n x (h.quiet n x hx ho) ho

theorem Returning.refl (s : State) : Returning s s where
  hanks := rfl
  banks := rfl
  barriers := rfl
  swapIn := rfl
  saved := rfl
  mem := fun h => ⟨h, rfl⟩
  places := fun y hy => ⟨y, hy, rfl, rfl⟩
  ready := fun _ x hx hr => ⟨x, hx, hr⟩
  quiet := fun _ _ hx _ => hx

theorem Returning.foldl {α : Type} {f : State → α → State} (hf : ∀ s a, Returning s (f s a)) (l : List α) (s : State) :
    Returning s (l.foldl f s) := foldl_keeps (P := Returning s) f (fun t a h => h.trans (hf t a)) l (.refl s)

/-- A change of contexts, tiles, knots and copy engines alone. -/
theorem Returning.of_others (s : State) (c : AMap Ctx) (t : AMap Tile) (k : AMap Knot) (e : AMap CopyEngine) :
    Returning s { s with ctxs := c, tiles := t, knots := k, copyEngines := e } where
  hanks := rfl
  banks := rfl
  barriers := rfl
  swapIn := rfl
  saved := rfl
  mem := fun h => ⟨h, rfl⟩
  places := fun y hy => ⟨y, hy, rfl, rfl⟩
  ready := fun _ x hx hr => ⟨x, hx, hr⟩
  quiet := fun _ _ hx _ => hx

theorem OnlyWrites.returning {s t : State} (h : OnlyWrites s t) (he : s.early = [] → t = s) : Returning s t := by
  obtain ⟨m, e, x, rfl, -⟩ := h
  exact {
    hanks := rfl
    banks := rfl
    barriers := rfl
    swapIn := rfl
    saved := rfl
    mem := fun hs => by rw [he hs]; exact ⟨hs, rfl⟩
    places := fun y hy => ⟨y, hy, rfl, rfl⟩
    ready := fun _ x hx hr => ⟨x, hx, hr⟩
    quiet := fun _ _ hx _ => hx }

/-! ## Tiles that thaw -/

/-- A strand one of whose instructions takes another act. -/
def Strand.withAct (x : Strand) (id : Nat) (a : Act) : Strand :=
  { x with outs := x.outs.map fun p => if p.id = id then { p with act := a } else p }

theorem Strand.Ready.withAct {x : Strand} {pos : Nat} (h : x.Ready pos) (id : Nat) {a : Act} (ha : ∀ p : Pend, Pend.pieces { p with act := a } = []) :
    (x.withAct id a).Ready pos := by
  obtain ⟨hrun, hleave, hpos, houts⟩ := h
  refine ⟨hrun, hleave, hpos, fun p hp => ?_⟩
  obtain ⟨q, hq, rfl⟩ := List.mem_map.1 hp
  split
  · exact ⟨(houts q hq).1, ha q⟩
  · exact houts q hq

theorem Strand.withAct_of_none {x : Strand} (h : x.outs = []) (id : Nat) (a : Act) : x.withAct id a = x := by
  unfold Strand.withAct
  rw [h, List.map_nil, ← h]

/-- The act of an instruction changes, wherever its strand is. -/
theorem State.modPendAny_returning (s : State) (pos id : Nat) {a : Act} (ha : ∀ p : Pend, Pend.pieces { p with act := a } = []) :
    Returning s (s.modPendAny pos id fun p => { p with act := a }) := by
  have hget : ∀ k, (s.modPendAny pos id fun p => { p with act := a }).strand? k =
      (s.strand? k).map fun x => if samePlace k pos then x.withAct id a else x := fun k =>
    AMap.get?_mapVals (fun k (x : Strand) => if samePlace k pos then x.withAct id a else x) s.strands k
  exact {
    hanks := rfl
    banks := rfl
    barriers := rfl
    swapIn := rfl
    saved := by
      show (s.saved.map _).map SavedHank.uid = _
      rw [List.map_map]
      rfl
    mem := fun h => ⟨h, rfl⟩
    places := fun y hy => by
      obtain ⟨z, hz, rfl⟩ := List.mem_map.1 hy
      refine ⟨z, hz, rfl, ?_⟩
      dsimp only
      split <;> rfl
    ready := fun k x hx hr => by
      refine ⟨_, (hget k).trans (by rw [hx]; rfl), ?_⟩
      split
      · exact hr.withAct id ha
      · exact hr
    quiet := fun k x hx ho => by
      rw [hget, hx, Option.map_some, Strand.withAct_of_none ho, ite_self] }

theorem State.setTile_returning (s : State) (e : Nat) (t : Tile) : Returning s (s.setTile e t) :=
  .of_others s s.ctxs _ s.knots s.copyEngines

theorem State.applyBlock_returning (s : State) (b : CtrBlock) : Returning s (s.applyBlock b) := by
  have finish : ∀ (t : State) (a : Act), (∀ p : Pend, Pend.pieces { p with act := a } = []) →
      Returning t (b.from_.foldl (fun s p => s.modPendAny p.1 p.2 fun q => { q with act := a }) t) := fun t a ha =>
    .foldl (fun u p => u.modPendAny_returning p.1 p.2 ha) b.from_ t
  unfold State.applyBlock
  dsimp only
  split
  · exact finish s _ fun _ => rfl
  · split
    · exact finish s _ fun _ => rfl
    · exact (State.setTile_returning s ..).trans (finish _ _ fun _ => rfl)

theorem State.setKnot_returning (s : State) (key : Nat) (k : Knot) : Returning s (s.setKnot key k) :=
  .of_others s s.ctxs s.tiles _ s.copyEngines

theorem State.arriveBlock_returning (s : State) (b : CtrBlock) : Returning s (s.arriveBlock b) := by
  unfold State.arriveBlock
  dsimp only
  split
  · exact s.setKnot_returning ..
  · exact s.applyBlock_returning b

theorem State.dropImage_returning (s : State) (n : Nat) (o : ImageOwner) : Returning s (s.dropImage n o) :=
  .of_others s _ s.tiles s.knots s.copyEngines

/-- A tile that thaws changes in its place, its image goes, and the blocks of its knot's queue arrive. -/
theorem State.thawTile_eq (s : State) (e : Nat) (t : Tile) : ∃ (x : Tile) (key : Nat) (k : Knot) (q : List CtrBlock),
    s.thawTile e t = q.foldl State.arriveBlock (((s.setTile e x).dropImage t.ctx (.tile e)).setKnot key k) := ⟨_, _, _, _, rfl⟩

theorem State.thawTile_returning (s : State) (e : Nat) (t : Tile) : Returning s (s.thawTile e t) := by
  obtain ⟨x, key, k, q, heq⟩ := s.thawTile_eq e t
  rw [heq]
  exact (((s.setTile_returning e x).trans (State.dropImage_returning _ t.ctx (.tile e))).trans
    (State.setKnot_returning _ key k)).trans (.foldl (fun u b => u.arriveBlock_returning b) q _)

theorem State.thawTiles_returning (s : State) (place : Nat) : Returning s (s.thawTiles place) :=
  Returning.foldl (α := Nat × Tile) (fun u p => u.thawTile_returning p.1 p.2) (s.frozenAt place) s

/-! ## Sleepers that wake -/

theorem Strand.mem_outs_finish {x : Strand} {p q : Pend} {f : Regs → Regs} (h : q ∈ (x.finish p f).outs) :
    ∃ a ∈ x.outs, q.held = a.held ∧ q.pieces = a.pieces := by
  unfold Strand.finish at h
  split at h
  · exact ⟨q, (List.mem_filter.1 h).1, rfl, rfl⟩
  · split at h
    · exact ⟨q, (List.mem_filter.1 h).1, rfl, rfl⟩
    · obtain ⟨a, ha, rfl⟩ := List.mem_map.1 h
      refine ⟨a, (List.mem_filter.1 ha).1, ?_⟩
      split
      · exact ⟨rfl, rfl⟩
      · split
        · rename_i hact
          exact ⟨rfl, by simp [Pend.pieces, hact]⟩
        · exact ⟨rfl, rfl⟩

theorem Strand.hank_finish (x : Strand) (p : Pend) (f : Regs → Regs) : (x.finish p f).hank = x.hank := by
  unfold Strand.finish
  split
  · rfl
  · split <;> rfl

theorem Strand.Ready.finish {x : Strand} {pos : Nat} (h : x.Ready pos) (p : Pend) (f : Regs → Regs) : (x.finish p f).Ready pos := by
  obtain ⟨hrun, hleave, hpos, houts⟩ := h
  refine ⟨by rwa [x.run_finish], by rwa [x.leaving_finish], hpos, fun q hq => ?_⟩
  obtain ⟨a, ha, hheld, hpieces⟩ := Strand.mem_outs_finish hq
  rw [hheld, hpieces]
  exact houts a ha

/-- Going on changes where a strand stands and whether it is blocked, no more. -/
theorem Strand.goOn_eq (x : Strand) (p : Pend) : ∃ r g, x.goOn p = { x with run := r, regs := g } ∧ (x.run ≠ .exited → r ≠ .exited) := by
  have hun : ∃ r, x.unblock = { x with run := r } ∧ (x.run ≠ .exited → r ≠ .exited) := by
    unfold Strand.unblock
    split
    · exact ⟨.candidate, rfl, fun _ h => by cases h⟩
    · exact ⟨x.run, rfl, id⟩
  obtain ⟨r, hr, hx⟩ := hun
  unfold Strand.goOn
  rw [hr]
  dsimp only
  split
  · exact ⟨r, _, rfl, hx⟩
  · exact ⟨r, x.regs, rfl, hx⟩

theorem Strand.Ready.goOn {x : Strand} {pos : Nat} (h : x.Ready pos) (p : Pend) : (x.goOn p).Ready pos := by
  obtain ⟨r, g, heq, hr⟩ := x.goOn_eq p
  obtain ⟨hrun, hleave, hpos, houts⟩ := h
  rw [heq]
  exact ⟨hr hrun, hleave, hpos, houts⟩

theorem State.place_of_modStrand {s : State} {pos : Nat} {f : Strand → Strand} (hf : ∀ x, (f x).hank = x.hank) {y : Nat × Strand}
    (h : y ∈ (s.modStrand pos f).strands) : ∃ z ∈ s.strands, z.1 = y.1 ∧ z.2.hank = y.2.hank := by
  obtain ⟨z, hz, hk, hval⟩ := AMap.mem_modify (m := s.strands) h
  refine ⟨z, hz, hk, ?_⟩
  rcases hval with hval | hval
  · rw [hval]
  · rw [hval, hf]

theorem Strand.hank_goOn (x : Strand) (p : Pend) : (x.goOn p).hank = x.hank := by
  obtain ⟨r, g, heq, -⟩ := x.goOn_eq p
  rw [heq]

/-- The frame of a strand's going on: strands, and what its writes and acquires change. -/
theorem State.resume_frame {s : State} {pos id : Nat} {p : Pend} (hp : s.pend? pos id = some p) (w : List (Nat × Reg)) (fl : FFlags) :
    ∃ m e v st, s.resume pos id w fl = { s.withWrites m e v with strands := st } ∧
      ∀ y ∈ st, ∃ z ∈ s.strands, z.1 = y.1 ∧ z.2.hank = y.2.hank := by
  obtain ⟨m, e, v, hu, -⟩ := (s.writeDone_only pos id).trans (State.acquireAt_only _ pos p.acquires)
  unfold State.resume
  rw [hp]
  dsimp only
  rw [hu]
  refine ⟨m, e, v, _, rfl, fun y hy => ?_⟩
  obtain ⟨z, hz, hk, hh⟩ := State.place_of_modStrand (fun x => x.hank_goOn p) hy
  obtain ⟨a, ha, hk', hh'⟩ := State.place_of_modStrand (s := s.withWrites m e v) (fun x => by
    split
    · exact x.hank_finish ..
    · rfl) hz
  exact ⟨a, ha, hk'.trans hk, hh'.trans hh⟩

theorem State.resume_returning {s : State} {pos id : Nat} {x : Strand} {p : Pend} (hs : s.strand? pos = some x)
    (hp : s.pend? pos id = some p) (w : List (Nat × Reg)) (fl : FFlags) : Returning s (s.resume pos id w fl) := by
  obtain ⟨hself, -, hmem, hothers⟩ := State.resume_eq hs hp w fl
  obtain ⟨m, e, v, st, heq, hplaces⟩ := State.resume_frame hp w fl
  have hout : x.outs ≠ [] := List.ne_nil_of_mem (State.mem_outs_of_pend? hs hp)
  exact {
    hanks := by rw [heq]; rfl
    banks := by rw [heq]; rfl
    barriers := by rw [heq]; rfl
    swapIn := by rw [heq]; rfl
    saved := by rw [heq]; rfl
    mem := hmem
    places := by rw [heq]; exact hplaces
    ready := fun k y hy hr => by
      by_cases hk : k = pos
      · subst hk
        cases hs.symm.trans hy
        exact ⟨_, hself, (hr.finish p _).goOn p⟩
      · exact ⟨y, (hothers k hk).trans hy, hr⟩
    quiet := fun k y hy ho => by
      by_cases hk : k = pos
      · subst hk
        cases hs.symm.trans hy
        exact absurd ho hout
      · exact (hothers k hk).trans hy }

theorem State.wakeSleeper_returning (s : State) (pos : Nat) : Returning s (s.wakeSleeper pos) := by
  unfold State.wakeSleeper
  split
  · exact .refl s
  · rename_i x hx
    split
    · split
      · split
        · rename_i p hfind
          have hp : (s.pend? pos p.id).isSome = true := by
            rw [State.pend?_of_strand hx, List.find?_isSome]
            exact ⟨p, List.mem_of_find?_eq_some hfind, by simp⟩
          obtain ⟨q, hq⟩ := Option.isSome_iff_exists.1 hp
          exact State.resume_returning hx hq ..
        · exact .refl s
      · exact .refl s
    · exact .refl s

/-! ## Strands that are ready have nothing to translate or to leave -/

section
variable {s : State} {pos : Nat} {x : Strand} (hs : s.strand? pos = some x) (hr : x.Ready pos)
include hs hr

theorem State.translateAgain_of_ready : s.translateAgain pos = s := by
  obtain ⟨-, -, -, houts⟩ := hr
  have hnone : (x.outs.filter fun p => p.svc.isNone && p.pieces.any fun q => decide (q.key < 2 ^ 64)) = [] :=
    List.filter_eq_nil_iff.2 fun p hp => by rw [(houts p hp).2]; simp
  unfold State.translateAgain
  rw [hs]
  dsimp only
  rw [hnone]
  rfl

theorem State.leaveHold_of_ready (id : Nat) : s.leaveHold pos id = s := by
  obtain ⟨-, -, -, houts⟩ := hr
  unfold State.leaveHold
  rw [hs]
  cases hp : s.pend? pos id with
  | none => rfl
  | some p =>
    have hstay : x.mayLeave p = false := by
      rw [Strand.mayLeave, (houts p (State.mem_outs_of_pend? hs hp)).1, Bool.false_and]
    dsimp only
    rw [hstay]
    rfl

theorem State.windUp_of_ready : s.windUp pos = s := by
  obtain ⟨hrun, hleave, hpos, -⟩ := hr
  exact State.windUp_of_settled hs (.inl hrun) hleave hpos

end

/-- Deadlines that have come wake the strands of a hank that is back. -/
theorem wakeSleepers_returning (l : AMap Strand) {s : State} (h : ∀ y ∈ l, ∃ x, s.strand? y.1 = some x ∧ x.Ready y.1) :
    Returning s (l.foldl (fun s y => (s.translateAgain y.1).wakeSleeper y.1) s) := by
  induction l generalizing s with
  | nil => exact .refl s
  | cons y l ih =>
    obtain ⟨⟨x, hx, hr⟩, hl⟩ := List.forall_mem_cons.1 h
    rw [List.foldl_cons, State.translateAgain_of_ready hx hr]
    have hstep := s.wakeSleeper_returning y.1
    refine hstep.trans (ih fun z hz => ?_)
    obtain ⟨w, hw, hr⟩ := hl z hz
    exact hstep.ready _ w hw hr

/-- Nothing of a hank all of whose strands are ready leaves a hold buffer. -/
theorem leaveHolds_of_ready (l : AMap Strand) {s : State} (h : ∀ y ∈ l, ∃ x, s.strand? y.1 = some x ∧ x.Ready y.1) :
    l.foldl (fun s y => (y.2.outs.foldl (fun s p => s.leaveHold y.1 p.id) s).windUp y.1) s = s := by
  induction l with
  | nil => rfl
  | cons y l ih =>
    obtain ⟨⟨x, hx, hr⟩, hl⟩ := List.forall_mem_cons.1 h
    have hstay : y.2.outs.foldl (fun s p => s.leaveHold y.1 p.id) s = s :=
      List.foldl_fixed' (fun p => State.leaveHold_of_ready hx hr p.id) y.2.outs
    rw [List.foldl_cons, hstay, State.windUp_of_ready hx hr]
    exact ih hl

/-! ## Banks that come back -/

theorem State.dropPins_eq (s : State) (b : Nat) : ∃ p, s.dropPins b = { s with pins := p } := by
  refine foldl_keeps (P := fun t : State => ∃ p, t = { s with pins := p }) _ (fun t line h => ?_) _ ⟨s.pins, rfl⟩
  obtain ⟨p, rfl⟩ := h
  dsimp only
  split <;> exact ⟨_, rfl⟩

/-- What a bank that comes back changes: banks and their bytes, events and pins. -/
def BankBack (s t : State) : Prop :=
  ∃ m f e v b p, t = { s.withBanks m f e v b with pins := p } ∧ (Memory.wf s.mem = true → Memory.wf m = true) ∧ (s.early = [] → e = [])

theorem BankBack.refl (s : State) : BankBack s s := ⟨s.mem, s.full, s.early, s.events, s.banks, s.pins, rfl, id, id⟩

theorem BankBack.trans {s t u : State} (h : BankBack s t) (k : BankBack t u) : BankBack s u := by
  obtain ⟨m, f, e, v, b, p, rfl, hm, he⟩ := h
  obtain ⟨m', f', e', v', b', p', rfl, hm', he'⟩ := k
  exact ⟨m', f', e', v', b', p', rfl, fun h => hm' (hm h), fun h => he' (he h)⟩

theorem State.modBank_back (s : State) (b : Nat) (f : Bank → Bank) : BankBack s (s.modBank b f) :=
  ⟨s.mem, s.full, s.early, s.events, s.banks.set b (f (s.bank b)), s.pins, rfl, id, id⟩

theorem State.wipeBank_back (s : State) (b : Nat) : BankBack s (s.wipeBank b) :=
  ⟨_, _, _, s.events, s.banks, s.pins, rfl, Memory.wf_clear _ _, fun h => by rw [h]; rfl⟩

theorem State.refuseWaiters_back (s : State) (l : List Waiter) : BankBack s (l.foldl State.refuseWaiter s) := by
  obtain ⟨v, h⟩ := s.refuseWaiters_eq l
  rw [h]
  exact ⟨s.mem, s.full, s.early, v, s.banks, s.pins, rfl, id, id⟩

theorem State.dropPins_back (s : State) (b : Nat) : BankBack s (s.dropPins b) := by
  obtain ⟨p, h⟩ := s.dropPins_eq b
  rw [h]
  exact ⟨s.mem, s.full, s.early, s.events, s.banks, p, rfl, id, id⟩

theorem State.claimBank_back (s : State) (h b : Nat) : BankBack s (s.claimBank h b) := by
  refine .trans ?_ (State.modBank_back ..)
  unfold State.switchBank
  dsimp only
  split
  · exact .refl s
  · rw [if_neg fun h => by cases h.2]
    have hwipe := ((s.wipeBank_back b).trans (State.modBank_back _ b fun bk =>
      { bk with mode := .scratch, fifo := [], pushes := [], pops := [], words := [] })).trans
      (State.refuseWaiters_back _ (s.bank b).waiters)
    split
    · exact hwipe.trans (State.dropPins_back ..)
    · exact hwipe

theorem State.returnBank_back (s : State) (h b : Nat) (saved : Bank) : BankBack s (s.returnBank h b saved) := by
  unfold State.returnBank
  split
  · exact State.modBank_back ..
  · exact State.claimBank_back ..

theorem State.returnBanks_back (s : State) (h : Nat) (l : AMap Bank) :
    BankBack s (l.foldl (fun s b => s.returnBank h b.1 b.2) s) :=
  foldl_keeps (P := BankBack s) _ (fun t b k => k.trans (t.returnBank_back h b.1 b.2)) l (.refl s)

/-! ## The parts of a return -/

/-- A saved hank takes its places again. -/
def State.putBack (s : State) (v : SavedHank) : State :=
  { s with
    saved := s.saved.filter fun w => w.uid != v.uid
    swapIn := s.swapIn.mapVals fun _ l => l.filter (· != v.uid)
    hanks := s.hanks.set v.uid { v.hank with stopping := false }
    braids := s.braids.putAll v.braids
    strands := s.strands.putAll (v.strands.mapVals fun _ x => x.awaitFences) }

/-- One that was saved at the instruction level brings its banks, their bytes and its barriers back. -/
def State.returnStores (s : State) (v : SavedHank) : State :=
  if v.swap then s
  else
    let s := v.banks.foldl (fun s b => s.returnBank v.uid b.1 b.2) s
    { s with
      barriers := s.barriers.putAll v.barriers
      banks := s.banks.putAll v.banks
      mem := s.mem.restore v.bytes
      full := v.fulls.foldl (fun l k => insertNat k l) s.full }

/-- Its copy commands join their queues. -/
def State.rejoinCopies (s : State) (v : SavedHank) : State :=
  s.setEngine v.hank.core { s.engine v.hank.core with
    queues := ((s.engine v.hank.core).queues.zipIdx : List (List CopyCmd × Nat)).map fun q =>
      rejoin ((v.copies.filter fun c => c.1 == q.2).map Prod.snd) q.1 }

/-- Its strands go on as their deadlines have come, and as its hold buffers let them. -/
def State.wakeHank (s : State) (u : Nat) : State :=
  let s := (s.hankStrands u).foldl (fun s y => (s.translateAgain y.1).wakeSleeper y.1) s
  (s.hankStrands u).foldl (fun s y => (y.2.outs.foldl (fun s p => s.leaveHold y.1 p.id) s).windUp y.1) s

theorem State.restoreHank_eq (s : State) {v : SavedHank} (hev : v.events = []) : s.restoreHank v =
    ((((((s.putBack v).dropImage v.hank.ctx (.hank v.uid)).returnStores v).rejoinCopies v).thawTiles
      (v.hank.nb.getD v.uid))).wakeHank v.uid := by
  unfold State.restoreHank
  rw [hev]
  rfl

theorem State.rejoinCopies_returning (s : State) (v : SavedHank) : Returning s (s.rejoinCopies v) :=
  .of_others s s.ctxs s.tiles s.knots _

/-- Every strand of the hank is ready at its place. -/
def State.ReadyHank (s : State) (u : Nat) : Prop :=
  ∀ y ∈ s.strands, y.2.hank = u → ∃ x, s.strand? y.1 = some x ∧ x.Ready y.1

theorem Returning.readyHank {s t : State} (h : Returning s t) {u : Nat} (k : s.ReadyHank u) : t.ReadyHank u := by
  intro y hy hu
  obtain ⟨z, hz, hpos, hhank⟩ := h.places y hy
  obtain ⟨x, hx, hr⟩ := k z hz (hhank.trans hu)
  rw [← hpos]
  exact h.ready _ x hx hr

theorem State.ReadyHank.hankStrands {s : State} {u : Nat} (h : s.ReadyHank u) : ∀ y ∈ s.hankStrands u, ∃ x, s.strand? y.1 = some x ∧ x.Ready y.1 :=
  fun y hy => h y (List.mem_filter.1 hy).1 (by simpa using (List.mem_filter.1 hy).2)

theorem State.wakeHank_returning {s : State} {u : Nat} (h : s.ReadyHank u) : Returning s (s.wakeHank u) := by
  have hwake := wakeSleepers_returning (s.hankStrands u) h.hankStrands
  have hleave := leaveHolds_of_ready _ (hwake.readyHank h).hankStrands
  unfold State.wakeHank
  dsimp only
  rw [hleave]
  exact hwake

theorem Strand.Ready.awaitFences {x : Strand} {pos : Nat} (h : x.Ready pos) : x.awaitFences.Ready pos := h

theorem Strand.awaitFences_of_none {x : Strand} (h : x.outs = []) : x.awaitFences = { x with awaits := [] } := by
  have hnone : x.fences = [] := by
    rw [Strand.fences, h]
    rfl
  rw [Strand.awaitFences, hnone]
  rfl

/-- The strands of a hank that takes its places are those that were saved. -/
theorem State.putBack_ready {s : State} {v : SavedHank} (hv : ∀ y ∈ v.strands, y.2.Ready y.1) (hs : s.hankStrands v.uid = []) :
    (s.putBack v).ReadyHank v.uid := by
  intro y hy hu
  rcases AMap.mem_putAll hy with hy | hy
  · obtain ⟨z, hz, rfl⟩ := List.mem_map.1 hy
    obtain ⟨x, hx, hget⟩ := AMap.get?_putAll_of_mem (m := s.strands) (l := v.strands.mapVals fun _ x => x.awaitFences) (k := z.1)
      ⟨_, hy, rfl⟩
    obtain ⟨w, hw, heq⟩ := List.mem_map.1 hx
    obtain ⟨hk, rfl⟩ := Prod.mk.inj heq
    refine ⟨_, hget, ?_⟩
    rw [← hk]
    exact (hv w hw).awaitFences
  · have hmem : y ∈ s.hankStrands v.uid := List.mem_filter.2 ⟨hy, by simp [hu]⟩
    rw [hs] at hmem
    cases hmem

/-- What a hank brings back leaves strands, hanks and the lists of what is saved. -/
theorem State.returnStores_frame (s : State) (v : SavedHank) : ∃ m f e ev b p bs, s.returnStores v =
    { s.withBanks m f e ev b with pins := p, barriers := bs } := by
  unfold State.returnStores
  split
  · exact ⟨s.mem, s.full, s.early, s.events, s.banks, s.pins, s.barriers, rfl⟩
  · obtain ⟨m, f, e, ev, b, p, h, -⟩ := s.returnBanks_back v.uid v.banks
    rw [h]
    exact ⟨_, _, e, ev, _, p, _, rfl⟩

theorem State.returnStores_of_swap {s : State} {v : SavedHank} (h : v.swap = true) : s.returnStores v = s := if_pos h

/-- What it brings back when it was saved at the instruction level: its barriers, its banks and their bytes. -/
theorem State.returnStores_of_saved {s : State} {v : SavedHank} (h : v.swap = false) :
    (∀ k b, v.barriers = [(k, b)] → (s.returnStores v).barriers.get? k = some b) ∧
    (∀ k b, v.banks = [(k, b)] → (s.returnStores v).bank k = b) ∧
    ((s.early = [] → (s.returnStores v).early = []) ∧
      ∀ a x, v.bytes = [(a, x)] → s.MemOk → (s.returnStores v).mem.read a = x) := by
  obtain ⟨m, f, e, ev, b, p, hback, hm, he⟩ := s.returnBanks_back v.uid v.banks
  have heq : s.returnStores v = { { s.withBanks m f e ev b with pins := p } with
      barriers := s.barriers.putAll v.barriers
      banks := b.putAll v.banks
      mem := m.restore v.bytes
      full := v.fulls.foldl (fun l k => insertNat k l) f } := by
    unfold State.returnStores
    rw [h, if_neg (by decide), hback]
    rfl
  rw [heq]
  refine ⟨fun k b h => ?_, fun k c h => ?_, fun h => he h, fun a x h hok => ?_⟩
  · dsimp only
    rw [h, AMap.putAll_one, AMap.get?_set_self]
  · show ((b.putAll v.banks).get? k).getD .idle = c
    rw [h, AMap.putAll_one, AMap.get?_set_self]
    rfl
  · dsimp only
    rw [h]
    exact Memory.read_write_self a x (hm hok)

/-- The hank's return up to where its strands go on: hanks, stores and lists as its parts leave them. -/
theorem State.restoreHank_returning {s : State} {v : SavedHank} (hev : v.events = []) (hv : ∀ y ∈ v.strands, y.2.Ready y.1)
    (hs : s.hankStrands v.uid = []) :
    Returning (((s.putBack v).dropImage v.hank.ctx (.hank v.uid)).returnStores v) (s.restoreHank v) := by
  have hstores : (((s.putBack v).dropImage v.hank.ctx (.hank v.uid)).returnStores v).ReadyHank v.uid := by
    obtain ⟨m, f, e, ev, b, p, bs, h⟩ := ((s.putBack v).dropImage v.hank.ctx (.hank v.uid)).returnStores_frame v
    rw [h]
    exact State.putBack_ready hv hs
  rw [State.restoreHank_eq s hev]
  generalize ((s.putBack v).dropImage v.hank.ctx (.hank v.uid)).returnStores v = u at hstores ⊢
  have hthaw := (u.rejoinCopies_returning v).trans (State.thawTiles_returning _ (v.hank.nb.getD v.uid))
  exact hthaw.trans (State.wakeHank_returning (hthaw.readyHank hstores))

/-! ## Which hank returns -/

theorem State.nextIn_active {s : State} {core : Nat} {v : SavedHank} {c : Ctx} (h : s.nextIn core = some v)
    (hc : s.ctxs.get? v.hank.ctx = some c) : c.st = .active := by
  obtain ⟨u, -, hu⟩ := List.exists_of_findSome?_eq_some h
  have hp := List.find?_some hu
  unfold State.mayReturn at hp
  simp only [Bool.and_eq_true, hc, Option.any_some, beq_iff_eq] at hp
  obtain ⟨-, ⟨⟨hact, -⟩, -⟩, -⟩ := hp
  exact hact

section
variable {s : State} {core : Nat} {v : SavedHank} {c : Ctx} (hn : s.nextIn core = some v) (hc : s.ctxs.get? v.hank.ctx = some c)
include hn hc

theorem exec_swapIn_of_wait {g : Nat} (hg : (s.imagesOf c v).findSome? (s.imageLink v.hank.ctx c) = some g) :
    exec (.swapIn core) s = .next (s.awaitLink (.engine core) v.hank.ctx core g) := by
  rw [exec_swapIn, execSwapIn, hn]
  dsimp only
  rw [hc]
  dsimp only
  rw [hg]

variable (hlink : ∀ i ∈ s.imagesOf c v, s.imageLink v.hank.ctx c i = none)
include hlink

theorem exec_swapIn_of_good (hgood : ∀ i ∈ s.imagesOf c v, s.imageBad v.hank.ctx c i = false) :
    exec (.swapIn core) s = .next (s.restoreHank v) := by
  have hbad : (s.imagesOf c v).filter (s.imageBad v.hank.ctx c) = [] :=
    List.filter_eq_nil_iff.2 fun i hi => by rw [hgood i hi]; decide
  rw [exec_swapIn, execSwapIn, hn]
  dsimp only
  rw [hc]
  dsimp only
  rw [List.findSome?_eq_none_iff.2 hlink, hbad]
  rfl

theorem exec_swapIn_of_bad {i : SaveImage} (hi : i ∈ s.imagesOf c v) (hbad : s.imageBad v.hank.ctx c i = true) :
    ∃ die, exec (.swapIn core) s = .next (s.ctxFault v.hank.ctx 7 die 0 0) := by
  have hmem : i ∈ (s.imagesOf c v).filter (s.imageBad v.hank.ctx c) := List.mem_filter.2 ⟨hi, hbad⟩
  rw [exec_swapIn, execSwapIn, hn]
  dsimp only
  rw [hc]
  dsimp only
  rw [List.findSome?_eq_none_iff.2 hlink]
  dsimp only
  cases hl : (s.imagesOf c v).filter (s.imageBad v.hank.ctx c) with
  | nil =>
    rw [hl] at hmem
    cases hmem
  | cons k l => exact ⟨_, rfl⟩

end

end Sys2Proof.Machine

namespace Sys2Proof
open Machine

theorem savedHanksReturn : Claims.SavedHanksReturn := by
  unfold Claims.SavedHanksReturn
  refine ⟨fun s core v c hn hc hgood hev hcopies hlink hstrands hnone => ?_, fun s core v c i hn hc hi hlink hbad => ?_,
    fun s core v c g hn hc hg => ⟨_, exec_swapIn_of_wait hn hc hg, rfl⟩, fun s core hn => ?_⟩
  · have hready : ∀ y ∈ v.strands, y.2.Ready y.1 := fun y hy => by
      obtain ⟨⟨hrun, hleave, -, hpos⟩, houts⟩ := hstrands y hy
      exact ⟨hrun, hleave, hpos, houts⟩
    refine ⟨_, exec_swapIn_of_good hn hc hlink hgood, ?_⟩
    have hret := State.restoreHank_returning hev hready hnone
    generalize hu : ((s.putBack v).dropImage v.hank.ctx (.hank v.uid)).returnStores v = u at hret
    obtain ⟨m, f, e, ev, b, p, bs, hframe⟩ := ((s.putBack v).dropImage v.hank.ctx (.hank v.uid)).returnStores_frame v
    rw [hu] at hframe
    refine ⟨?_, fun hswap => ?_, fun hswap => ⟨fun k b hb => ?_, fun k b hb => ?_, fun a x hx he hok => ?_⟩, fun w hw => ?_,
      fun n => ?_, fun pos y hy ho => ?_⟩
    · rw [hret.hanks, hframe]
      exact AMap.get?_set_self ..
    · rw [State.returnStores_of_swap hswap] at hu
      refine ⟨fun he => ?_, ?_, ?_⟩
      · rw [(hret.mem (by rw [← hu]; exact he)).2, ← hu]
        rfl
      · rw [hret.banks, ← hu]
        rfl
      · rw [hret.barriers, ← hu]
        rfl
    · obtain ⟨hbar, -⟩ := State.returnStores_of_saved (s := (s.putBack v).dropImage v.hank.ctx (.hank v.uid)) hswap
      rw [hret.barriers, ← hu]
      exact hbar k b hb
    · obtain ⟨-, hbank, -⟩ := State.returnStores_of_saved (s := (s.putBack v).dropImage v.hank.ctx (.hank v.uid)) hswap
      rw [State.bank, hret.banks, ← hu]
      exact hbank k b hb
    · obtain ⟨-, -, hearly, hread⟩ := State.returnStores_of_saved (s := (s.putBack v).dropImage v.hank.ctx (.hank v.uid)) hswap
      rw [(hret.mem (by rw [← hu]; exact hearly he)).2, ← hu]
      exact hread a x hx hok
    · have hmem : w.uid ∈ u.saved.map SavedHank.uid := by
        rw [← hret.saved]
        exact List.mem_map_of_mem hw
      rw [hframe] at hmem
      obtain ⟨z, hz, heq⟩ := List.mem_map.1 hmem
      rw [← heq]
      simpa using (List.mem_filter.1 hz).2
    · rw [hret.swapIn, hframe]
      show v.uid ∉ ((s.swapIn.mapVals fun _ l => l.filter (· != v.uid)).get? n).getD []
      rw [AMap.get?_mapVals]
      cases s.swapIn.get? n <;> simp
    · have hplace : u.strand? pos = some { y with awaits := [] } := by
        rw [hframe]
        show (s.strands.putAll (v.strands.mapVals fun _ x => x.awaitFences)).get? pos = _
        rw [hy]
        exact (AMap.get?_set_self ..).trans (congrArg some (Strand.awaitFences_of_none ho))
      exact hret.quiet pos _ hplace ho
  · obtain ⟨die, hexec⟩ := exec_swapIn_of_bad hn hc hlink hi hbad
    obtain ⟨d, hd, hst, hcode, -⟩ := State.ctxFault_of_active (code := 7) (die := die) (f := 0) (r := 0) hc (State.nextIn_active hn hc)
    obtain ⟨m, e, x, cs, ps, ws, h, -⟩ := s.ctxFault_only v.hank.ctx 7 die 0 0
    exact ⟨_, hexec, (congrArg State.strands h :), (congrArg State.saved h :), (congrArg State.hanks h :), d, hd, hst, hcode⟩
  · rw [exec_swapIn, execSwapIn, hn]

/-- Settles O38: the only event of a core is applied, a swap by way of what is saved of a hank, and a return by way of what its parts put
back and what thawing tiles and waking sleepers leave. -/
theorem arbiterAndSwapIn : Obligations.ArbiterAndSwapIn := ⟨arbiterEventsApply, hanksSwapOut, savedHanksReturn⟩

end Sys2Proof
end

section
/-! PROOFS. Contexts are created and activated (04 R77, R84). -/

namespace Sys2Proof.Machine
open Sys2Proof.Claims

/-! ## A free number -/

/-- The numbers of contexts that are free. -/
def State.freeCtxs (s : State) : List Nat := (List.range 256).filter fun n => (s.ctxs.get? n).isNone

theorem State.mem_freeCtxs {s : State} {n : Nat} : n ∈ s.freeCtxs ↔ n < 256 ∧ s.ctxs.get? n = none := by
  simp [State.freeCtxs]

theorem State.pick_lt (s : State) {n : Nat} (h : 0 < n) : s.pick n < n := by
  unfold State.pick
  split
  · exact h
  · exact Nat.mod_lt _ h

/-- Where a number is free, one is picked. -/
theorem State.pick_freeCtxs {s : State} (h : ∃ n, n < 256 ∧ s.ctxs.get? n = none) :
    ∃ n, s.freeCtxs[s.pick s.freeCtxs.length]? = some n ∧ n < 256 ∧ s.ctxs.get? n = none := by
  obtain ⟨m, hm⟩ := h
  have hlt := s.pick_lt (List.length_pos_of_mem (State.mem_freeCtxs.2 hm))
  exact ⟨_, List.getElem?_eq_getElem hlt, State.mem_freeCtxs.1 (List.getElem_mem hlt)⟩

theorem State.freeCtxs_of_full {s : State} (h : ∀ n, n < 256 → (s.ctxs.get? n).isSome = true) : s.freeCtxs = [] :=
  List.filter_eq_nil_iff.2 fun n hn => by simp [Option.isSome_iff_ne_none.1 (h n (List.mem_range.1 hn))]

/-! ## Create -/

/-- The descriptor that a create names, as the device's access to it. -/
def createPart (a : Nat) : Part := { key := physicalKey a, len := 128, ord := .rc, va := 0 }

section
variable {s : State} (hcmd : Commanded s 1 [8, 9, 10, 11, 12, 13, 14, 15])
include hcmd

theorem execCreateContext_of_refusingMode
    (h : ¬ (s.modeRefuses s.cmd.firmware = false ∧ bits s.featAgreed.toNat 15 8 = 1)) :
    exec .createContext s = .next (completed s 8 0) := by
  rw [exec_createContext, execCreateContext, State.command_of_commanded hcmd, ← State.finishCmd_eq]
  dsimp only
  rw [if_pos]
  rw [Bool.or_eq_true, bne_iff_ne]
  by_contra hn
  obtain ⟨hm, hf⟩ := not_or.1 hn
  exact h ⟨by simpa using hm, not_not.1 hf⟩

variable (hmode : s.modeRefuses s.cmd.firmware = false ∧ bits s.featAgreed.toNat 15 8 = 1)
include hmode

theorem execCreateContext_of_full (h : s.freeCtxs = []) : exec .createContext s = .next (completed s 3 0) := by
  obtain ⟨hm, hf⟩ := hmode
  have hnone : s.freeCtxs[s.pick s.freeCtxs.length]? = none := by
    rw [h]
    rfl
  rw [exec_createContext, execCreateContext, State.command_of_commanded hcmd, ← State.finishCmd_eq]
  dsimp only
  rw [hm, hf, if_neg (by decide)]
  unfold State.freeCtxs at hnone
  rw [hnone]

/-- Past the mode and with a free number: the checks of the address, of the access and of the descriptor. -/
theorem execCreateContext_of_free {n : Nat} (h : s.freeCtxs[s.pick s.freeCtxs.length]? = some n) (hearly : s.early = []) :
    exec .createContext s = .next (
      if s.cmd.bytes 8 15 % 128 ≠ 0 ∨ (¬ (s.cmd.bytes 8 15).testBit 47 ∧ hbmEnd ≤ s.cmd.bytes 8 15) then completed s 5 0
      else if (s.busFault false [createPart (s.cmd.bytes 8 15)]).isSome then completed s 7 0
      else if descriptorBad (s.mem.readN (physicalKey (s.cmd.bytes 8 15)) 128) s.featAgreed.toNat then completed s 5 0
      else completed { s with
        ctxs := s.ctxs.set n (Ctx.ofDescriptor (s.mem.readN (physicalKey (s.cmd.bytes 8 15)) 128) s.cmd.firmware) } 0 n) := by
  obtain ⟨hm, hf⟩ := hmode
  have hseen : s.seenParts (dieAgent 0) [createPart (s.cmd.bytes 8 15)] = s.mem.readN (physicalKey (s.cmd.bytes 8 15)) 128 := by
    rw [State.seenParts, State.seenParts, Nat.mul_zero, Nat.add_zero, State.seenN_of_early_nil hearly]
    rfl
  rw [exec_createContext, execCreateContext, State.command_of_commanded hcmd]
  dsimp only
  rw [hm, hf, if_neg (by decide)]
  unfold State.freeCtxs at h
  unfold createPart at hseen ⊢
  rw [h]
  dsimp only
  rw [hseen]
  simp only [State.finishCmd_eq]

end

/-! ## Activate -/

/-- Nothing that waited for a context is served where nothing waited. -/
theorem State.serveWaiting_of_none {s : State} {n : Nat} (h : ∀ p ∈ s.replays, p.1 ≠ n) : s.serveWaiting n = s := by
  have hmine : s.replays.filter (fun p => p.1 == n) = [] := List.filter_eq_nil_iff.2 fun p hp => by simp [h p hp]
  have hrest : s.replays.filter (fun p => p.1 != n) = s.replays := List.filter_eq_self.2 fun p hp => by simp [h p hp]
  unfold State.serveWaiting
  rw [hmine, hrest]
  rfl

section
variable {s : State} {c : Ctx} (hcmd : Commanded s 2 [8]) (hc : s.ctxs.get? (s.cmd.byte 8) = some c)
  (hmode : s.modeRefuses c.firmware = false)
include hcmd hc hmode

theorem execActivate_of_illegal (h : c.st ≠ .created) : exec .activate s = .next (completed s 4 0) := by
  rw [exec_activate, execActivate, State.ctxCommand_of_some hcmd hc, hmode, if_neg (by decide), if_pos (.inl h), State.finishCmd_eq]

variable (hst : c.st = .created) (hfeat : c.feat &&& (255 - s.featAgreed.toNat % 128) = 0)
include hst hfeat

theorem execActivate_of_unread {f : XFault} (hread : s.devRead 0 (s.cmd.byte 8) c.trapBase.toNat 256 = .error f) :
    exec .activate s = .next (if f.cause = 0 then s.awaitLink (.engine 0) (s.cmd.byte 8) 0 f.page else completed s 5 0) := by
  rw [exec_activate, execActivate, State.ctxCommand_of_some hcmd hc, hmode, if_neg (by decide),
    if_neg (not_or.2 ⟨not_not.2 hst, not_not.2 hfeat⟩), hread]
  dsimp only
  rw [State.finishCmd_eq]

theorem execActivate_of_read {v : Nat} (hread : s.devRead 0 (s.cmd.byte 8) c.trapBase.toNat 256 = .ok v)
    (hwait : ∀ p ∈ s.replays, p.1 ≠ s.cmd.byte 8) :
    exec .activate s = .next (completed (s.modCtx (s.cmd.byte 8) fun c => { c with st := .active }) 0 0) := by
  have hserve : (s.modCtx (s.cmd.byte 8) fun c => { c with st := .active }).serveWaiting (s.cmd.byte 8) =
      s.modCtx (s.cmd.byte 8) fun c => { c with st := .active } :=
    State.serveWaiting_of_none (s := s.modCtx (s.cmd.byte 8) fun c => { c with st := .active }) hwait
  rw [exec_activate, execActivate, State.ctxCommand_of_some hcmd hc, hmode, if_neg (by decide),
    if_neg (not_or.2 ⟨not_not.2 hst, not_not.2 hfeat⟩), hread]
  dsimp only
  rw [hserve, State.finishCmd_eq]

end

end Sys2Proof.Machine

namespace Sys2Proof
open Machine

theorem contextsAreCreated : Claims.ContextsAreCreated := by
  unfold Claims.ContextsAreCreated
  refine ⟨fun s hcmd hearly => ?_, fun d fw => ?_, fun s c hcmd hc hmode => ?_⟩
  · intro a key d sound legal allowed
    have hillegal : (a % 128 ≠ 0 ∨ (¬ a.testBit 47 ∧ hbmEnd ≤ a)) ↔ ¬ legal := by
      simp only [legal, hbmEnd]
      by_cases ht : a.testBit 47 = true <;> by_cases h8 : a % 128 = 0 <;> simp [ht, h8]
    have hsound : (s.busFault false [createPart a]).isSome = true ↔ ¬ sound := Option.isSome_iff_ne_none
    refine ⟨fun hall hlegal hs hgood hfree => ?_, fun hall hfull => ?_, fun hall hfree hbad => ?_, fun hall hfree hlegal hs => ?_,
      fun hall => execCreateContext_of_refusingMode hcmd hall⟩
    · obtain ⟨n, hn, hlt, hnone⟩ := State.pick_freeCtxs hfree
      refine ⟨_, execCreateContext_of_free hcmd hall hn hearly, n, hlt, hnone, ?_⟩
      rw [if_neg (hillegal.not.2 (not_not.2 hlegal)), if_neg (hsound.not.2 (not_not.2 hs)), if_neg (by rw [Bool.not_eq_true]; exact hgood)]
      rfl
    · exact execCreateContext_of_full hcmd hall (State.freeCtxs_of_full hfull)
    · obtain ⟨n, hn, -⟩ := State.pick_freeCtxs hfree
      rw [execCreateContext_of_free hcmd hall hn hearly]
      by_cases hlegal : legal
      · obtain ⟨hs, hb⟩ := hbad.resolve_left (not_not.2 hlegal)
        rw [if_neg (hillegal.not.2 (not_not.2 hlegal)), if_neg (hsound.not.2 (not_not.2 hs)), if_pos (show descriptorBad (s.mem.readN (physicalKey (s.cmd.bytes 8 15)) 128) s.featAgreed.toNat = true from hb)]
      · rw [if_pos (hillegal.2 hlegal)]
    · obtain ⟨n, hn, -⟩ := State.pick_freeCtxs hfree
      rw [execCreateContext_of_free hcmd hall hn hearly, if_neg (hillegal.not.2 (not_not.2 hlegal)), if_pos (hsound.2 hs)]
  · have hword : ∀ hi lo, hi + 1 - lo = 64 → (BitVec.ofNat 64 (bits d hi lo)).toNat = bits d hi lo := fun hi lo h => by
      rw [BitVec.toNat_ofNat, ← h, Nat.mod_eq_of_lt (bits_lt d hi lo)]
    exact ⟨rfl, rfl, (bits_eq_mod d 63).symm, rfl, rfl, rfl, hword _ _ rfl, hword _ _ rfl, rfl, hword _ _ rfl, hword _ _ rfl, rfl,
      hword _ _ rfl, hword _ _ rfl, rfl, rfl, rfl, rfl, rfl, rfl, rfl, rfl, rfl⟩
  · refine ⟨fun v hst hfeat hread hwait => ⟨_, execActivate_of_read hcmd hc hmode hst hfeat hread hwait, rfl⟩, fun f hst hfeat hread => ?_,
      fun h => execActivate_of_illegal hcmd hc hmode h⟩
    rw [execActivate_of_unread hcmd hc hmode hst hfeat hread]
    exact ⟨fun h => by rw [if_neg h], fun h => by rw [if_pos h]⟩

end Sys2Proof
end

section
/-! PROOFS. What translation and the device's accesses look at (09 R170 to R175), and an image written to a save area where nothing is
early and all of it is near. -/

namespace Sys2Proof.Machine
open Sys2Proof.Claims

/-! ## What translation looks at -/

/-- Translation finds the same in both states: memory, what walkers hold and choose, and of contexts their roots and what is in
service. -/
structure SameTables (s t : State) : Prop where
  mem : t.mem = s.mem
  early : t.early = s.early
  upsets : t.upsets = s.upsets
  busErrors : t.busErrors = s.busErrors
  moves : t.moves = s.moves
  tlb : t.tlb = s.tlb
  clusterTlb : t.clusterTlb = s.clusterTlb
  pointers : t.pointers = s.pointers
  routes : t.routes = s.routes
  pkgid : t.pkgid = s.pkgid
  ports : t.ports = s.ports
  roots : ∀ n, (t.ctxs.get? n).map Ctx.root = (s.ctxs.get? n).map Ctx.root
  inService : ∀ n, (t.ctxs.get? n).map Ctx.inService = (s.ctxs.get? n).map Ctx.inService

theorem SameTables.refl (s : State) : SameTables s s :=
  ⟨rfl, rfl, rfl, rfl, rfl, rfl, rfl, rfl, rfl, rfl, rfl, fun _ => rfl, fun _ => rfl⟩

theorem SameTables.trans {s t u : State} (h : SameTables s t) (k : SameTables t u) : SameTables s u where
  mem := k.mem.trans h.mem
  early := k.early.trans h.early
  upsets := k.upsets.trans h.upsets
  busErrors := k.busErrors.trans h.busErrors
  moves := k.moves.trans h.moves
  tlb := k.tlb.trans h.tlb
  clusterTlb := k.clusterTlb.trans h.clusterTlb
  pointers := k.pointers.trans h.pointers
  routes := k.routes.trans h.routes
  pkgid := k.pkgid.trans h.pkgid
  ports := k.ports.trans h.ports
  roots := fun n => (k.roots n).trans (h.roots n)
  inService := fun n => (k.inService n).trans (h.inService n)

/-- A context that keeps its root and what is in service is translated as before. -/
theorem State.modCtx_sameTables (s : State) (n : Nat) {f : Ctx → Ctx} (hr : ∀ c, (f c).root = c.root)
    (hs : ∀ c, (f c).inService = c.inService) : SameTables s (s.modCtx n f) := by
  have hget : ∀ m, (s.modCtx n f).ctxs.get? m = if n = m then (s.ctxs.get? m).map f else s.ctxs.get? m := fun m =>
    AMap.get?_modify s.ctxs n m f
  refine ⟨rfl, rfl, rfl, rfl, rfl, rfl, rfl, rfl, rfl, rfl, rfl, fun m => ?_, fun m => ?_⟩
  · rw [hget]
    split
    · cases s.ctxs.get? m with
      | none => rfl
      | some c => exact congrArg some (hr c)
    · rfl
  · rw [hget]
    split
    · cases s.ctxs.get? m with
      | none => rfl
      | some c => exact congrArg some (hs c)
    · rfl

section
variable {s t : State} (h : SameTables s t)
include h

theorem SameTables.seenN_eq (g k n : Nat) : t.seenN g k n = s.seenN g k n := by
  induction n generalizing k with
  | zero => rfl
  | succ n ih => rw [State.seenN, State.seenN, ih, State.seen, State.seen, h.early, h.mem]

theorem SameTables.seenParts_eq (g : Nat) (ps : List Part) : t.seenParts g ps = s.seenParts g ps := by
  induction ps with
  | nil => rfl
  | cons p ps ih => rw [State.seenParts, State.seenParts, ih, h.seenN_eq]

theorem SameTables.upset_eq (k len : Nat) : t.upset k len = s.upset k len := by
  rw [State.upset, State.upset, h.upsets]

theorem SameTables.entryAt_eq (die k : Nat) : t.entryAt die k = s.entryAt die k := by
  rw [State.entryAt, State.entryAt, h.upset_eq, h.seenN_eq]

theorem SameTables.pick_eq (n : Nat) : t.pick n = s.pick n := by
  rw [State.pick, State.pick, h.moves]

theorem SameTables.tableEntry_eq (die level base i : Nat) : t.tableEntry die level base i = s.tableEntry die level base i := by
  unfold State.tableEntry
  simp only [h.entryAt_eq, h.pick_eq]

theorem SameTables.walkLevel_eq (die va level base : Nat) : t.walkLevel die va level base = s.walkLevel die va level base := by
  induction level generalizing base with
  | zero =>
    unfold State.walkLevel
    rw [h.tableEntry_eq]
  | succ l ih =>
    unfold State.walkLevel
    simp only [h.tableEntry_eq, ih]

theorem SameTables.walk_eq (die ctx root va : Nat) : t.walk die ctx root va = s.walk die ctx root va := by
  unfold State.walk State.heldTable
  simp only [h.pointers, h.walkLevel_eq]

theorem SameTables.translate_eq (core ctx va : Nat) : t.translate core ctx va = s.translate core ctx va := by
  have hroot := h.roots ctx
  have htlb : t.tlbEntry core ctx va = s.tlbEntry core ctx va := by
    unfold State.tlbEntry
    rw [h.tlb, h.clusterTlb]
  unfold State.translate
  rw [htlb]
  cases hs : s.ctxs.get? ctx with
  | none =>
    rw [hs, Option.map_none, Option.map_eq_none_iff] at hroot
    rw [hroot]
  | some c =>
    rw [hs] at hroot
    obtain ⟨d, hd, hr⟩ := Option.map_eq_some_iff.1 hroot
    rw [hd]
    simp only [h.walk_eq, hr]

theorem SameTables.place_eq (x : Xlat) (va len : Nat) : t.place x va len = s.place x va len := by
  unfold State.place State.routed
  rw [h.routes, h.pkgid]

theorem SameTables.inServiceAt_eq (ctx va : Nat) : t.inServiceAt ctx va = s.inServiceAt ctx va := by
  have hserv := h.inService ctx
  have hbind : ∀ u : State, u.inServiceAt ctx va = ((u.ctxs.get? ctx).map Ctx.inService).bind fun l =>
      l.find? fun p => decide (p.page ≤ va ∧ va < p.page + p.size) := fun u => by
    unfold State.inServiceAt
    cases u.ctxs.get? ctx <;> rfl
  rw [hbind t, hbind s, hserv]

theorem SameTables.part_eq (core ctx va len : Nat) : t.part core ctx va len = s.part core ctx va len := by
  unfold State.part
  simp only [h.inServiceAt_eq, h.translate_eq, h.place_eq]

theorem SameTables.parts_eq (core ctx : Nat) (n : Need) (va len : Nat) : t.parts core ctx n va len = s.parts core ctx n va len := by
  unfold State.parts
  simp only [h.part_eq]

theorem SameTables.devParts_eq (core ctx : Nat) (n : Need) (fuel va len : Nat) :
    t.devParts core ctx n fuel va len = s.devParts core ctx n fuel va len := by
  induction fuel generalizing va len with
  | zero => rfl
  | succ fuel ih =>
    unfold State.devParts
    simp only [h.parts_eq, ih]

theorem SameTables.busFault_eq (write : Bool) (ps : List Part) : t.busFault write ps = s.busFault write ps := by
  unfold State.busFault
  simp only [h.upset_eq, h.busErrors]

theorem SameTables.portRoom_eq (g : Nat) : t.portRoom g = s.portRoom g := by
  unfold State.portRoom State.routePorts State.port
  rw [h.routes, h.ports]

theorem SameTables.reachFault_eq (write : Bool) (ps : List Part) : t.reachFault write ps = s.reachFault write ps := by
  unfold State.reachFault
  simp only [h.busFault_eq, h.portRoom_eq]

theorem SameTables.devRead_eq (core ctx va len : Nat) : t.devRead core ctx va len = s.devRead core ctx va len := by
  unfold State.devRead
  simp only [h.devParts_eq, h.reachFault_eq, h.seenParts_eq]

end

/-! ## Bytes of the device's own -/

theorem Memory.read_scribble_of_outside (m : Memory) {k n j : Nat} (draw : Nat) (h : j < k ∨ k + n ≤ j) :
    (Memory.scribble m k draw n).read j = m.read j := by
  induction n with
  | zero => rfl
  | succ n ih =>
    rw [Memory.scribble, Memory.read_write_ne _ _ (by omega), ih (by omega)]

/-- What the device's own bytes at parts make of memory. -/
def Memory.scribbled (m : Memory) (draw : Nat) (ps : List Part) : Memory :=
  (ps.foldl (fun acc p => (Memory.scribble acc.1 p.key (draw + acc.2) p.len, acc.2 + p.len)) (m, 0)).1

theorem Memory.wf_scribbled {m : Memory} (draw : Nat) (ps : List Part) (h : Memory.wf m = true) :
    Memory.wf (m.scribbled draw ps) = true :=
  foldl_keeps (P := fun acc : Memory × Nat => Memory.wf acc.1 = true) _ (fun _ _ h => Memory.wf_scribble _ _ _ h) ps h

theorem Memory.read_scribbled_one (m : Memory) (draw : Nat) (q : Part) {j : Nat} (h : j < q.key ∨ q.key + q.len ≤ j) :
    (m.scribbled draw [q]).read j = m.read j := Memory.read_scribble_of_outside m _ h

/-! ## Bytes written and read back -/

/-- Bytes that were written read back as the value, as far as it reaches. -/
theorem Memory.readN_writeN {m : Memory} (h : Memory.wf m = true) (k v n : Nat) : (Memory.writeN k v n m).readN k n = v % 256 ^ n := by
  induction n generalizing m k v with
  | zero => rw [Memory.readN, pow_zero, Nat.mod_one]
  | succ n ih =>
    rw [Memory.readN, Memory.writeN, ih (Memory.wf_write k _ h), Memory.read_writeN_of_outside _ _ (.inl (Nat.lt_succ_self k)),
      Memory.read_write_self k _ h, BitVec.toNat_ofNat, pow_succ' 256, Nat.mod_mul]

/-! ## An image in local memory -/

theorem State.land_of_early_nil {s : State} (h : s.early = []) (ps : List Part) : s.land ps = s := State.widen_of_early_nil h ..

/-- With nothing early, the device's own bytes at parts of local memory go straight there. -/
theorem State.scribbleParts_of_local {s : State} (h : s.early = []) (core ctx draw : Nat) {ps : List Part}
    (hl : ∀ p ∈ ps, keyPackage p.key = none) :
    ∃ x, s.scribbleParts core ctx draw ps = { s with mem := s.mem.scribbled draw ps, spoiled := x } := by
  unfold State.scribbleParts
  rw [State.sendParts_of_local s _ _ _ _ hl, State.land_of_early_nil h]
  exact ⟨_, rfl⟩

theorem State.reachFault_one_of_reached {s : State} {q : Part} (h : Reached s q) (write : Bool) : s.reachFault write [q] = none := by
  obtain ⟨hnear, hsound⟩ := h
  simp [State.reachFault, hsound, hnear]

theorem State.devWrite_of_one {s : State} {core ctx va len : Nat} {q : Part} (h : s.early = [])
    (hp : s.devParts core ctx .write (len / 2 ^ 16 + 2) va len = .ok [q]) (hq : Reached s q) (v : Nat) :
    ∃ x, s.devWrite core ctx va len v = .ok { s with mem := s.mem.writeN q.key v q.len, spoiled := x } := by
  have hlocal : ∀ p ∈ [q], keyPackage p.key = none := fun p hp => by
    rw [List.mem_singleton.1 hp]
    exact hq.1
  unfold State.devWrite
  rw [hp]
  dsimp only
  rw [State.reachFault_one_of_reached hq]
  dsimp only
  rw [State.sendParts_of_local s _ _ _ _ hlocal]
  unfold State.putParts
  rw [State.land_of_early_nil h]
  exact ⟨_, rfl⟩

/-- An image in local memory, while nothing is early: bytes of the device's own, and over their first the layout. It is written unless its parts
cannot be reached. -/
theorem State.writeImage_of_local {s : State} {core ctx n k v off : Nat} {o : ImageOwner} {c : Ctx} {ps : List Part} {q : Part}
    (he : s.early = []) (hc : s.ctxs.get? ctx = some c) (hroom : c.saveRoom n = some off)
    (hps : s.devParts core ctx .write (n / 2 ^ 16 + 2) ((c.saveBase.toNat + off) % 2 ^ 64) n = .ok ps)
    (hlocal : ∀ p ∈ ps, keyPackage p.key = none)
    (hq : ∀ m, ({ s with mem := m } : State).devParts core ctx .write (k / 2 ^ 16 + 2) ((c.saveBase.toNat + off) % 2 ^ 64) k = .ok [q])
    (hr : Reached s q) :
    (∃ f, s.reachFault true ps = some f ∧ s.writeImage core ctx o n k v = .error (.of f)) ∨
    ∃ x, s.writeImage core ctx o n k v = .ok (({ s with
      mem := (s.mem.scribbled (2 ^ 40 * s.draws) ps).writeN q.key v q.len, spoiled := x, draws := s.draws + 1 } : State).modCtx ctx fun c =>
        { c with images := c.images ++ [⟨o, off, n, 2 ^ 40 * s.draws⟩] }) := by
  obtain ⟨x, hscribble⟩ := State.scribbleParts_of_local he core ctx (2 ^ 40 * s.draws) hlocal
  let u : State := { s with mem := s.mem.scribbled (2 ^ 40 * s.draws) ps, spoiled := x, draws := s.draws + 1 }
  have hsame : SameTables { s with mem := s.mem.scribbled (2 ^ 40 * s.draws) ps } u :=
    ⟨rfl, rfl, rfl, rfl, rfl, rfl, rfl, rfl, rfl, rfl, rfl, fun _ => rfl, fun _ => rfl⟩
  have hparts : u.devParts core ctx .write (k / 2 ^ 16 + 2) ((c.saveBase.toNat + off) % 2 ^ 64) k = .ok [q] :=
    (hsame.devParts_eq ..).trans (hq _)
  obtain ⟨y, hwrite⟩ := State.devWrite_of_one (s := u) he hparts hr v
  cases hreach : s.reachFault true ps with
  | some f =>
    refine .inl ⟨f, rfl, ?_⟩
    unfold State.writeImage
    rw [hc]
    dsimp only
    rw [hroom]
    dsimp only
    rw [hps]
    dsimp only
    rw [hreach]
  | none =>
    refine .inr ⟨y, ?_⟩
    unfold State.writeImage
    rw [hc]
    dsimp only
    rw [hroom]
    dsimp only
    rw [hps]
    dsimp only
    rw [hreach]
    dsimp only
    rw [hscribble]
    rw [show State.devWrite _ core ctx ((c.saveBase.toNat + off) % 2 ^ 64) k v = _ from hwrite]

end Sys2Proof.Machine
end

section
/-! PROOFS. A context that is saved is suspended (04 R77, R79): its queues are pre-empted, and the copy commands that are left are kept
with it. -/

namespace Sys2Proof.Machine
open Sys2Proof.Claims

theorem AMap.mem_of_get? {α : Type} {m : AMap α} {k : Nat} {v : α} (h : m.get? k = some v) : (k, v) ∈ m := by
  induction m with
  | nil => cases h
  | cons p m ih =>
    unfold AMap.get? at h
    split at h
    · rename_i hk
      obtain rfl := Option.some.inj h
      exact hk ▸ List.mem_cons_self ..
    · exact List.mem_cons_of_mem _ (ih h)

/-- The only entry of a key is the one that a lookup finds. -/
theorem AMap.get?_of_filter {α : Type} {m : AMap α} {k : Nat} {v : α} (h : m.filter (fun p => p.1 == k) = [(k, v)]) : m.get? k = some v := by
  induction m with
  | nil => cases h
  | cons p m ih =>
    unfold AMap.get?
    split
    · rename_i hk
      rw [List.filter_cons_of_pos (by simp [hk])] at h
      rw [(List.cons.inj h).1]
    · rename_i hk
      rw [List.filter_cons_of_neg (by simp [hk])] at h
      exact ih h

/-! ## Queues -/

/-- The queue that a suspend leaves, where it has no launch record to write. -/
def Queue.suspended (x : Queue) : Queue :=
  if x.st = .mapped ∨ x.st = .running ∨ x.st = .blocked then
    { x with before := if x.preempting.isSome then .preempted else x.st, st := .preempted, thread := false, preempting := none, susp := true }
  else x

theorem Queue.suspended_suspended (x : Queue) : x.suspended.suspended = x.suspended := by
  by_cases h : x.st = .mapped ∨ x.st = .running ∨ x.st = .blocked
  · have hs : x.suspended = { x with
        before := if x.preempting.isSome then .preempted else x.st, st := .preempted, thread := false, preempting := none, susp := true } :=
      if_pos h
    rw [hs]
    exact if_neg (by simp)
  · have hs : x.suspended = x := if_neg h
    rw [hs, hs]

/-- What suspending a queue without launches changes: queues, of them this one. -/
theorem State.suspendQueue_of_noLaunch {s : State} {q : Nat} (hl : s.launchesOf q = []) : ∃ qs, s.suspendQueue q = { s with queues := qs } ∧
    ∀ k, qs.get? k = if q = k then (s.queues.get? k).map Queue.suspended else s.queues.get? k := by
  cases hx : s.queues.get? q with
  | none =>
    refine ⟨s.queues, ?_, fun k => ?_⟩
    · unfold State.suspendQueue
      rw [hx]
    · split
      · rename_i hk
        rw [← hk, hx]
        rfl
      · rfl
  | some x =>
    by_cases hst : x.st = .mapped ∨ x.st = .running ∨ x.st = .blocked
    · refine ⟨s.queues.modify q fun y => { y with
          before := if x.preempting.isSome then .preempted else x.st, st := .preempted, thread := false, preempting := none, susp := true },
        ?_, fun k => ?_⟩
      · unfold State.suspendQueue
        rw [hx]
        dsimp only
        rw [State.writeRecord_of_noLaunch hl]
        rcases hst with h | h | h <;> rw [h] <;> rfl
      · rw [AMap.get?_modify]
        split
        · rename_i hk
          rw [← hk, hx]
          exact congrArg some (if_pos hst).symm
        · rfl
    · refine ⟨s.queues, ?_, fun k => ?_⟩
      · unfold State.suspendQueue
        rw [hx]
        dsimp only
        split
        · exact absurd (.inl ‹_›) hst
        · exact absurd (.inr (.inl ‹_›)) hst
        · exact absurd (.inr (.inr ‹_›)) hst
        · rfl
      · split
        · rename_i hk
          rw [← hk, hx]
          exact congrArg some (if_neg hst).symm
        · rfl

theorem State.suspendQueues_of_noLaunch {s : State} {l : List Nat} (hl : ∀ q ∈ l, s.launchesOf q = []) :
    ∃ qs, l.foldl State.suspendQueue s = { s with queues := qs } ∧
      ∀ k, qs.get? k = if k ∈ l then (s.queues.get? k).map Queue.suspended else s.queues.get? k := by
  induction l generalizing s with
  | nil => exact ⟨s.queues, rfl, fun k => (if_neg List.not_mem_nil).symm⟩
  | cons q l ih =>
    obtain ⟨hq, hl⟩ := List.forall_mem_cons.1 hl
    obtain ⟨qs, hs, hget⟩ := State.suspendQueue_of_noLaunch hq
    obtain ⟨qs', hs', hget'⟩ := ih (s := s.suspendQueue q) (by
      rw [hs]
      exact hl)
    refine ⟨qs', by rw [List.foldl_cons, hs', hs], fun k => ?_⟩
    rw [hget', hs]
    dsimp only
    rw [hget]
    have hidem : ((s.queues.get? k).map Queue.suspended).map Queue.suspended = (s.queues.get? k).map Queue.suspended := by
      cases s.queues.get? k with
      | none => rfl
      | some x => exact congrArg some x.suspended_suspended
    by_cases hk : q = k
    · rw [if_pos hk, hidem, ite_self, if_pos (hk ▸ List.mem_cons_self ..)]
    · rw [if_neg hk]
      simp only [List.mem_cons, Ne.symm hk, false_or]

/-- The queues of a context, where none has launches. -/
def State.NoLaunches (s : State) (n : Nat) : Prop := ∀ q x, (q, x) ∈ s.queues → x.ctx = n → s.launchesOf q = []

theorem State.mem_ctxQueues {s : State} {n q : Nat} :
    q ∈ (s.queues.filter fun p => p.2.ctx == n).map Prod.fst ↔ ∃ x, (q, x) ∈ s.queues ∧ x.ctx = n := by
  simp

/-! ## Copy commands -/

/-- A copy engine without commands of a context. -/
def CopyEngine.Cleared (n : Nat) (e : CopyEngine) : Prop := ∀ q ∈ e.queues, ∀ x ∈ q, x.ctx ≠ n

/-- The strands of `st` stand for strands of `s`, of the same hanks. -/
def SameHanks (s : State) (st : AMap Strand) : Prop := ∀ y ∈ st, ∃ x ∈ s.strands, y.2.hank = x.2.hank

theorem SameHanks.wakeCopies {s t : State} (h : SameHanks s t.strands) (core cls : Nat) : SameHanks s (t.wakeCopies core cls).strands := by
  intro y hy
  obtain ⟨x, hx, rfl⟩ := List.mem_map.1 hy
  obtain ⟨z, hz, hhank⟩ := h x hx
  refine ⟨z, hz, ?_⟩
  rw [← hhank]
  dsimp only
  split
  · unfold Strand.unblock
    split <;> rfl
  · rfl

/-- What is left of one engine where a context's copy commands leave it. -/
def State.dropCopiesAt (n : Nat) (s : State) (e : Nat × CopyEngine) : State :=
  let keep := e.2.queues.map fun l => l.filter fun c => c.ctx != n
  let s := s.setEngine e.1 { e.2 with queues := keep }
  (List.range 4).foldl (fun s cls => if keep.getD cls [] = e.2.queue cls then s else s.wakeCopies e.1 cls) s

theorem State.dropCopiesAt_eq {s t : State} (n : Nat) (e : Nat × CopyEngine) (h : SameHanks s t.strands) :
    ∃ st, State.dropCopiesAt n t e = { t with strands := st, copyEngines := t.copyEngines.set e.1 { e.2 with
      queues := e.2.queues.map fun l => l.filter fun c => c.ctx != n } } ∧ SameHanks s st := by
  unfold State.dropCopiesAt
  dsimp only
  refine foldl_keeps (P := fun u : State => ∃ st, u = { t with strands := st, copyEngines := t.copyEngines.set e.1 { e.2 with
      queues := e.2.queues.map fun l => l.filter fun c => c.ctx != n } } ∧ SameHanks s st) _ (fun u cls hu => ?_) _ ⟨t.strands, rfl, h⟩
  split
  · exact hu
  · obtain ⟨st, rfl, hst⟩ := hu
    exact ⟨_, rfl, SameHanks.wakeCopies (t := { t with strands := st }) hst e.1 cls⟩

/-- Dropping copy commands changes copy engines, which have none of the context left, and strands of which it wakes some. -/
theorem State.dropCopies_eq (s : State) (n : Nat) : ∃ st ce, s.dropCopies n = { s with strands := st, copyEngines := ce } ∧
    SameHanks s st ∧ ∀ k e, ce.get? k = some e → e.Cleared n := by
  suffices ∀ l : AMap CopyEngine, ∀ t : State, SameHanks s t.strands → ∃ st ce,
      l.foldl (State.dropCopiesAt n) t = { t with strands := st, copyEngines := ce } ∧ SameHanks s st ∧
      ∀ k e, ce.get? k = some e → e.Cleared n ∨ (t.copyEngines.get? k = some e ∧ ∀ p ∈ l, p.1 ≠ k) by
    obtain ⟨st, ce, hs, hst, hce⟩ := this s.copyEngines s fun y hy => ⟨y, hy, rfl⟩
    refine ⟨st, ce, hs, hst, fun k e he => (hce k e he).resolve_right fun ⟨hget, hkeys⟩ => ?_⟩
    exact hkeys _ (AMap.mem_of_get? hget) rfl
  intro l
  induction l with
  | nil => exact fun t ht => ⟨t.strands, t.copyEngines, rfl, ht, fun k e he => .inr ⟨he, by simp⟩⟩
  | cons p l ih =>
    intro t ht
    obtain ⟨st, hat, hst⟩ := State.dropCopiesAt_eq n p ht
    obtain ⟨st', ce, hl, hst', hce⟩ := ih (State.dropCopiesAt n t p) (by rw [hat]; exact hst)
    refine ⟨st', ce, by rw [List.foldl_cons, hl, hat], hst', fun k e he => ?_⟩
    rcases hce k e he with hclear | ⟨hget, hkeys⟩
    · exact .inl hclear
    · rw [hat] at hget
      by_cases hk : p.1 = k
      · refine .inl fun q hq x hx => ?_
        dsimp only at hget
        rw [← hk, AMap.get?_set_self] at hget
        obtain rfl := Option.some.inj hget
        obtain ⟨q', -, rfl⟩ := List.mem_map.1 hq
        simpa using (List.mem_filter.1 hx).2
      · dsimp only at hget
        rw [AMap.get?_set_ne _ _ hk] at hget
        exact .inr ⟨hget, List.forall_mem_cons.2 ⟨hk, hkeys⟩⟩

/-! ## Suspended -/

/-- The copy commands of a context in the engines, with their places. -/
def State.ctxCopies (s : State) (n : Nat) : List (Nat × Nat × CopyCmd) :=
  s.copyEngines.flatMap fun e => (List.range 4).flatMap fun cls => ((e.2.queue cls).filter fun c => c.ctx == n).map fun c => (e.1, cls, c)

theorem State.mem_ctxCopies {s : State} {n k cls : Nat} {e : CopyEngine} {x : CopyCmd} (he : (k, e) ∈ s.copyEngines) (hcls : cls < 4)
    (hx : x ∈ e.queue cls) (hn : x.ctx = n) : (k, cls, x) ∈ s.ctxCopies n :=
  List.mem_flatMap.2 ⟨(k, e), he, List.mem_flatMap.2 ⟨cls, List.mem_range.2 hcls,
    List.mem_map.2 ⟨x, List.mem_filter.2 ⟨hx, by simp [hn]⟩, rfl⟩⟩⟩

/-- What stands where a context of a state with everything saved has been suspended. -/
structure Suspended (s : State) (n : Nat) (c : Ctx) (t : State) : Prop where
  frame : t = { s with queues := t.queues, strands := t.strands, copyEngines := t.copyEngines, ctxs := t.ctxs }
  ctx : t.ctxs.get? n = some { c with st := .suspended, stopping := false, copies := c.copies ++ s.ctxCopies n }
  strands : SameHanks s t.strands
  cleared : ∀ k e, t.copyEngines.get? k = some e → e.Cleared n
  queues : ∀ q x, s.queues.filter (fun p => p.1 == q) = [(q, x)] → t.queues.get? q = some (if x.ctx = n then x.suspended else x)

/-- Nothing of a context is left to be saved, its queues without launches: it is suspended. -/
theorem State.suspended_of_saved {s : State} {n : Nat} {c : Ctx} (hc : s.ctxs.get? n = some c) (hl : s.NoLaunches n) :
    Suspended s n c ((((s.queues.filter fun p => p.2.ctx == n).map Prod.fst).foldl State.suspendQueue s).suspended n) := by
  obtain ⟨qs, hq, hget⟩ := State.suspendQueues_of_noLaunch (s := s) (l := (s.queues.filter fun p => p.2.ctx == n).map Prod.fst)
    fun q hq => by
      obtain ⟨x, hx, hxn⟩ := State.mem_ctxQueues.1 hq
      exact hl q x hx hxn
  rw [hq]
  obtain ⟨st, ce, hd, hst, hce⟩ := (({ s with queues := qs } : State).modCtx n fun c => { c with
    copies := c.copies ++ s.ctxCopies n }).dropCopies_eq n
  have hparked : ({ s with queues := qs } : State).parkCopies n = _ := hd
  unfold State.suspended
  rw [hparked]
  refine ⟨rfl, ?_, hst, hce, fun q x hx => ?_⟩
  · show ((s.ctxs.modify n fun c => { c with copies := c.copies ++ s.ctxCopies n }).modify n fun c =>
      { c with st := .suspended, stopping := false }).get? n = _
    rw [AMap.get?_modify, AMap.get?_modify, if_pos rfl, if_pos rfl, hc]
    rfl
  · show qs.get? q = _
    have hfind := AMap.get?_of_filter hx
    rw [hget, hfind]
    by_cases hxn : x.ctx = n
    · rw [if_pos hxn, if_pos (State.mem_ctxQueues.2 ⟨x, AMap.mem_of_get? hfind, hxn⟩), Option.map_some]
    · rw [if_neg hxn, if_neg]
      intro hmem
      obtain ⟨y, hy, hyn⟩ := State.mem_ctxQueues.1 hmem
      have : (q, y) ∈ s.queues.filter (fun p => p.1 == q) := List.mem_filter.2 ⟨hy, by simp⟩
      rw [hx] at this
      obtain rfl := (Prod.mk.inj (List.mem_singleton.1 this)).2
      exact hxn hyn

end Sys2Proof.Machine
end

section
/-! PROOFS. A save at the instruction level (04 R77, R79; 18 R346): how a suspend and a recover begin it, and where it ends. -/

namespace Sys2Proof.Machine
open Sys2Proof.Claims

/-! ## What a save begins with -/

/-- A state in which the save of context `n` has begun, its hanks stopping: the context is `d` now, as before but for its mark that
it stops. -/
structure Began (s u : State) (n : Nat) (c d : Ctx) : Prop where
  frame : u = { s with cmd := u.cmd, ctxs := u.ctxs, hanks := (s.stopHanks (s.ctxHanks n)).hanks }
  cmd : { u.cmd with started := false } = { s.cmd with started := false }
  ctx : u.ctxs.get? n = some d
  marked : d = { c with stopping := d.stopping }
  tables : SameTables s u

theorem BeginsSave.began {i : Instr} {s u : State} {n : Nat} {c : Ctx} (hc : s.ctxs.get? n = some c) (h : BeginsSave i s n c u) :
    ∃ d, Began s u n c d := by
  rcases h with ⟨-, -, -, rfl⟩ | ⟨-, -, -, -, -, -, rfl⟩
  · have hget := State.get?_modCtx_self hc fun c => { c with stopping := true }
    exact ⟨_, rfl, rfl, hget, rfl,
      SameTables.trans (State.modCtx_sameTables s n (f := fun c => { c with stopping := true }) (fun _ => rfl) fun _ => rfl)
        ⟨rfl, rfl, rfl, rfl, rfl, rfl, rfl, rfl, rfl, rfl, rfl, fun _ => rfl, fun _ => rfl⟩⟩
  · exact ⟨c, rfl, rfl, hc, rfl, rfl, rfl, rfl, rfl, rfl, rfl, rfl, rfl, rfl, rfl, rfl, fun _ => rfl, fun _ => rfl⟩

theorem State.ctxHanks_stopHanks (s : State) (n : Nat) (l : List Nat) : (s.stopHanks l).ctxHanks n = s.ctxHanks n := by
  have : ∀ m : AMap Hank, ((m.mapVals fun h x => if l.contains h then { x with stopping := true } else x).filter
      fun p => p.2.ctx == n).map Prod.fst = (m.filter fun p => p.2.ctx == n).map Prod.fst := by
    intro m
    unfold AMap.mapVals
    rw [List.filter_map, List.map_map]
    refine congrArg₂ _ (funext fun _ => rfl) (List.filter_congr fun p _ => ?_)
    dsimp only [Function.comp]
    split <;> rfl
  exact this s.hanks

section
variable {s u : State} {n : Nat} {c d : Ctx} (h : Began s u n c d)
include h

theorem Began.ctxHanks_eq : u.ctxHanks n = s.ctxHanks n := by
  rw [h.frame]
  exact s.ctxHanks_stopHanks n _

theorem Began.hanks_of_none (hn : s.ctxHanks n = []) : u.hanks = s.hanks := by
  rw [h.frame, hn]
  exact (congrArg State.hanks s.stopHanks_nil :)

end

/-! ## Where a save comes to -/

/-- The strands of a context whose hanks have retired are gone. -/
def State.NoGhosts (s : State) (n : Nat) : Prop := ∀ p ∈ s.strands, p.1 < places ∨ p.2.ctx ≠ n

theorem State.NoGhosts.quiet {s : State} {n : Nat} (h : s.NoGhosts n) : s.ghostsQuiet n = true := by
  refine List.all_eq_true.2 fun p hp => ?_
  rcases h p hp with hpos | hctx
  · simp [hpos]
  · simp [hctx]

section
variable {i : Instr} {s u : State} {c d : Ctx} (hc : s.ctxs.get? (s.cmd.byte 8) = some c) (hb : BeginsSave i s (s.cmd.byte 8) c u)
include hc hb

/-- A save that has begun suspends the context where all is saved; it has stopped where the context has faulted, or, in a recover,
where its fault code is that of an area that took no image. -/
theorem BeginsSave.exec_eq (hd : (u.saveStopped (s.cmd.byte 8)).ctxs.get? (s.cmd.byte 8) = some d) :
    exec i s = .next (
      let t := u.saveStopped (s.cmd.byte 8)
      if i = .suspend ∧ d.st ≠ .active then completed t 0 0
      else if i = .recover ∧ d.faultCode = 8 then completed s 4 0
      else if t.ctxSaved (s.cmd.byte 8) then completed (t.suspended (s.cmd.byte 8)) 0 0
      else t) := by
  rcases hb with ⟨rfl, hcmd, hst, rfl⟩ | ⟨rfl, hcmd, hst, hrec, hcode, ⟨v, hv, hbit⟩, rfl⟩
  · rw [exec_suspend, execSuspend, State.ctxCommand_of_some hcmd hc]
    dsimp only
    rw [if_neg (by rw [hst]; simp), State.saveCtx_eq]
    have hsave : ((({ s with cmd := { s.cmd with started := true } } : State).modCtx (s.cmd.byte 8) fun c =>
        { c with stopping := true }).stopHanks ((({ s with cmd := { s.cmd with started := true } } : State).modCtx (s.cmd.byte 8) fun c =>
        { c with stopping := true }).ctxHanks (s.cmd.byte 8))).saveStopped (s.cmd.byte 8) =
      (({ s with
        cmd := { s.cmd with started := true }
        ctxs := s.ctxs.modify (s.cmd.byte 8) fun c => { c with stopping := true } } : State).stopHanks
          (s.ctxHanks (s.cmd.byte 8))).saveStopped (s.cmd.byte 8) := rfl
    rw [hsave, hd, State.finishCmd_eq, State.finishCmd_eq]
    simp
  · rw [exec_recover, execRecover, State.ctxCommand_of_some hcmd hc]
    dsimp only
    rw [if_neg (by rw [hst]; simp), if_neg (by rw [hrec]; simp), hv]
    dsimp only
    rw [if_neg (by simp [hcode, hbit]), State.saveCtx_eq, hd, State.finishCmd_eq, State.finishCmd_eq]
    simp

/-- Where all is saved, the queues are pre-empted and the context is suspended. -/
theorem BeginsSave.succeeds {w : State}
    (hu : u.saveStopped (s.cmd.byte 8) = ((w.queues.filter fun p => p.2.ctx == s.cmd.byte 8).map Prod.fst).foldl State.suspendQueue w)
    (hw : w.ctxs.get? (s.cmd.byte 8) = some d) (hst : d.st = c.st) (hcode : d.faultCode = c.faultCode) (hl : w.NoLaunches (s.cmd.byte 8))
    (hsaved : w.ctxSaved (s.cmd.byte 8) = true) :
    ∃ t, exec i s = .next (completed t 0 0) ∧ Suspended w (s.cmd.byte 8) d t := by
  have hsusp := State.suspended_of_saved hw hl
  obtain ⟨qs, hq, -⟩ := State.suspendQueues_of_noLaunch (s := w) (l := (w.queues.filter fun p => p.2.ctx == s.cmd.byte 8).map Prod.fst)
    fun q hq => by
      obtain ⟨x, hx, hxn⟩ := State.mem_ctxQueues.1 hq
      exact hl q x hx hxn
  have hgoes : ¬ (i = .suspend ∧ d.st ≠ .active) ∧ ¬ (i = .recover ∧ d.faultCode = 8) := by
    rw [hst, hcode]
    rcases hb with ⟨rfl, -, hact, -⟩ | ⟨rfl, -, -, -, h8, -⟩
    · exact ⟨fun h => h.2 hact, fun h => (nomatch h.1)⟩
    · exact ⟨fun h => (nomatch h.1), fun h => h8 h.2⟩
  refine ⟨_, ?_, hsusp⟩
  rw [BeginsSave.exec_eq hc hb (d := d) (by rw [hu, hq]; exact hw)]
  dsimp only
  rw [if_neg hgoes.1, if_neg hgoes.2, hu, if_pos (by rw [hq]; exact hsaved)]

/-- Where the area takes no image, a suspend has faulted the context, and a recover is refused. -/
theorem BeginsSave.fails {core : Nat} (hu : u.saveStopped (s.cmd.byte 8) = u.saveFail (s.cmd.byte 8) core .full) :
    (i = .suspend → exec i s = .next (completed (u.saveFail (s.cmd.byte 8) core .full) 0 0) ∧
      ∃ e, (u.saveFail (s.cmd.byte 8) core .full).ctxs.get? (s.cmd.byte 8) = some e ∧ e.st = .faulted ∧ e.faultCode = 8) ∧
    (i = .recover → exec i s = .next (completed s 4 0)) := by
  obtain ⟨d, hd⟩ := BeginsSave.began hc hb
  have hst : d.st = c.st := by rw [hd.marked]
  refine ⟨?_, ?_⟩
  · rintro rfl
    have hact : c.st = .active := by
      rcases hb with ⟨-, -, hact, -⟩ | ⟨h, -⟩
      · exact hact
      · cases h
    obtain ⟨e, he, hfaulted, hcode, -⟩ := State.saveFail_of_active (e := .full) core hd.ctx (hst.trans hact) nofun
    have hexec := BeginsSave.exec_eq hc hb (d := e) (by rw [hu]; exact he)
    dsimp only at hexec
    rw [if_pos ⟨rfl, by simp [hfaulted]⟩, hu] at hexec
    exact ⟨hexec, e, he, hfaulted, hcode fun ⟨f, hf, _⟩ => by cases hf⟩
  · rintro rfl
    have hfaulted : c.st = .faulted := by
      rcases hb with ⟨h, -⟩ | ⟨-, -, hf, -⟩
      · cases h
      · exact hf
    have hstill := State.ctxFault_of_inactive (s := u) (n := s.cmd.byte 8) 8 (dieOf core) 0 0 fun e he ha => by
      rw [hd.ctx] at he
      cases he
      cases (hst.trans hfaulted).symm.trans ha
    have hget : (u.saveFail (s.cmd.byte 8) core .full).ctxs.get? (s.cmd.byte 8) = some { d with faultCode := 8 } := by
      unfold State.saveFail
      dsimp only
      rw [hstill]
      exact State.get?_modCtx_self hd.ctx _
    have hexec := BeginsSave.exec_eq hc hb (by rw [hu]; exact hget)
    dsimp only at hexec
    rwa [if_neg fun h => (nomatch h.1), if_pos ⟨rfl, rfl⟩] at hexec

omit hc hb in
theorem State.ctxSaved_suspended (w : State) (n : Nat) : (w.suspended n).ctxSaved n = w.ctxSaved n := by
  obtain ⟨st, ce, hpark, -⟩ := (w.modCtx n fun c => { c with copies := c.copies ++ w.ctxCopies n }).dropCopies_eq n
  have hparked : w.parkCopies n = _ := hpark
  unfold State.suspended
  rw [hparked]
  rfl

/-- A context that a save leaves suspended has nothing live left (R79). -/
theorem BeginsSave.nothing_live {t : State} (he : exec i s = .next t) (ht : t.ctxs.get? (s.cmd.byte 8) = some d)
    (hst : d.st = .suspended) : t.ctxSaved (s.cmd.byte 8) = true := by
  obtain ⟨d', hd⟩ := BeginsSave.began hc hb
  obtain ⟨e, hget, hmoves⟩ := (State.saveStopped_goes u (s.cmd.byte 8)).get hd.ctx
  have hlive : c.st ≠ .suspended := by
    rcases hb with ⟨-, -, h, -⟩ | ⟨-, -, h, -⟩ <;> rw [h] <;> simp
  have hnot : e.st ≠ .suspended := by
    rcases hmoves with h | ⟨-, h⟩
    · rw [h, hd.marked]
      exact hlive
    · rw [h]
      simp
  rw [BeginsSave.exec_eq hc hb hget] at he
  have hnot' : ∀ v : State, v.ctxs = (u.saveStopped (s.cmd.byte 8)).ctxs → v ≠ t := by
    rintro v hv rfl
    rw [hv, hget] at ht
    exact hnot (Option.some.inj ht ▸ hst)
  have hlive' : ∀ v : State, v.ctxs = s.ctxs → v ≠ t := by
    rintro v hv rfl
    rw [hv, hc] at ht
    exact hlive (Option.some.inj ht ▸ hst)
  generalize u.saveStopped (s.cmd.byte 8) = w at he hnot'
  dsimp only at he
  by_cases hstop : i = .suspend ∧ e.st ≠ .active
  · rw [if_pos hstop] at he
    exact absurd (Host.Outcome.next.inj he) (hnot' _ rfl)
  rw [if_neg hstop] at he
  by_cases hcode : i = .recover ∧ e.faultCode = 8
  · rw [if_pos hcode] at he
    exact absurd (Host.Outcome.next.inj he) (hlive' _ rfl)
  rw [if_neg hcode] at he
  cases hsaved : w.ctxSaved (s.cmd.byte 8) with
  | false =>
    rw [hsaved, if_neg Bool.false_ne_true] at he
    exact absurd (Host.Outcome.next.inj he) (hnot' _ rfl)
  | true =>
    rw [hsaved, if_pos rfl] at he
    rw [← Host.Outcome.next.inj he]
    exact (w.ctxSaved_suspended (s.cmd.byte 8)).trans hsaved

end

/-! ## Saves of one item -/

theorem byCore_one {α : Type} (p : Nat × α) : byCore [p] = [p] := by
  simp [byCore, insertNat]

theorem byCore_nil {α : Type} : byCore ([] : List (Nat × α)) = [] := rfl

section
variable {u : State} {n : Nat} (hquiet : (u.ctxHanks n).all u.hankQuiet = true) (hghosts : u.NoGhosts n)
include hquiet hghosts

theorem State.saveStopped_of_none (hplan : u.ctxPlan n = []) (hsaved : u.ctxSaved n = true) :
    u.saveStopped n = ((u.queues.filter fun p => p.2.ctx == n).map Prod.fst).foldl State.suspendQueue u := by
  unfold State.saveStopped
  rw [if_pos (by rw [hquiet, hghosts.quiet]; rfl), hplan]
  exact if_pos hsaved

theorem State.saveStopped_of_ok {w : State} {core : Nat} {f : State → Except SaveStop State} (hplan : u.ctxPlan n = [(core, f)])
    (hf : f u = .ok w) (hsaved : w.ctxSaved n = true) :
    u.saveStopped n = ((w.queues.filter fun p => p.2.ctx == n).map Prod.fst).foldl State.suspendQueue w := by
  have hsteps : u.saveSteps n (u.ctxPlan n) = w := by
    rw [hplan, State.saveSteps, State.saveStep, hf]
    rfl
  unfold State.saveStopped
  rw [if_pos (by rw [hquiet, hghosts.quiet]; rfl), hsteps]
  exact if_pos hsaved

theorem State.saveStopped_of_error {e : SaveStop} {core : Nat} {f : State → Except SaveStop State} (hplan : u.ctxPlan n = [(core, f)])
    (hf : f u = .error e) (hsaved : (u.saveFail n core e).ctxSaved n = false) : u.saveStopped n = u.saveFail n core e := by
  have hsteps : u.saveSteps n (u.ctxPlan n) = u.saveFail n core e := by
    rw [hplan, State.saveSteps, State.saveStep, hf]
  unfold State.saveStopped
  rw [if_pos (by rw [hquiet, hghosts.quiet]; rfl), hsteps]
  exact if_neg (by rw [hsaved]; simp)

end

/-! ## What is told -/

/-- The command block of `w` is that of `s`, but for its mark that the command has started. -/
structure SameCmd (s w : State) : Prop where
  cmd : { w.cmd with started := false } = { s.cmd with started := false }
  msix : w.msix = s.msix

theorem SameCmd.refl (s : State) : SameCmd s s := ⟨rfl, rfl⟩

/-- Completed over either, a command tells the same. -/
theorem SameCmd.told {s w : State} (h : SameCmd s w) (status result : Nat) :
    (completed w status result).cmd = (completed s status result).cmd ∧ (completed w status result).msix = (completed s status result).msix := by
  refine ⟨(congrArg (fun k : Cmd => { k with
    busy := false, seq := (k.seq + 1) % 2 ^ 16, status := status, result := result }) h.cmd :), ?_⟩
  have hbyte : w.cmd.byte 1 = s.cmd.byte 1 := (congrArg (fun k : Cmd => k.byte 1) h.cmd :)
  unfold completed
  dsimp only
  rw [h.msix, hbyte]

theorem SameCmd.of_goes {R : Ctx → Ctx → Prop} {s t w : State} (h : SameCmd s t) (k : Goes R t w) : SameCmd s w :=
  ⟨by rw [k.cmd]; exact h.cmd, k.msix.trans h.msix⟩

theorem Began.sameCmd {s u : State} {n : Nat} {c d : Ctx} (h : Began s u n c d) : SameCmd s u := ⟨h.cmd, by rw [h.frame]⟩

theorem Suspended.sameCmd {s w t : State} {n : Nat} {c : Ctx} (h : SameCmd s w) (k : Suspended w n c t) : SameCmd s t := by
  rw [k.frame]
  exact ⟨h.cmd, h.msix⟩

end Sys2Proof.Machine
end

section
/-! PROOFS. Suspend and recover of a context without hanks (04 R77, R79; 17 R311): one with nothing live, and one with an environment. -/

namespace Sys2Proof.Machine
open Sys2Proof.Claims

theorem AMap.get?_modify_self {α : Type} {m : AMap α} {k : Nat} {v : α} (h : m.get? k = some v) (f : α → α) :
    (m.modify k f).get? k = some (f v) := by
  rw [AMap.get?_modify, if_pos rfl, h, Option.map_some]

theorem State.ctxSaved_iff (s : State) (n : Nat) : s.ctxSaved n = true ↔ s.ctxHanks n = [] ∧
    (∀ p ∈ s.tiles, p.2.ctx = n → p.2.frozen = true) ∧ ∀ e ∈ s.envs, e.2.ctx = n → e.2.st ≠ .live := by
  unfold State.ctxSaved
  rw [Bool.and_eq_true, Bool.and_eq_true, List.isEmpty_iff, List.all_eq_true, List.all_eq_true, and_assoc]
  refine and_congr_right fun _ => and_congr (forall₂_congr fun p _ => ?_) (forall₂_congr fun e _ => ?_)
  · by_cases h : p.2.ctx = n <;> simp [h]
  · by_cases h : e.2.ctx = n <;> simp [h]

theorem State.ctxHanks_eq_nil {s : State} {n : Nat} : s.ctxHanks n = [] ↔ ∀ p ∈ s.hanks, p.2.ctx ≠ n := by
  unfold State.ctxHanks
  simp [List.filter_eq_nil_iff]

section
variable {s u : State} {n : Nat} {c d : Ctx} (h : Began s u n c d)
include h

theorem Began.envs_eq : u.envs = s.envs := (congrArg State.envs h.frame :)

theorem Began.tiles_eq : u.tiles = s.tiles := (congrArg State.tiles h.frame :)

theorem Began.draws_eq : u.draws = s.draws := (congrArg State.draws h.frame :)

theorem Began.noLaunches (hl : s.NoLaunches n) : u.NoLaunches n := by
  rw [h.frame]
  exact hl

theorem Began.noGhosts (hg : s.NoGhosts n) : u.NoGhosts n := by
  rw [h.frame]
  exact hg

theorem Began.saveRoom_eq (k : Nat) : d.saveRoom k = c.saveRoom k := by
  rw [h.marked]
  rfl

/-- Without hanks, tiles and environments are saved. -/
theorem Began.ctxPlan_of_noHanks (hn : s.ctxHanks n = []) : u.ctxPlan n = byCore (
    ((s.tiles.filter fun p => p.2.ctx == n && !p.2.frozen).map fun p => (p.1 / 8, fun s : State => s.freezeTile p.1 p.2)) ++
    (s.envs.filter fun p => p.2.ctx == n && p.2.st == .live).map fun p => (p.1 / 2048, fun s : State => s.saveEnv p.1 (s.env p.1))) := by
  unfold State.ctxPlan State.savePlan
  rw [h.ctxHanks_eq, hn, h.tiles_eq, h.envs_eq]
  rfl

theorem Began.quiet_of_noHanks (hn : s.ctxHanks n = []) : (u.ctxHanks n).all u.hankQuiet = true := by
  rw [h.ctxHanks_eq, hn]
  rfl

end

/-- Nothing of a context is live. -/
structure State.Bare (s : State) (n : Nat) : Prop where
  hanks : s.ctxHanks n = []
  tiles : ∀ t ∈ s.tiles, t.2.ctx = n → t.2.frozen = true
  envs : ∀ e ∈ s.envs, e.2.ctx = n → e.2.st ≠ .live
  launches : s.NoLaunches n
  ghosts : s.NoGhosts n

section
variable {i : Instr} {s u : State} {c : Ctx} (hc : s.ctxs.get? (s.cmd.byte 8) = some c) (hb : BeginsSave i s (s.cmd.byte 8) c u)
include hc hb

theorem BeginsSave.of_bare (h : s.Bare (s.cmd.byte 8)) : ∃ d t, Began s u (s.cmd.byte 8) c d ∧ exec i s = .next (completed t 0 0) ∧
    Suspended u (s.cmd.byte 8) d t := by
  obtain ⟨hh, ht, he, hl, hg⟩ := h
  obtain ⟨d, hd⟩ := BeginsSave.began hc hb
  have hplan : u.ctxPlan (s.cmd.byte 8) = [] := by
    rw [hd.ctxPlan_of_noHanks hh, List.filter_eq_nil_iff.2, List.filter_eq_nil_iff.2]
    · rfl
    · intro e he'
      simpa using he e he'
    · intro t ht'
      simpa using ht t ht'
  have hsaved : u.ctxSaved (s.cmd.byte 8) = true := by
    rw [State.ctxSaved_iff, hd.ctxHanks_eq, hd.tiles_eq, hd.envs_eq]
    exact ⟨hh, ht, he⟩
  obtain ⟨t, ht, hsusp⟩ := BeginsSave.succeeds hc hb
    (State.saveStopped_of_none (hd.quiet_of_noHanks hh) (hd.noGhosts hg) hplan hsaved) hd.ctx (by rw [hd.marked]) (by rw [hd.marked])
    (hd.noLaunches hl) hsaved
  exact ⟨d, t, hd, ht, hsusp⟩

end

/-- The context of a state in which nothing had to be saved, suspended; its copy commands are kept with it. -/
theorem Suspended.bare {s u t : State} {n : Nat} {c d : Ctx} (h : Began s u n c d) (k : Suspended u n d t) :
    (∃ l, t.ctxs.get? n = some { c with st := .suspended, stopping := false, copies := l } ∧
      (∀ k e cls x, (k, e) ∈ s.copyEngines → cls < 4 → x ∈ e.queue cls → x.ctx = n → (k, cls, x) ∈ l) ∧
      ∀ k e, t.copyEngines.get? k = some e → ∀ q ∈ e.queues, ∀ x ∈ q, x.ctx ≠ n) ∧ t.envs = s.envs ∧ t.mem = s.mem := by
  have hcopies : u.copyEngines = s.copyEngines := (congrArg State.copyEngines h.frame :)
  refine ⟨⟨c.copies ++ u.ctxCopies n, ?_, fun k e cls x he hcls hx hn => ?_, k.cleared⟩, ?_, ?_⟩
  · rw [k.ctx, h.marked]
  · exact List.mem_append_right _ (State.mem_ctxCopies (hcopies ▸ he) hcls hx hn)
  · rw [← h.envs_eq]
    exact (congrArg State.envs k.frame :)
  · rw [← h.tables.mem]
    exact (congrArg State.mem k.frame :)

section
variable {s : State} {c : Ctx} (hc : s.ctxs.get? (s.cmd.byte 8) = some c)
include hc

theorem exec_suspend_of_bare (hcmd : Commanded s 3 [8]) (hst : c.st = .active) (hbare : s.Bare (s.cmd.byte 8)) :
    ∃ u d t, Began s u (s.cmd.byte 8) c d ∧ exec .suspend s = .next (completed t 0 0) ∧ Suspended u (s.cmd.byte 8) d t := by
  obtain ⟨d, t, h⟩ := BeginsSave.of_bare hc (.inl ⟨rfl, hcmd, hst, rfl⟩) hbare
  exact ⟨_, d, t, h⟩

theorem exec_suspend_of_inactive (hcmd : Commanded s 3 [8]) (hst : c.st ≠ .active) (hstart : s.cmd.started = false) :
    exec .suspend s = .next (completed s 4 0) := by
  rw [exec_suspend, execSuspend, State.ctxCommand_of_some hcmd hc]
  dsimp only
  rw [if_pos hst, hstart, State.finishCmd_eq, State.finishCmd_eq]
  rfl

end

/-! ## An environment is saved -/

theorem SameTables.withMem {s t : State} (h : SameTables s t) (m : Memory) : SameTables { s with mem := m } { t with mem := m } :=
  { h with mem := rfl }

theorem SameTables.reached {s t : State} (h : SameTables s t) {q : Part} (hq : Reached s q) : Reached t q :=
  ⟨hq.1, fun write => (h.busFault_eq write [q]).trans (hq.2 write)⟩

theorem Ctx.saveRoom_of_small {c : Ctx} {k : Nat} (h : c.saveSize < k) : c.saveRoom k = none :=
  List.find?_eq_none.2 fun a _ => by
    have : ¬ a + k ≤ c.saveSize := by omega
    simp [this]

theorem State.writeImage_of_noRoom {s : State} {n k : Nat} {c : Ctx} (hc : s.ctxs.get? n = some c) (h : c.saveRoom k = none) (core : Nat)
    (o : ImageOwner) (j v : Nat) : s.writeImage core n o k j v = .error .full := by
  unfold State.writeImage
  rw [hc]
  dsimp only
  rw [h]

theorem State.writeImage_ctx_congr {s : State} {core n m k j v : Nat} {o : ImageOwner} (h : n = m) :
    s.writeImage core n o k j v = s.writeImage core m o k j v := by rw [h]

/-- Bytes over the device's own at one part: all others stay. -/
theorem Memory.stores_writeN {m : Memory} (hm : Memory.wf m = true) (draw : Nat) {q : Part} {k : Nat} (hk : q.len = k) (v : Nat) :
    (∀ i, i < k → (Memory.writeN q.key v q.len (m.scribbled draw [q])).read (q.key + i) = BitVec.ofNat 8 (v / 256 ^ i)) ∧
    ∀ j, j < q.key ∨ q.key + k ≤ j → (Memory.writeN q.key v q.len (m.scribbled draw [q])).read j = m.read j := by
  subst hk
  refine ⟨fun i hi => Memory.read_writeN_of_inside v i hi (Memory.wf_scribbled draw [q] hm), fun j hj => ?_⟩
  rw [Memory.read_writeN_of_outside _ _ hj, Memory.read_scribbled_one _ _ _ hj]

section
variable {s u : State} {n k : Nat} {e : Env} {c d : Ctx} (h : Began s u n c d)
include h

theorem Began.env_eq (he : s.envs = [(k, e)]) : u.env k = e := by
  unfold State.env AMap.getD
  rw [h.envs_eq, he]
  simp [AMap.get?]

theorem Began.ctxPlan_of_env (hh : s.ctxHanks n = []) (ht : ∀ t ∈ s.tiles, t.2.ctx ≠ n) (he : s.envs = [(k, e)]) (hen : e.ctx = n)
    (hlive : e.st = .live) : u.ctxPlan n = [(k / 2048, fun s => s.saveEnv k (s.env k))] := by
  have htiles : (s.tiles.filter fun p => p.2.ctx == n && !p.2.frozen) = [] := List.filter_eq_nil_iff.2 fun t ht' => by simp [ht t ht']
  have henvs : (s.envs.filter fun p => p.2.ctx == n && p.2.st == .live) = [(k, e)] := by simp [he, hen, hlive]
  rw [h.ctxPlan_of_noHanks hh, htiles, henvs]
  exact byCore_one _

/-- The record of an environment, written where there is room for it. -/
theorem Began.writeEnv_eq {off : Nat} {q : Part} (hearly : s.early = []) (hroom : c.saveRoom 128 = some off)
    (hq : ∀ m, ({ s with mem := m } : State).devParts (k / 2048) n .write 2 ((c.saveBase.toNat + off) % 2 ^ 64) 128 = .ok [q])
    (hr : Reached s q) (v : Nat) : ∃ x, u.writeImage (k / 2048) n (.env k) 128 128 v = .ok (({ u with
      mem := (s.mem.scribbled (2 ^ 40 * s.draws) [q]).writeN q.key v q.len, spoiled := x, draws := s.draws + 1 } : State).modCtx n fun c =>
        { c with images := c.images ++ [⟨.env k, off, 128, 2 ^ 40 * s.draws⟩] }) := by
  have hbase : d.saveBase = c.saveBase := by rw [h.marked]
  have hparts : ∀ m, ({ u with mem := m } : State).devParts (k / 2048) n .write (128 / 2 ^ 16 + 2)
      ((d.saveBase.toNat + off) % 2 ^ 64) 128 = .ok [q] := fun m => by
    rw [hbase]
    exact ((h.tables.withMem m).devParts_eq ..).trans (hq m)
  have hreach := h.tables.reached hr
  rcases State.writeImage_of_local (s := u) (core := k / 2048) (ctx := n) (n := 128) (k := 128) (v := v) (o := .env k)
    (h.tables.early.trans hearly) h.ctx ((h.saveRoom_eq 128).trans hroom) (hparts u.mem)
    (fun p hp => List.mem_singleton.1 hp ▸ hreach.1) hparts hreach with ⟨f, hf, -⟩ | ⟨x, hx⟩
  · rw [State.reachFault_one_of_reached hreach] at hf
    cases hf
  · rw [h.draws_eq, h.tables.mem] at hx
    exact ⟨x, hx⟩

end

section
variable {s : State} {c : Ctx} {k : Nat} {e : Env} (hc : s.ctxs.get? (s.cmd.byte 8) = some c) (hcmd : Commanded s 3 [8])
  (hst : c.st = .active) (hh : s.ctxHanks (s.cmd.byte 8) = []) (ht : ∀ t ∈ s.tiles, t.2.ctx ≠ s.cmd.byte 8)
  (hl : s.NoLaunches (s.cmd.byte 8)) (hg : s.NoGhosts (s.cmd.byte 8)) (he : s.envs = [(k, e)]) (hen : e.ctx = s.cmd.byte 8)
  (hlive : e.st = .live)
include hc hcmd hst hh ht hl hg he hen hlive

/-- A suspend writes the record of a live environment to the save area (R311). -/
theorem exec_suspend_of_env {off : Nat} {q : Part} (hearly : s.early = []) (hroom : c.saveRoom 128 = some off)
    (hq : ∀ m, ({ s with mem := m } : State).devParts (k / 2048) (s.cmd.byte 8) .write 2 ((c.saveBase.toNat + off) % 2 ^ 64) 128 = .ok [q])
    (hlen : q.len = 128) (hr : Reached s q) (hm : s.MemOk) : ∃ t, exec .suspend s = .next (completed t 0 0) ∧ SameCmd s t ∧
      (∃ d, t.ctxs.get? (s.cmd.byte 8) = some d ∧ d.st = .suspended ∧ d.images = c.images ++ [⟨.env k, off, 128, 2 ^ 40 * s.draws⟩]) ∧
      t.envs = [(k, { e with st := .held })] ∧ Stores s t q.key 128 e.image := by
  have hb : BeginsSave .suspend s (s.cmd.byte 8) c _ := .inl ⟨rfl, hcmd, hst, rfl⟩
  obtain ⟨d, hd⟩ := BeginsSave.began hc hb
  generalize (({ s with
      cmd := { s.cmd with started := true }
      ctxs := s.ctxs.modify (s.cmd.byte 8) fun c => { c with stopping := true } } : State).stopHanks (s.ctxHanks (s.cmd.byte 8))) = u at hb hd
  obtain ⟨x, hx⟩ := hd.writeEnv_eq hearly hroom hq hr e.image
  let w : State := (({ u with
    mem := (s.mem.scribbled (2 ^ 40 * s.draws) [q]).writeN q.key e.image q.len, spoiled := x, draws := s.draws + 1 } : State).modCtx
      (s.cmd.byte 8) fun c => { c with images := c.images ++ [⟨.env k, off, 128, 2 ^ 40 * s.draws⟩] }).setEnv k { e with st := .held }
  have hw : u.saveEnv k (u.env k) = .ok w := by
    rw [hd.env_eq he, State.saveEnv, State.writeImage_ctx_congr hen, hx]
    rfl
  have hwenvs : w.envs = [(k, { e with st := .held })] := by
    show u.envs.set k { e with st := .held } = _
    rw [hd.envs_eq, he]
    simp [AMap.set]
  have hsaved : w.ctxSaved (s.cmd.byte 8) = true := by
    refine w.ctxSaved_iff _ |>.2 ⟨hd.ctxHanks_eq.trans hh, fun t ht' hn => absurd hn (ht t (hd.tiles_eq ▸ ht')), fun y hy _ => ?_⟩
    rw [hwenvs, List.mem_singleton] at hy
    rw [hy]
    simp
  have hwctx : w.ctxs.get? (s.cmd.byte 8) = some { d with images := d.images ++ [⟨.env k, off, 128, 2 ^ 40 * s.draws⟩] } :=
    AMap.get?_modify_self hd.ctx fun c => { c with images := c.images ++ [⟨.env k, off, 128, 2 ^ 40 * s.draws⟩] }
  obtain ⟨t, hexec, hsusp⟩ := BeginsSave.succeeds hc hb
    (State.saveStopped_of_ok (hd.quiet_of_noHanks hh) (hd.noGhosts hg) (hd.ctxPlan_of_env hh ht he hen hlive) hw hsaved)
    hwctx (by rw [hd.marked]) (by rw [hd.marked]) (hd.noLaunches hl) hsaved
  refine ⟨t, hexec, hsusp.sameCmd (w := w) ⟨hd.sameCmd.cmd, hd.sameCmd.msix⟩, ⟨_, hsusp.ctx, rfl, by rw [hd.marked]⟩,
    (congrArg State.envs hsusp.frame :).trans hwenvs, ?_⟩
  have hmem : t.mem = w.mem := (congrArg State.mem hsusp.frame :)
  unfold Stores
  rw [hmem]
  exact Memory.stores_writeN hm _ hlen _

omit hl in
/-- A save area without room for the record faults the context with code 8 (R84). -/
theorem exec_suspend_of_envNoRoom (hsmall : c.saveSize < 128) : ∃ t, exec .suspend s = .next (completed t 0 0) ∧ SameCmd s t ∧
    t.envs = s.envs ∧ ∃ d, t.ctxs.get? (s.cmd.byte 8) = some d ∧ d.st = .faulted ∧ d.faultCode = 8 := by
  have hb : BeginsSave .suspend s (s.cmd.byte 8) c _ := .inl ⟨rfl, hcmd, hst, rfl⟩
  obtain ⟨d, hd⟩ := BeginsSave.began hc hb
  generalize (({ s with
      cmd := { s.cmd with started := true }
      ctxs := s.ctxs.modify (s.cmd.byte 8) fun c => { c with stopping := true } } : State).stopHanks (s.ctxHanks (s.cmd.byte 8))) = u at hb hd
  have hw : u.saveEnv k (u.env k) = .error .full := by
    rw [hd.env_eq he, State.saveEnv, State.writeImage_ctx_congr hen, State.writeImage_of_noRoom hd.ctx ((hd.saveRoom_eq 128).trans (Ctx.saveRoom_of_small hsmall))]
    rfl
  obtain ⟨m, ex, x, cs, ps, ws, hfail, -⟩ := u.saveFail_only (s.cmd.byte 8) (k / 2048) .full
  have henvs : (u.saveFail (s.cmd.byte 8) (k / 2048) .full).envs = s.envs := (congrArg State.envs hfail :).trans hd.envs_eq
  have hlost : (u.saveFail (s.cmd.byte 8) (k / 2048) .full).ctxSaved (s.cmd.byte 8) = false := by
    rw [← Bool.not_eq_true, State.ctxSaved_iff, henvs, he]
    rintro ⟨-, -, hall⟩
    exact hall (k, e) (List.mem_singleton_self _) hen hlive
  obtain ⟨hexec, hfaulted⟩ := (BeginsSave.fails hc hb (State.saveStopped_of_error (hd.quiet_of_noHanks hh) (hd.noGhosts hg)
    (hd.ctxPlan_of_env hh ht he hen hlive) hw hlost)).1 rfl
  exact ⟨_, hexec, hd.sameCmd.of_goes (u.saveFail_goes ..), henvs, hfaulted⟩

end

end Sys2Proof.Machine
end

section
/-! PROOFS. A context is destroyed (04 R77): what it owned is gone. -/

namespace Sys2Proof.Machine
open Sys2Proof.Claims

/-! ## Its hanks -/

theorem State.hanks_dropHank (s : State) (h : Nat) (k : Nat) : (s.dropHank h).hanks.get? k = if h = k then none else s.hanks.get? k := by
  cases hh : s.hanks.get? h with
  | none =>
    have hsame : s.dropHank h = s := by
      unfold State.dropHank
      rw [hh]
    rw [hsame]
    split
    · rename_i hk
      exact hk ▸ hh
    · rfl
  | some hank =>
    obtain ⟨m, f, e, v, hd⟩ := State.dropHank_eq hh
    rw [hd]
    exact AMap.get?_erase s.hanks h k

theorem State.hanks_dropHanks (l : List Nat) (s : State) (k : Nat) :
    (l.foldl State.dropHank s).hanks.get? k = if k ∈ l then none else s.hanks.get? k := by
  induction l generalizing s with
  | nil => exact (if_neg List.not_mem_nil).symm
  | cons h l ih =>
    rw [List.foldl_cons, ih, State.hanks_dropHank]
    by_cases hk : h = k
    · rw [if_pos hk, ite_self, if_pos (hk ▸ List.mem_cons_self ..)]
    · rw [if_neg hk]
      simp only [List.mem_cons, Ne.symm hk, false_or]

/-- No hank of the context is left where its hanks leave. -/
theorem State.ctx_dropCtxHanks {s t : State} {n h : Nat} {x : Hank} (ht : t.hanks = s.hanks)
    (hx : ((s.ctxHanks n).foldl State.dropHank t).hanks.get? h = some x) : x.ctx ≠ n := by
  rw [State.hanks_dropHanks, ht] at hx
  split at hx
  · cases hx
  · rename_i hh
    rintro rfl
    exact hh (List.mem_map.2 ⟨(h, x), List.mem_filter.2 ⟨AMap.mem_of_get? hx, by simp⟩, rfl⟩)

/-! ## What goes on under the removal -/

/-- The command block, the interrupts, the contexts and the hanks are as before. -/
structure KeepsHanks (s t : State) : Prop extends KeepsCtxs s t where
  hanks : t.hanks = s.hanks

theorem State.dropSwapped_keepsHanks (s : State) (v : SavedHank) : KeepsHanks s (s.dropSwapped v) := by
  obtain ⟨m, f, e, ev, hb⟩ := s.freeBanks_eq v.hank.banks
  unfold State.dropSwapped
  rw [hb]
  exact ⟨⟨rfl, rfl, rfl⟩, rfl⟩

theorem State.dropSwappeds_keepsHanks (s : State) (l : List SavedHank) : KeepsHanks s (l.foldl State.dropSwapped s) := by
  refine foldl_keeps (P := KeepsHanks s) _ (fun t v h => ?_) l ⟨.refl s, rfl⟩
  have hv := t.dropSwapped_keepsHanks v
  exact ⟨h.toKeepsCtxs.trans hv.toKeepsCtxs, hv.hanks.trans h.hanks⟩

theorem State.returnCopies_eq (s : State) (n : Nat) : ∃ ce, s.returnCopies n =
    { s with copyEngines := ce, ctxs := s.ctxs.modify n fun c => { c with copies := [] } } := by
  unfold State.returnCopies
  refine foldl_keeps (P := fun t : State => ∃ ce, t =
    { s with copyEngines := ce, ctxs := s.ctxs.modify n fun c => { c with copies := [] } }) _ (fun t q h => ?_) _ ⟨s.copyEngines, rfl⟩
  obtain ⟨ce, rfl⟩ := h
  exact ⟨_, rfl⟩

/-! ## The command -/

/-- What a context has besides what is cleared of it: its writes are performed, its hanks leave, and its copy commands go. -/
def State.emptied (s : State) (n : Nat) : State :=
  let t := s.widen (fun w => w.ctx == n) allObservers
  let mine := fun (b : Nat) => ((t.braids.get? b).map Braid.hank).any (t.ctxHanks n).contains
  let t' := (t.ctxHanks n).foldl State.dropHank { t with quarters := t.quarters.mapVals fun _ q => q.without mine }
  let t'' := (t'.saved.filter fun v => v.hank.ctx == n && v.swap).foldl State.dropSwapped t'
  (t''.returnCopies n).dropCopies n

/-- What the destruction leaves, as far as the claims speak of it. -/
structure Destroyed (n : Nat) (u t : State) : Prop where
  cmd : t.cmd = u.cmd
  msix : t.msix = u.msix
  ctxs : t.ctxs = u.ctxs.erase n
  hanks : t.hanks = u.hanks
  queues : t.queues = u.queues.filter fun p => p.2.ctx != n
  launches : t.launches = u.launches.filter fun p => p.2.ctx != n
  strands : t.strands = u.strands.filter fun p => p.2.ctx != n
  knots : t.knots = u.knots.mapVals fun _ k => if k.live ∧ k.ctx = n then .free k.serial else k
  tiles : t.tiles = u.tiles.filter fun p => p.2.ctx != n
  envs : t.envs = u.envs.mapVals fun _ e => if e.ctx = n ∧ e.st ≠ .free then .free0 e.check else e
  pins : t.pins = u.pins.filter fun p => p.ctx != n
  saved : t.saved = u.saved.filter fun v => v.hank.ctx != n
  symBlocks : t.symBlocks = u.symBlocks.filter fun p => p.1 % 256 != n

/-- What is cleared of a context: its queues `gone`, its live knots `ks` and its saved hanks `out` leave all lists. -/
def State.cleared (s : State) (n : Nat) (gone ks out : List Nat) : State :=
  let quieter := fun (g : Governor) => { g with starts := g.starts.filter fun (b : Start) => !ks.contains b.block.knot }
  { s with
    strands := s.strands.filter fun p => p.2.ctx != n
    saved := s.saved.filter fun v => v.hank.ctx != n
    swapIn := s.swapIn.mapVals fun _ l => l.filter fun u => !out.contains u
    queues := s.queues.filter fun p => p.2.ctx != n
    mapLists := s.mapLists.mapVals fun _ l => l.filter fun q => !gone.contains q
    launches := s.launches.filter fun p => p.2.ctx != n
    envs := s.envs.mapVals fun _ e => if e.ctx = n ∧ e.st ≠ .free then .free0 e.check else e
    knots := s.knots.mapVals fun _ k => if k.live ∧ k.ctx = n then .free k.serial else k
    tiles := s.tiles.filter fun p => p.2.ctx != n
    pins := s.pins.filter fun p => p.ctx != n
    symBlocks := s.symBlocks.filter fun p => p.1 % 256 != n
    governors := s.governors.mapVals fun _ g => quieter g
    replays := s.replays.filter fun p => p.1 != n
    linkWaits := s.linkWaits.filter fun w => w.ctx != n
    ports := s.ports.mapVals fun _ p => { p with buffer := p.buffer.map fun f => if f.ctx = n then { f with ctx := noCtx } else f }
    ctxs := s.ctxs.erase n }

theorem State.destroyCtx_eq (s : State) (n : Nat) : ∃ gone ks out, s.destroyCtx n = (s.emptied n).cleared n gone ks out :=
  ⟨_, _, _, rfl⟩

theorem State.cleared_destroyed (s : State) (n : Nat) (gone ks out : List Nat) : Destroyed n s (s.cleared n gone ks out) :=
  ⟨rfl, rfl, rfl, rfl, rfl, rfl, rfl, rfl, rfl, rfl, rfl, rfl, rfl⟩

theorem State.destroyCtx_destroyed (s : State) (n : Nat) : Destroyed n (s.emptied n) (s.destroyCtx n) := by
  obtain ⟨gone, ks, out, h⟩ := s.destroyCtx_eq n
  rw [h]
  exact State.cleared_destroyed ..

/-- The contexts but this one, the command block and the interrupts are as before, and no hank of this one is left. -/
theorem State.emptied_eq (s : State) (n : Nat) : (s.emptied n).cmd = s.cmd ∧ (s.emptied n).msix = s.msix ∧
    (s.emptied n).ctxs = s.ctxs.modify n (fun c => { c with copies := [] }) ∧
    ∀ h x, (s.emptied n).hanks.get? h = some x → x.ctx ≠ n := by
  have hwiden := (s.widen_only (fun w => w.ctx == n) allObservers).keepsCtxs
  unfold State.emptied
  dsimp only
  generalize s.widen (fun w => w.ctx == n) allObservers = t at hwiden
  generalize hquarters : ({ t with quarters := _ } : State) = q
  have hq : KeepsHanks t q := by
    rw [← hquarters]
    exact ⟨⟨rfl, rfl, rfl⟩, rfl⟩
  have hdrop := KeepsCtxs.foldl (f := State.dropHank) State.dropHank_keepsCtxs (t.ctxHanks n) q
  have hleft : ∀ h x, ((t.ctxHanks n).foldl State.dropHank q).hanks.get? h = some x → x.ctx ≠ n := fun h x hx =>
    State.ctx_dropCtxHanks hq.hanks hx
  generalize (t.ctxHanks n).foldl State.dropHank q = u at hdrop hleft
  have hswapped := u.dropSwappeds_keepsHanks (u.saved.filter fun v => v.hank.ctx == n && v.swap)
  generalize (u.saved.filter fun v => v.hank.ctx == n && v.swap).foldl State.dropSwapped u = v at hswapped
  obtain ⟨ce, hr⟩ := v.returnCopies_eq n
  obtain ⟨st, ce', hd, -⟩ := (v.returnCopies n).dropCopies_eq n
  have hall := ((hwiden.trans hq.toKeepsCtxs).trans hdrop).trans hswapped.toKeepsCtxs
  rw [hd, hr]
  refine ⟨hall.cmd, hall.msix, by rw [← hall.ctxs], fun h x hx => hleft h x (by rw [← hswapped.hanks]; exact hx)⟩

theorem ne_of_mem_filter {α : Type} {l : List α} {f : α → Nat} {n : Nat} : ∀ x ∈ l.filter (fun x => f x != n), f x ≠ n :=
  fun x hx => by simpa using (List.mem_filter.1 hx).2

/-- destroy completes, and nothing of the context is left. -/
theorem exec_destroy_eq {s : State} {c : Ctx} (hc : s.ctxs.get? (s.cmd.byte 8) = some c) (hcmd : Commanded s 6 [8]) :
    exec .destroy s = .next (completed (s.destroyCtx (s.cmd.byte 8)) 0 0) := by
  rw [exec_destroy, execDestroy, State.ctxCommand_of_some hcmd hc, State.finishCmd_eq]

section
variable {n : Nat} {u t : State} (h : Destroyed n u t)
include h

theorem Destroyed.ctx_gone : t.ctxs.get? n = none := by
  rw [h.ctxs, AMap.get?_erase, if_pos rfl]

theorem Destroyed.other_ctxs {m : Nat} (hm : m ≠ n) : t.ctxs.get? m = u.ctxs.get? m := by
  rw [h.ctxs, AMap.get?_erase, if_neg (Ne.symm hm)]

theorem Destroyed.no_others : (∀ q ∈ t.queues, q.2.ctx ≠ n) ∧ (∀ l ∈ t.launches, l.2.ctx ≠ n) ∧ (∀ p ∈ t.strands, p.2.ctx ≠ n) ∧
    (∀ e ∈ t.tiles, e.2.ctx ≠ n) ∧ (∀ p ∈ t.pins, p.ctx ≠ n) ∧ (∀ v ∈ t.saved, v.hank.ctx ≠ n) ∧ ∀ b ∈ t.symBlocks, b.1 % 256 ≠ n := by
  rw [h.queues, h.launches, h.strands, h.tiles, h.pins, h.saved, h.symBlocks]
  exact ⟨ne_of_mem_filter, ne_of_mem_filter, ne_of_mem_filter, ne_of_mem_filter, ne_of_mem_filter, ne_of_mem_filter, ne_of_mem_filter⟩

theorem Destroyed.no_knots : ∀ k ∈ t.knots, k.2.live = true → k.2.ctx ≠ n := by
  rw [h.knots]
  intro k hk hlive hn
  obtain ⟨y, -, rfl⟩ := List.mem_map.1 hk
  dsimp only at hlive hn
  split at hlive
  · cases hlive
  · rename_i hnot
    rw [if_neg hnot] at hn
    exact hnot ⟨hlive, hn⟩

theorem Destroyed.no_envs : ∀ e ∈ t.envs, e.2.ctx = n → e.2.st = .free := by
  rw [h.envs]
  intro e he hn
  obtain ⟨y, -, rfl⟩ := List.mem_map.1 he
  dsimp only at hn ⊢
  split
  · rfl
  · rename_i hnot
    rw [if_neg hnot] at hn
    by_contra hfree
    exact hnot ⟨hn, hfree⟩

end

theorem State.destroyCtx_sameCmd (s : State) (n : Nat) : SameCmd s (s.destroyCtx n) := by
  obtain ⟨hcmd, hmsix, -⟩ := s.emptied_eq n
  have hgone := s.destroyCtx_destroyed n
  exact ⟨by rw [hgone.cmd, hcmd], hgone.msix.trans hmsix⟩

/-- All that a context had is gone with it. -/
theorem State.destroyCtx_leaves (s : State) (n : Nat) : let t := s.destroyCtx n
    t.ctxs.get? n = none ∧ (∀ m, m ≠ n → t.ctxs.get? m = s.ctxs.get? m) ∧ (∀ q ∈ t.queues, q.2.ctx ≠ n) ∧
    (∀ l ∈ t.launches, l.2.ctx ≠ n) ∧ (∀ p ∈ t.strands, p.2.ctx ≠ n) ∧ (∀ h x, t.hanks.get? h = some x → x.ctx ≠ n) ∧
    (∀ k ∈ t.knots, k.2.live = true → k.2.ctx ≠ n) ∧ (∀ e ∈ t.tiles, e.2.ctx ≠ n) ∧ (∀ e ∈ t.envs, e.2.ctx = n → e.2.st = .free) ∧
    (∀ p ∈ t.pins, p.ctx ≠ n) ∧ (∀ v ∈ t.saved, v.hank.ctx ≠ n) ∧ ∀ b ∈ t.symBlocks, b.1 % 256 ≠ n := by
  obtain ⟨-, -, hctxs, hhanks⟩ := s.emptied_eq n
  have hgone := s.destroyCtx_destroyed n
  obtain ⟨hqueues, hlaunches, hstrands, htiles, hpins, hsaved, hsym⟩ := hgone.no_others
  refine ⟨hgone.ctx_gone, fun m hm => ?_, hqueues, hlaunches, hstrands, fun h x hx => hhanks h x (hgone.hanks ▸ hx), hgone.no_knots, htiles,
    hgone.no_envs, hpins, hsaved, hsym⟩
  rw [hgone.other_ctxs hm, hctxs, AMap.get?_modify_ne _ _ (Ne.symm hm)]

end Sys2Proof.Machine
end

section
/-! PROOFS. A context is resumed (04 R77, R81; 14 R276; 17 R311): its queues, environments, copy commands and tiles return. -/

namespace Sys2Proof.Machine
open Sys2Proof.Claims

/-! ## Its queues -/

theorem State.returnQueue_eq (s : State) (q : Nat) : ∃ qs ml, s.returnQueue q = { s with queues := qs, mapLists := ml } := by
  unfold State.returnQueue
  split
  · exact ⟨s.queues, s.mapLists, rfl⟩
  · split
    · exact ⟨s.queues, s.mapLists, rfl⟩
    · dsimp only
      split
      · exact ⟨_, s.mapLists, rfl⟩
      · split
        · exact ⟨_, s.mapLists, rfl⟩
        · unfold State.askThread
          dsimp only
          split
          · exact ⟨_, s.mapLists, rfl⟩
          · exact ⟨_, _, rfl⟩

theorem State.returnQueues_eq (s : State) (l : List Nat) : ∃ qs ml, l.foldl State.returnQueue s = { s with queues := qs, mapLists := ml } := by
  refine foldl_keeps (P := fun t : State => ∃ qs ml, t = { s with queues := qs, mapLists := ml }) _ (fun t q h => ?_) l
    ⟨s.queues, s.mapLists, rfl⟩
  obtain ⟨qs, ml, rfl⟩ := h
  obtain ⟨qs', ml', h'⟩ := ({ s with queues := qs, mapLists := ml } : State).returnQueue_eq q
  exact ⟨qs', ml', h'⟩

theorem State.threadFree_of_running {s : State} {x : Queue} {c : Ctx} (hthreads : s.threads x.die < 32)
    (hfeat : bits s.featAgreed.toNat 15 8 = 1) (hc : s.ctxs.get? x.ctx = some c) (hact : c.st = .active) (hstop : c.stopping = false)
    (hfw : c.firmware = false) (hengines : s.engines = true) : s.threadFree x = true := by
  have hbyte : s.featAgreed.toNat / 256 % 256 = 1 := hfeat
  have hrun : s.ctxRuns x.ctx = true := by simp [State.ctxRuns, hc, hact, hstop]
  have hnofw : (s.ctxs.get? x.ctx).any Ctx.firmware = false := by simp [hc, hfw]
  unfold State.threadFree
  rw [decide_eq_true hthreads, hbyte, hrun, hnofw, hengines]
  rfl

/-- The only queue returns to the state that it left: its thread is free. -/
theorem State.returnQueue_of_only {s : State} {q : Nat} {x : Queue} {c : Ctx} (hq : s.queues = [(q, x)]) (hs : x.susp = true)
    (hp : x.st = .preempted) (hb : x.before ≠ .preempted) (hc : s.ctxs.get? x.ctx = some c) (hact : c.st = .active)
    (hstop : c.stopping = false) (hfw : c.firmware = false) (hengines : s.engines = true) (hfeat : bits s.featAgreed.toNat 15 8 = 1) :
    (s.returnQueue q).queues = [(q, { x with st := x.before, thread := true, slice := 0, susp := false })] := by
  have hget : s.queues.get? q = some x := by rw [hq]; simp [AMap.get?]
  have hmod : s.modQueue q (fun y => { y with susp := false }) = { s with queues := [(q, { x with susp := false })] } := by
    unfold State.modQueue
    rw [hq]
    simp [AMap.modify]
  have hthreads : ({ s with queues := [(q, { x with susp := false })] } : State).threads x.die < 32 :=
    Nat.lt_of_le_of_lt (List.length_filter_le ..) (by simp)
  have hfree : ({ s with queues := [(q, { x with susp := false })] } : State).threadFree x = true :=
    State.threadFree_of_running hthreads hfeat hc hact hstop hfw hengines
  unfold State.returnQueue
  rw [hget]
  dsimp only
  rw [hs, hmod, if_neg (by simp), if_neg (by simp [hp, hb]), if_pos hfree]
  unfold State.modQueue
  simp [AMap.modify]

/-! ## Resumed, but for its tiles -/

/-- A context that resumes, once its environments and copy commands are back. -/
def Ctx.resumed (c : Ctx) : Ctx :=
  { c with st := .active, stopping := false, images := c.images.filter fun i => match i.owner with | .env _ => false | _ => true, copies := [] }

/-- The context is active again, and its environments, copy commands and queues have returned. -/
def State.resumed (s : State) (n : Nat) : State :=
  ((s.queues.filter fun p => p.2.ctx == n).map Prod.fst).foldl State.returnQueue
    (((s.modCtx n fun c => { c with st := .active, stopping := false }).returnEnvs n).returnCopies n)

/-- What a resumed context's state keeps. -/
structure Resumed (s t : State) (n : Nat) (c : Ctx) : Prop where
  frame : t = { s with ctxs := t.ctxs, envs := t.envs, copyEngines := t.copyEngines, queues := t.queues, mapLists := t.mapLists }
  ctx : t.ctxs.get? n = some c.resumed
  envs : t.envs = s.envs.mapVals fun _ e => if e.ctx = n ∧ e.st = .held then { e with st := .live } else e
  tables : SameTables s t

theorem Resumed.sameCmd {s t : State} {n : Nat} {c : Ctx} (h : Resumed s t n c) : SameCmd s t :=
  ⟨by rw [h.frame], by rw [h.frame]⟩

theorem Resumed.get?_envs {s t : State} {n k : Nat} {c : Ctx} {e : Env} (h : Resumed s t n c) (he : s.envs.get? k = some e) :
    t.envs.get? k = some (if e.ctx = n ∧ e.st = .held then { e with st := .live } else e) := by
  rw [h.envs, AMap.get?_mapVals, he]
  rfl

theorem State.returned_resumed {s : State} {n : Nat} {c : Ctx} (hc : s.ctxs.get? n = some c) :
    Resumed s (((s.modCtx n fun c => { c with st := .active, stopping := false }).returnEnvs n).returnCopies n) n c := by
  obtain ⟨ce, hce⟩ := ((s.modCtx n fun c => { c with st := .active, stopping := false }).returnEnvs n).returnCopies_eq n
  rw [hce]
  refine ⟨rfl, ?_, rfl, ?_⟩
  · exact AMap.get?_modify_self (AMap.get?_modify_self (AMap.get?_modify_self hc fun c =>
      { c with st := .active, stopping := false }) fun c => { c with
        images := c.images.filter fun i => match i.owner with | .env _ => false | _ => true }) fun c => { c with copies := [] }
  · have h1 := s.modCtx_sameTables n (f := fun c => { c with st := .active, stopping := false }) (fun _ => rfl) fun _ => rfl
    have h2 := (s.modCtx n fun c => { c with st := .active, stopping := false }).modCtx_sameTables n (f := fun c => { c with
      images := c.images.filter fun i => match i.owner with | .env _ => false | _ => true }) (fun _ => rfl) fun _ => rfl
    have h3 := ((s.modCtx n fun c => { c with st := .active, stopping := false }).modCtx n fun c => { c with
      images := c.images.filter fun i => match i.owner with | .env _ => false | _ => true }).modCtx_sameTables n
        (f := fun c => { c with copies := [] }) (fun _ => rfl) fun _ => rfl
    exact { (h1.trans h2).trans h3 with }

theorem State.resumed_resumed {s : State} {n : Nat} {c : Ctx} (hc : s.ctxs.get? n = some c) : Resumed s (s.resumed n) n c := by
  obtain ⟨hframe, hctx, henvs, ht⟩ := State.returned_resumed hc
  unfold State.resumed
  generalize ((s.modCtx n fun c => { c with st := .active, stopping := false }).returnEnvs n).returnCopies n = u at *
  obtain ⟨qs, ml, hq⟩ := u.returnQueues_eq ((s.queues.filter fun p => p.2.ctx == n).map Prod.fst)
  rw [hq]
  refine ⟨by rw [hframe], hctx, henvs, ?_⟩
  exact { ht with }

/-- A suspended queue, the only one of its package, runs again. -/
theorem State.queues_resumed {s : State} {q n : Nat} {x : Queue} {c : Ctx} (hc : s.ctxs.get? n = some c) (hq : s.queues = [(q, x)])
    (hn : x.ctx = n) (hs : x.susp = true) (hp : x.st = .preempted) (hb : x.before ≠ .preempted) (hfw : c.firmware = false)
    (hengines : s.engines = true) (hfeat : bits s.featAgreed.toNat 15 8 = 1) :
    (s.resumed n).queues = [(q, { x with st := x.before, thread := true, slice := 0, susp := false })] := by
  obtain ⟨hframe, hctx, -, -⟩ := State.returned_resumed hc
  have hlist : (s.queues.filter fun p => p.2.ctx == n).map Prod.fst = [q] := by
    rw [hq]
    simp [hn]
  have hu : (((s.modCtx n fun c => { c with st := .active, stopping := false }).returnEnvs n).returnCopies n).queues = [(q, x)] := by
    obtain ⟨ce, hce⟩ := ((s.modCtx n fun c => { c with st := .active, stopping := false }).returnEnvs n).returnCopies_eq n
    rw [hce]
    exact hq
  unfold State.resumed
  rw [hlist]
  generalize ((s.modCtx n fun c => { c with st := .active, stopping := false }).returnEnvs n).returnCopies n = u at *
  subst hn
  exact State.returnQueue_of_only hu hs hp hb hctx rfl rfl hfw ((congrArg State.engines hframe :).trans hengines)
    ((congrArg (fun t : State => bits t.featAgreed.toNat 15 8) hframe :).trans hfeat)

/-! ## Its tiles -/

theorem filter_and_of_one {α : Type} {l : List α} {p q : α → Bool} {x : α} (h : l.filter p = [x]) (hx : q x = true) :
    l.filter (fun y => p y && q y) = [x] := by
  rw [List.filter_congr fun y _ => Bool.and_comm (p y) (q y), ← List.filter_filter, h, List.filter_cons_of_pos hx, List.filter_nil]

theorem State.thawOrphans_of_noTiles {s : State} {n : Nat} (h : ∀ t ∈ s.tiles, t.2.ctx ≠ n) : s.thawOrphans n = s := by
  unfold State.thawOrphans
  dsimp only
  rw [List.filter_eq_nil_iff.2 fun t ht => by simp [h t ht]]
  rfl

/-- The frozen tile of a knot that no saved hank has, with nothing queued, goes on with the OVF of its image. -/
theorem State.thawOrphans_of_one {s : State} {n e v : Nat} {tl : Tile} {c : Ctx} {j : SaveImage}
    (hone : (s.tiles.filter fun p => p.2.ctx == n && p.2.frozen) = [(e, tl)])
    (hsaved : ∀ x ∈ s.saved, x.swap = true ∨ x.hank.nb.getD x.uid ≠ (s.knot (e / 8 * 64 + tl.entry)).place)
    (hqueue : (s.knot (e / 8 * 64 + tl.entry)).queue = []) (hc : s.ctxs.get? n = some c)
    (hj : c.images.find? (fun i => i.owner == .tile e) = some j)
    (hv : s.devRead (e / 8) n ((c.saveBase.toNat + j.off) % 2 ^ 64) 16 = .ok v) :
    ∃ k, s.thawOrphans n = ((s.setTile e { tl with frozen := false, ovf := v.testBit 37 }).dropImage n (.tile e)).setKnot
      (e / 8 * 64 + tl.entry) k := by
  have hmem : (e, tl) ∈ s.tiles.filter fun p => p.2.ctx == n && p.2.frozen := by rw [hone]; exact List.mem_singleton_self _
  have hn : tl.ctx = n := by
    have := (List.mem_filter.1 hmem).2
    simp only [Bool.and_eq_true, beq_iff_eq] at this
    exact this.1
  subst hn
  have hall : (s.saved.all fun v => v.swap || v.hank.nb.getD v.uid != (s.knot (e / 8 * 64 + tl.entry)).place) = true :=
    List.all_eq_true.2 fun x hx => by
      rcases hsaved x hx with h | h
      · simp [h]
      · simp [h]
  have horphans : (s.tiles.filter fun p => p.2.ctx == tl.ctx && p.2.frozen &&
      s.saved.all fun v => v.swap || v.hank.nb.getD v.uid != (s.knot (p.1 / 8 * 64 + p.2.entry)).place) = [(e, tl)] :=
    filter_and_of_one hone hall
  have hthaw : s.thawOrphans tl.ctx = s.thawTile e tl := by
    unfold State.thawOrphans
    dsimp only
    rw [horphans]
    rfl
  have hknot : (((s.setTile e { tl with frozen := false, ovf := v.testBit 37 }).dropImage tl.ctx (.tile e)).knot
      (e / 8 * 64 + tl.entry)).queue = [] := hqueue
  refine ⟨{ s.knot (e / 8 * 64 + tl.entry) with queue := [] }, ?_⟩
  rw [hthaw, State.thawTile, hc]
  dsimp only [Option.getD_some]
  rw [hj]
  dsimp only
  rw [hv]
  dsimp only
  rw [hknot]
  rfl

/-- The image of a tile stays where the records of environments go. -/
theorem Ctx.find?_resumed (c : Ctx) (e : Nat) :
    c.resumed.images.find? (fun i => i.owner == .tile e) = c.images.find? fun i => i.owner == .tile e := by
  unfold Ctx.resumed
  rw [List.find?_filter]
  refine congrArg (fun p => c.images.find? p) (funext fun i => ?_)
  have htrue : ∀ b : Bool, decide (true = true ∧ b = true) = b := by decide
  cases i.owner with
  | hank u => rfl
  | tile e' => exact htrue _
  | env key => rfl

theorem Ctx.resumed_noEnv (c : Ctx) : ∀ i ∈ c.resumed.images, ∀ k, i.owner ≠ .env k := by
  intro i hi k hk
  have := (List.mem_filter.1 hi).2
  rw [hk] at this
  cases this

section
variable {s : State} {n : Nat} {c : Ctx} (hc : s.ctxs.get? n = some c)
include hc

/-- A resumed context of which no tile waits is as its environments, copy commands and queues make it. -/
theorem State.thaw_resumed_of_noTiles (h : ∀ t ∈ s.tiles, t.2.ctx ≠ n) : (s.resumed n).thawOrphans n = s.resumed n :=
  State.thawOrphans_of_noTiles ((congrArg State.tiles (State.resumed_resumed hc).frame :) ▸ h)

theorem State.thaw_resumed_of_one {e v : Nat} {tl : Tile} {j : SaveImage}
    (hone : (s.tiles.filter fun p => p.2.ctx == n && p.2.frozen) = [(e, tl)])
    (hsaved : ∀ x ∈ s.saved, x.swap = true ∨ x.hank.nb.getD x.uid ≠ (s.knot (e / 8 * 64 + tl.entry)).place)
    (hqueue : (s.knot (e / 8 * 64 + tl.entry)).queue = []) (hj : c.images.find? (fun i => i.owner == .tile e) = some j)
    (hv : s.devRead (e / 8) n ((c.saveBase.toNat + j.off) % 2 ^ 64) 16 = .ok v) :
    ∃ k, (s.resumed n).thawOrphans n = (((s.resumed n).setTile e { tl with frozen := false, ovf := v.testBit 37 }).dropImage n
      (.tile e)).setKnot (e / 8 * 64 + tl.entry) k := by
  have hr := State.resumed_resumed hc
  have hknots : (s.resumed n).knots = s.knots := (congrArg State.knots hr.frame :)
  have hknot : (s.resumed n).knot (e / 8 * 64 + tl.entry) = s.knot (e / 8 * 64 + tl.entry) := by rw [State.knot, State.knot, hknots]
  have htiles : (s.resumed n).tiles = s.tiles := (congrArg State.tiles hr.frame :)
  have hlist : (s.resumed n).saved = s.saved := (congrArg State.saved hr.frame :)
  exact State.thawOrphans_of_one (htiles ▸ hone) (by rw [hlist, hknot]; exact hsaved) (by rw [hknot]; exact hqueue) hr.ctx
    ((c.find?_resumed e).trans hj) ((hr.tables.devRead_eq ..).trans hv)

end

end Sys2Proof.Machine
end

section
/-! PROOFS. resume and recover, by what they find (04 R77, R85; 19 R352): where they wait, are refused, and go on. -/

namespace Sys2Proof.Machine
open Sys2Proof.Claims

section
variable {s : State} {c : Ctx} (hc : s.ctxs.get? (s.cmd.byte 8) = some c) (hcmd : Commanded s 4 [8])
  (hmode : s.modeRefuses c.firmware = false)
include hc hcmd hmode

theorem exec_resume_of_others (hst : c.st ≠ .suspended) : exec .resume s = .next (completed s 4 0) := by
  rw [exec_resume, execResume, State.ctxCommand_of_some hcmd hc, hmode, if_neg Bool.false_ne_true, if_pos hst, State.finishCmd_eq]

variable (hst : c.st = .suspended)
include hst

theorem exec_resume_of_link {g : Nat} (hlink : s.imagesLink (s.cmd.byte 8) c = some g) :
    exec .resume s = .next (s.awaitLink (.engine 0) (s.cmd.byte 8) 0 g) := by
  rw [exec_resume, execResume, State.ctxCommand_of_some hcmd hc, hmode, if_neg Bool.false_ne_true, if_neg (not_not.2 hst), hlink]

variable (hlink : s.imagesLink (s.cmd.byte 8) c = none)
include hlink

theorem exec_resume_of_good (hgood : ∀ i ∈ c.images, s.imageBad (s.cmd.byte 8) c i = false) (hwait : ∀ p ∈ s.replays, p.1 ≠ s.cmd.byte 8)
    {t : State} (ht : (s.resumed (s.cmd.byte 8)).thawOrphans (s.cmd.byte 8) = t) (hreplays : t.replays = s.replays) :
    exec .resume s = .next (completed t 0 0) := by
  have hcore : s.failingCore (s.cmd.byte 8) c = none := by
    unfold State.failingCore
    rw [List.filter_eq_nil_iff.2 fun i hi => by simp [hgood i hi]]
    rfl
  rw [exec_resume, execResume, State.ctxCommand_of_some hcmd hc, hmode, if_neg Bool.false_ne_true, if_neg (not_not.2 hst), hlink]
  dsimp only
  rw [hcore]
  dsimp only
  show Host.Outcome.next ((((s.resumed (s.cmd.byte 8)).thawOrphans (s.cmd.byte 8)).serveWaiting (s.cmd.byte 8)).finishCmd 0 0) = _
  rw [ht, State.serveWaiting_of_none (hreplays ▸ hwait), State.finishCmd_eq]

/-- An image that fails its checks faults the context with code 7, and nothing is restored. -/
theorem exec_resume_of_bad (hbad : ∃ i ∈ c.images, s.imageBad (s.cmd.byte 8) c i = true) : ∃ core, exec .resume s = .next
    (completed ((s.modCtx (s.cmd.byte 8) fun c => { c with st := .active, stopping := false }).ctxFault (s.cmd.byte 8) 7 (dieOf core) 0 0)
      0 7) := by
  obtain ⟨i, hi, hb⟩ := hbad
  have hcore : ∃ core, s.failingCore (s.cmd.byte 8) c = some core := by
    rw [← Option.isSome_iff_exists, State.failingCore, List.isSome_min?_iff]
    exact List.ne_nil_of_mem (List.mem_map_of_mem (List.mem_filter.2 ⟨hi, hb⟩))
  obtain ⟨core, hcore⟩ := hcore
  refine ⟨core, ?_⟩
  rw [exec_resume, execResume, State.ctxCommand_of_some hcmd hc, hmode, if_neg Bool.false_ne_true, if_neg (not_not.2 hst), hlink]
  dsimp only
  rw [hcore]
  dsimp only
  rw [State.finishCmd_eq]

theorem exec_resume_faults (hbad : ∃ i ∈ c.images, s.imageBad (s.cmd.byte 8) c i = true) : Completes .resume s fun t =>
    (t.cmd = (completed s 0 7).cmd ∧ t.msix = (completed s 0 7).msix) ∧
    (∃ d, t.ctxs.get? (s.cmd.byte 8) = some d ∧ d.st = .faulted ∧ d.faultCode = 7) ∧
    t.saved = s.saved ∧ t.envs = s.envs ∧ t.queues = s.queues ∧ t.tiles = s.tiles := by
  obtain ⟨core, hexec⟩ := exec_resume_of_bad hc hcmd hmode hst hlink hbad
  have hctx := State.get?_modCtx_self hc fun c => { c with st := .active, stopping := false }
  have hsame : SameCmd s (s.modCtx (s.cmd.byte 8) fun c => { c with st := .active, stopping := false }) := ⟨rfl, rfl⟩
  have hgoes := (s.modCtx (s.cmd.byte 8) fun c => { c with st := .active, stopping := false }).ctxFault_goes (s.cmd.byte 8) 7 (dieOf core) 0 0
  obtain ⟨d, hd, hdst, hcode, -⟩ := State.ctxFault_of_active (code := 7) (die := dieOf core) (f := 0) (r := 0) hctx rfl
  obtain ⟨m, ex, x, cs, ps, ws, hfault, -⟩ :=
    (s.modCtx (s.cmd.byte 8) fun c => { c with st := .active, stopping := false }).ctxFault_only (s.cmd.byte 8) 7 (dieOf core) 0 0
  exact ⟨_, hexec, (hsame.of_goes hgoes).told 0 7, ⟨d, hd, hdst, hcode⟩, (congrArg State.saved hfault :), (congrArg State.envs hfault :),
    (congrArg State.queues hfault :), (congrArg State.tiles hfault :)⟩

/-- A frozen tile that no saved hank's knot has goes on at a resume, with the OVF of its image. -/
theorem exec_resume_thaws (hgood : ∀ i ∈ c.images, s.imageBad (s.cmd.byte 8) c i = false) (hwait : ∀ p ∈ s.replays, p.1 ≠ s.cmd.byte 8)
    {e v : Nat} {tl : Tile} {j : SaveImage} (hone : (s.tiles.filter fun p => p.2.ctx == s.cmd.byte 8 && p.2.frozen) = [(e, tl)])
    (hsaved : ∀ x ∈ s.saved, x.swap = true ∨ x.hank.nb.getD x.uid ≠ (s.knot (e / 8 * 64 + tl.entry)).place)
    (hqueue : (s.knot (e / 8 * 64 + tl.entry)).queue = []) (hj : c.images.find? (fun i => i.owner == .tile e) = some j)
    (hv : s.devRead (e / 8) (s.cmd.byte 8) ((c.saveBase.toNat + j.off) % 2 ^ 64) 16 = .ok v) : Completes .resume s fun t =>
    (t.cmd = (completed s 0 0).cmd ∧ t.msix = (completed s 0 0).msix) ∧
    t.tiles.get? e = some { tl with frozen := false, ovf := v.testBit 37 } ∧ t.mem = s.mem ∧
    ∃ d, t.ctxs.get? (s.cmd.byte 8) = some d ∧ d.st = .active ∧ ∀ i ∈ d.images, i.owner ≠ .tile e := by
  have hr := State.resumed_resumed hc
  obtain ⟨k, hthaw⟩ := State.thaw_resumed_of_one hc hone hsaved hqueue hj hv
  have hexec := exec_resume_of_good hc hcmd hmode hst hlink hgood hwait hthaw (congrArg State.replays hr.frame :)
  generalize s.resumed (s.cmd.byte 8) = r at hr hexec
  refine ⟨_, hexec, hr.sameCmd.told 0 0, AMap.get?_set_self .., hr.tables.mem, _,
    AMap.get?_modify_self hr.ctx fun c => { c with images := c.images.filter fun i => i.owner != .tile e }, rfl, fun i hi => ?_⟩
  simpa using (List.mem_filter.1 hi).2

end

section
variable {s : State} {c : Ctx} (hc : s.ctxs.get? (s.cmd.byte 8) = some c) (hcmd : Commanded s 5 [8])
include hc hcmd

theorem exec_recover_of_others (hst : c.st ≠ .faulted) : exec .recover s = .next (completed s 4 0) := by
  rw [exec_recover, execRecover, State.ctxCommand_of_some hcmd hc, if_pos hst, State.finishCmd_eq]

variable (hst : c.st = .faulted)
include hst

theorem exec_recover_of_unrecorded (hrec : c.recorded = false) : exec .recover s = .next (completed s 7 0) := by
  rw [exec_recover, execRecover, State.ctxCommand_of_some hcmd hc, if_neg (not_not.2 hst), hrec, State.finishCmd_eq]
  rfl

variable (hrec : c.recorded = true)
include hrec

theorem exec_recover_of_unread {f : XFault} (hread : s.devRead 0 (s.cmd.byte 8) c.faultAddr.toNat 8 = .error f) :
    exec .recover s = .next (if f.cause = 0 then s.awaitLink (.engine 0) (s.cmd.byte 8) 0 f.page else completed s 7 0) := by
  rw [exec_recover, execRecover, State.ctxCommand_of_some hcmd hc, if_neg (not_not.2 hst), hrec, if_neg (by simp), hread, State.finishCmd_eq]

theorem exec_recover_of_lost {v : Nat} (hread : s.devRead 0 (s.cmd.byte 8) c.faultAddr.toNat 8 = .ok v)
    (h : v.testBit 0 = false ∨ c.faultCode = 8) : exec .recover s = .next (completed s 4 0) := by
  have hlost : c.faultCode = 8 ∨ ¬ v.testBit 0 := h.symm.imp_right fun h => by simp [h]
  rw [exec_recover, execRecover, State.ctxCommand_of_some hcmd hc, if_neg (not_not.2 hst), hrec, if_neg (by simp), hread]
  dsimp only
  rw [if_pos hlost, State.finishCmd_eq]

end

end Sys2Proof.Machine
end

section
/-! PROOFS. The moves of a context between its states (04 R77, R79, R85; 17 R311). -/

namespace Sys2Proof
open Machine Claims

/-- A queue that a suspend pre-empts, as the claim gives it. -/
theorem Machine.Queue.suspended_of (x : Queue) (n : Nat) : (if x.ctx = n then x.suspended else x) =
    if x.ctx = n ∧ (x.st = .mapped ∨ x.st = .running ∨ x.st = .blocked) then
      { x with before := if x.preempting.isSome then .preempted else x.st, st := .preempted, thread := false, preempting := none, susp := true }
    else x := by
  unfold Machine.Queue.suspended
  split <;> split <;> simp_all

theorem contextsMoveBetweenStates : ContextsMoveBetweenStates := by
  unfold ContextsMoveBetweenStates
  intro s c hc n noTiles noHanks bare told parked
  have hbare : bare → s.Bare n := fun ⟨⟨hh, ht, hl, hg⟩, he⟩ => ⟨hh, fun t ht' hn => absurd hn (ht t ht'), he, hl, hg⟩
  refine ⟨fun hcmd hst hb => ?_, fun k e hcmd hst hh he hen hlive hearly => ⟨fun off q hroom hq hlen hr hm => ?_, fun hsmall => ?_⟩,
    fun hcmd hst hstart => exec_suspend_of_inactive hc hcmd hst hstart,
    fun e tl j v hcmd hst hmode hone hsaved hqueue hlink hgood hwait hj hv => ?_,
    fun g hcmd hst hmode hlink => exec_resume_of_link hc hcmd hmode hst hlink,
    fun hcmd hst hmode hno hlink hgood hwait => ?_, fun hcmd hst hmode hlink hbad => ?_,
    fun hcmd hst hmode => exec_resume_of_others hc hcmd hmode hst,
    fun v hcmd hst hrec hread => ⟨fun hbit hcode hb => ?_, fun h => exec_recover_of_lost hc hcmd hst hrec hread h⟩,
    fun hcmd hst hrec => exec_recover_of_unrecorded hc hcmd hst hrec,
    fun f hcmd hst hrec hread => ?_, fun hcmd hst => exec_recover_of_others hc hcmd hst, fun hcmd => ?_⟩
  · -- suspend with nothing live
    obtain ⟨u, d, t, hd, hexec, hsusp⟩ := exec_suspend_of_bare hc hcmd hst (hbare hb)
    obtain ⟨hctx, henvs, hmem⟩ := hsusp.bare hd
    have hqueues : u.queues = s.queues := (congrArg State.queues hd.frame :)
    exact ⟨_, hexec, (hsusp.sameCmd hd.sameCmd).told 0 0, hctx, henvs, hmem, fun q x hx =>
      (hsusp.queues q x (hqueues ▸ hx)).trans (congrArg some (x.suspended_of n))⟩
  · -- suspend with an environment that fits
    obtain ⟨hh, ht, hl, hg⟩ := hh
    obtain ⟨t, hexec, hsame, ⟨d, hd, hdst, himages⟩, henvs, hstores⟩ :=
      exec_suspend_of_env hc hcmd hst hh ht hl hg he hen hlive hearly hroom hq hlen hr hm
    exact ⟨_, hexec, hsame.told 0 0, ⟨d, hd, hdst, by rw [himages, List.map_append]; rfl⟩, henvs, hstores⟩
  · -- suspend with an environment that does not fit
    obtain ⟨hh, ht, -, hg⟩ := hh
    obtain ⟨t, hexec, hsame, henvs, hfaulted⟩ := exec_suspend_of_envNoRoom hc hcmd hst hh ht hg he hen hlive hsmall
    exact ⟨_, hexec, hsame.told 0 0, henvs, hfaulted⟩
  · exact exec_resume_thaws hc hcmd hmode hst hlink hgood hwait hone hsaved hqueue hj hv
  · have hr := State.resumed_resumed hc
    have hexec := exec_resume_of_good hc hcmd hmode hst hlink hgood hwait (State.thaw_resumed_of_noTiles hc hno)
      (congrArg State.replays hr.frame :)
    have hqueues := fun q x hq hn hs hp hb => State.queues_resumed (q := q) (x := x) hc hq hn hs hp hb
    generalize s.resumed n = r at hr hexec hqueues
    exact ⟨_, hexec, hr.sameCmd.told 0 0, ⟨_, hr.ctx, rfl, rfl, c.resumed_noEnv⟩, (congrArg State.saved hr.frame :),
      (congrArg State.swapIn hr.frame :), (congrArg State.hanks hr.frame :), fun k e he => hr.get?_envs he, hr.tables.mem,
      hqueues⟩
  · exact exec_resume_faults hc hcmd hmode hst hlink hbad
  · -- recover with nothing unsaved
    have hbegins : BeginsSave .recover s n c (s.stopHanks (s.ctxHanks n)) := .inr ⟨rfl, hcmd, hst, hrec, hcode, ⟨v, hread, hbit⟩, rfl⟩
    obtain ⟨d, t, hd, hexec, hsusp⟩ := BeginsSave.of_bare hc hbegins (hbare hb)
    obtain ⟨hctx, -, hmem⟩ := hsusp.bare hd
    exact ⟨_, hexec, (hsusp.sameCmd hd.sameCmd).told 0 0, hctx, hmem⟩
  · -- recover whose record cannot be read
    have hexec := exec_recover_of_unread hc hcmd hst hrec hread
    exact ⟨fun h => by rw [hexec, if_neg h], fun h => by rw [hexec, if_pos h]⟩
  · have hexec := exec_destroy_eq hc hcmd
    have hsame := s.destroyCtx_sameCmd n
    have hleaves := s.destroyCtx_leaves n
    generalize s.destroyCtx n = t at hexec hsame hleaves
    exact ⟨_, hexec, hsame.told 0 0, hleaves⟩

end Sys2Proof
end

section
/-! PROOFS. A resident hank is saved at the instruction level (04 R79; 18 R346). -/

namespace Sys2Proof.Machine
open Sys2Proof.Claims

/-! ## A hank leaves its core with all that it held -/

theorem AMap.get?_erases {α : Type} {l : List Nat} {k : Nat} (hk : k ∈ l) (m : AMap α) :
    (l.foldl (fun b k => AMap.erase k b) m).get? k = none := by
  have hgone : ∀ (l : List Nat) (m : AMap α), m.get? k = none → (l.foldl (fun b k => AMap.erase k b) m).get? k = none := fun l m hm => by
    refine foldl_keeps (P := fun m : AMap α => m.get? k = none) _ (fun m j hm => ?_) l hm
    rw [AMap.get?_erase]
    split
    · rfl
    · exact hm
  induction l generalizing m with
  | nil => cases hk
  | cons j l ih =>
    rcases List.mem_cons.1 hk with rfl | hk
    · exact hgone l _ (by rw [AMap.get?_erase, if_pos rfl])
    · exact ih hk _

/-- A hank has been saved: it has left its core, and is listed there. -/
structure HankTaken (s : State) (h : Nat) (hank : Hank) (v : SavedHank) (t : State) : Prop where
  frame : t = { s with
    mem := t.mem, full := t.full, early := t.early, events := t.events, copyEngines := t.copyEngines, banks := t.banks, hanks := t.hanks,
    strands := t.strands, braids := t.braids, barriers := t.barriers, saved := t.saved, swapIn := t.swapIn }
  hanks : t.hanks = s.hanks.erase h
  strands : ∀ y ∈ t.strands, y.2.hank ≠ h
  braids : ∀ y ∈ t.braids, y.2.hank ≠ h
  barriers : ∀ y ∈ t.barriers, y.2.owner ≠ h
  banks : ∀ b ∈ hank.banks, t.bank b = .idle
  listed : h ∈ t.swapIn.getD hank.core []
  saved : v ∈ t.saved

theorem State.unlistBanks_eq (s : State) (l : List Nat) : ∃ bs, l.foldl (fun s b => s.modBank b Bank.unlisted) s = { s with banks := bs } := by
  refine foldl_keeps (P := fun t : State => ∃ bs, t = { s with banks := bs }) _ (fun t b h => ?_) l ⟨s.banks, rfl⟩
  obtain ⟨bs, rfl⟩ := h
  exact ⟨_, rfl⟩

theorem State.takeHank_taken {s : State} {h : Nat} {hank : Hank} (hh : s.hanks.get? h = some hank) :
    ∃ v, SavedFrom s h hank false v ∧ HankTaken s h hank v (s.takeHank h hank false) := by
  obtain ⟨ce, st, ev, v, hl, hv⟩ := s.listHank_eq h hank false
  obtain ⟨bs, hbanks⟩ := (s.withListed ce st ev hank.core v).unlistBanks_eq hank.banks
  obtain ⟨m, f, e, ev', hd⟩ := State.dropHank_eq (s := { s.withListed ce st ev hank.core v with banks := bs }) (h := h) hh
  have htake : s.takeHank h hank false = ({ s.withListed ce st ev hank.core v with banks := bs } : State).dropHank h := by
    unfold State.takeHank
    rw [hl]
    dsimp only
    rw [if_neg Bool.false_ne_true, hbanks]
  refine ⟨v, hv, ?_⟩
  rw [htake, hd]
  refine ⟨rfl, rfl, ?_, ?_, ?_, fun b hb => ?_, ?_, List.mem_append_right _ (List.mem_singleton_self v)⟩
  · exact ne_of_mem_filter
  · exact ne_of_mem_filter
  · exact ne_of_mem_filter
  · show (AMap.get? (hank.banks.foldl (fun b k => AMap.erase k b) bs) b).getD .idle = _
    rw [AMap.get?_erases hb]
    rfl
  · show h ∈ ((s.swapIn.set hank.core (s.swapIn.getD hank.core [] ++ [v.uid])).get? hank.core).getD []
    rw [AMap.get?_set_self, hv.uid_eq]
    simp

/-! ## The save that has begun -/

section
variable {s u : State} {n h : Nat} {hank : Hank} {c d : Ctx} (hd : Began s u n c d) (hone : s.ctxHanks n = [h])
include hd hone

theorem Began.hanks_eq : u.hanks = s.hanks.mapVals fun k x => if [h].contains k then { x with stopping := true } else x :=
  (congrArg State.hanks hd.frame :).trans (by rw [hone]; rfl)

theorem Began.get?_hank (hh : s.hanks.get? h = some hank) : u.hanks.get? h = some { hank with stopping := true } := by
  rw [hd.hanks_eq hone, AMap.get?_mapVals, hh]
  simp

theorem Began.erase_hank : u.hanks.erase h = s.hanks.erase h := by
  rw [hd.hanks_eq hone]
  unfold AMap.erase AMap.mapVals
  rw [List.filter_map]
  refine (List.map_congr_left (g := id) fun p hp => ?_).trans (List.map_id _)
  have hne : p.1 ≠ h := by simpa using (List.mem_filter.1 hp).2
  simp [hne]

/-- Nothing but the hank is to be saved. -/
theorem Began.ctxPlan_of_hank (hh : s.hanks.get? h = some hank) (ht : ∀ p ∈ s.tiles, p.2.ctx = n → p.2.frozen = true)
    (he : ∀ e ∈ s.envs, e.2.ctx = n → e.2.st ≠ .live) :
    u.ctxPlan n = [(hank.core, fun s => if s.retirable h then .ok (s.retire h) else s.trySave h false)] := by
  have htiles : (s.tiles.filter fun p => p.2.ctx == n && !p.2.frozen) = [] :=
    List.filter_eq_nil_iff.2 fun t ht' => by simpa using ht t ht'
  have henvs : (s.envs.filter fun p => p.2.ctx == n && p.2.st == .live) = [] :=
    List.filter_eq_nil_iff.2 fun e he' => by simpa using he e he'
  unfold State.ctxPlan State.savePlan
  rw [hd.ctxHanks_eq, hone, hd.tiles_eq, hd.envs_eq, htiles, henvs]
  rw [List.map_singleton, hd.get?_hank hone hh]
  exact byCore_one _

end

section
variable {s u : State} {n h : Nat} {hank : Hank} {c d : Ctx} (hd : Began s u n c d) (hone : s.ctxHanks n = [h])
  (hh : s.hanks.get? h = some hank) (hn : hank.ctx = n) (hset : ∀ y ∈ s.hankStrands h, y.2.outs = [] ∧ ∀ b, y.2.run ≠ .blocked b)
  (hrun : ∃ y ∈ s.hankStrands h, y.2.run ≠ .exited) (hearly : s.early = [])
include hd hone hh hn hset hrun hearly

/-- Its save is the image, and with the image written the hank leaves. -/
theorem Began.saveHank_eq : (if u.retirable h then .ok (u.retire h) else u.trySave h false) =
    (u.writeImage hank.core n (.hank h) (Config.saveSize s.draws) 0 0).map fun t => t.takeHank h { hank with stopping := true } false := by
  have hstrands : u.hankStrands h = s.hankStrands h := (congrArg (fun t : State => t.hankStrands h) hd.frame :)
  have hretire : u.retirable h = false := by
    unfold State.retirable
    rw [hstrands, List.all_eq_false]
    obtain ⟨y, hy, hrun⟩ := hrun
    exact ⟨y, hy, by simpa using hrun⟩
  have hready : u.readyHank h { hank with stopping := true } false = u :=
    State.readyHank_of_settled (hstrands ▸ hset) _ (.inr (hd.tables.early.trans hearly))
  rw [hretire, if_neg Bool.false_ne_true, State.trySave_eq (hd.get?_hank hone hh), hready, hd.draws_eq,
    State.writeImage_ctx_congr (s := u) (n := ({ hank with stopping := true } : Hank).ctx) hn]

omit hn hrun hearly in
/-- With the image written the hank is saved: its strands, braids, barriers, banks and copies with it. -/
theorem Began.takeHank_saved {w : State} (hw : u.writeImage hank.core n (.hank h) (Config.saveSize s.draws) 0 0 = .ok w) :
    ∃ v, HankTaken w h { hank with stopping := true } v (w.takeHank h { hank with stopping := true } false) ∧
      v.uid = h ∧ v.swap = false ∧ v.hank = { hank with stopping := true } ∧ v.strands = s.hankStrands h ∧
      v.braids = s.braids.filter (fun p => p.2.hank == h) ∧ v.barriers = s.hankBarriers h ∧
      v.banks = hank.banks.map (fun b => (b, (s.bank b).unlisted)) ∧ v.bytes = w.mem.filter (fun x => inBanks hank.banks x.1) ∧
      v.fulls = s.full.filter (inBanks hank.banks) ∧
      ∀ cls x, x ∈ (s.engine hank.core).queue cls → x.hank = h → (cls, x) ∈ v.copies := by
  obtain ⟨m, e, x, p, off, hframe⟩ := State.writeImage_eq hw
  have hwhanks : w.hanks = u.hanks := by rw [hframe]; rfl
  have hsame : w.strands = s.strands ∧ w.braids = s.braids ∧ w.barriers = s.barriers ∧ w.banks = s.banks ∧ w.full = s.full ∧
      w.copyEngines = s.copyEngines := by
    rw [hframe, hd.frame]
    exact ⟨rfl, rfl, rfl, rfl, rfl, rfl⟩
  obtain ⟨hstrands, hbraids, hbarriers, hbanks, hfull, hcopies⟩ := hsame
  have hws : w.hankStrands h = s.hankStrands h := by rw [State.hankStrands, State.hankStrands, hstrands]
  obtain ⟨v, hv, htaken⟩ := State.takeHank_taken (s := w) (h := h) (hank := { hank with stopping := true })
    ((congrArg (fun m : AMap Hank => m.get? h) hwhanks).trans (hd.get?_hank hone hh))
  refine ⟨v, htaken, hv.uid_eq, hv.swap_eq, hv.hank_eq, ?_, ?_, ?_, ?_, hv.bytes_eq, ?_, ?_⟩
  · rw [hv.strands_eq (hws ▸ fun y hy => (hset y hy).2), hws]
  · rw [hv.braids_eq, hbraids]
  · rw [hv.barriers_eq, State.hankBarriers, State.hankBarriers, hbarriers]
  · rw [hv.banks_eq]
    simp only [State.bank, hbanks]
  · rw [hv.fulls_eq, hfull]
  · have hengine : w.engine hank.core = s.engine hank.core := by rw [State.engine, State.engine, hcopies]
    exact fun cls x hx hxh => hv.mem_copies cls x (hengine ▸ hx) hxh

end

end Sys2Proof.Machine
end

section
/-! PROOFS. What a suspend and a recover save of a context (04 R77, R79, R84; 14 R276, R277; 18 R346): a hank, or a tile. -/

namespace Sys2Proof.Machine
open Sys2Proof.Claims

/-! ## An image has been written -/

/-- What a state with an image written, a save having begun, has as before; the context lists the image. -/
structure Wrote (s u : State) (n : Nat) (d : Ctx) (o : ImageOwner) (k : Nat) (w : State) : Prop where
  tiles : w.tiles = s.tiles
  envs : w.envs = s.envs
  queues : w.queues = s.queues
  launches : w.launches = s.launches
  hanks : w.hanks = u.hanks
  sameCmd : SameCmd s w
  ctx : ∃ off draw, w.ctxs.get? n = some { d with images := d.images ++ [⟨o, off, k, draw⟩] }

theorem Began.wrote {s u w : State} {n core k j v : Nat} {c d : Ctx} {o : ImageOwner} (hd : Began s u n c d)
    (hw : u.writeImage core n o k j v = .ok w) : Wrote s u n d o k w := by
  obtain ⟨m, e, x, p, off, hframe⟩ := State.writeImage_eq hw
  have hctx := AMap.get?_modify_self hd.ctx fun c => { c with images := c.images ++ [⟨o, off, k, 2 ^ 40 * u.draws⟩] }
  have hsame := hd.sameCmd
  rw [hframe]
  exact ⟨hd.tiles_eq, hd.envs_eq, (congrArg State.queues hd.frame :), (congrArg State.launches hd.frame :), rfl, ⟨hsame.cmd, hsame.msix⟩,
    off, _, hctx⟩

/-- A context is at rest but for its hanks and tiles: no strands of retired hanks, no live environment, nothing early, no launches. -/
structure State.AtRest (s : State) (n : Nat) : Prop where
  ghosts : s.NoGhosts n
  envs : ∀ e ∈ s.envs, e.2.ctx = n → e.2.st ≠ .live
  early : s.early = []
  launches : s.NoLaunches n

/-! ## A hank -/

section
variable {i : Instr} {s u : State} {h : Nat} {hank : Hank} {c : Ctx} (hc : s.ctxs.get? (s.cmd.byte 8) = some c)
  (hb : BeginsSave i s (s.cmd.byte 8) c u) (hone : s.ctxHanks (s.cmd.byte 8) = [h])
include hc hb hone

/-- Nothing is saved before the hank is quiet. -/
theorem BeginsSave.exec_of_unquiet (hq : u.hankQuiet h = false) : exec i s = .next u := by
  obtain ⟨d, hd⟩ := BeginsSave.began hc hb
  have hhanks : u.ctxHanks (s.cmd.byte 8) = [h] := hd.ctxHanks_eq.trans hone
  have hstopped : u.saveStopped (s.cmd.byte 8) = u := by
    unfold State.saveStopped
    rw [hhanks, List.all_cons, hq]
    rfl
  have hunsaved : u.ctxSaved (s.cmd.byte 8) = false := by
    rw [← Bool.not_eq_true, State.ctxSaved_iff, hhanks]
    simp
  have hgoes : ¬ (i = .suspend ∧ d.st ≠ .active) ∧ ¬ (i = .recover ∧ d.faultCode = 8) := by
    rw [hd.marked]
    rcases hb with ⟨rfl, -, hact, -⟩ | ⟨rfl, -, -, -, h8, -⟩
    · exact ⟨fun h => h.2 hact, fun h => (nomatch h.1)⟩
    · exact ⟨fun h => (nomatch h.1), fun h => h8 h.2⟩
  rw [BeginsSave.exec_eq hc hb (hstopped.symm ▸ hd.ctx), hstopped]
  dsimp only
  rw [if_neg hgoes.1, if_neg hgoes.2, hunsaved, if_neg Bool.false_ne_true]

variable (hh : s.hanks.get? h = some hank) (hn : hank.ctx = s.cmd.byte 8) (hq : u.hankQuiet h = true)
  (hset : ∀ y ∈ s.hankStrands h, y.2.outs = [] ∧ ∀ b, y.2.run ≠ .blocked b) (hrun : ∃ y ∈ s.hankStrands h, y.2.run ≠ .exited)
  (ht : ∀ p ∈ s.tiles, p.2.ctx = s.cmd.byte 8 → p.2.frozen = true) (hrest : s.AtRest (s.cmd.byte 8))
include hh hn hq hset hrun ht hrest

/-- A quiet hank is saved, and the context is suspended. -/
theorem BeginsSave.exec_of_hank {w : State}
    (hw : u.writeImage hank.core (s.cmd.byte 8) (.hank h) (Config.saveSize s.draws) 0 0 = .ok w) :
    ∃ t, exec i s = .next (completed t 0 0) ∧ SameCmd s t ∧ HankSaved s t h hank w.mem ∧
      ∃ d, t.ctxs.get? (s.cmd.byte 8) = some d ∧ d.st = .suspended ∧ d.stopping = false ∧
        ∃ off draw, d.images = c.images ++ [⟨.hank h, off, Config.saveSize s.draws, draw⟩] := by
  obtain ⟨hghosts, henvs, hearly, hl⟩ := hrest
  obtain ⟨d, hd⟩ := BeginsSave.began hc hb
  have hwrote := hd.wrote hw
  obtain ⟨off, draw, hctx⟩ := hwrote.ctx
  have hsave : (if u.retirable h then .ok (u.retire h) else u.trySave h false) = Except.ok
      (w.takeHank h { hank with stopping := true } false) := by
    rw [hd.saveHank_eq hone hh hn hset hrun hearly, hw]
    rfl
  obtain ⟨v, htaken, hv⟩ := hd.takeHank_saved hone hh hset hw
  generalize w.takeHank h { hank with stopping := true } false = t0 at hsave htaken
  have hhanks : t0.hanks = s.hanks.erase h := htaken.hanks.trans ((congrArg _ hwrote.hanks).trans (hd.erase_hank hone))
  have hsaved : t0.ctxSaved (s.cmd.byte 8) = true := by
    have htiles : t0.tiles = s.tiles := (congrArg State.tiles htaken.frame :).trans hwrote.tiles
    have henvs' : t0.envs = s.envs := (congrArg State.envs htaken.frame :).trans hwrote.envs
    rw [State.ctxSaved_iff, State.ctxHanks_eq_nil, hhanks, htiles, henvs']
    refine ⟨fun p hp hpn => ?_, ht, henvs⟩
    obtain ⟨hp, hph⟩ := List.mem_filter.1 hp
    have hmem : p.1 ∈ s.ctxHanks (s.cmd.byte 8) := List.mem_map.2 ⟨p, List.mem_filter.2 ⟨hp, by simp [hpn]⟩, rfl⟩
    rw [hone, List.mem_singleton] at hmem
    simp [hmem] at hph
  have hlaunches : t0.NoLaunches (s.cmd.byte 8) := by
    have hqueues : t0.queues = s.queues := (congrArg State.queues htaken.frame :).trans hwrote.queues
    have hls : t0.launches = s.launches := (congrArg State.launches htaken.frame :).trans hwrote.launches
    intro q x hx hxn
    rw [State.launchesOf, hls]
    exact hl q x (hqueues ▸ hx) hxn
  have hquiet : (u.ctxHanks (s.cmd.byte 8)).all u.hankQuiet = true := by
    rw [hd.ctxHanks_eq, hone, List.all_cons, hq]
    rfl
  obtain ⟨t, hexec, hsusp⟩ := BeginsSave.succeeds hc hb
    (State.saveStopped_of_ok hquiet (hd.noGhosts hghosts) (hd.ctxPlan_of_hank hone hh ht henvs) hsave hsaved)
    ((congrArg (fun t : State => t.ctxs.get? (s.cmd.byte 8)) htaken.frame :).trans hctx) (by rw [hd.marked]) (by rw [hd.marked]) hlaunches hsaved
  have hcmd : SameCmd s t0 := by
    rw [htaken.frame]
    exact ⟨hwrote.sameCmd.cmd, hwrote.sameCmd.msix⟩
  refine ⟨t, hexec, hsusp.sameCmd hcmd, ⟨?_, ?_, ?_, ?_, ?_, ?_, v, ?_, hv⟩, _, hsusp.ctx, rfl, rfl, off, draw, by rw [hd.marked]⟩
  · exact (congrArg State.hanks hsusp.frame :).trans hhanks
  · intro y hy hyh
    obtain ⟨x, hx, hxh⟩ := hsusp.strands y hy
    exact htaken.strands x hx (hxh ▸ hyh)
  · rw [(congrArg State.braids hsusp.frame :)]
    exact htaken.braids
  · rw [(congrArg State.barriers hsusp.frame :)]
    exact htaken.barriers
  · exact fun b hb => (congrArg (fun t : State => t.bank b) hsusp.frame :).trans (htaken.banks b hb)
  · rw [(congrArg State.swapIn hsusp.frame :)]
    exact htaken.listed
  · rw [(congrArg State.saved hsusp.frame :)]
    exact htaken.saved

/-- Where the area does not take its image, it stays. -/
theorem BeginsSave.exec_of_hankNoRoom
    (hw : u.writeImage hank.core (s.cmd.byte 8) (.hank h) (Config.saveSize s.draws) 0 0 = .error .full) :
    (i = .suspend → ∃ t, exec i s = .next (completed t 0 0) ∧ SameCmd s t ∧ t.saved = s.saved ∧ (t.hanks.get? h).isSome = true ∧
      ∃ d, t.ctxs.get? (s.cmd.byte 8) = some d ∧ d.st = .faulted ∧ d.faultCode = 8) ∧
    (i = .recover → exec i s = .next (completed s 4 0)) := by
  obtain ⟨hghosts, henvs, hearly, -⟩ := hrest
  obtain ⟨d, hd⟩ := BeginsSave.began hc hb
  have hsave : (if u.retirable h then .ok (u.retire h) else u.trySave h false) = Except.error .full := by
    rw [hd.saveHank_eq hone hh hn hset hrun hearly, hw]
    rfl
  obtain ⟨m, ex, x, cs, ps, ws, hfail, -⟩ := u.saveFail_only (s.cmd.byte 8) hank.core .full
  have hhanks : (u.saveFail (s.cmd.byte 8) hank.core .full).hanks = u.hanks := (congrArg State.hanks hfail :)
  have hlost : (u.saveFail (s.cmd.byte 8) hank.core .full).ctxSaved (s.cmd.byte 8) = false := by
    rw [← Bool.not_eq_true, State.ctxSaved_iff, State.ctxHanks, hhanks]
    rintro ⟨hnil, -⟩
    cases hnil.symm.trans (hd.ctxHanks_eq.trans hone)
  have hquiet : (u.ctxHanks (s.cmd.byte 8)).all u.hankQuiet = true := by
    rw [hd.ctxHanks_eq, hone, List.all_cons, hq]
    rfl
  obtain ⟨hsuspend, hrecover⟩ := BeginsSave.fails hc hb
    (State.saveStopped_of_error hquiet (hd.noGhosts hghosts) (hd.ctxPlan_of_hank hone hh ht henvs) hsave hlost)
  refine ⟨fun hi => ?_, hrecover⟩
  obtain ⟨hexec, hfaulted⟩ := hsuspend hi
  refine ⟨_, hexec, hd.sameCmd.of_goes (u.saveFail_goes ..), ?_, ?_, hfaulted⟩
  · exact (congrArg State.saved hfail :).trans (congrArg State.saved hd.frame :)
  · rw [hhanks, hd.get?_hank hone hh]
    rfl

end

end Sys2Proof.Machine
end

section
/-! PROOFS. A live tile is frozen when its context is saved (14 R276, R277). -/

namespace Sys2Proof.Machine
open Sys2Proof.Claims

/-- In order of keys there is no entry of a key but the one set. -/
theorem AMap.mem_set_of_sorted {α : Type} {m : AMap α} (hm : m.Pairwise fun a b => a.1 < b.1) {k : Nat} {v : α} {y : Nat × α}
    (hy : y ∈ m.set k v) (hk : y.1 = k) : y = (k, v) := by
  induction m with
  | nil => exact List.mem_singleton.1 hy
  | cons p m ih =>
    obtain ⟨hp, hm⟩ := List.pairwise_cons.1 hm
    unfold AMap.set at hy
    split at hy
    · rename_i hpk
      rcases List.mem_cons.1 hy with h | h
      · exact h
      · exact absurd (hp y h) (by omega)
    · split at hy
      · rcases List.mem_cons.1 hy with h | h
        · exact h
        · rcases List.mem_cons.1 h with h | h
          · exact absurd hk (by rw [h]; omega)
          · exact absurd (hp y h) (by omega)
      · rcases List.mem_cons.1 hy with h | h
        · exact absurd hk (by rw [h]; omega)
        · exact ih hm h

/-- The image of a frozen tile: its header first (R277). -/
def State.tileImage (s u : State) (n e : Nat) (tl : Tile) : Except SaveStop State :=
  u.writeImage (e / 8) n (.tile e) (1024 * s.tileImageKib) 16 (s.tileHeader e tl s.tileImageKib)

section
variable {s u : State} {n e : Nat} {tl : Tile} {c d : Ctx} (hd : Began s u n c d)
  (hlive : (s.tiles.filter fun p => p.2.ctx == n && !p.2.frozen) = [(e, tl)])
include hlive

theorem State.mem_live : (e, tl) ∈ s.tiles ∧ tl.ctx = n ∧ tl.frozen = false := by
  have hmem : (e, tl) ∈ s.tiles.filter fun p => p.2.ctx == n && !p.2.frozen := by
    rw [hlive]
    exact List.mem_singleton_self _
  obtain ⟨hmem, hp⟩ := List.mem_filter.1 hmem
  exact ⟨hmem, by simpa using hp⟩

include hd

theorem Began.freezeTile_eq : u.freezeTile e tl = (s.tileImage u n e tl).map fun t => t.setTile e { tl with frozen := true } := by
  have hkib : u.tileImageKib = s.tileImageKib := by rw [State.tileImageKib, State.tileImageKib, hd.draws_eq]
  have hknot : ∀ k, u.knot k = s.knot k := fun k => (congrArg (fun t : State => t.knot k) hd.frame :)
  have hheader : u.tileHeader e tl s.tileImageKib = s.tileHeader e tl s.tileImageKib := by
    rw [State.tileHeader, State.tileHeader, hknot]
  unfold State.freezeTile State.tileImage
  dsimp only
  rw [hkib, hheader, State.writeImage_ctx_congr (State.mem_live hlive).2.1]

theorem Began.ctxPlan_of_tile (hh : s.ctxHanks n = []) (he : ∀ e ∈ s.envs, e.2.ctx = n → e.2.st ≠ .live) :
    u.ctxPlan n = [(e / 8, fun s => s.freezeTile e tl)] := by
  have henvs : (s.envs.filter fun p => p.2.ctx == n && p.2.st == .live) = [] :=
    List.filter_eq_nil_iff.2 fun e he' => by simpa using he e he'
  rw [hd.ctxPlan_of_noHanks hh, hlive, henvs]
  exact byCore_one _

omit hlive in
/-- A header written to local memory reads back, its first 128 bits. -/
theorem Began.readN_tileImage {w : State} {off : Nat} {q : Part} {ps : List Part} (hearly : s.early = [])
    (hw : s.tileImage u n e tl = .ok w) (hroom : c.saveRoom (1024 * s.tileImageKib) = some off)
    (hq : ∀ m, ({ s with mem := m } : State).devParts (e / 8) n .write 2 ((c.saveBase.toNat + off) % 2 ^ 64) 16 = .ok [q])
    (hlen : q.len = 16) (hr : Reached s q)
    (hps : s.devParts (e / 8) n .write (1024 * s.tileImageKib / 2 ^ 16 + 2) ((c.saveBase.toNat + off) % 2 ^ 64) (1024 * s.tileImageKib) = .ok ps)
    (hlocal : ∀ p ∈ ps, keyPackage p.key = none) (hm : s.MemOk) :
    w.mem.readN q.key 16 = s.tileHeader e tl s.tileImageKib % 2 ^ 128 := by
  have hbase : d.saveBase = c.saveBase := by rw [hd.marked]
  unfold State.tileImage at hw
  rcases State.writeImage_of_local (s := u) (core := e / 8) (ctx := n) (n := 1024 * s.tileImageKib) (k := 16)
    (v := s.tileHeader e tl s.tileImageKib) (o := .tile e) (ps := ps) (q := q) (off := off) (c := d) (hd.tables.early.trans hearly) hd.ctx
    ((hd.saveRoom_eq _).trans hroom) (by rw [hbase]; exact (hd.tables.devParts_eq ..).trans hps) hlocal
    (fun m => by rw [hbase]; exact ((hd.tables.withMem m).devParts_eq ..).trans (hq m)) (hd.tables.reached hr) with ⟨f, -, herr⟩ | ⟨x, hok⟩
  · cases hw.symm.trans herr
  · have hmem : w.mem = (u.mem.scribbled (2 ^ 40 * u.draws) ps).writeN q.key (s.tileHeader e tl s.tileImageKib) q.len :=
      (congrArg State.mem (Except.ok.inj (hw.symm.trans hok)) :)
    have hwf : Memory.wf u.mem = true := hd.tables.mem ▸ hm
    rw [hmem, hlen, Memory.readN_writeN (Memory.wf_scribbled _ ps hwf)]
    norm_num

end

section
variable {i : Instr} {s u : State} {e : Nat} {tl : Tile} {c : Ctx} (hc : s.ctxs.get? (s.cmd.byte 8) = some c)
  (hb : BeginsSave i s (s.cmd.byte 8) c u) (hh : s.ctxHanks (s.cmd.byte 8) = [])
  (hlive : (s.tiles.filter fun p => p.2.ctx == s.cmd.byte 8 && !p.2.frozen) = [(e, tl)]) (hrest : s.AtRest (s.cmd.byte 8))
include hc hb hh hlive hrest

/-- The tile is frozen, and the context is suspended. -/
theorem BeginsSave.exec_of_tile (hsorted : s.tiles.Pairwise fun a b => a.1 < b.1) {w : State}
    (hw : s.tileImage u (s.cmd.byte 8) e tl = .ok w) :
    ∃ t, exec i s = .next (completed t 0 0) ∧ SameCmd s t ∧ t.tiles = s.tiles.set e { tl with frozen := true } ∧ t.mem = w.mem ∧
      ∃ d, t.ctxs.get? (s.cmd.byte 8) = some d ∧ d.st = .suspended ∧ d.stopping = false ∧
        ∃ off draw, d.images = c.images ++ [⟨.tile e, off, 1024 * s.tileImageKib, draw⟩] := by
  obtain ⟨hghosts, henvs, -, hl⟩ := hrest
  obtain ⟨d, hd⟩ := BeginsSave.began hc hb
  have hwrote := hd.wrote hw
  obtain ⟨off, draw, hctx⟩ := hwrote.ctx
  let t0 := w.setTile e { tl with frozen := true }
  have hsave : u.freezeTile e tl = .ok t0 := by
    rw [hd.freezeTile_eq hlive, hw]
    rfl
  have htiles : t0.tiles = s.tiles.set e { tl with frozen := true } := by
    show w.tiles.set e { tl with frozen := true } = _
    rw [hwrote.tiles]
  have hsaved : t0.ctxSaved (s.cmd.byte 8) = true := by
    have hhanks : t0.ctxHanks (s.cmd.byte 8) = [] := by
      have hsame : t0.hanks = u.hanks := hwrote.hanks
      rw [State.ctxHanks, hsame]
      exact hd.ctxHanks_eq.trans hh
    have henvs' : t0.envs = s.envs := hwrote.envs
    rw [State.ctxSaved_iff, htiles, henvs']
    refine ⟨hhanks, fun y hy hyn => ?_, henvs⟩
    rcases AMap.mem_set hy with rfl | hmem
    · rfl
    · by_contra hfrozen
      have hone : y ∈ s.tiles.filter fun p => p.2.ctx == s.cmd.byte 8 && !p.2.frozen :=
        List.mem_filter.2 ⟨hmem, by simp [hyn, hfrozen]⟩
      rw [hlive, List.mem_singleton] at hone
      rw [AMap.mem_set_of_sorted hsorted hy (by rw [hone])] at hfrozen
      exact hfrozen rfl
  have hlaunches : t0.NoLaunches (s.cmd.byte 8) := by
    have hqueues : t0.queues = s.queues := hwrote.queues
    have hls : t0.launches = s.launches := hwrote.launches
    intro q x hx hxn
    rw [State.launchesOf, hls]
    exact hl q x (hqueues ▸ hx) hxn
  obtain ⟨t, hexec, hsusp⟩ := BeginsSave.succeeds hc hb
    (State.saveStopped_of_ok (hd.quiet_of_noHanks hh) (hd.noGhosts hghosts) (hd.ctxPlan_of_tile hlive hh henvs) hsave hsaved)
    (show t0.ctxs.get? (s.cmd.byte 8) = _ from hctx) (by rw [hd.marked]) (by rw [hd.marked]) hlaunches hsaved
  exact ⟨t, hexec, hsusp.sameCmd (w := t0) ⟨hwrote.sameCmd.cmd, hwrote.sameCmd.msix⟩, (congrArg State.tiles hsusp.frame :).trans htiles,
    (congrArg State.mem hsusp.frame :), _, hsusp.ctx, rfl, rfl, off, draw, by rw [hd.marked]⟩

/-- Where the area does not take its image, it goes on. -/
theorem BeginsSave.exec_of_tileNoRoom (hw : s.tileImage u (s.cmd.byte 8) e tl = .error .full) :
    (i = .suspend → ∃ t, exec i s = .next (completed t 0 0) ∧ SameCmd s t ∧ t.saved = s.saved ∧ t.tiles = s.tiles ∧
      ∃ d, t.ctxs.get? (s.cmd.byte 8) = some d ∧ d.st = .faulted ∧ d.faultCode = 8) ∧
    (i = .recover → exec i s = .next (completed s 4 0)) := by
  obtain ⟨hghosts, henvs, -, -⟩ := hrest
  obtain ⟨d, hd⟩ := BeginsSave.began hc hb
  have hsave : u.freezeTile e tl = .error .full := by
    rw [hd.freezeTile_eq hlive, hw]
    rfl
  obtain ⟨m, ex, x, cs, ps, ws, hfail, -⟩ := u.saveFail_only (s.cmd.byte 8) (e / 8) .full
  have htiles : (u.saveFail (s.cmd.byte 8) (e / 8) .full).tiles = s.tiles := (congrArg State.tiles hfail :).trans hd.tiles_eq
  have hlost : (u.saveFail (s.cmd.byte 8) (e / 8) .full).ctxSaved (s.cmd.byte 8) = false := by
    obtain ⟨hmem, hn, hfrozen⟩ := State.mem_live hlive
    rw [← Bool.not_eq_true, State.ctxSaved_iff, htiles]
    rintro ⟨-, hall, -⟩
    cases hfrozen.symm.trans (hall _ hmem hn)
  obtain ⟨hsuspend, hrecover⟩ := BeginsSave.fails hc hb
    (State.saveStopped_of_error (hd.quiet_of_noHanks hh) (hd.noGhosts hghosts) (hd.ctxPlan_of_tile hlive hh henvs) hsave hlost)
  refine ⟨fun hi => ?_, hrecover⟩
  obtain ⟨hexec, hfaulted⟩ := hsuspend hi
  exact ⟨_, hexec, hd.sameCmd.of_goes (u.saveFail_goes ..), (congrArg State.saved hfail :).trans (congrArg State.saved hd.frame :),
    htiles, hfaulted⟩

end

end Sys2Proof.Machine

namespace Sys2Proof
open Machine Claims

theorem contextsAreSaved : ContextsAreSaved := by
  unfold ContextsAreSaved
  intro s c i u hc hb n told atRest suspended stopped
  have hrest : atRest → s.AtRest n := fun ⟨hg, he, hearly, hl⟩ => ⟨hg, he, hearly, hl⟩
  refine ⟨fun t d hexec ht hst => ?_, fun h hank hone hh hn => ⟨fun hq => BeginsSave.exec_of_unquiet hc hb hone hq, fun hq hset hrun ht hr => ?_⟩,
    fun e tl hh hsorted hlive hr => ?_⟩
  · obtain ⟨hhanks, htiles, henvs⟩ := (t.ctxSaved_iff n).1 (BeginsSave.nothing_live hc hb hexec ht hst)
    exact ⟨State.ctxHanks_eq_nil.1 hhanks, htiles, henvs⟩
  · intro len image
    refine ⟨fun w hw => ?_, fun hw hi => ?_, fun hw hi => (BeginsSave.exec_of_hankNoRoom hc hb hone hh hn hq hset hrun ht (hrest hr) hw).2 hi⟩
    · obtain ⟨t, hexec, hsame, hsaved, hsusp⟩ := BeginsSave.exec_of_hank hc hb hone hh hn hq hset hrun ht (hrest hr) hw
      exact ⟨_, hexec, hsame.told 0 0, hsaved, hsusp⟩
    · obtain ⟨t, hexec, hsame, hsaved, hsome, hfaulted⟩ :=
        (BeginsSave.exec_of_hankNoRoom hc hb hone hh hn hq hset hrun ht (hrest hr) hw).1 hi
      exact ⟨_, hexec, ⟨hsame.told 0 0, hsaved, hfaulted⟩, hsome⟩
  · intro kib key header image
    refine ⟨fun w hw => ⟨?_, fun off q ps hroom hq hlen hreach hps hlocal hm => ?_⟩, fun hw hi => ?_,
      fun hw hi => (BeginsSave.exec_of_tileNoRoom hc hb hh hlive (hrest hr) hw).2 hi⟩
    · obtain ⟨t, hexec, hsame, htiles, hmem, hsusp⟩ := BeginsSave.exec_of_tile hc hb hh hlive (hrest hr) hsorted hw
      exact ⟨_, hexec, hsame.told 0 0, htiles, hmem, hsusp⟩
    · obtain ⟨d, hd⟩ := BeginsSave.began hc hb
      exact hd.readN_tileImage (hrest hr).early hw hroom hq hlen hreach hps hlocal hm
    · obtain ⟨t, hexec, hsame, hsaved, htiles, hfaulted⟩ := (BeginsSave.exec_of_tileNoRoom hc hb hh hlive (hrest hr) hw).1 hi
      exact ⟨_, hexec, ⟨hsame.told 0 0, hsaved, hfaulted⟩, htiles⟩

/-- Settles O47: contexts are created and activated as `contextsAreCreated` says; suspend, resume, recover and destroy move them as
`contextsMoveBetweenStates` says; and what a save comes to (`Machine.BeginsSave.exec_eq`) is worked out for a hank and for a tile. -/
theorem contextLifeCycle : Obligations.ContextLifeCycle := ⟨contextsAreCreated, contextsMoveBetweenStates, contextsAreSaved⟩

end Sys2Proof
end

section
/-! PROOFS. What the engine of a queue reads and writes while no early write is left, and what stands at the head of a ring for it (05
R89 to R95). -/

namespace Sys2Proof.Machine
open Sys2Proof.Claims

/-! ## Accesses of an engine -/

theorem State.devRead_of_one {s : State} {core ctx va len : Nat} {q : Part} (he : s.early = [])
    (hp : s.devParts core ctx .read (len / 2 ^ 16 + 2) va len = .ok [q]) (hq : Reached s q) (hl : q.len = len) :
    s.devRead core ctx va len = .ok (s.mem.readN q.key len) := by
  unfold State.devRead
  rw [hp]
  dsimp only
  rw [State.reachFault_one_of_reached hq]
  simp only [State.seenParts, State.seenN_of_early_nil he, hl, Nat.mul_zero, Nat.add_zero]

theorem Memory.stores_of_writeN {s t : State} {k n v : Nat} (hm : s.MemOk) (ht : t.mem = s.mem.writeN k v n) : Stores s t k n v := by
  refine ⟨fun i hi => ?_, fun j hj => ?_⟩
  · rw [ht, Memory.read_writeN_of_inside v i hi hm]
  · rw [ht, Memory.read_writeN_of_outside _ _ hj]

theorem State.engineRelease_of_early_nil {s : State} (h : s.early = []) (x : Queue) (sc : Scope) (l : List Nat) :
    s.engineRelease x sc l = s := by
  unfold State.engineRelease
  dsimp only
  rw [State.widen_of_early_nil h, State.bring_of_early_nil h]

/-! ## The head of a ring -/

section
variable {s : State} {q : Nat} {x : Queue} (hq : s.queues.get? q = some x) (htakes : s.takes x = true)
  (hfree : s.timedHolds q = false) (hpast : x.waiting = none)
include hq htakes hfree hpast

theorem State.startPacket_of_nothing (hh : s.head x = .nothing) (kind : Nat) (f : State → Queue → Packet → State) :
    s.startPacket q kind f = s := by
  simp only [State.startPacket, hq, htakes, hfree, hpast, hh, Bool.not_true, Option.isSome_none, Bool.or_self, Bool.false_eq_true, if_false]

theorem State.startPacket_of_faulty {code : Nat} (hh : s.head x = .faulty code) (kind : Nat) (f : State → Queue → Packet → State) :
    s.startPacket q kind f = s.queueFault q x code := by
  simp only [State.startPacket, hq, htakes, hfree, hpast, hh, Bool.not_true, Option.isSome_none, Bool.or_self, Bool.false_eq_true, if_false]

/-- A packet of the kind that the event is about starts once nothing that it waits for is left (05 R94; 19 R354). -/
theorem State.startPacket_of_packet {p : Packet} (hh : s.head x = .packet p) (hsync : p.sync = false ∨ p.kind = 0 ∨ x.started = [])
    (hfar : s.farReady (some .sy) = true) {kind : Nat} (hkind : p.kind = kind) (f : State → Queue → Packet → State) :
    s.startPacket q kind f = f s x p := by
  have hgo : ¬ (p.kind ≠ kind ∨ (p.sync = true ∧ p.kind ≠ 0 ∧ x.started ≠ []) ∨ s.farReady (some .sy) = false) := by
    rintro (h | ⟨hs, h0, hst⟩ | h)
    · exact h hkind
    · rcases hsync with h | h | h
      · exact Bool.false_ne_true (h.symm.trans hs)
      · exact h0 h
      · exact hst h
    · exact Bool.false_ne_true (h.symm.trans hfar)
  simp only [State.startPacket, hq, htakes, hfree, hpast, hh, Bool.not_true, Option.isSome_none, Bool.or_self, Bool.false_eq_true, if_false]
  exact if_neg hgo

end

/-! ## Packets with checks of their own -/

/-- The wait that a wait packet at the head of a queue is. -/
def Queue.waitOf (x : Queue) (p : Packet) : Waiting := ⟨x.rdidx.toNat, p.bytes 8 15, p.bytes 16 23, p.bytes 24 24⟩

/-- A wait packet starts: its signal is read once before RDIDX passes it, and evaluated after. -/
def State.startWait (q : Nat) (s : State) (x : Queue) (p : Packet) : State :=
  match s.signalNow x (x.waitOf p) with
  | .error f => s.queueFail q x f
  | .ok _ => s.pass q x p.len fun s => match s.queues.get? q with
    | some y => ({ s with queues := s.queues.set q { y with waiting := some (x.waitOf p) } }).evalWait q y (x.waitOf p)
    | none => s

/-- A wait packet is looked for at the head of a queue that is past its waits. -/
theorem execWaitPacket_of_past {s : State} {q : Nat} {x : Queue} (hq : s.queues.get? q = some x) (hpast : x.waiting = none) :
    execWaitPacket q s = .next (s.startPacket q 2 (State.startWait q)) := by
  unfold execWaitPacket
  rw [hq, Option.bind_some, hpast]
  rfl

theorem State.due_of_time {s : State} {x : Queue} {p : Packet} (h : p.timed = true → p.bytes 32 39 ≤ s.time x.die) : s.due x p = true := by
  unfold State.due
  cases ht : p.timed with
  | false => rfl
  | true => rw [decide_eq_true (h ht), Bool.or_true]

/-- A launch that has a kernel object which fails a check is a packet fault (05 R95; 06 R101). -/
theorem State.startLaunch_of_bad {s : State} {x : Queue} {p : Packet} {k code : Nat} (q : Nat)
    (hread : s.devRead x.core x.ctx (p.bytes 8 15) 64 = .ok k) (hcode : launchCode (s.featOf x) p k = some code) :
    s.startLaunch q x p = s.queueFault q x code := by
  simp only [State.startLaunch, hread, hcode]

/-- A packet fault that is recorded: FAULTREC holds the code and the index, and the thread is free (05 R95). -/
theorem State.queueFault_recorded {s : State} {q code : Nat} {x : Queue} {w : Part} (hq : s.queues.get? q = some x)
    (hearly : s.early = []) (hm : s.MemOk) (h8 : w.len = 8) (hr : Reached s w)
    (hw : s.devParts x.core x.ctx .write 2 ((x.desc.toNat + 56) % 2 ^ 64) 8 = .ok [w]) :
    Stores s (s.queueFault q x code) w.key 8 (code * 2 ^ 56 + x.rdidx.toNat % 2 ^ 56) ∧
      (s.queueFault q x code).queues.get? q = some { x with st := .faulted code, thread := false } := by
  obtain ⟨sp, hwrite⟩ := State.devWrite_of_one (len := 8) hearly hw hr (code * 2 ^ 56 + x.rdidx.toNat % 2 ^ 56)
  unfold State.queueFault Queue.write
  rw [hwrite, h8]
  exact ⟨Memory.stores_of_writeN hm rfl, AMap.get?_modify_self hq fun y => { y with st := .faulted code, thread := false }⟩

end Sys2Proof.Machine

namespace Sys2Proof
open Sys2Proof.Machine Sys2Proof.Claims

/-- Settles O39: what is at the head decides what a packet event does (`State.startPacket_of_faulty`, `State.startPacket_of_nothing`),
and a fault is recorded as `State.queueFault_recorded` says. -/
theorem packetFaults : Obligations.PacketFaults := by
  intro s q x hq htakes hfree hpast hearly
  have hfaults : ∀ {i : Instr} {code : Nat}, exec i s = .next (s.queueFault q x code) → ∀ w : Part, w.len = 8 → Reached s w → s.MemOk →
      code < 8 → s.devParts x.core x.ctx .write 2 ((x.desc.toNat + 56) % 2 ^ 64) 8 = .ok [w] → Completes i s fun t =>
        Stores s t w.key 8 (code * 2 ^ 56 + x.rdidx.toNat % 2 ^ 56) ∧
        t.queues.get? q = some { x with st := .faulted code, thread := false } :=
    fun he w h8 hr hm _ hw => ⟨_, he, State.queueFault_recorded hq hearly hm h8 hr hw⟩
  have hstarts : ∀ i ∈ [Instr.skipPacket q, .launchPacket q, .waitPacket q, .signalPacket q, .applyPacket q, .fencePacket q],
      ∃ kind f, exec i s = .next (s.startPacket q kind f) := by
    intro i hi
    simp only [List.mem_cons, List.not_mem_nil, or_false] at hi
    rcases hi with rfl | rfl | rfl | rfl | rfl | rfl
    · exact ⟨_, _, rfl⟩
    · exact ⟨_, _, rfl⟩
    · exact ⟨_, _, execWaitPacket_of_past hq hpast⟩
    · exact ⟨_, _, rfl⟩
    · exact ⟨_, _, rfl⟩
    · exact ⟨_, _, rfl⟩
  refine ⟨fun i hi => ?_, fun p k code hh hkind hsync htimed hfar hread hcode => ?_⟩
  · obtain ⟨kind, f, he⟩ := hstarts i hi
    refine ⟨fun code hh => hfaults ?_, fun hh => ?_⟩
    · rw [he, State.startPacket_of_faulty hq htakes hfree hpast hh]
    · rw [he, State.startPacket_of_nothing hq htakes hfree hpast hh]
  · refine hfaults ?_
    have hsync' : p.sync = false ∨ p.kind = 0 ∨ x.started = [] := hsync.elim .inl fun h => .inr (.inr h)
    have hdue : s.due x p = true := State.due_of_time fun ht => absurd (htimed.symm.trans ht) Bool.false_ne_true
    rw [exec_launchPacket, execLaunchPacket, State.startPacket_of_packet hq htakes hfree hpast hh hsync' hfar hkind, if_pos hdue,
      State.startLaunch_of_bad q hread hcode]

end Sys2Proof
end

section
/-! PROOFS. Packets that start (05 R92 to R94): RDIDX passes them, and they do what their kind says. -/

namespace Sys2Proof.Machine
open Sys2Proof.Claims

/-! ## RDIDX past a packet -/

/-- The state in which a queue has passed a packet of `len` slots: RDIDX is written to the part that holds it. -/
def State.passedTo (s : State) (q : Nat) (x : Queue) (len : Nat) (w : Part) (spoiled : List (Nat × Nat)) : State :=
  ({ s with mem := s.mem.writeN w.key ((x.rdidx.toNat + len) % 2 ^ 64) 8, spoiled := spoiled } : State).modQueue q fun y =>
    { y with rdidx := x.rdidx + BitVec.ofNat 64 len, st := if x.rdidx + BitVec.ofNat 64 len = y.wridx then .mapped else .running }

theorem State.get?_modQueue_ne (s : State) {q r : Nat} (h : r ≠ q) (f : Queue → Queue) : (s.modQueue q f).queues.get? r = s.queues.get? r :=
  AMap.get?_modify_ne s.queues f h.symm

theorem State.get?_passedTo_self {s : State} {q : Nat} {x : Queue} (hq : s.queues.get? q = some x) (len : Nat) (w : Part)
    (sp : List (Nat × Nat)) : (s.passedTo q x len w sp).queues.get? q = some (passed x len) := State.get?_modQueue_self hq _

theorem State.get?_passedTo_ne (s : State) {q r : Nat} (h : r ≠ q) (x : Queue) (len : Nat) (w : Part) (sp : List (Nat × Nat)) :
    (s.passedTo q x len w sp).queues.get? r = s.queues.get? r := State.get?_modQueue_ne _ h _

@[simp] theorem State.mem_passedTo (s : State) (q : Nat) (x : Queue) (len : Nat) (w : Part) (sp : List (Nat × Nat)) :
    (s.passedTo q x len w sp).mem = s.mem.writeN w.key ((x.rdidx.toNat + len) % 2 ^ 64) 8 := rfl

/-- RDIDX has passed the packet in memory, and the queue is `y`; the other queues are as before. -/
theorem State.moved_of_passedTo {s t : State} {q len : Nat} {x y : Queue} {w : Part} (hm : s.MemOk) (sp : List (Nat × Nat))
    (hmem : t.mem = (s.passedTo q x len w sp).mem) (hy : t.queues.get? q = some y)
    (ho : ∀ r, r ≠ q → t.queues.get? r = (s.passedTo q x len w sp).queues.get? r) :
    Stores s t w.key 8 ((x.rdidx.toNat + len) % 2 ^ 64) ∧ t.queues.get? q = some y ∧
      ∀ r, r ≠ q → t.queues.get? r = s.queues.get? r :=
  ⟨Memory.stores_of_writeN hm hmem, hy, fun r hr => (ho r hr).trans (s.get?_passedTo_ne hr x len w sp)⟩

/-! ## What the packets of a kind come to -/

/-- The launch of a packet at the head of a queue, with its kernel object. -/
def Queue.launchOf (q : Nat) (x : Queue) (p : Packet) (k : Nat) : Launch :=
  { queue := q, ctx := x.ctx, packet := x.rdidx.toNat, kaddr := BitVec.ofNat 64 (p.bytes 8 15), kobj := k
    arg := BitVec.ofNat 64 (p.bytes 16 23), count := p.bytes 24 27, next := 0, retired := 0, nbsize := p.bytes 28 28
    prio := p.bytes 29 29 % 4, timed := p.timed, stopped := false, nbs := [] }

/-- A launch that has started stands under a number of its own, and its queue knows it. -/
def State.addLaunch (s : State) (q index : Nat) (l : Launch) : State :=
  { s with
    queues := s.queues.modify q fun y => { y with started := y.started ++ [⟨index, some s.uid⟩], slice := 0 }
    launches := s.launches.set s.uid l
    uid := s.uid + 1 }

theorem State.beginLaunch_eq (s : State) (q : Nat) (x : Queue) (p : Packet) (k : Nat) :
    s.beginLaunch q x p k = s.pass q x p.len fun s => s.addLaunch q x.rdidx.toNat (x.launchOf q p k) := rfl

theorem State.get?_addLaunch_self {s : State} {q : Nat} {y : Queue} (h : s.queues.get? q = some y) (index : Nat) (l : Launch) :
    (s.addLaunch q index l).queues.get? q = some { y with started := y.started ++ [⟨index, some s.uid⟩], slice := 0 } :=
  AMap.get?_modify_self h fun y => { y with started := y.started ++ [⟨index, some s.uid⟩], slice := 0 }

theorem State.get?_addLaunch_ne (s : State) {q r : Nat} (h : r ≠ q) (index : Nat) (l : Launch) :
    (s.addLaunch q index l).queues.get? r = s.queues.get? r :=
  AMap.get?_modify_ne s.queues (fun y => { y with started := y.started ++ [⟨index, some s.uid⟩], slice := 0 }) h.symm

theorem State.due_of_early {s : State} {x : Queue} {p : Packet} (ht : p.timed = true) (hfeat : (s.featOf x).testBit 6 = true)
    (h : s.time x.die < p.bytes 32 39) : s.due x p = false := by
  have hlate : ¬ p.bytes 32 39 ≤ s.time x.die := Nat.not_le.2 h
  simp [State.due, ht, hfeat, hlate]

/-! ## Signals and closures -/

theorem State.putParts_of_early_nil {s : State} (h : s.early = []) (w : Writer) (v : Nat) (ps : List Part) :
    ∃ x, s.putParts w v ps = { s with mem := s.mem.writeParts v ps, spoiled := x } := by
  unfold State.putParts
  rw [State.land_of_early_nil h]
  exact ⟨_, rfl⟩

/-- What an engine names and reaches, one part of it. -/
theorem State.namedParts_of_one {s : State} {x : Queue} {n : Need} {a len : Nat} {v : Part}
    (hp : s.devParts x.core x.ctx n 2 a len = .ok [v]) (hr : Reached s v) : s.namedParts x n a len = .ok [v] := by
  unfold State.namedParts
  rw [hp]
  dsimp only
  rw [State.reachFault_one_of_reached hr]

theorem signalNew_eq {op : Nat} (hop : op ≤ 2) (old : Nat) {b : Nat} (hb : b < 2 ^ 64) :
    signalNew op old b = (if op = 0 then BitVec.ofNat 64 b else if op = 1 then BitVec.ofNat 64 old + BitVec.ofNat 64 b
      else BitVec.ofNat 64 old - BitVec.ofNat 64 b).toNat := by
  obtain rfl | rfl | rfl : op = 0 ∨ op = 1 ∨ op = 2 := by omega
  · simp only [signalNew, if_true, BitVec.toNat_ofNat, Nat.mod_eq_of_lt hb]
  · simp [signalNew]
  · simp only [signalNew, Nat.reduceEqDiff, if_false, BitVec.toNat_sub, BitVec.toNat_ofNat]
    omega

theorem Packet.bytes_lt (p : Packet) (a b : Nat) : p.bytes a b < 2 ^ (8 * (b + 1 - a)) := Nat.mod_lt _ (Nat.two_pow_pos _)

/-- A signal packet stores over what stands at its signal, and interrupts as it asks. -/
theorem State.signal_of_one {s : State} (he : s.early = []) {v : Part} (h8 : v.len = 8) (hv : keyPackage v.key = none) (x : Queue) (p : Packet) :
    ∃ sp, s.signal x p [v] = { s with
      mem := s.mem.writeN v.key (signalNew (p.bytes 24 24) (s.mem.readN v.key 8) (p.bytes 16 23)) 8
      spoiled := sp
      msix := s.msix ++ if (p.bytes 25 25).testBit 7 then [p.bytes 25 25 % 64] else [] } := by
  have hlocal : ∀ q ∈ [v], keyPackage q.key = none := fun q hq => List.mem_singleton.1 hq ▸ hv
  obtain ⟨sp, hput⟩ := State.putParts_of_early_nil he (.engine x.die)
    (signalNew (p.bytes 24 24) (s.seenParts (dieAgent x.die) [v]) (p.bytes 16 23)) [v]
  refine ⟨sp, ?_⟩
  unfold State.signal
  dsimp only
  rw [State.engineRelease_of_early_nil he, State.land_of_early_nil he, State.sendParts_of_local s _ _ _ _ hlocal, hput]
  simp only [State.seenParts, State.seenN_of_early_nil he, h8, Nat.mul_zero, Nat.add_zero, Memory.writeParts]
  split
  · rfl
  · rw [List.append_nil]

theorem State.checkHandle_of_null {v : Nat} (h : v.testBit 63 = false) (s : State) (ctx : Nat) : s.checkHandle ctx v = .ok 0 := by
  unfold State.checkHandle
  dsimp only
  rw [h]
  rfl

end Sys2Proof.Machine

namespace Sys2Proof.Claims
open Sys2Proof.Machine

/-! ## Past the packet at the head -/

section
variable {s : State} {q : Nat} {x : Queue} {p : Packet} {w : Part} (h : AtHead s q x p w)
include h

theorem AtHead.startPacket_eq {kind : Nat} (hkind : p.kind = kind) (f : State → Queue → Packet → State) :
    s.startPacket q kind f = f s x p :=
  State.startPacket_of_packet h.queue h.takes h.free h.past h.head h.sync h.far hkind f

/-- The queue passes the packet at its head, and goes on as the packet's kind says. -/
theorem AtHead.pass_eq (f : State → State) : ∃ sp, s.pass q x p.len f = f (s.passedTo q x p.len w sp) := by
  obtain ⟨sp, hwrite⟩ := State.devWrite_of_one (len := 8) h.settled h.rdidx h.reached (x.rdidx + BitVec.ofNat 64 p.len).toNat
  have hrd : (x.rdidx + BitVec.ofNat 64 p.len).toNat = (x.rdidx.toNat + p.len) % 2 ^ 64 := by
    rw [BitVec.toNat_add, BitVec.toNat_ofNat, Nat.add_mod_mod]
  refine ⟨sp, ?_⟩
  unfold State.pass Queue.write
  dsimp only
  rw [h.whole, if_neg Bool.false_ne_true, State.engineRelease_of_early_nil h.settled, hwrite, h.eight, hrd]
  rfl

/-- A packet whose work is to be passed: memory and its queue alone change. -/
theorem AtHead.passes (hm : s.MemOk) {i : Instr} (he : exec i s = .next (s.pass q x p.len id)) : Completes i s fun t =>
    (Stores s t w.key 8 ((x.rdidx.toNat + p.len) % 2 ^ 64) ∧ t.queues.get? q = some (passed x p.len) ∧
      ∀ r, r ≠ q → t.queues.get? r = s.queues.get? r) ∧ t = { s with mem := t.mem, queues := t.queues, spoiled := t.spoiled } := by
  obtain ⟨sp, hp⟩ := h.pass_eq id
  exact ⟨_, he.trans (congrArg _ hp), State.moved_of_passedTo hm sp rfl (State.get?_passedTo_self h.queue p.len w sp) fun _ _ => rfl, rfl⟩

/-! ## Skips and fences -/

theorem AtHead.skipPacket_eq (hkind : p.kind = 0) : exec (.skipPacket q) s = .next (s.pass q x p.len id) := by
  rw [exec_skipPacket, execSkipPacket, h.startPacket_eq hkind]

theorem AtHead.fencePacket_eq (hkind : p.kind = 5) : exec (.fencePacket q) s = .next (if x.started ≠ [] then s else s.pass q x p.len id) := by
  rw [exec_fencePacket, execFencePacket, h.startPacket_eq hkind, State.engineRelease_of_early_nil h.settled]

/-! ## Launches -/

theorem AtHead.launches (hm : s.MemOk) {i : Instr} {k : Nat} (hread : s.devRead x.core x.ctx (p.bytes 8 15) 64 = .ok k)
    (hcode : launchCode (s.featOf x) p k = none) (he : exec i s = .next (s.startLaunch q x p)) : Completes i s fun t =>
    (Stores s t w.key 8 ((x.rdidx.toNat + p.len) % 2 ^ 64) ∧
      t.queues.get? q = some { passed x p.len with started := x.started ++ [⟨x.rdidx.toNat, some s.uid⟩], slice := 0 } ∧
      ∀ r, r ≠ q → t.queues.get? r = s.queues.get? r) ∧ t.launches.get? s.uid = some (x.launchOf q p k) := by
  obtain ⟨sp, hp⟩ := h.pass_eq fun s => s.addLaunch q x.rdidx.toNat (x.launchOf q p k)
  have hstart : s.startLaunch q x p = s.beginLaunch q x p k := by simp only [State.startLaunch, hread, hcode]
  rw [hstart, State.beginLaunch_eq, hp] at he
  exact ⟨_, he, State.moved_of_passedTo hm sp rfl (State.get?_addLaunch_self (State.get?_passedTo_self h.queue p.len w sp) _ _) fun r hr =>
    State.get?_addLaunch_ne _ hr _ _, AMap.get?_set_self ..⟩

theorem AtHead.launchPacket_eq (hkind : p.kind = 1) :
    exec (.launchPacket q) s = .next (if s.due x p then s.startLaunch q x p else s) := by
  rw [exec_launchPacket, execLaunchPacket, h.startPacket_eq hkind]

theorem AtHead.timedLaunchStart_eq (hkind : p.kind = 1) :
    exec (.timedLaunchStart q) s = .next (if p.timed ∧ s.due x p then s.startLaunch q x p else s) := by
  rw [exec_timedLaunchStart, execTimedLaunchStart, h.startPacket_eq hkind]

end

section
variable {s : State} {q : Nat} {x : Queue} {p : Packet} {w v : Part} (h : AtHead s q x p w)
include h

/-- A signal packet whose signal is reached: what it stores, and its interrupt. -/
theorem AtHead.signals (hkind : p.kind = 3) (hop : p.bytes 24 24 ≤ 2) (h8 : v.len = 8) (hr : Reached s v)
    (hv : s.devParts x.core x.ctx (if p.bytes 24 24 = 0 then .write else .both) 2 (p.bytes 8 15) 8 = .ok [v]) :
    Completes (.signalPacket q) s fun t =>
      let old : DWord := BitVec.ofNat 64 ((Memory.writeN w.key ((x.rdidx.toNat + p.len) % 2 ^ 64) 8 s.mem).readN v.key 8)
      let b : DWord := BitVec.ofNat 64 (p.bytes 16 23)
      (t.mem = Memory.writeN v.key (if p.bytes 24 24 = 0 then b else if p.bytes 24 24 = 1 then old + b else old - b).toNat 8
          (Memory.writeN w.key ((x.rdidx.toNat + p.len) % 2 ^ 64) 8 s.mem) ∧ t.queues.get? q = some (passed x p.len)) ∧
        t.msix = s.msix ++ if (p.bytes 25 25).testBit 7 then [p.bytes 25 25 % 64] else [] := by
  obtain ⟨sp, hp⟩ := h.pass_eq fun s => s.signal x p [v]
  obtain ⟨sp', hs⟩ := State.signal_of_one (s := s.passedTo q x p.len w sp) h.settled h8 hr.1 x p
  have he : exec (.signalPacket q) s = .next (s.pass q x p.len fun s => s.signal x p [v]) := by
    rw [exec_signalPacket, execSignalPacket, h.startPacket_eq hkind]
    simp only [State.namedParts_of_one hv hr]
  rw [hp, hs, signalNew_eq hop _ (p.bytes_lt 16 23), State.mem_passedTo] at he
  exact ⟨_, he, ⟨rfl, State.get?_passedTo_self h.queue p.len w sp⟩, rfl⟩

/-- An apply packet without a closure stores the status of a handle that dangles (17 R323). -/
theorem AtHead.applies_null (hkind : p.kind = 4) (ha : p.bytes 24 31 ≠ 0) (h4 : v.len = 4) (hr : Reached s v)
    (hv : s.devParts x.core x.ctx .write 2 (p.bytes 24 31) 4 = .ok [v]) (hnull : (p.bytes 8 15).testBit 63 = false) :
    Completes (.applyPacket q) s fun t =>
      t.mem = Memory.writeN v.key (2 ^ 28 + bits (p.bytes 8 15) 31 23 * 2 ^ 7) 4
        (Memory.writeN w.key ((x.rdidx.toNat + p.len) % 2 ^ 64) 8 s.mem) ∧ t.queues.get? q = some (passed x p.len) := by
  have hlocal : ∀ q ∈ [v], keyPackage q.key = none := fun q hq => List.mem_singleton.1 hq ▸ hr.1
  have hupset : s.applyUpset x (p.bytes 8 15) = none := by
    unfold State.applyUpset
    rw [State.checkHandle_of_null hnull]
    rfl
  have hspawn : ∀ u : State, u.applySpawn x (p.bytes 8 15) (p.bytes 16 23) = (u, 2 ^ 28 + bits (p.bytes 8 15) 31 23 * 2 ^ 7) := fun u => by
    unfold State.applySpawn
    rw [State.checkHandle_of_null hnull]
    simp [spawnStatus]
  have he : exec (.applyPacket q) s = .next (s.pass q x p.len fun s =>
      s.putParts (.engine x.die) (2 ^ 28 + bits (p.bytes 8 15) 31 23 * 2 ^ 7) [v]) := by
    rw [exec_applyPacket, execApplyPacket, h.startPacket_eq hkind]
    simp only [if_neg ha, State.namedParts_of_one hv hr, hupset, hspawn, State.sendParts_of_local _ _ _ _ _ hlocal]
  obtain ⟨sp, hp⟩ := h.pass_eq fun s => s.putParts (.engine x.die) (2 ^ 28 + bits (p.bytes 8 15) 31 23 * 2 ^ 7) [v]
  obtain ⟨sp', hput⟩ := State.putParts_of_early_nil (s := s.passedTo q x p.len w sp) h.settled (.engine x.die)
    (2 ^ 28 + bits (p.bytes 8 15) 31 23 * 2 ^ 7) [v]
  rw [hp, hput] at he
  refine ⟨_, he, ?_, State.get?_passedTo_self h.queue p.len w sp⟩
  simp only [Memory.writeParts, h4]
  rfl

end

end Sys2Proof.Claims
end

section
/-! PROOFS. Waits (05 R93, R97, R98), and the strand that an apply packet starts (17 R315, R316). -/

namespace Sys2Proof.Machine
open Sys2Proof.Claims

/-! ## A wait is evaluated -/

theorem Memory.readN_congr {m m' : Memory} {k n : Nat} (h : ∀ i, i < n → m'.read (k + i) = m.read (k + i)) : m'.readN k n = m.readN k n := by
  induction n generalizing k with
  | zero => rfl
  | succ n ih =>
    have h0 : m'.read k = m.read k := h 0 (Nat.succ_pos n)
    rw [Memory.readN, Memory.readN, h0, ih fun i hi => ?_]
    rw [show k + 1 + i = k + (i + 1) by omega]
    exact h _ (by omega)

/-- Bytes that a write does not meet read as before. -/
theorem Memory.readN_writeN_of_apart (m : Memory) {k n a l : Nat} (v : Nat) (h : a + l ≤ k ∨ k + n ≤ a) :
    (m.writeN k v n).readN a l = m.readN a l :=
  Memory.readN_congr fun i hi => Memory.read_writeN_of_outside m v (by omega)

/-- A wait whose signal is reached: it is over, or the queue is blocked at it. -/
theorem State.evalWait_of_reached {s : State} {x : Queue} {wt : Waiting} {v : Part} (q : Nat) (he : s.early = []) (h8 : v.len = 8)
    (hr : Reached s v) (hv : s.devParts x.core x.ctx .read 2 wt.addr 8 = .ok [v]) :
    s.evalWait q x wt =
      if waitHolds wt.cond (s.mem.readN v.key 8) wt.cmp then
        s.modQueue q fun x => { x with st := if x.rdidx = x.wridx then .mapped else .running, waiting := none }
      else if x.st = .blocked then s else s.modQueue q fun x => { x with st := .blocked, blockedAt := s.devTime } := by
  unfold State.evalWait State.signalNow
  rw [State.devRead_of_one (len := 8) he hv hr h8]
  dsimp only
  cases waitHolds wt.cond (s.mem.readN v.key 8) wt.cmp with
  | true => rfl
  | false => rfl

/-- The queue waits at a packet that it has passed. -/
def State.waitsAt (s : State) (q : Nat) (y : Queue) (wt : Waiting) : State :=
  { s with queues := s.queues.set q { y with waiting := some wt } }

theorem Queue.passed_st (x : Queue) (len : Nat) : (passed x len).st ≠ .blocked := by
  unfold passed
  dsimp only
  split
  · nofun
  · nofun

/-! ## The strand of a closure -/

theorem State.spawnRoom_of_one {s : State} {core ctx idx hank b lane : Nat} {hk : Hank} (hb : s.spawnBraids core = [(idx, hank, b)])
    (hh : s.hanks.get? hank = some hk) (hc : hk.ctx = ctx) (hl : s.freeLane b = some lane) (prio : Nat) :
    s.spawnRoom core ctx prio = some (s, hank, idx, b, lane) := by
  have hmine : ([(idx, hank, b)].filter fun p => ((s.hanks.get? p.2.1).map Hank.ctx) == some ctx) = [(idx, hank, b)] := by
    simp [hh, hc]
  unfold State.spawnRoom
  dsimp only
  rw [hb, hmine]
  simp only [List.findSome?_cons, hl, Option.map_some]

/-- The strand of a closure `h` on environment `e` starts in its lane. -/
def State.startClosure (s : State) (hank idx b lane : Nat) (h arg : DWord) (e : Env) (base size : Nat) (opener : Option Nat) : State :=
  (s.fresh.2.setAside s.uid ((s.strand? (posOf b lane)).toList.map fun x => (posOf b lane, x))).startStrand (posOf b lane) hank
    (32 * idx + lane) opener 64 0 arg e.entry none base size fun r => { r.write (e.captures 2) 0 with k := r.k.set 0 h }

/-- A spawn that finds its closure live and a lane for it. -/
theorem State.spawn_of_room {s t : State} {ctx hank idx b lane prio : Nat} {h : DWord} (hlive : s.spansLive (s.env (envKey h)) = true)
    (hadd : s.addRef (envKey h) = some t) (hroom : t.spawnRoom (envKey h / 2048) ctx prio = some (t, hank, idx, b, lane)) (arg : DWord)
    (opener : Option Nat) (l : List Nat) : ∃ base size, (s.spawn ctx h arg prio opener l).1 =
      ((t.startClosure hank idx b lane h arg (s.env (envKey h)) base size opener).beginObserving (posOf b lane) l).modBraid b
        fun br => { br with lanes := br.lanes ||| BitVec.twoPow 32 lane } := by
  refine ⟨(((s.ctxs.get? ctx).map Ctx.spBase).getD 0).toNat, ((s.ctxs.get? ctx).map Ctx.spSize).getD 0, ?_⟩
  unfold State.spawn
  dsimp only
  rw [hlive, hadd]
  simp only [Bool.not_true, Bool.false_eq_true, if_false, hroom]
  rfl

theorem State.beginObserving_only (s : State) (pos : Nat) (l : List Nat) : OnlyWrites s (s.beginObserving pos l) := by
  unfold State.beginObserving
  split
  · exact State.acquire_only ..
  · exact .refl s

/-- What a write leaves of strands, environments and queues: all. -/
theorem OnlyWrites.keeps {s t : State} (h : OnlyWrites s t) : t.strands = s.strands ∧ t.envs = s.envs ∧ t.queues = s.queues := by
  obtain ⟨m, e, x, rfl, -⟩ := h
  exact ⟨rfl, rfl, rfl⟩

/-- What stands at a strand's place where a closure has been started with an argument (17 R315). -/
def ClosureStarted (t : State) (hank idx b lane : Nat) (h arg : DWord) (e : Env) : Prop :=
  ∃ y, t.strand? (posOf b lane) = some y ∧ y.hank = hank ∧ y.index = 32 * idx + lane ∧ y.run = .candidate ∧
    y.regs.pc = ⟨e.entry, 0⟩ ∧ y.regs.k = h :: List.replicate 7 0 ∧
    y.regs.v = ((e.captures 2).foldl (fun v r => v.set r.1 r.2) (Regs.start 64 0 arg 0 0 none).v)

theorem State.closureStarted (s : State) (hank idx b lane : Nat) (h arg : DWord) (e : Env) (base size : Nat) (opener : Option Nat) :
    ClosureStarted (s.startClosure hank idx b lane h arg e base size opener) hank idx b lane h arg e :=
  ⟨_, AMap.get?_set_self .., rfl, rfl, rfl, rfl, rfl, rfl⟩

theorem ClosureStarted.congr {s t : State} {hank idx b lane : Nat} {h arg : DWord} {e : Env} (hs : ClosureStarted s hank idx b lane h arg e)
    (ht : t.strands = s.strands) : ClosureStarted t hank idx b lane h arg e := by
  obtain ⟨y, hy, hrest⟩ := hs
  exact ⟨y, (State.strand?_congr ht _).trans hy, hrest⟩

theorem State.env_congr {s t : State} (h : t.envs = s.envs) (k : Nat) : t.env k = s.env k := by
  rw [State.env, State.env, h]

theorem State.env_setEnv_self (s : State) (k : Nat) (e : Env) : (s.setEnv k e).env k = e := by
  rw [State.env, State.setEnv, AMap.getD, AMap.get?_set_self, Option.getD_some]

/-- A spawn of a closure without spans, with a lane free in the one spawn braid of its core: the closure is counted once more, and its
strand starts. -/
theorem State.spawn_starts {s : State} {ctx hank idx b lane : Nat} {h : DWord} {hk : Hank} (hmax : (s.env (envKey h)).refs < 65535)
    (hspans : (s.env (envKey h)).spans = []) (hb : s.spawnBraids (envKey h / 2048) = [(idx, hank, b)])
    (hh : s.hanks.get? hank = some hk) (hc : hk.ctx = ctx) (hl : s.freeLane b = some lane) (arg : DWord) (prio : Nat)
    (opener : Option Nat) (l : List Nat) :
    let t := (s.spawn ctx h arg prio opener l).1
    t.queues = s.queues ∧ t.env (envKey h) = { s.env (envKey h) with refs := (s.env (envKey h)).refs + 1 } ∧
      ClosureStarted t hank idx b lane h arg (s.env (envKey h)) := by
  let counted := s.setEnv (envKey h) { s.env (envKey h) with refs := (s.env (envKey h)).refs + 1 }
  have hlive : s.spansLive (s.env (envKey h)) = true := by
    unfold State.spansLive
    rw [hspans]
    rfl
  have hadd : s.addRef (envKey h) = some counted := if_pos hmax
  have hroom : counted.spawnRoom (envKey h / 2048) ctx prio = some (counted, hank, idx, b, lane) :=
    State.spawnRoom_of_one (s := counted) hb hh hc hl prio
  obtain ⟨base, size, hspawn⟩ := State.spawn_of_room hlive hadd hroom arg opener l
  obtain ⟨hstrands, henvs, hqueues⟩ :=
    (State.beginObserving_only (counted.startClosure hank idx b lane h arg (s.env (envKey h)) base size opener) (posOf b lane) l).keeps
  dsimp only
  rw [hspawn]
  refine ⟨hqueues, ?_, ?_⟩
  · rw [State.env_congr ((State.envs_modBraid ..).trans henvs)]
    exact s.env_setEnv_self (envKey h) _
  · exact (State.closureStarted ..).congr ((State.strands_modBraid ..).trans hstrands)

/-- A handle as the closure words form it, of a live closure of its context, passes its checks (17 R309, R320). -/
theorem State.checkHandle_of_live {s : State} {ctx v : Nat} (hbit : v.testBit 63 = true) (h56 : bits v 62 56 = 0)
    (h0 : bits v 11 0 = 0) (hcore : bits v 31 23 ≤ 383) (hctx : bits v 55 48 = ctx)
    (hlive : (s.env (envKey (BitVec.ofNat 64 v))).st = .live) (henv : (s.env (envKey (BitVec.ofNat 64 v))).ctx = ctx)
    (hcheck : (s.env (envKey (BitVec.ofNat 64 v))).check = bits v 47 32) :
    s.checkHandle ctx v = .ok (BitVec.ofNat 64 v) := by
  have hc : ¬ 383 < bits v 31 23 := by omega
  unfold State.checkHandle
  simp only [hbit, h56, h0, hctx, hlive, henv, hcheck, hc, Bool.not_true, Bool.false_eq_true, if_false, ne_eq, not_true_eq_false,
    or_self, and_false]

theorem envKey_ofNat {v : Nat} (hv : v < 2 ^ 64) : envKey (BitVec.ofNat 64 v) = bits v 31 23 * 2048 + bits v 22 12 := by
  rw [envKey, BitVec.toNat_ofNat, Nat.mod_eq_of_lt hv]

theorem ofNat_ne_zero_of_testBit {v : Nat} (hv : v < 2 ^ 64) (hbit : v.testBit 63 = true) : (BitVec.ofNat 64 v : DWord) ≠ 0 := by
  intro h
  have h0 : v = 0 := by
    have h' := congrArg BitVec.toNat h
    rwa [BitVec.toNat_ofNat, Nat.mod_eq_of_lt hv] at h'
  rw [h0] at hbit
  exact absurd hbit (by decide)

end Sys2Proof.Machine

namespace Sys2Proof.Claims
open Sys2Proof.Machine

section
variable {s : State} {q : Nat} {x : Queue} {p : Packet} {w v : Part} (h : AtHead s q x p w)
include h

/-- A wait packet whose signal is reached is passed, and evaluated past it. -/
theorem AtHead.waitPacket_eq (hkind : p.kind = 2) (h8 : v.len = 8) (hr : Reached s v) (hapart : v.key + 8 ≤ w.key ∨ w.key + 8 ≤ v.key)
    (hv : ∀ m, ({ s with mem := m } : State).devParts x.core x.ctx .read 2 (p.bytes 8 15) 8 = .ok [v]) :
    ∃ sp, exec (.waitPacket q) s = .next (
      let u := (s.passedTo q x p.len w sp).waitsAt q (passed x p.len) (x.waitOf p)
      if waitHolds (p.bytes 24 24) (s.mem.readN v.key 8) (p.bytes 16 23) then
        u.modQueue q fun x => { x with st := if x.rdidx = x.wridx then .mapped else .running, waiting := none }
      else u.modQueue q fun x => { x with st := .blocked, blockedAt := s.devTime }) := by
  obtain ⟨sp, hp⟩ := h.pass_eq fun s => match s.queues.get? q with
    | some y => (s.waitsAt q y (x.waitOf p)).evalWait q y (x.waitOf p)
    | none => s
  have hnow : s.signalNow x (x.waitOf p) = .ok (waitHolds (p.bytes 24 24) (s.mem.readN v.key 8) (p.bytes 16 23)) := by
    have hread := State.devRead_of_one (len := 8) h.settled (hv s.mem) hr h8
    unfold State.signalNow
    rw [show s.devRead x.core x.ctx (x.waitOf p).addr 8 = _ from hread]
    rfl
  have hstart : s.startWait q x p = s.pass q x p.len fun s => match s.queues.get? q with
      | some y => (s.waitsAt q y (x.waitOf p)).evalWait q y (x.waitOf p)
      | none => s := by
    unfold State.startWait
    rw [hnow]
    rfl
  have hsame : SameTables { s with mem := (s.passedTo q x p.len w sp).mem }
      ((s.passedTo q x p.len w sp).waitsAt q (passed x p.len) (x.waitOf p)) :=
    ⟨rfl, rfl, rfl, rfl, rfl, rfl, rfl, rfl, rfl, rfl, rfl, fun _ => rfl, fun _ => rfl⟩
  have heval := State.evalWait_of_reached (x := passed x p.len) (wt := x.waitOf p) q
    (s := (s.passedTo q x p.len w sp).waitsAt q (passed x p.len) (x.waitOf p)) h.settled h8 (hsame.reached hr)
    ((hsame.devParts_eq ..).trans (hv _))
  have hmem : ((s.passedTo q x p.len w sp).waitsAt q (passed x p.len) (x.waitOf p)).mem.readN v.key 8 = s.mem.readN v.key 8 :=
    Memory.readN_writeN_of_apart s.mem _ hapart
  refine ⟨sp, ?_⟩
  rw [exec_waitPacket, execWaitPacket_of_past h.queue h.past, h.startPacket_eq hkind, hstart, hp,
    State.get?_passedTo_self h.queue p.len w sp]
  dsimp only
  rw [heval, hmem, if_neg (Queue.passed_st x p.len)]
  rfl

/-- An apply packet without a status address: its handle is checked, RDIDX passes it, and the closure starts. -/
theorem AtHead.applyPacket_eq (hkind : p.kind = 4) (ha : p.bytes 24 31 = 0) {hd : DWord} (hd0 : hd ≠ 0)
    (hcheck : ∀ m qs sp, ({ s with mem := m, queues := qs, spoiled := sp } : State).checkHandle x.ctx (p.bytes 8 15) = .ok hd) :
    ∃ sp, exec (.applyPacket q) s = .next (match s.spansFault (s.env (envKey hd)) with
      | some f => s.upsetFault x.ctx x.core 0 srcSpill f
      | none =>
        let u := s.passedTo q x p.len w sp
        let r := u.spawn x.ctx hd (BitVec.ofNat 64 (p.bytes 16 23)) 0 none []
        r.1.putParts (.engine x.die) r.2 []) := by
  have hupset : s.applyUpset x (p.bytes 8 15) = s.spansFault (s.env (envKey hd)) := by
    unfold State.applyUpset
    rw [show s.checkHandle x.ctx (p.bytes 8 15) = .ok hd from hcheck s.mem s.queues s.spoiled]
    exact if_neg hd0
  obtain ⟨sp, hp⟩ := h.pass_eq fun s =>
    ((s.applySpawn x (p.bytes 8 15) (p.bytes 16 23)).1.putParts (.engine x.die) (s.applySpawn x (p.bytes 8 15) (p.bytes 16 23)).2 [])
  have hspawn : (s.passedTo q x p.len w sp).applySpawn x (p.bytes 8 15) (p.bytes 16 23) =
      (s.passedTo q x p.len w sp).spawn x.ctx hd (BitVec.ofNat 64 (p.bytes 16 23)) 0 none [] := by
    unfold State.applySpawn
    dsimp only
    rw [show (s.passedTo q x p.len w sp).checkHandle x.ctx (p.bytes 8 15) = .ok hd from hcheck _ _ _]
    exact if_neg hd0
  refine ⟨sp, ?_⟩
  rw [exec_applyPacket, execApplyPacket, h.startPacket_eq hkind]
  dsimp only
  rw [if_pos ha]
  dsimp only
  rw [hupset]
  cases s.spansFault (s.env (envKey hd)) with
  | some f => rfl
  | none =>
    rw [hspawn] at hp
    exact congrArg Host.Outcome.next hp

end

end Sys2Proof.Claims
end

section
/-! PROOFS. The obligations of packets. -/

namespace Sys2Proof
open Sys2Proof.Machine Sys2Proof.Claims

/-- One kind of packet after the other; each is past once RDIDX is written (`AtHead.pass_eq`). -/
theorem packetsRun : PacketsRun := by
  intro s q x p w h hm
  dsimp only
  refine ⟨fun hkind => h.passes hm (h.skipPacket_eq hkind), fun hkind hnone => h.passes hm ?_, fun hkind hsome => ?_,
    fun k hkind ⟨hread, hcode⟩ hdue => h.launches hm hread hcode ?_, fun k hkind ⟨hread, hcode⟩ ht hdue => h.launches hm hread hcode ?_,
    fun hkind ht hfeat hlate => ?_, fun v hkind hop h8 hr hv => h.signals hkind hop h8 hr hv,
    fun v hkind ha h4 hr hv hnull => h.applies_null hkind ha h4 hr hv hnull, fun v hkind h8 hr hapart hv => ?_⟩
  · rw [h.fencePacket_eq hkind, if_neg (not_not.2 hnone)]
  · rw [h.fencePacket_eq hkind, if_pos hsome]
  · rw [h.launchPacket_eq hkind, if_pos (State.due_of_time hdue)]
  · rw [h.timedLaunchStart_eq hkind, if_pos ⟨ht, State.due_of_time hdue⟩]
  · have hdue := State.due_of_early ht hfeat hlate
    rw [h.launchPacket_eq hkind, h.timedLaunchStart_eq hkind, hdue]
    exact ⟨rfl, by simp⟩
  · obtain ⟨sp, he⟩ := h.waitPacket_eq hkind h8 hr hapart hv
    dsimp only at he
    have hwaits : ((s.passedTo q x p.len w sp).waitsAt q (passed x p.len) (x.waitOf p)).queues.get? q =
        some { passed x p.len with waiting := some (x.waitOf p) } := AMap.get?_set_self ..
    have hothers : ∀ (f : Queue → Queue) r, r ≠ q →
        (((s.passedTo q x p.len w sp).waitsAt q (passed x p.len) (x.waitOf p)).modQueue q f).queues.get? r =
          (s.passedTo q x p.len w sp).queues.get? r := fun f r hr =>
      (State.get?_modQueue_ne _ hr f).trans (AMap.get?_set_ne _ _ hr.symm)
    refine ⟨fun htrue => ?_, fun hfalse => ?_⟩
    · rw [htrue, if_pos rfl] at he
      refine ⟨_, he, State.moved_of_passedTo hm sp rfl ((State.get?_modQueue_self hwaits _).trans (congrArg some ?_)) (hothers _)⟩
      simp only [passed, h.past]
    · rw [hfalse, if_neg Bool.false_ne_true] at he
      exact ⟨_, he, State.moved_of_passedTo hm sp rfl (State.get?_modQueue_self hwaits _) (hothers _)⟩

/-- The handle passes its checks (`State.checkHandle_of_live`), and what starts is told by `State.spawn_starts`. -/
theorem applyPacketSpawns : ApplyPacketSpawns := by
  intro s q x p w idx hank hk b lane h hkind ha
  dsimp only
  intro hbit h56 h0 hcore hctx hlive henv hcheck
  have hv : p.bytes 8 15 < 2 ^ 64 := p.bytes_lt 8 15
  have hkey := envKey_ofNat hv
  have hhandle : ∀ m qs sp, ({ s with mem := m, queues := qs, spoiled := sp } : State).checkHandle x.ctx (p.bytes 8 15) =
      .ok (BitVec.ofNat 64 (p.bytes 8 15)) := fun m qs sp => by
    rw [← hkey] at hlive henv hcheck
    exact State.checkHandle_of_live hbit h56 h0 hcore hctx hlive henv hcheck
  obtain ⟨sp, he⟩ := h.applyPacket_eq hkind ha (ofNat_ne_zero_of_testBit hv hbit) hhandle
  rw [hkey] at he
  refine ⟨fun f hf => ⟨_, ?_, rfl⟩, fun hrefs hmax hspans hbraids hhank hhk hlane => ?_⟩
  · rw [he, hf]
  · have hnone : s.spansFault (s.env (bits (p.bytes 8 15) 31 23 * 2048 + bits (p.bytes 8 15) 22 12)) = none := by
      unfold State.spansFault
      rw [hspans]
      rfl
    rw [hnone] at he
    dsimp only at he
    have hlow : bits (p.bytes 8 15) 22 12 < 2048 := bits_lt ..
    have hhome : envKey (BitVec.ofNat 64 (p.bytes 8 15)) / 2048 = bits (p.bytes 8 15) 31 23 := by omega
    obtain ⟨hqueues, henvs, hstarted⟩ := State.spawn_starts (s := s.passedTo q x p.len w sp) (ctx := x.ctx)
      (h := BitVec.ofNat 64 (p.bytes 8 15)) (by rw [hkey]; exact hmax) (by rw [hkey]; exact hspans)
      (by rw [hhome]; exact hbraids) hhank hhk hlane (BitVec.ofNat 64 (p.bytes 16 23)) 0 none []
    rw [hkey] at henvs hstarted
    generalize (s.passedTo q x p.len w sp).spawn x.ctx (BitVec.ofNat 64 (p.bytes 8 15)) (BitVec.ofNat 64 (p.bytes 16 23)) 0 none [] = r
      at he hqueues henvs hstarted
    obtain ⟨hstrands, hput, hq⟩ := (State.putParts_only r.1 (.engine x.die) r.2 []).keeps
    refine ⟨_, he, ?_, (State.env_congr hput _).trans henvs, hstarted.congr hstrands⟩
    rw [hq, hqueues]
    exact State.get?_passedTo_self h.queue p.len w sp

/-- Settles O41: each kind of packet past the head of its queue, and the strand of an apply packet's closure. -/
theorem packetsRunAndSpawn : Obligations.PacketsRunAndSpawn := ⟨packetsRun, applyPacketSpawns⟩

end Sys2Proof
end

section
/-! PROOFS. Threads of a queue engine, the write index, and the list of queues that wait for a thread (05 R88, R91, R97, R98). -/

namespace Sys2Proof.Machine
open Sys2Proof.Claims

/-! ## Doorbells and polls -/

/-- The offset of a doorbell names its context and die (19 R355). -/
theorem doorbellPage_eq (page : Nat) {byte : Nat} (h : byte < 65536) : doorbellPage (page * 65536 + byte) = (page / 8, page % 8) := by
  have hpage : (page * 65536 + byte) / 65536 = page := by omega
  rw [doorbellPage, hpage]

/-- A queue whose doorbell has been taken: WRIDX is `n`, and DOORVAL holds it. -/
def Queue.belled (x : Queue) (n : Nat) : Queue := { x with wridx := BitVec.ofNat 64 n, doorval := BitVec.ofNat 64 n, bell := none }

/-- The state after the engine has taken a doorbell, but for a thread that the queue asks for. -/
def State.belled (s : State) (q n : Nat) (w : Part) (sp : List (Nat × Nat)) : State :=
  ({ s with mem := s.mem.writeN w.key n 8, spoiled := sp } : State).modQueue q fun y => y.belled n

theorem State.ring_of_reached {s : State} {x : Queue} {r w : Part} (q : Nat) (he : s.early = []) (hr8 : r.len = 8) (hw8 : w.len = 8)
    (hr : Reached s r) (hw : Reached s w) (hread : s.devParts x.core x.ctx .read 2 ((x.desc.toNat + 16) % 2 ^ 64) 8 = .ok [r])
    (hwrite : s.devParts x.core x.ctx .write 2 ((x.desc.toNat + 32) % 2 ^ 64) 8 = .ok [w]) :
    ∃ sp, s.ring q x = if x.st = .created ∨ x.st = .unmapped then (s.belled q (s.mem.readN r.key 8) w sp).request q x
      else s.belled q (s.mem.readN r.key 8) w sp := by
  obtain ⟨sp, hput⟩ := State.devWrite_of_one (len := 8) he hwrite hw (s.mem.readN r.key 8)
  refine ⟨sp, ?_⟩
  unfold State.ring Queue.read Queue.write
  rw [State.devRead_of_one (len := 8) he hread hr hr8]
  dsimp only
  rw [hput, hw8]
  rfl

/-- A change of a queue that leaves its die and its thread leaves how many threads are given. -/
theorem State.threads_modQueue (s : State) (q die : Nat) {f : Queue → Queue} (hdie : ∀ x, (f x).die = x.die)
    (hthread : ∀ x, (f x).thread = x.thread) : (s.modQueue q f).threads die = s.threads die := by
  unfold State.threads State.modQueue AMap.modify
  rw [List.filter_map, List.length_map]
  refine congrArg List.length (List.filter_congr fun p _ => ?_)
  dsimp only [Function.comp]
  split
  · rw [hdie, hthread]
  · rfl

theorem State.askThread_of_absent {s : State} {q die : Nat} (h : q ∉ s.mapList die) :
    s.askThread q die = { s with mapLists := s.mapLists.set die (s.mapList die ++ [q]) } := by
  have hout : ¬ (s.mapList die).contains q = true := by rwa [List.contains_iff_mem]
  exact if_neg hout

section
variable {s : State} {q : Nat} {x : Queue} (n : Nat) (w : Part) (sp : List (Nat × Nat))

theorem State.threadFree_belled (y : Queue) : (s.belled q n w sp).threadFree y = s.threadFree y := by
  have hthreads : (s.belled q n w sp).threads y.die = s.threads y.die := State.threads_modQueue _ q y.die (fun _ => rfl) fun _ => rfl
  unfold State.threadFree
  rw [hthreads]
  rfl

theorem State.get?_belled (hq : s.queues.get? q = some x) : (s.belled q n w sp).queues.get? q = some (x.belled n) :=
  State.get?_modQueue_self hq _

/-- A queue that asks with a thread free and none waiting before it is mapped. -/
theorem State.request_belled_of_free (hq : s.queues.get? q = some x) (hfree : s.threadFree x = true) (hl : s.mapList x.die = []) :
    ∃ l m, (s.belled q n w sp).request q x = { s.belled q n w sp with queues := l, launches := m } ∧
      l.get? q = some { x.belled n with st := .mapped, thread := true } :=
  (State.request_of_alone (State.get?_belled n w sp hq) hl).1 ((State.threadFree_belled n w sp x).trans hfree)

/-- One that asks with no thread free waits at the tail of its die's list. -/
theorem State.request_belled_of_busy (hfree : s.threadFree x = false) (hl : q ∉ s.mapList x.die) :
    (s.belled q n w sp).request q x =
      { s.belled q n w sp with mapLists := s.mapLists.set x.die (s.mapList x.die ++ [q]) } := by
  have hask : ¬ (s.belled q n w sp).threadFree x = true := by
    rw [State.threadFree_belled, hfree]
    exact Bool.false_ne_true
  unfold State.request
  rw [if_neg fun h => hask h.1]
  exact State.askThread_of_absent hl

end

theorem State.mapList_set (s : State) (die : Nat) (l : List Nat) : ({ s with mapLists := s.mapLists.set die l } : State).mapList die = l := by
  unfold State.mapList AMap.getD
  rw [AMap.get?_set_self]
  rfl

theorem execDoorbell_eq {s : State} {page byte q : Nat} {va : DWord} {x : Queue} (hbyte : byte < 65536)
    (hq : s.queueAt (page / 8) va = some (q, x)) (hdie : x.die = page % 8) (hbell : x.bell = none) :
    execDoorbell page byte va s = .next (s.ring q x) := by
  unfold execDoorbell
  rw [doorbellPage_eq page hbyte]
  dsimp only
  rw [hq]
  dsimp only
  rw [hbell, if_neg (by simp [hdie])]

theorem execWridxPoll_of_reached {s : State} {q : Nat} {x : Queue} {r : Part} (hq : s.queues.get? q = some x) (hthread : x.thread = true)
    (hruns : s.ctxRuns x.ctx = true) (hst : x.st = .mapped ∨ x.st = .running ∨ x.st = .blocked) (hbell : x.bell = none)
    (he : s.early = []) (h8 : r.len = 8) (hr : Reached s r)
    (hread : s.devParts x.core x.ctx .read 2 ((x.desc.toNat + 16) % 2 ^ 64) 8 = .ok [r]) :
    execWridxPoll q s = .next (s.modQueue q fun x => { x with wridx := BitVec.ofNat 64 (s.mem.readN r.key 8) }) := by
  unfold execWridxPoll Queue.read
  rw [hq]
  dsimp only
  rw [hbell, if_neg nofun, hthread, hruns, State.devRead_of_one (len := 8) he hread hr h8]
  rcases hst with h | h | h <;> rw [h] <;> rfl

/-! ## The list of a die -/

/-- The launches of a queue that receives a thread go on, and no others are told anything. -/
theorem State.get?_launches_mapQueue (s : State) (q k : Nat) :
    (s.mapQueue q).launches.get? k = (s.launches.get? k).map fun l => if l.queue = q then { l with stopped := false } else l :=
  AMap.get?_mapVals (fun _ (l : Launch) => if l.queue = q then { l with stopped := false } else l) s.launches k

theorem execQueueMap_of_next {s : State} {die q : Nat} (h : s.nextMapped die = some q) :
    execQueueMap die s = .next (({ s with mapLists := s.mapLists.set die ((s.mapList die).filter (· != q)) } : State).mapQueue q) := by
  unfold execQueueMap
  rw [h]

theorem execQueueMap_of_none {s : State} {die : Nat} (h : s.nextMapped die = none) : execQueueMap die s = .next s := by
  unfold execQueueMap
  rw [h]

/-- Of two queues the one blocked longer, the first of those blocked at the same time (log 69). -/
def longerBlocked (m : Option (Nat × Queue)) (p : Nat × Queue) : Option (Nat × Queue) :=
  match m with
  | none => some p
  | some y => if p.2.blockedAt < y.2.blockedAt then some p else some y

/-- A queue blocked longer than all others of a list is found there. -/
theorem foldl_longerBlocked {a : Nat × Queue} {l : List (Nat × Queue)} {m : Option (Nat × Queue)}
    (hl : ∀ p ∈ l, p ≠ a → a.2.blockedAt < p.2.blockedAt)
    (hm : m = some a ∨ (a ∈ l ∧ ∀ y, m = some y → a.2.blockedAt < y.2.blockedAt)) : l.foldl longerBlocked m = some a := by
  induction l generalizing m with
  | nil =>
    rcases hm with h | ⟨h, -⟩
    · exact h
    · cases h
  | cons p l ih =>
    obtain ⟨hp, hl⟩ := List.forall_mem_cons.1 hl
    refine ih hl ?_
    by_cases hpa : p = a
    · subst hpa
      left
      rcases hm with rfl | ⟨-, hlate⟩
      · exact if_neg (Nat.lt_irrefl _)
      · cases m with
        | none => rfl
        | some y => exact if_pos (hlate y rfl)
    · rcases hm with rfl | ⟨ha, hlate⟩
      · exact .inl (if_neg (Nat.lt_asymm (hp hpa)))
      · refine .inr ⟨(List.mem_cons.1 ha).resolve_left fun e => hpa e.symm, fun y hy => ?_⟩
        cases m with
        | none => exact Option.some.inj hy ▸ hp hpa
        | some z =>
          unfold longerBlocked at hy
          dsimp only at hy
          split at hy
          · exact Option.some.inj hy ▸ hp hpa
          · exact Option.some.inj hy ▸ hlate z rfl

theorem execQueueUnmap_eq (die : Nat) (s : State) : execQueueUnmap die s = .next (
    if s.mapList die = [] ∨ s.threads die < 32 then s
    else match (s.queues.filter fun p => p.2.die == die && p.2.st == .blocked && p.2.preempting.isNone).foldl longerBlocked none with
      | none => s
      | some (q, _) => (s.modQueue q fun x => { x with st := .unmapped, thread := false }).askThread q die) := rfl

/-- The queue blocked longest gives up its thread and waits at the tail. -/
theorem execQueueUnmap_of_longest {s : State} {die q : Nat} {x : Queue} (hlist : s.mapList die ≠ []) (hthreads : 32 ≤ s.threads die)
    (hmem : (q, x) ∈ s.queues) (hdie : x.die = die) (hst : x.st = .blocked) (hpre : x.preempting = none) (hout : q ∉ s.mapList die)
    (hlong : ∀ r y, (r, y) ∈ s.queues → (r, y) ≠ (q, x) → y.die = die → y.st = .blocked → y.preempting = none →
      x.blockedAt < y.blockedAt) :
    execQueueUnmap die s = .next { s.modQueue q fun x => { x with st := .unmapped, thread := false } with
      mapLists := s.mapLists.set die (s.mapList die ++ [q]) } := by
  have hfound : (s.queues.filter fun p => p.2.die == die && p.2.st == .blocked && p.2.preempting.isNone).foldl longerBlocked none =
      some (q, x) := by
    have hblocked : (q, x) ∈ s.queues.filter fun p => p.2.die == die && p.2.st == .blocked && p.2.preempting.isNone := by
      simp [List.mem_filter, hmem, hdie, hst, hpre]
    refine foldl_longerBlocked (fun p hp hne => ?_) (.inr ⟨hblocked, fun y hy => absurd hy (Option.some_ne_none y).symm⟩)
    obtain ⟨hp, hcond⟩ := List.mem_filter.1 hp
    simp only [Bool.and_eq_true, beq_iff_eq, Option.isNone_iff_eq_none] at hcond
    obtain ⟨⟨hd, hb⟩, hn⟩ := hcond
    exact hlong p.1 p.2 hp hne hd hb hn
  rw [execQueueUnmap_eq, if_neg fun h => h.elim hlist (Nat.not_lt.2 hthreads), hfound]
  exact congrArg Host.Outcome.next
    (State.askThread_of_absent (s := s.modQueue q fun x => { x with st := .unmapped, thread := false }) hout)

end Sys2Proof.Machine

namespace Sys2Proof
open Sys2Proof.Machine Sys2Proof.Claims

/-- A queue is mapped where a thread is free, and waits in the list of its die where none is. -/
theorem queueThreads : QueueThreads := by
  refine ⟨?_, ?_, ?_, fun s die h => ?_, ?_, fun s die h => ?_⟩
  · rintro s _ _ page byte va q x r w rfl rfl hbyte hat hq hdie hctx hbell hm he hr8 hw8 hr hw hread hwrite
    rw [← hctx] at hread hwrite
    obtain ⟨sp, hring⟩ := State.ring_of_reached q he hr8 hw8 hr hw hread hwrite
    have hexec : exec (.doorbell page byte va) s = .next (s.ring q x) :=
      (exec_doorbell page byte va s).trans (execDoorbell_eq hbyte hat hdie hbell)
    intro n y
    have hy : y = x.belled n := by
      unfold Queue.belled
      rw [← hbell]
    rw [hring] at hexec
    rw [hy, ← hdie]
    refine ⟨fun hidle => ?_, fun hidle hfree hl => ?_, fun hidle hfree hl => ?_⟩
    · rw [if_neg hidle] at hexec
      exact ⟨_, hexec, Memory.stores_of_writeN hm rfl, State.get?_belled _ w sp hq⟩
    · obtain ⟨l, m, hreq, hget⟩ := State.request_belled_of_free n w sp hq hfree hl
      rw [if_pos hidle, show State.request _ q x = _ from hreq] at hexec
      exact ⟨_, hexec, Memory.stores_of_writeN hm rfl, hget⟩
    · rw [if_pos hidle, State.request_belled_of_busy _ w sp hfree hl] at hexec
      exact ⟨_, hexec, Memory.stores_of_writeN hm rfl, State.get?_belled _ w sp hq, State.mapList_set _ x.die _⟩
  · intro s q x r hq hthread hruns hst hbell he h8 hr hread
    exact ⟨_, (exec_wridxPoll q s).trans (execWridxPoll_of_reached hq hthread hruns hst hbell he h8 hr hread), rfl⟩
  · intro s die q x hnext hq
    refine ⟨_, (exec_queueMap die s).trans (execQueueMap_of_next hnext), ?_, ?_, fun l hl => ?_, fun l y hl => ?_⟩
    · exact AMap.get?_modify_self hq fun x => { x with st := .mapped, thread := true }
    · show q ∉ State.mapList { s with mapLists := s.mapLists.set die ((s.mapList die).filter (· != q)) } die
      rw [State.mapList_set]
      simp
    · exact (State.get?_launches_mapQueue ..).trans (Option.map_eq_none_iff.2 hl)
    · exact (State.get?_launches_mapQueue ..).trans (Option.map_eq_some_iff.2 ⟨y, hl, rfl⟩)
  · rw [exec_queueMap, execQueueMap_of_none h]
  · intro s die q x hlist hthreads hmem hq hdie hst hpre hout hlong
    exact ⟨_, (exec_queueUnmap die s).trans (execQueueUnmap_of_longest hlist hthreads hmem hdie hst hpre hout hlong),
      AMap.get?_modify_self hq fun x => { x with st := .unmapped, thread := false }, State.mapList_set _ die _⟩
  · rw [exec_queueUnmap, execQueueUnmap_eq, if_pos (.inr h)]

end Sys2Proof
end

section
/-! PROOFS. Waits that go on, and time slices that pass (05 R97 to R99; 06 R109). -/

namespace Sys2Proof.Machine
open Sys2Proof.Claims

/-! ## Signals -/

/-- The wait of a blocked queue is evaluated when its signal may have changed. -/
theorem execSignalChange_of_blocked {s : State} {q : Nat} {x : Queue} {wt : Waiting} (hq : s.queues.get? q = some x)
    (hst : x.st = .blocked) (hw : x.waiting = some wt) (hruns : s.ctxRuns x.ctx = true) (hpre : x.preempting = none) :
    execSignalChange q s = .next (s.evalWait q x wt) := by
  unfold execSignalChange
  rw [hq]
  dsimp only
  rw [hw]
  dsimp only
  rw [if_pos ⟨hst, hruns, by rw [hpre]; rfl⟩]

/-! ## What a pre-empt begins with -/

/-- The state in which a queue is being pre-empted at a depth, and no hank of its launches is dispatched any more. -/
def State.preempting (s : State) (q d : Nat) : State :=
  { s.modQueue q fun x => { x with preempting := some (Nat.max d (x.preempting.getD 0)) } with
    launches := s.launches.mapVals fun _ l => if l.queue = q then { l with stopped := true } else l }

section
variable {s : State} {q : Nat} {x : Queue} (hq : s.queues.get? q = some x)
include hq

theorem State.preempt_of_running (hrun : x.st = .mapped ∨ x.st = .running ∨ x.st = .blocked) (d : Nat) :
    s.preempt q d = (s.preempting q d).goOnPreempt q := by
  unfold State.preempt
  rw [hq]
  dsimp only
  rw [if_neg (by rcases hrun with h | h | h <;> simp [h])]
  rfl

theorem State.get?_preempting (d : Nat) :
    (s.preempting q d).queues.get? q = some { x with preempting := some (Nat.max d (x.preempting.getD 0)) } :=
  State.get?_modQueue_self hq fun x => { x with preempting := some (Nat.max d (x.preempting.getD 0)) }

end

/-- Launches are told to stop or not by their queue alone. -/
theorem State.get?_launches_preempting (s : State) (q d k : Nat) :
    (s.preempting q d).launches.get? k = (s.launches.get? k).map fun l => if l.queue = q then { l with stopped := true } else l :=
  AMap.get?_mapVals (fun _ (l : Launch) => if l.queue = q then { l with stopped := true } else l) s.launches k

/-- Launches that stop are of the queues that they were of, and so are their hanks. -/
theorem State.queueHanks_preempting (s : State) (q d r : Nat) : (s.preempting q d).queueHanks r = s.queueHanks r := by
  unfold State.queueHanks
  refine congrArg (List.map Prod.fst) (List.filter_congr fun p _ => ?_)
  rw [State.get?_launches_preempting, Option.map_map]
  refine congrArg (fun o : Option Nat => (o == some r) && p.2.spawn.isNone) (congrArg (Option.map · _) (funext fun l => ?_))
  dsimp only [Function.comp]
  split
  · rfl
  · rfl

theorem State.queueHanks_stopHanks (s : State) (l : List Nat) (q : Nat) : (s.stopHanks l).queueHanks q = s.queueHanks q := by
  unfold State.queueHanks State.stopHanks AMap.mapVals
  rw [List.filter_map, List.map_map]
  refine congrArg₂ _ (funext fun _ => rfl) (List.filter_congr fun p _ => ?_)
  dsimp only [Function.comp]
  split
  · rfl
  · rfl

theorem State.get?_hanks_stopHanks {s : State} {l : List Nat} {h : Nat} {hk : Hank} (hl : h ∈ l) (hh : s.hanks.get? h = some hk) :
    (s.stopHanks l).hanks.get? h = some { hk with stopping := true } := by
  have hin : l.contains h = true := List.contains_iff_mem.2 hl
  refine (AMap.get?_mapVals (fun h (x : Hank) => if l.contains h then { x with stopping := true } else x) s.hanks h).trans ?_
  rw [hh]
  exact congrArg some (if_pos hin)

/-- Hanks of a queue that are told to stop, and a queue that is pre-empted, leave how quiet a hank is. -/
theorem State.hankQuiet_stopping (s : State) (q d : Nat) (l : List Nat) (h : Nat) :
    ((s.preempting q d).stopHanks l).hankQuiet h = s.hankQuiet h := rfl

/-! ## A pre-empt that waits -/

/-- While a hank of the queue is resident, a pre-empt waits. -/
theorem State.checkPreempt_of_resident {s : State} {q d : Nat} {x : Queue} (hq : s.queues.get? q = some x) (hp : x.preempting = some d)
    (hh : s.queueHanks q ≠ []) : s.checkPreempt q = s := by
  have hbusy : s.preemptBusy q d = true := by
    unfold State.preemptBusy
    cases hl : s.queueHanks q with
    | nil => exact absurd hl hh
    | cons h l => rfl
  unfold State.checkPreempt
  rw [hq]
  dsimp only
  rw [hp]
  dsimp only
  rw [hbusy]
  rfl

/-- At hank depth a pre-empt only waits for the hanks that are resident. -/
theorem State.goOnPreempt_of_hankDepth {s : State} {q : Nat} {x : Queue} (hq : s.queues.get? q = some x) (hp : x.preempting = some 0)
    (hh : s.queueHanks q ≠ []) : s.goOnPreempt q = s := by
  unfold State.goOnPreempt
  rw [hq]
  dsimp only
  rw [if_neg (by rw [hp]; simp)]
  exact State.checkPreempt_of_resident hq hp hh

/-- At instruction depth it tells its hanks to stop, and waits while one of them is not quiet. -/
theorem State.goOnPreempt_of_unquiet {s : State} {q h : Nat} {x : Queue} (hq : s.queues.get? q = some x) (hp : x.preempting = some 1)
    (hh : h ∈ s.queueHanks q) (hquiet : (s.stopHanks (s.queueHanks q ++ s.queueSpawned q)).hankQuiet h = false) :
    s.goOnPreempt q = s.stopHanks (s.queueHanks q ++ s.queueSpawned q) := by
  have hall : ¬ ((s.queueHanks q ++ s.queueSpawned q).all (s.stopHanks (s.queueHanks q ++ s.queueSpawned q)).hankQuiet &&
      (s.stopHanks (s.queueHanks q ++ s.queueSpawned q)).queueGhosts q) = true := fun hgo => by
    have hquiet' := List.all_eq_true.1 (Bool.and_eq_true_iff.1 hgo).1 h (List.mem_append_left _ hh)
    exact Bool.false_ne_true (hquiet.symm.trans hquiet')
  unfold State.goOnPreempt
  rw [hq]
  dsimp only
  rw [if_pos hp, if_neg hall]
  refine State.checkPreempt_of_resident hq hp ?_
  rw [State.queueHanks_stopHanks]
  exact List.ne_nil_of_mem hh

/-! ## Slices -/

section
variable {s : State} {q : Nat} {x : Queue} (hq : s.queues.get? q = some x)
include hq

/-- A slice that has passed pre-empts its queue, or deepens a pre-empt under way. -/
theorem execTimeSliceExpiry_of_passed (hslice : x.tslice ≠ 0) (hpassed : x.tslice * 1000 ≤ x.slice)
    (hdeep : x.preempting.all (fun d => decide (d < x.tsdepth)) = true) :
    execTimeSliceExpiry q s = .next (s.preempt q x.tsdepth) := by
  unfold execTimeSliceExpiry
  rw [hq]
  dsimp only
  rw [if_pos ⟨hslice, hpassed, hdeep⟩]

/-- One that has not passed, of a queue that nothing pre-empts, changes nothing. -/
theorem execTimeSliceExpiry_of_early (hearly : x.slice < x.tslice * 1000) (hpre : x.preempting = none) :
    execTimeSliceExpiry q s = .next s := by
  unfold execTimeSliceExpiry
  rw [hq]
  dsimp only
  rw [if_neg fun h => Nat.not_le.2 hearly h.2.1, if_neg (by rw [hpre]; exact Bool.false_ne_true)]

end

end Sys2Proof.Machine

namespace Sys2Proof
open Sys2Proof.Machine Sys2Proof.Claims

/-- A wait is evaluated (`State.evalWait_of_reached`); a slice that passes finds its queue idle, with hanks that are to retire, or with
hanks that are to stop. -/
theorem signalsAndSlices : SignalsAndSlices := by
  refine ⟨?_, ?_, ?_⟩
  · intro s q x wt v hq hst hw hruns hpre he h8 hr hv
    have hexec := (exec_signalChange q s).trans (execSignalChange_of_blocked hq hst hw hruns hpre)
    rw [State.evalWait_of_reached q he h8 hr hv] at hexec
    refine ⟨fun htrue => ?_, fun hfalse => ?_⟩
    · rw [if_pos htrue] at hexec
      exact ⟨_, hexec, rfl, State.get?_modQueue_self hq _⟩
    · rwa [if_neg (by rw [hfalse]; exact Bool.false_ne_true), if_pos hst] at hexec
  · intro s q x hq hpre hsvc hslice hrun
    have hdeep : x.preempting.all (fun d => decide (d < x.tsdepth)) = true := by rw [hpre]; rfl
    refine ⟨fun hpassed hh hv hb hl => ?_, fun hpassed hdepth hh => ?_, fun hearly => ?_⟩
    · have hexec := (exec_timeSliceExpiry q s).trans (execTimeSliceExpiry_of_passed hq hslice hpassed hdeep)
      rw [State.preempt_of_idle x.tsdepth hq hrun hsvc hh hv hb hl] at hexec
      refine ⟨_, hexec, rfl, (State.get?_modQueue_self (State.get?_modQueue_self hq _) _).trans ?_⟩
      rw [hpre]
    · have hexec := (exec_timeSliceExpiry q s).trans (execTimeSliceExpiry_of_passed hq hslice hpassed hdeep)
      have hget := State.get?_preempting hq 0
      rw [hpre] at hget
      rw [State.preempt_of_running hq hrun, hdepth, State.goOnPreempt_of_hankDepth hget rfl (by rwa [State.queueHanks_preempting])] at hexec
      refine ⟨_, hexec, rfl, hget, fun l y hl => ?_⟩
      rw [State.get?_launches_preempting, hl]
      rfl
    · exact (exec_timeSliceExpiry q s).trans (execTimeSliceExpiry_of_early hq hearly hpre)
  · rintro s q x hq hpre hdepth hslice hpassed hrun ⟨h, hh, hquiet⟩
    have hdeep : x.preempting.all (fun d => decide (d < x.tsdepth)) = true := by rw [hpre, hdepth]; rfl
    have hexec := (exec_timeSliceExpiry q s).trans (execTimeSliceExpiry_of_passed hq hslice hpassed hdeep)
    have hget := State.get?_preempting hq 1
    rw [hpre] at hget
    rw [State.preempt_of_running hq hrun, hdepth, State.goOnPreempt_of_unquiet hget rfl (by rwa [State.queueHanks_preempting])
      ((s.hankQuiet_stopping q 1 _ h).trans hquiet)] at hexec
    refine ⟨_, hexec, hget, fun g hk hg hhk => State.get?_hanks_stopHanks (List.mem_append_left _ ?_) hhk⟩
    rwa [State.queueHanks_preempting]

/-- Settles O42: threads and the write index (`queueThreads`), and signals and slices (`signalsAndSlices`). -/
theorem queuesShareThreads : Obligations.QueuesShareThreads := ⟨queueThreads, signalsAndSlices⟩

end Sys2Proof
end

section
/-! PROOFS. The last hank of a pre-empted queue retires (05 R109; 06 R103, R110): the pre-empt ends with the launch record in memory. -/

namespace Sys2Proof.Machine
open Sys2Proof.Claims

/-! ## A hank without banks retires -/

theorem AMap.filter_modify {α : Type} (m : AMap α) (k : Nat) {f : α → α} {q : α → Bool} (hq : ∀ v, q (f v) = q v) :
    (m.modify k f).filter (fun p => q p.2) = AMap.modify k f (m.filter fun p => q p.2) := by
  simp only [AMap.modify, List.filter_map]
  congr 1
  exact List.filter_congr fun p _ => by
    dsimp only [Function.comp_apply]
    split
    · exact hq p.2
    · rfl

/-- What the launch of a hank that retires counts. -/
def Launch.counted (l : Launch) : Launch := { l with retired := l.retired + 1 }

/-- A hank of a launch that holds no banks retires: its launch counts it, and memory and the queues are as before. -/
theorem State.retire_of_noBanks {s : State} {h : Nat} {hank : Hank} (hh : s.hanks.get? h = some hank) (hspawn : hank.spawn = none)
    (hbanks : hank.banks = []) (hearly : s.early = []) : ∃ st kn br ba, s.retire h =
      { s with
        uid := s.uid + 1, strands := st, knots := kn, braids := br, barriers := ba, hanks := s.hanks.erase h
        launches := s.launches.modify hank.launch Launch.counted } := by
  unfold State.retire State.dropHank
  rw [hh]
  dsimp only [State.fresh, State.setAside]
  rw [hh]
  dsimp only
  rw [hspawn, hbanks, hearly]
  exact ⟨_, _, _, _, rfl⟩

/-- The hank at `h` is away, and launch `m` counts it. -/
structure Counted (s t : State) (h m : Nat) : Prop where
  tables : SameTables s t
  queues : t.queues = s.queues
  saved : t.saved = s.saved
  hanks : t.hanks = s.hanks.erase h
  launches : t.launches = s.launches.modify m Launch.counted

section
variable {s t : State} {h m : Nat} (hc : Counted s t h m)
include hc

theorem Counted.launchesOf_eq (q : Nat) : t.launchesOf q = AMap.modify m Launch.counted (s.launchesOf q) := by
  unfold State.launchesOf
  rw [hc.launches]
  exact AMap.filter_modify s.launches m (q := fun l => l.queue == q) fun _ => rfl

theorem Counted.queueOfLaunch_eq (n : Nat) : (t.launches.get? n).map Launch.queue = (s.launches.get? n).map Launch.queue := by
  rw [hc.launches, AMap.get?_modify]
  split
  · cases s.launches.get? n <;> rfl
  · rfl

theorem Counted.queueHanks_eq (q : Nat) : t.queueHanks q = (s.queueHanks q).filter fun g => g != h := by
  unfold State.queueHanks
  simp only [hc.queueOfLaunch_eq, hc.hanks, AMap.erase, List.filter_map, List.filter_filter]
  congr 1
  exact List.filter_congr fun p _ => Bool.and_comm ..

theorem Counted.queueSaved_eq (q : Nat) : t.queueSaved q = s.queueSaved q := by
  unfold State.queueSaved
  simp only [hc.queueOfLaunch_eq, hc.saved]

end

theorem execHankRetirement_counted {s : State} {h : Nat} {hank : Hank} {l : Launch} (hh : s.hanks.get? h = some hank)
    (hspawn : hank.spawn = none) (hbanks : hank.banks = []) (hearly : s.early = []) (hl : s.launches.get? hank.launch = some l)
    (hexited : ∀ p ∈ s.hankStrands h, p.2.run = .exited) :
    ∃ t, Counted s t h hank.launch ∧ execHankRetirement h s = .next (t.checkPreempt l.queue) := by
  obtain ⟨st, kn, br, ba, hret⟩ := State.retire_of_noBanks hh hspawn hbanks hearly
  refine ⟨s.retire h, ?_, ?_⟩
  · rw [hret]
    exact ⟨⟨rfl, rfl, rfl, rfl, rfl, rfl, rfl, rfl, rfl, rfl, rfl, fun _ => rfl, fun _ => rfl⟩, rfl, rfl, rfl, rfl⟩
  · have hgoes : s.retirable h = true := List.all_eq_true.2 fun p hp => by rw [hexited p hp]; rfl
    have hlaunch : (s.retire h).launches.get? hank.launch = some l.counted := by
      rw [hret]
      exact AMap.get?_modify_self hl _
    unfold execHankRetirement
    rw [hh]
    dsimp only
    rw [if_pos hgoes, hlaunch]
    rfl

/-! ## The pre-empt of its queue -/

theorem State.reached_of_busFault {s : State} {w : Part} (hnear : keyPackage w.key = none) (h : s.busFault true [w] = none) : Reached s w := by
  refine ⟨hnear, fun write => ?_⟩
  simp only [State.busFault, List.findSome?_cons, List.findSome?_nil] at h ⊢
  split at h
  · cases h
  · rename_i hsound
    split at hsound
    · cases hsound
    · rename_i hup
      split at hsound
      · cases hsound
      · rename_i hbus
        rw [if_neg hup, if_neg hbus]

theorem State.checkPreempt_of_busy {s : State} {q d : Nat} {x : Queue} (hx : s.queues.get? q = some x) (hp : x.preempting = some d)
    (hbusy : s.preemptBusy q d = true) : s.checkPreempt q = s := by
  unfold State.checkPreempt
  rw [hx]
  dsimp only
  rw [hp]
  dsimp only
  rw [hbusy, Bool.true_or, if_pos rfl]

/-- The record of the launch that is not wholly retired goes into memory (06 R110). -/
theorem State.writeRecord_of_one {s : State} {q : Nat} {x : Queue} {l : Launch} {w : Part} (hrecord : s.recordOf q = some l)
    (hearly : s.early = []) (hw : s.devParts x.core x.ctx .write 2 ((x.desc.toNat + 64) % 2 ^ 64) 64 = .ok [w]) (h64 : w.len = 64)
    (hr : Reached s w) : ∃ m sp, m = s.mem.writeN w.key l.image 64 ∧ s.writeRecord q x = ({ s with mem := m, spoiled := sp }, true) := by
  obtain ⟨sp, hwrite⟩ := State.devWrite_of_one (len := 64) hearly hw hr l.image
  refine ⟨_, sp, rfl, ?_⟩
  unfold State.writeRecord Queue.write
  rw [hrecord]
  dsimp only
  rw [hwrite, h64]

/-- A pre-empt that waits for nothing ends once its record is written (05 R109). -/
theorem State.checkPreempt_of_recorded {s u : State} {q d : Nat} {x : Queue} (hx : s.queues.get? q = some x)
    (hp : x.preempting = some d) (hsvc : x.svc = none) (hidle : s.preemptBusy q d = false) (hwrite : s.writeRecord q x = (u, true)) :
    s.checkPreempt q = u.modQueue q fun x => { x with st := .preempted, thread := false, preempting := none } := by
  unfold State.checkPreempt
  rw [hx]
  dsimp only
  rw [hp]
  dsimp only
  rw [hidle, hsvc, hwrite]
  rfl

/-- The clause of HanksRetireAndLaunchesComplete that O40 fails in, over a memory in canonical form: a pre-empt at hank depth ends with the
last hank of its queue, with the launch record in memory, and not before. -/
theorem hankRetirement_endsPreempt {s : State} {h : Nat} {hank : Hank} {l : Launch} {x : Queue} {w : Part} (hm : s.MemOk)
    (hh : s.hanks.get? h = some hank) (hspawn : hank.spawn = none) (hbanks : hank.banks = [])
    (hl : s.launches.get? hank.launch = some l) (hx : s.queues.get? l.queue = some x) (hp : x.preempting = some 0) (hsvc : x.svc = none)
    (hexited : ∀ p ∈ s.hankStrands h, p.2.run = .exited) (hearly : s.early = [])
    (hls : s.launchesOf l.queue = [(hank.launch, l)]) (hsaved : s.queueSaved l.queue = []) (hmore : l.retired + 1 < l.count)
    (hnext : l.next ≠ l.count) (hw : s.devParts x.core x.ctx .write 2 ((x.desc.toNat + 64) % 2 ^ 64) 64 = .ok [w]) (h64 : w.len = 64)
    (hnear : keyPackage w.key = none) (hsound : s.busFault true [w] = none) :
    (s.queueHanks l.queue = [h] → Completes (.hankRetirement h) s fun t =>
      t.queues.get? l.queue = some { x with st := .preempted, thread := false, preempting := none } ∧
      Stores s t w.key 64 (Launch.image { l with retired := l.retired + 1 })) ∧
    ((∃ g ∈ s.queueHanks l.queue, g ≠ h) → Completes (.hankRetirement h) s fun t => t.queues = s.queues ∧ t.mem = s.mem) := by
  obtain ⟨t, hc, hexec⟩ := execHankRetirement_counted hh hspawn hbanks hearly hl hexited
  have hxt : t.queues.get? l.queue = some x := hc.queues ▸ hx
  have hlt : t.launchesOf l.queue = [(hank.launch, l.counted)] := by
    rw [hc.launchesOf_eq, hls]
    simp [AMap.modify]
  refine ⟨fun hlast => ⟨_, hexec, ?_⟩, fun ⟨g, hg, hgh⟩ => ⟨_, hexec, ?_⟩⟩
  · have hidle : t.preemptBusy l.queue 0 = false := by
      unfold State.preemptBusy
      rw [hc.queueHanks_eq, hlast, hc.queueSaved_eq, hsaved, hlt]
      simp [Launch.counted, hnext]
    have hrecord : t.recordOf l.queue = some l.counted := by
      unfold State.recordOf
      rw [hlt]
      simp [Launch.counted, hmore]
    obtain ⟨m, sp, hmem, hwrite⟩ := State.writeRecord_of_one hrecord (hc.tables.early.trans hearly)
      ((hc.tables.devParts_eq ..).trans hw) h64 (hc.tables.reached (State.reached_of_busFault hnear hsound))
    rw [hc.tables.mem] at hmem
    rw [State.checkPreempt_of_recorded hxt hp hsvc hidle hwrite]
    exact ⟨State.get?_modQueue_self (s := { t with mem := m, spoiled := sp }) hxt _, Memory.stores_of_writeN hm hmem⟩
  · have hbusy : t.preemptBusy l.queue 0 = true := by
      have hstays : g ∈ t.queueHanks l.queue := by
        rw [hc.queueHanks_eq]
        exact List.mem_filter.2 ⟨hg, by simpa using hgh⟩
      unfold State.preemptBusy
      rw [List.isEmpty_eq_false_iff.2 (List.ne_nil_of_mem hstays)]
      rfl
    rw [State.checkPreempt_of_busy hxt hp hbusy]
    exact ⟨hc.queues, hc.tables.mem⟩

end Sys2Proof.Machine
end

section
/-! PROOFS. A state whose memory is not in canonical form. -/

namespace Sys2Proof.Machine

/-! ## A pre-empt that ends over a memory out of order -/

/-- The one hank of a launch of two, at its end: it holds no bank, and no strand of it is left to exit. -/
def lastHank : Hank :=
  { ctx := 3, launch := 9, index := 0, core := 0, braids := [], strands := 32, regs := 16, affs := 0, scrkb := 0, banks := [], nb := none
    nbpos := 0, nhank := 2, prio := 0, spawn := none, stopping := false }

def halfLaunch : Launch :=
  { queue := 1, ctx := 3, packet := 0, kaddr := 0, kobj := 0, arg := 0, count := 2, next := 1, retired := 0, nbsize := 1, prio := 0
    timed := false, stopped := true, nbs := [] }

/-- Its queue, with its descriptor at address 0, pre-empted at hank depth. -/
def stoppedQueue : Queue :=
  { ctx := 3, die := 0, desc := 0, base := 0, log := 8, pri := 0, tslice := 0, tsdepth := 0, st := .running, before := .created
    thread := true, rdidx := 0, wridx := 0, doorval := 0, blockedAt := 0, waiting := none, slice := 0, svc := none, started := []
    preempting := some 0, susp := false, bell := none }

/-- Byte 65 of memory, the second of the launch record's, stands behind a byte of a higher key, where a write of 0 does not find it. A TLB
entry maps every page to the frame of its own number. -/
def outOfOrder : State :=
  { State.reset with
    mem := [(200, 1), (65, 7)], tlb := [⟨0, 3, 0, 2 ^ 30, 2 ^ 55⟩], hanks := [(7, lastHank)], queues := [(1, stoppedQueue)]
    launches := [(9, halfLaunch)] }

theorem outOfOrder_keeps : ∀ t, exec (.hankRetirement 7) outOfOrder = .next t → t.mem.read 65 = 7 := by
  intro t ht
  obtain rfl := Host.Outcome.next.inj ht
  decide +kernel

end Sys2Proof.Machine

namespace Sys2Proof
open Sys2Proof.Machine Sys2Proof.Claims

/-- Refutes O40: that a pre-empt which ends leaves its launch record in memory is said of every state, also of one whose memory is not in
canonical form (`State.MemOk`). In `outOfOrder` the record's second byte is 0, and stays 7 (`outOfOrder_keeps`). Over a memory in that
form the clause holds (`hankRetirement_endsPreempt`). -/
theorem not_hanksPlacedAndRetired : ¬ Obligations.HanksPlacedAndRetired := by
  rintro ⟨-, -, -, hpreempt, -⟩
  obtain ⟨hlast, -⟩ := hpreempt outOfOrder 7 lastHank halfLaunch stoppedQueue { key := 64, len := 64, ord := .rc, va := 64, level := 0 }
    rfl rfl rfl rfl rfl rfl rfl (by decide) rfl (by decide) rfl (by decide) (by decide) (by decide +kernel) rfl rfl (by decide)
  obtain ⟨t, ht, -, hbytes, -⟩ := hlast (by decide)
  have hzero := hbytes 1 (by decide)
  rw [show t.mem.read (64 + 1) = 7 from outOfOrder_keeps t ht] at hzero
  exact absurd hzero (by decide +kernel)

end Sys2Proof
end

section
/-! PROOFS. Traps with or without a fault record: what raising one leaves of its strand and of the braids, and that of the lanes of a word
each traps as it stood (18 R326, R328, R330). -/

namespace Sys2Proof.Machine
open Sys2Proof.Claims

/-! ## One strand that traps -/

/-- The strand whose instruction `h` is held by record number `q`, where there are both (09 R176). -/
def Strand.heldBy (x : Strand) (h q : Option Nat) : Strand :=
  match h, q with
  | some id, some n => { x with outs := x.outs.map fun p => if p.id = id then { p with svc := some n } else p }
  | _, _ => x

@[simp] theorem Strand.heldBy_none (x : Strand) (q : Option Nat) : x.heldBy none q = x := by cases q <;> rfl

@[simp] theorem Strand.regs_heldBy (x : Strand) (h q : Option Nat) : (x.heldBy h q).regs = x.regs := by cases h <;> cases q <;> rfl

@[simp] theorem Strand.handler_heldBy (x : Strand) (h q : Option Nat) : (x.heldBy h q).handler = x.handler := by
  cases h <;> cases q <;> rfl

@[simp] theorem Strand.heldOn_heldBy (x : Strand) (h q : Option Nat) : (x.heldBy h q).heldOn = x.heldOn := by
  cases h <;> cases q <;> rfl

/-- That a record holds one of its instructions moves no fence of a strand. -/
@[simp] theorem Strand.fencedBefore_heldBy (x : Strand) (h q : Option Nat) (n : Nat) : (x.heldBy h q).fencedBefore n = x.fencedBefore n := by
  cases h with
  | none => rw [Strand.heldBy_none]
  | some id => cases q with
    | none => rfl
    | some q =>
      simp only [Strand.heldBy, Strand.fencedBefore, List.any_map]
      congr 1
      funext p
      simp only [Function.comp]
      split <;> rfl

theorem OnlyMemCtxs.strand? {s t : State} (h : OnlyMemCtxs s t) (p : Nat) : t.strand? p = s.strand? p :=
  congrArg (AMap.get? · p) h.strands

theorem State.strand?_holdPend (s : State) (pos ctx : Nat) (h q : Option Nat) :
    (s.holdPend pos ctx h q).strand? pos = (s.strand? pos).map (·.heldBy h q) := by
  cases h <;> cases q
  case some.some id n =>
    exact s.strand?_modStrand_self pos fun x => { x with outs := x.outs.map fun p => if p.id = id then { p with svc := some n } else p }
  all_goals exact Option.map_id'.symm ▸ rfl

theorem State.braids_holdPend (s : State) (pos ctx : Nat) (h q : Option Nat) : (s.holdPend pos ctx h q).braids = s.braids := by
  cases h <;> cases q <;> rfl

/-- The record of its trap at a word (18 R326). -/
def State.trapRecord (s : State) (pos : Nat) (pt : Point) (y : Strand) (t : TrapReq) : TrapRec :=
  ⟨(t.point.getD pt).clause, (t.point.getD pt).word, t.cause, t.detail, (s.recordTrap pos y t).2.1⟩

/-- The strand after its trap: at its word, where an access met an uncorrectable error or waits for a port; in a handler, with the
record; else trapped, or past a fence with the trap deferred. -/
def State.afterTrap (s : State) (pos : Nat) (pt : Point) (y : Strand) (t : TrapReq) : Strand :=
  let y' := y.heldBy t.hold (s.recordTrap pos y t).2.2
  if t.upset then { y' with run := .stalled (.ops []) }
  else if y.handler && !y.fencedBefore (t.hold.getD y.nextId) then { y' with run := .trapped, trap := s.trapRecord pos pt y t }
  else { y'.trapAt (t.hold.getD y.nextId) (t.resume.getD pt) (s.trapRecord pos pt y t) with
    trapSet := t.set.getD s.moves, heldOn := if y.handler then y.heldOn else (s.recordTrap pos y t).2.2 }

/-- What recording the fault of a trap and holding its operation make of the state. -/
def State.trapRecorded (s : State) (pos : Nat) (y : Strand) (t : TrapReq) : State :=
  (s.recordTrap pos y t).1.holdPend pos (s.ctxNum y) t.hold (s.recordTrap pos y t).2.2

theorem State.strand?_trapRecorded {s : State} {pos : Nat} {y : Strand} (hs : s.strand? pos = some y) (t : TrapReq) :
    (s.trapRecorded pos y t).strand? pos = some (y.heldBy t.hold (s.recordTrap pos y t).2.2) := by
  rw [State.trapRecorded, State.strand?_holdPend, (State.recordTrap_only ..).strand?, hs]
  rfl

theorem State.braids_trapRecorded (s : State) (pos : Nat) (y : Strand) (t : TrapReq) : (s.trapRecorded pos y t).braids = s.braids :=
  (State.braids_holdPend ..).trans (State.recordTrap_only ..).braids

theorem State.ctxs_awaitLink (s : State) (o : Holder) (ctx core pkg : Nat) : (s.awaitLink o ctx core pkg).ctxs = s.ctxs := by
  obtain ⟨w, h⟩ := s.awaitLink_eq o ctx core pkg
  rw [h]

/-- Raising a trap: the fault is recorded, and the strand traps. -/
theorem State.raiseOne_leaves {s : State} {pos : Nat} {y : Strand} (hs : s.strand? pos = some y) (pt : Point) (t : TrapReq) :
    (s.raiseOne pos pt t).strand? pos = some (s.afterTrap pos pt y t) ∧ (s.raiseOne pos pt t).braids = s.braids ∧
      (y.handler = false → (s.raiseOne pos pt t).ctxs = (s.trapRecorded pos y t).ctxs) := by
  have hmod : ∀ f : Strand → Strand, ((s.trapRecorded pos y t).modStrand pos f).strand? pos =
      some (f (y.heldBy t.hold (s.recordTrap pos y t).2.2)) := fun f => by
    rw [State.strand?_modStrand_self, State.strand?_trapRecorded hs, Option.map_some]
  have hbraids := s.braids_trapRecorded pos y t
  unfold State.raiseOne State.afterTrap
  rw [hs]
  dsimp only
  rw [← State.trapRecorded]
  split
  · split
    · split
      · exact ⟨((State.awaitLink_only ..).strand? pos).trans (hmod _), (State.awaitLink_only ..).braids.trans hbraids,
          fun _ => State.ctxs_awaitLink ..⟩
      · exact ⟨hmod _, hbraids, fun _ => rfl⟩
    · exact ⟨hmod _, hbraids, fun _ => rfl⟩
  · split
    · rename_i hhandler
      refine ⟨?_, (State.handlerTrap_braids ..).trans hbraids, fun h => ?_⟩
      · rw [State.strand?, State.handlerTrap_strands]
        exact hmod _
      · simp [h] at hhandler
    · refine ⟨?_, hbraids, fun _ => rfl⟩
      rw [hmod, Strand.handler_heldBy, Strand.heldOn_heldBy]
      rfl

/-- Past its trap a strand that stands trapped has a record of the word, and its call depth is as before. -/
theorem State.afterTrap_trapped {s : State} {pos : Nat} {pt : Point} {y : Strand} {t : TrapReq} (hp : t.point = none)
    (hr : (s.afterTrap pos pt y t).run = .trapped) :
    (s.afterTrap pos pt y t).trap.clause = pt.clause ∧ (s.afterTrap pos pt y t).regs.depth = y.regs.depth := by
  unfold State.afterTrap at hr ⊢
  dsimp only at hr ⊢
  split
  · rename_i hup
    rw [if_pos hup] at hr
    cases hr
  · rename_i hup
    rw [if_neg hup] at hr
    split
    · simp [State.trapRecord, hp]
    · rename_i hn
      rw [if_neg hn] at hr
      unfold Strand.trapAt at hr ⊢
      dsimp only at hr ⊢
      split
      · rename_i hf
        rw [if_pos hf] at hr
        cases hr
      · simp [State.trapRecord, hp]

/-! ## The lanes of an issue set that trap -/

theorem OnlyTraps.times {l : List Nat} {s t : State} (h : OnlyTraps l s t) :
    t.cycles = s.cycles ∧ t.moves = s.moves ∧ t.stepping = s.stepping := by
  obtain ⟨_, _, _, _, _, _, _, _, rfl, -, -⟩ := h
  exact ⟨rfl, rfl, rfl⟩

/-- The lanes in turn raise their traps at a word. -/
def State.raiseEach (s : State) (x : Issue) (traps : List (Nat × TrapReq)) : State :=
  traps.foldl (fun s p => s.raiseOne (posOf x.braid p.1) ⟨x.clause, x.word⟩ p.2) s

theorem State.raiseEach_traps (s : State) (x : Issue) (traps : List (Nat × TrapReq)) :
    OnlyTraps (traps.map fun p => posOf x.braid p.1) s (s.raiseEach x traps) ∧ (s.raiseEach x traps).braids = s.braids := by
  induction traps generalizing s with
  | nil => exact ⟨.refl _ s, rfl⟩
  | cons p traps ih =>
    obtain ⟨honly, hbraids⟩ := ih (s.raiseOne (posOf x.braid p.1) ⟨x.clause, x.word⟩ p.2)
    refine ⟨((State.raiseOne_traps ..).mono fun q hq => ?_).trans (honly.mono fun q hq => List.mem_cons_of_mem _ hq), hbraids.trans ?_⟩
    · exact List.mem_singleton.1 hq ▸ List.mem_cons_self ..
    · cases hs : s.strand? (posOf x.braid p.1) with
      | none => simp [State.raiseOne, hs]
      | some y => exact (State.raiseOne_leaves hs _ _).2.1

/-- Of distinct lanes each traps as it stood, whatever the lanes before it and after it do. -/
theorem State.raiseEach_lane {s : State} {x : Issue} {traps : List (Nat × TrapReq)} (hn : (traps.map Prod.fst).Nodup)
    {p : Nat × TrapReq} (hp : p ∈ traps) :
    ∃ u : State, u.moves = s.moves ∧ u.strand? (posOf x.braid p.1) = s.strand? (posOf x.braid p.1) ∧
      (s.raiseEach x traps).strand? (posOf x.braid p.1) =
        (u.raiseOne (posOf x.braid p.1) ⟨x.clause, x.word⟩ p.2).strand? (posOf x.braid p.1) := by
  obtain ⟨l₁, l₂, rfl⟩ := List.append_of_mem hp
  rw [List.map_append, List.map_cons, List.nodup_append, List.nodup_cons] at hn
  obtain ⟨-, ⟨hafter, -⟩, hbefore⟩ := hn
  have hout : ∀ l : List (Nat × TrapReq), p.1 ∉ l.map Prod.fst → posOf x.braid p.1 ∉ l.map fun q => posOf x.braid q.1 := by
    intro l hl hm
    obtain ⟨q, hq, he⟩ := List.mem_map.1 hm
    exact hl (posOf_inj.1 he ▸ List.mem_map_of_mem hq)
  refine ⟨s.raiseEach x l₁, (s.raiseEach_traps x l₁).1.times.2.1, ?_, ?_⟩
  · exact (s.raiseEach_traps x l₁).1.strand? (hout l₁ fun h => hbefore _ h _ (List.mem_cons_self ..) rfl)
  · rw [State.raiseEach, List.foldl_append, List.foldl_cons]
    exact (State.raiseEach_traps _ x l₂).1.strand? (hout l₂ hafter)

/-- Distinct lanes of one depth trap at a word, with or without fault records: one without, neither in a handler nor past a fence, is
trapped with its record, and pending. -/
theorem State.raise_traps_plainLane {s : State} {x : Issue} {traps : List (Nat × TrapReq)} {l : Nat} {r : TrapReq} {st : Strand}
    (hx : s.cur = some x) (hn : (traps.map Prod.fst).Nodup) (hp : ∀ p ∈ traps, p.2.point = none) (hl : (l, r) ∈ traps)
    (hr : r.Plain) (h32 : l < 32) (hs : s.strand? (posOf x.braid l) = some st) (hh : st.handler = false) (hf : st.pastFence = false)
    (hd : ∀ p ∈ traps, ∃ y, s.strand? (posOf x.braid p.1) = some y ∧ y.regs.depth = st.regs.depth) :
    Traps s (s.raise traps) x l st (r.record ⟨x.clause, x.word⟩) (r.resume.getD ⟨x.clause, x.word⟩) := by
  obtain ⟨honly, hbraids⟩ := s.raiseEach_traps x traps
  obtain ⟨hcycles, -, hstep⟩ := honly.times
  have hst : (s.raiseEach x traps).strand? (posOf x.braid l) = some (st.take s.moves ⟨x.clause, x.word⟩ r) := by
    obtain ⟨u, hmoves, hus, hlane⟩ := State.raiseEach_lane (s := s) (x := x) hn hl
    rw [hlane, (State.raiseOne_plain_leaves hr _).1, hus, hs, hmoves, Option.map_some]
  rw [Strand.take_of_open hh hf] at hst
  have hall : ∀ p ∈ (s.raiseEach x traps).trappedLanes x.braid (traps.map Prod.fst),
      p.2.regs.depth = st.regs.depth ∧ p.2.trap.clause = x.clause := by
    rintro ⟨j, z⟩ hmem
    obtain ⟨hj, hz, hrun, -, -⟩ := State.mem_trappedLanes.1 hmem
    obtain ⟨⟨j, t⟩, ht, rfl⟩ := List.mem_map.1 hj
    obtain ⟨u, -, hus, hlane⟩ := State.raiseEach_lane (s := s) (x := x) hn ht
    obtain ⟨y, hy, hdepth⟩ := hd _ ht
    have hz' := hz.symm.trans (hlane.trans (State.raiseOne_leaves (hus.trans hy) _ _).1)
    cases hz'
    obtain ⟨hclause, hkeep⟩ := State.afterTrap_trapped (hp _ ht) hrun
    exact ⟨hkeep.trans hdepth, hclause⟩
  unfold State.raise
  rw [hx]
  dsimp only
  rw [← State.raiseEach]
  generalize s.raiseEach x traps = u at *
  refine ⟨?_, fun br hstepping hheld hb => ?_⟩
  · split
    · exact hst
    · rwa [State.strand?_addGroups]
  · rw [if_neg (by rw [hstep, hstepping]; decide)]
    have htrapped := (State.mem_trappedLanes (lanes := traps.map Prod.fst)).2
      ⟨List.mem_map_of_mem hl, hst, rfl, hh, hheld⟩
    obtain ⟨b, hbr, g, hg, hmask, hj⟩ := State.addGroups_hasPending htrapped h32 (hbraids ▸ hb) hall
    obtain ⟨hdepth, hclause, hcause, hset, hcycle⟩ := TrapGroup.joins_iff.1 hj
    exact ⟨b, hbr, g, hg, hmask, hclause.symm, hdepth.symm, hcause.symm, hset.symm, hcycle.symm.trans hcycles⟩

/-- A word that acts lane by lane, where no trap names another point and no lane leaves its call depth: a lane that traps without a
fault record, its strand as before, neither in a handler nor past a fence, is trapped, and pending. -/
theorem State.pointwise_traps_plainLane {s : State} {x : Issue} {i : Instr} {f : Issue → Nat → Strand → LaneOut} {l : Nat}
    {t : TrapReq} {st : Strand} (h : s.Executes x i l st) (hd : OneDepth s x st.regs.depth)
    (hf : ∀ k y u, (f x k y).trap = some u → u.point = none ∧ (f x k y).st.regs.depth = y.regs.depth)
    (hout : f x l st = ⟨st, some t⟩) (ht : t.Plain) (hh : st.handler = false) (hfence : st.pastFence = false) :
    Traps s (s.pointwise i f) x l st (t.record ⟨x.clause, x.word⟩) (t.resume.getD ⟨x.clause, x.word⟩) := by
  have hlane : ∀ p ∈ s.wordTraps x i f, p.2.point = none ∧ ∃ y,
      ({ s with strands := s.strands.mapVals (laneResult x.braid (s.laneOuts x i f)) } : State).strand? (posOf x.braid p.1) = some y ∧
        y.regs.depth = st.regs.depth := by
    rintro ⟨k, u⟩ hk
    rcases List.mem_append.1 hk with hk | hk
    · obtain ⟨y, o, hy, ho, rfl⟩ := State.mem_tagTraps.1 hk
      obtain ⟨⟨h32, hmask⟩, hstrand, -⟩ := State.mem_active.1 hy
      refine ⟨rfl, y, (State.strand?_laneResults_other f fun j z hz e => ?_).trans hstrand, hd k y h32 hmask hstrand⟩
      obtain ⟨hz, hnone⟩ := State.mem_passing.1 hz
      cases (State.mem_active.1 hz).2.1.symm.trans ((congrArg _ e).trans hstrand)
      cases ho.symm.trans hnone
    · obtain ⟨y, hy, hu⟩ := State.mem_outTraps.1 hk
      obtain ⟨⟨h32, hmask⟩, hstrand, -⟩ := State.mem_active.1 (State.mem_passing.1 hy).1
      obtain ⟨hpoint, hkeep⟩ := hf k y u hu
      exact ⟨hpoint, _, State.strand?_laneResults_of_mem f hy, hkeep.trans (hd k y h32 hmask hstrand)⟩
  have hmem : (l, t) ∈ s.wordTraps x i f := List.mem_append_right _ (State.mem_outTraps.2 ⟨st, h.mem, by rw [hout]⟩)
  rw [State.pointwise_eq f h.cur h.legal]
  exact State.raise_traps_plainLane (s := { s with strands := s.strands.mapVals (laneResult x.braid (s.laneOuts x i f)) }) h.cur
    (State.wordTraps_nodup s x i f) (fun p hp => (hlane p hp).1) hmem ht h.lane.1
    ((State.strand?_laneResults_of_mem f h.mem).trans (by rw [hout])) hh hfence fun p hp => (hlane p hp).2

end Sys2Proof.Machine
end

section
/-! PROOFS. Memory words whose address fails a check, or its translation: what their lanes trap with (10 R194, 06 R105, 09 R176). -/

namespace Sys2Proof.Machine
open Sys2Proof.Claims

/-! ## The lanes of a memory word -/

/-- The access that a lane of a memory word makes: the one that it asks for. -/
def State.askLane (s : State) (i : Instr) (x : Issue) (k : Nat) (st : Strand) : LaneOut :=
  match ask i (s.lane x k st) st with
  | some a => s.accessLane x i k st a.long a.kind a.wants a.order a.op
  | none => { st := st }

/-- A word that one lane asks an access for makes the access of every lane. -/
theorem exec_of_ask_lanes {s : State} {i : Instr} {e : Lane} {st : Strand} {a : Ask} (h : ask i e st = some a) :
    exec i s = .next (s.pointwise i (s.askLane i)) := by
  unfold ask at h
  split at h
  case h_18 => cases h
  case h_5 =>
    refine congrArg (fun f => Host.Outcome.next (s.pointwise _ f)) (funext fun x => funext fun k => funext fun y => ?_)
    simp only [State.askLane, ask, Lane.bytes_wide]
    rfl
  case h_7 os l h a =>
    refine congrArg (fun f => Host.Outcome.next (s.pointwise _ f)) (funext fun x => funext fun k => funext fun y => ?_)
    exact congrArg (s.accessLane x _ k y _ _ _ _) (Strand.kst_op ..)
  case h_13 o l d p b =>
    have hw : (if b.is64 = true then 8 else 4) / 4 = if b.is64 = true then 2 else 1 := by cases b.is64 <;> rfl
    refine congrArg (fun f => Host.Outcome.next (s.pointwise _ f)) (funext fun x => funext fun k => funext fun y => ?_)
    simp only [State.askLane, ask, hw]
    rfl
  all_goals rfl

theorem State.askLane_of_ask {s : State} {i : Instr} {x : Issue} {k : Nat} {st : Strand} {a : Ask}
    (h : ask i (s.lane x k st) st = some a) :
    s.askLane i x k st = s.accessLane x i k st a.long a.kind a.wants a.order a.op := by
  unfold State.askLane
  rw [h]

/-- Scratchpad accesses of `ask` go to banks in scratchpad mode. -/
theorem mode_of_ask {i : Instr} {e : Lane} {st : Strand} {a : Ask} (h : ask i e st = some a) : a.wants.mode = .scratch := by
  unfold ask at h
  split at h <;> cases h <;> rfl

/-! ## Checks of the address (10 R194) -/

/-- The trap for a misaligned address: cause 4, with SRC and the address. -/
def misalignedAt (src va : Nat) : TrapReq := { cause := cMisaligned, vaddr := some (src, va) }

theorem misalignedAt_plain (src va : Nat) : (misalignedAt src va).Plain := ⟨rfl, rfl, rfl, rfl⟩
theorem scratchDenied_plain : scratchDenied.Plain := ⟨rfl, rfl, rfl, rfl⟩

section
variable {s : State} {pos : Nat} {st : Strand} {e : Lane} {w : Wants}

theorem State.reach_of_misaligned_global {p : Nat} {b : Src} (ha : w.addr = .g p b) (h : e.ea w.addr % w.galign ≠ 0) :
    s.reach pos st e w = .error (.inl (misalignedAt w.src (e.ea w.addr))) := by
  unfold State.reach
  rw [ha] at h ⊢
  exact if_pos h

theorem State.reach_of_misaligned_scratch {b c : Src} (ha : w.addr = .s b c) (h : e.ea w.addr % w.len ≠ 0) :
    s.reach pos st e w = .error (.inl (misalignedAt w.src (e.ea w.addr))) := by
  unfold State.reach
  rw [ha] at h ⊢
  exact if_pos h

/-- An aligned offset past the windows of the hank, or in a bank of another mode (06 R105). -/
theorem State.reach_of_denied {b c : Src} (ha : w.addr = .s b c) (h : e.ea w.addr % w.len = 0)
    (hd : ∀ bank off, s.scratch st (e.ea w.addr) = some (bank, off) → (s.bank bank).mode ≠ w.mode) :
    s.reach pos st e w = .error (.inl scratchDenied) := by
  unfold State.reach
  rw [ha] at h hd ⊢
  dsimp only
  rw [if_neg (not_not.2 h)]
  split
  · rfl
  · rename_i bank off hs
    exact if_neg (hd bank off hs)

/-- The checks of an address end in traps of the word itself. -/
theorem State.reach_plain {t : TrapReq} (h : s.reach pos st e w = .error (.inl t)) : t.Plain := by
  unfold State.reach at h
  dsimp only at h
  split at h
  · split at h
    · cases h
      exact misalignedAt_plain ..
    · split at h <;> cases h
  · split at h
    · cases h
      exact misalignedAt_plain ..
    · split at h
      · cases h
        exact scratchDenied_plain
      · split at h
        · cases h
        · cases h
          exact scratchDenied_plain

end

/-! ## The trap for a failed translation (09 R176) -/

/-- The trap of an access that the page table refuses: at the word. -/
def refusedTrap (src : Nat) (f : XFault) : TrapReq :=
  { cause := if f.cause = 1 ∨ f.cause = 6 then 5 else 6, detail := f.cause, fault := some (src, f) }

/-- The trap of an access to a page that is not resident: past the word, with the instruction that a record is to hold. -/
def absentTrap (src : Nat) (f : XFault) (id : Nat) (next : Point) : TrapReq :=
  { cause := 5, detail := 18, fault := some (src, f), hold := some id, resume := some next }

theorem xTrap_of_refused {f : XFault} (h : f.cause ≠ 2) (src : Nat) (hold : Option Nat) (next : Point) :
    xTrap src f hold next = refusedTrap src f := by
  unfold xTrap refusedTrap
  rw [if_neg h]
  split <;> rfl

theorem xTrap_of_absent {f : XFault} (h : f.cause = 2) (src id : Nat) (next : Point) :
    xTrap src f (some id) next = absentTrap src f id next := by
  simp [xTrap, h, absentTrap]

/-! ## A strand whose access issues -/

/-- Strand y is st with an access issued: outstanding under its next number, with the fence of an acquire behind it. -/
structure Strand.HasIssued (st : Strand) (l : Long) (y : Strand) : Prop where
  handler : y.handler = st.handler
  index : y.index = st.index
  ctx : y.ctx = st.ctx
  deferred : y.deferred = st.deferred
  depth : y.regs.depth = st.regs.depth
  outs : ∃ p fs, y.outs = st.outs ++ p :: fs ∧ p.id = st.nextId ∧ p.slot = l.slot ∧ p.isFence = false ∧ ∀ q ∈ fs, st.nextId < q.id

theorem Strand.hasIssued_issueAccess (st : Strand) (l : Long) (p next : Point) (g : Nat) (kind : PendKind) (n : Nat) (ps : List Part)
    (o : Order) (op : MemOp) : st.HasIssued l (st.issueAccess l p next g kind n ps o op) := by
  rw [Strand.issueAccess_eq, Strand.acquireFence_eq_issuing]
  split
  · refine ⟨rfl, rfl, rfl, rfl, rfl, _, _, List.append_assoc .., rfl, rfl, rfl, fun q hq => ?_⟩
    rw [List.mem_singleton.1 hq]
    exact Nat.lt_succ_self _
  · exact ⟨rfl, rfl, rfl, rfl, rfl, _, [], rfl, rfl, rfl, rfl, fun q hq => absurd hq List.not_mem_nil⟩

/-- No fence stands before the access of a strand that is past none. -/
theorem Strand.HasIssued.fencedBefore {st y : Strand} {l : Long} (h : st.HasIssued l y) (hf : st.pastFence = false) :
    y.fencedBefore st.nextId = false := by
  obtain ⟨p, fs, houts, -, -, hp, hfs⟩ := h.outs
  have hst := Strand.fencedBefore_of_pastFence hf st.nextId
  unfold Strand.fencedBefore at hst ⊢
  rw [houts, List.any_append, hst, List.any_cons, hp, Bool.false_and, Bool.false_or, Bool.false_or]
  refine List.any_eq_false.2 fun q hq => ?_
  rw [Bool.and_eq_true, decide_eq_true_eq]
  exact fun h => Nat.lt_asymm h.2 (hfs q hq)

/-! ## The access of one lane -/

section
variable {s : State} {x : Issue} {i : Instr} {k : Nat} {st : Strand} {l : Long} {kind : PendKind} {w : Wants} {o : Order} {op : MemOp}

theorem State.accessLane_of_inl {t : TrapReq} (h : s.reach (posOf x.braid k) st (s.lane x k st) w = .error (.inl t)) :
    s.accessLane x i k st l kind w o op = ⟨st, some t⟩ := by
  unfold State.accessLane
  dsimp only
  rw [h]

/-- An access that the page table refuses does not issue. -/
theorem State.accessLane_of_refused {f : XFault} (h : s.reach (posOf x.braid k) st (s.lane x k st) w = .error (.inr f))
    (hf : f.cause ≠ 2) : s.accessLane x i k st l kind w o op = ⟨st, some (refusedTrap w.src f)⟩ := by
  unfold State.accessLane
  dsimp only
  rw [h, ← xTrap_of_refused hf]
  exact if_neg hf

/-- An access to a page that is not resident issues, to be held. -/
theorem State.accessLane_of_absent {f : XFault} (h : s.reach (posOf x.braid k) st (s.lane x k st) w = .error (.inr f))
    (hf : f.cause = 2) : ∃ y, st.HasIssued l y ∧
      s.accessLane x i k st l kind w o op = ⟨y, some (absentTrap w.src f st.nextId (x.after i))⟩ := by
  unfold State.accessLane
  dsimp only
  rw [h, ← xTrap_of_absent hf]
  exact ⟨_, Strand.hasIssued_issueAccess .., if_pos hf⟩

/-- The trap of an access is at its own word, and its strand stands at the call depth where it was. -/
theorem State.accessLane_trap {u : TrapReq} (h : (s.accessLane x i k st l kind w o op).trap = some u) :
    u.point = none ∧ (s.accessLane x i k st l kind w o op).st.regs.depth = st.regs.depth := by
  rcases hr : s.reach (posOf x.braid k) st (s.lane x k st) w with (t | f) | ps
  · rw [State.accessLane_of_inl hr] at h ⊢
    cases h
    exact ⟨(State.reach_plain hr).point, rfl⟩
  · by_cases hf : f.cause = 2
    · obtain ⟨y, hy, hout⟩ := State.accessLane_of_absent (i := i) (l := l) (kind := kind) (o := o) (op := op) hr hf
      rw [hout] at h ⊢
      cases h
      exact ⟨rfl, hy.depth⟩
    · rw [State.accessLane_of_refused hr hf] at h ⊢
      cases h
      exact ⟨rfl, rfl⟩
  · rw [State.accessLane_of_reach hr] at h
    cases h

end

theorem State.askLane_trap {s : State} {i : Instr} {x : Issue} {k : Nat} {st : Strand} {u : TrapReq}
    (h : (s.askLane i x k st).trap = some u) :
    u.point = none ∧ (s.askLane i x k st).st.regs.depth = st.regs.depth := by
  unfold State.askLane at h ⊢
  split at h
  · exact State.accessLane_trap h
  · cases h

/-- A lane whose address fails a check traps there, whatever the other lanes of the word do. -/
theorem exec_traps_of_reach {s : State} {x : Issue} {i : Instr} {k : Nat} {st : Strand} {a : Ask} {t : TrapReq} (hex : s.Executes x i k st)
    (hask : ask i (s.lane x k st) st = some a) (hh : st.handler = false) (hf : st.pastFence = false) (hd : OneDepth s x st.regs.depth)
    (hreach : s.reach (posOf x.braid k) st (s.lane x k st) a.wants = .error (.inl t)) :
    Completes i s fun u => Traps s u x k st (t.record x.here) (t.resume.getD x.here) :=
  ⟨_, exec_of_ask_lanes hask, State.pointwise_traps_plainLane hex hd (fun _ _ _ => State.askLane_trap)
    ((State.askLane_of_ask hask).trans (State.accessLane_of_inl hreach)) (State.reach_plain hreach) hh hf⟩

end Sys2Proof.Machine

namespace Sys2Proof
open Sys2Proof.Machine Sys2Proof.Claims

theorem accessAddressTraps : AccessAddressTraps := by
  intro s x i k st a hex hask hh hf hd ea misaligned
  refine ⟨fun p b ha hm => ?_, fun b c ha hm => ?_, fun b c ha hm hden => ?_⟩
  · exact exec_traps_of_reach hex hask hh hf hd (State.reach_of_misaligned_global ha hm)
  · exact exec_traps_of_reach hex hask hh hf hd (State.reach_of_misaligned_scratch ha hm)
  · exact exec_traps_of_reach hex hask hh hf hd (State.reach_of_denied ha hm (mode_of_ask hask ▸ hden))

end Sys2Proof
end

section
/-! PROOFS. Memory words whose translation fails: the fault record, what its context keeps of it, and the strand (09 R176, 11 R230). -/

namespace Sys2Proof.Machine
open Sys2Proof.Claims

/-! ## Pages in service, while records and faults are written -/

/-- The pages that a context has in service. -/
def State.services (s : State) (n : Nat) : Option (List InService) := (s.ctxs.get? n).map Ctx.inService

/-- A change of a context that is none of its pages in service. -/
theorem State.services_modCtx (s : State) (n m : Nat) {f : Ctx → Ctx} (hf : ∀ c, (f c).inService = c.inService) :
    (s.modCtx n f).services m = s.services m := by
  unfold State.services
  rw [State.modCtx, AMap.get?_modify]
  split
  · rw [Option.map_map]
    exact congrArg (fun g => (s.ctxs.get? m).map g) (funext hf)
  · rfl

theorem State.services_of_ctxs {s t : State} (h : t.ctxs = s.ctxs) (n : Nat) : t.services n = s.services n := by
  unfold State.services
  rw [h]

theorem State.ctxs_devWrite {s t : State} {core ctx va len v : Nat} (h : s.devWrite core ctx va len v = .ok t) : t.ctxs = s.ctxs := by
  obtain ⟨m, e, x, p, rfl⟩ := State.devWrite_eq h
  rfl

theorem State.ctxs_dieRelease (s : State) (die : Nat) : (s.dieRelease die).ctxs = s.ctxs := by
  obtain ⟨m, e, x, h, -⟩ := s.widen_only (fun w => w.reach.has (dieAgent die)) allObservers
  unfold State.dieRelease
  rw [h]
  rfl

theorem State.services_writeFaultRec (s : State) (ctx n : Nat) : (s.writeFaultRec ctx).services n = s.services n := by
  unfold State.writeFaultRec
  split
  · rfl
  · dsimp only
    split
    · rfl
    · split
      · rename_i h
        exact (State.services_modCtx _ _ _ (by intro; rfl)).trans
          (State.services_of_ctxs ((State.ctxs_devWrite h).trans (s.ctxs_dieRelease _)) n)
      · split
        · exact State.services_of_ctxs (State.ctxs_awaitLink ..) n
        · exact State.services_modCtx _ _ _ (by intro; rfl)

theorem State.services_ctxFault (s : State) (ctx code die f r n : Nat) : (s.ctxFault ctx code die f r).services n = s.services n := by
  unfold State.ctxFault
  split
  · rfl
  · split
    · exact (State.services_writeFaultRec ..).trans (State.services_modCtx _ _ _ (by intro; rfl))
    · rfl

/-- What one write to the ring area leaves of the contexts: all of them, just as they are. -/
def RingWrite.KeepsAll (s : State) : RingWrite → Prop
  | .done t | .wait t => t.ctxs = s.ctxs
  | .failed => True

theorem State.ringArea_keepsAll {s t : State} (h : t.ctxs = s.ctxs) (core ctx a len v : Nat) : (t.ringArea core ctx a len v).KeepsAll s := by
  unfold State.ringArea
  split
  · rename_i hw
    exact (State.ctxs_devWrite hw).trans h
  · split
    · exact (State.ctxs_awaitLink ..).trans h
    · trivial

theorem State.ringStep_keepsAll (s : State) (core ctx : Nat) (c : Ctx) (h r : Nat) : (s.ringStep core ctx c h r).KeepsAll s := by
  unfold State.ringStep
  dsimp only
  split
  · split
    · exact State.ringArea_keepsAll (s.ctxs_dieRelease _) ..
    · exact (rfl : s.ctxs = s.ctxs)
  · split
    · exact State.ringArea_keepsAll rfl ..
    · split
      · exact (rfl : s.ctxs = s.ctxs)
      · exact State.ringArea_keepsAll rfl ..

theorem State.ctxs_of_ringStep_done {s t : State} {core ctx h r : Nat} {c : Ctx} (e : s.ringStep core ctx c h r = .done t) :
    t.ctxs = s.ctxs := by have := s.ringStep_keepsAll core ctx c h r; rwa [e] at this

theorem State.ctxs_of_ringStep_wait {s t : State} {core ctx h r : Nat} {c : Ctx} (e : s.ringStep core ctx c h r = .wait t) :
    t.ctxs = s.ctxs := by have := s.ringStep_keepsAll core ctx c h r; rwa [e] at this

theorem State.services_writePending (s : State) (ctx fuel n : Nat) : (s.writePending ctx fuel).services n = s.services n := by
  induction fuel generalizing s with
  | zero => rfl
  | succ fuel ih =>
    have hfail : ∀ {g : Ctx → Ctx}, (∀ c, (g c).inService = c.inService) → ∀ core r,
        ((s.modCtx ctx g).ringFail core ctx r).services n = s.services n :=
      fun hg core r => (State.services_ctxFault ..).trans (s.services_modCtx ctx n hg)
    unfold State.writePending
    split
    · rfl
    · split
      · rfl
      · dsimp only
        split
        · split
          · exact State.services_of_ctxs (State.ctxs_awaitLink ..) n
          · exact hfail (by intro; rfl) _ _
        · split
          · exact hfail (by intro; rfl) _ _
          · rename_i h
            exact State.services_of_ctxs (State.ctxs_of_ringStep_wait h) n
          · rename_i h
            have hdone := State.services_of_ctxs (State.ctxs_of_ringStep_done h) n
            split
            all_goals exact (ih _).trans ((State.services_modCtx _ _ _ (by intro; rfl)).trans hdone)

theorem State.services_ringWrite (s : State) (core ctx seq r : Nat) (c2 : Bool) (n : Nat) :
    (s.ringWrite core ctx seq r c2).services n = s.services n := by
  have hpend : ∀ t : State, ((t.modCtx ctx fun c => { c with pendingRecs := c.pendingRecs ++ [(seq, r)] }).rereadRing ctx).services n =
      t.services n := fun t => (State.services_writePending ..).trans (State.services_modCtx _ _ _ (by intro; rfl))
  unfold State.ringWrite
  refine Eq.trans ?_ (s.services_writePending ctx _ n : (s.rereadRing ctx).services n = _)
  dsimp only
  split
  · rfl
  · split
    · exact hpend _
    · split
      · exact hpend _
      · split
        · rename_i h
          exact State.services_of_ctxs (State.ctxs_of_ringStep_done h) n
        · exact hpend _
        · exact State.services_ctxFault ..

/-! ## Recording a fault of a page that no record has in service -/

/-- The record that a fault of a translation makes in context c (09 R176). -/
def recordIn (c : Ctx) (core strand src : Nat) (f : XFault) : Nat :=
  faultRecord f.va c.seq.toNat core strand (if f.link then srcLink else src) f.cause f.level (f.cause == 2)

/-- The pages in service with the record of a page that is not there. -/
def servicesWith (c : Ctx) (r : Nat) (f : XFault) : List InService :=
  if f.cause = 2 then c.inService ++ [⟨f.page, f.size, c.seq.toNat, r, []⟩] else c.inService

theorem Ctx.Faults.seq {code : Nat} {c d : Ctx} (h : c.Faults code d) : d.seq = c.seq := by
  rcases h with ⟨-, -, h⟩ | ⟨-, -, -, h⟩ <;> exact h

/-- What a context keeps while faults are written: its count of records and its pages in service. -/
theorem Goes.keeps_service {code n : Nat} {s t : State} (h : Goes (Ctx.Faults code) s t) (hv : t.services n = s.services n) {c : Ctx}
    (hc : s.ctxs.get? n = some c) : ∃ d, t.ctxs.get? n = some d ∧ d.seq = c.seq ∧ d.inService = c.inService := by
  obtain ⟨d, hd, hf⟩ := h.get hc
  unfold State.services at hv
  rw [hc, hd] at hv
  exact ⟨d, hd, hf.seq, Option.some.inj hv⟩

/-- A fault makes its record, of the context's next number, which holds the operation where the page is not there (R176). -/
theorem State.recordFault_new {s : State} {n : Nat} {c : Ctx} {f : XFault} (core strand src : Nat) (hc : s.ctxs.get? n = some c)
    (h0 : f.cause ≠ 0) (hp : f.cause = 2 → ∀ p ∈ c.inService, p.page ≠ f.page) :
    (s.recordFault n core strand src f).2 = (recordIn c core strand src f, if f.cause = 2 then some c.seq.toNat else none) ∧
      ∃ d, (s.recordFault n core strand src f).1.ctxs.get? n = some d ∧ d.seq = c.seq + 1 ∧
        d.inService = servicesWith c (recordIn c core strand src f) f := by
  have hfind : (if f.cause = 2 then c.inService.find? (·.page == f.page) else none) = none := by
    split
    · rename_i h2
      exact List.find?_eq_none.2 fun p hm => by simpa using hp h2 p hm
    · rfl
  unfold State.recordFault
  rw [if_neg h0, hc]
  dsimp only
  rw [hfind]
  refine ⟨rfl, ?_⟩
  dsimp only
  obtain ⟨e, he, hseq, hserv⟩ := (State.ringWrite_goes ..).keeps_service (State.services_ringWrite ..)
    (State.get?_modCtx_self hc fun d => { d with
      seq := d.seq + 1
      inService := if f.cause = 2 then d.inService ++ [⟨f.page, f.size, c.seq.toNat, recordIn c core strand src f, []⟩] else d.inService })
  split
  · obtain ⟨d, hd, hdseq, hdserv⟩ := (State.ctxFault_goes ..).keeps_service (State.services_ctxFault ..) he
    exact ⟨d, hd, hdseq.trans hseq, hdserv.trans hserv⟩
  · exact ⟨e, he, hseq, hserv⟩

theorem State.recordTrap_of_fault {t : TrapReq} {src : Nat} {f : XFault} (ht : t.fault = some (src, f)) (s : State) (pos : Nat)
    (y : Strand) : s.recordTrap pos y t = s.recordFault (s.ctxNum y) (coreOf pos) y.index src f := by
  unfold State.recordTrap
  rw [ht]

/-! ## The operation that a record holds -/

/-- Of the pages in service, only the one of the record holds the operation. -/
theorem map_holds_last {l : List InService} {p : InService} {n : Nat} (hp : p.seq = n) (h : ∀ q ∈ l, q.seq ≠ n) (o : Holder) :
    ((l ++ [p]).map fun q => if q.seq = n then { q with held := q.held ++ [o] } else q) =
      l ++ [{ p with held := p.held ++ [o] }] := by
  rw [List.map_append]
  refine congrArg₂ _ ?_ ?_
  · exact (List.map_congr_left fun q hq => if_neg (h q hq)).trans (List.map_id' l)
  · rw [List.map_singleton, if_pos hp]

theorem State.get?_holdPend {s : State} {ctx : Nat} {c : Ctx} (hc : s.ctxs.get? ctx = some c) (pos id q : Nat) :
    (s.holdPend pos ctx (some id) (some q)).ctxs.get? ctx = some { c with
      inService := c.inService.map fun p => if p.seq = q then { p with held := p.held ++ [.op id] } else p } :=
  State.get?_modCtx_self (s := s.modPend pos id fun p => { p with svc := some q }) hc _

/-- Held by a record, the instruction is outstanding on it. -/
theorem Strand.exists_heldBy {x : Strand} {id : Nat} {p : Pend} (hp : p ∈ x.outs) (hid : p.id = id) (q : Nat) :
    ∃ o ∈ (x.heldBy (some id) (some q)).outs, o.id = id ∧ o.slot = p.slot ∧ o.svc = some q :=
  ⟨_, List.mem_map_of_mem (f := fun p : Pend => if p.id = id then { p with svc := some q } else p) hp, by simp [hid]⟩

/-! ## A strand alone whose access traps with a fault record -/

theorem Strand.trapAt_of_unfenced {y : Strand} {n : Nat} (h : y.fencedBefore n = false) (p : Point) (r : TrapRec) :
    y.trapAt n p r = { y with run := .trapped, trap := r, regs := { y.regs with pc := p } } := if_neg (ne_true_of_eq_false h)

/-- A trap, with no fence before its instruction, of a strand in no handler. -/
theorem State.afterTrap_of_open {s : State} {pos : Nat} {y : Strand} {t : TrapReq} (pt : Point) (hu : t.upset = false)
    (hh : y.handler = false) (hf : y.fencedBefore (t.hold.getD y.nextId) = false) :
    s.afterTrap pos pt y t = { y.heldBy t.hold (s.recordTrap pos y t).2.2 with
      run := .trapped, regs := { y.regs with pc := t.resume.getD pt }, trap := s.trapRecord pos pt y t
      trapSet := t.set.getD s.moves, heldOn := (s.recordTrap pos y t).2.2 } := by
  have hn := (Strand.fencedBefore_heldBy y t.hold (s.recordTrap pos y t).2.2 (t.hold.getD y.nextId)).trans hf
  rw [State.afterTrap, hu, hh, Strand.trapAt_of_unfenced hn, Strand.regs_heldBy]
  rfl

/-- An access that met an uncorrectable error, or waits for a port, holds its strand at the word. -/
theorem State.afterTrap_of_upset {s : State} {pos : Nat} {y : Strand} {t : TrapReq} (pt : Point) (hu : t.upset = true) :
    s.afterTrap pos pt y t = { y.heldBy t.hold (s.recordTrap pos y t).2.2 with run := .stalled (.ops []) } := if_pos hu

/-- A word of a strand alone that acts lane by lane and traps raises that one trap, where its lane left off. -/
theorem State.pointwise_alone_trap {s : State} {x : Issue} {i : Instr} {k : Nat} {st y : Strand} {t : TrapReq}
    {f : Issue → Nat → Strand → LaneOut} (h : s.Alone x i k st) (hf : f x k st = ⟨y, some t⟩) :
    ∃ u : State, u.cur = some x ∧ u.ctxs = s.ctxs ∧ u.moves = s.moves ∧ u.strand? (posOf x.braid k) = some y ∧
      s.pointwise i f = u.raise [(k, t)] := by
  refine ⟨{ s with strands := s.strands.mapVals (laneResult x.braid (s.laneOuts x i f)) }, h.cur, rfl, rfl, ?_, ?_⟩
  · exact (State.strand?_laneResults_of_mem f h.mem).trans (by rw [hf])
  · rw [State.pointwise_eq f h.cur h.legal, h.tagTraps]
    simp [State.laneOuts, h.passing, hf]

theorem State.ctxs_addGroups (s : State) (b : Nat) (lanes : List Nat) (at_ : Option DWord) :
    (s.addGroups b lanes at_).ctxs = s.ctxs := by
  obtain ⟨m, hm⟩ := s.addGroups_eq b lanes at_
  rw [hm]

/-- The one lane of a raise: what it leaves of the strands and contexts, whether or not its braid has a group more pending. -/
theorem State.raise_one {s : State} {x : Issue} (hx : s.cur = some x) (k : Nat) (t : TrapReq) :
    (∀ p, (s.raise [(k, t)]).strand? p = (s.raiseOne (posOf x.braid k) x.here t).strand? p) ∧
      (s.raise [(k, t)]).ctxs = (s.raiseOne (posOf x.braid k) x.here t).ctxs := by
  unfold State.raise
  rw [hx]
  dsimp only [List.foldl_cons, List.foldl_nil]
  split
  · exact ⟨fun _ => rfl, rfl⟩
  · exact ⟨State.strand?_addGroups _ _ _ _, State.ctxs_addGroups ..⟩

/-- A memory word of a strand alone, in no handler, whose lane traps: what it leaves of the strand and of the contexts. -/
theorem exec_of_ask_trap {s : State} {x : Issue} {i : Instr} {k : Nat} {st y : Strand} {a : Ask} {t : TrapReq} (h : s.Alone x i k st)
    (hask : ask i (s.lane x k st) st = some a) (hy : y.handler = false)
    (hout : s.accessLane x i k st a.long a.kind a.wants a.order a.op = ⟨y, some t⟩) :
    ∃ u : State, u.ctxs = s.ctxs ∧ u.moves = s.moves ∧ Completes i s fun r =>
      r.strand? (posOf x.braid k) = some (u.afterTrap (posOf x.braid k) x.here y t) ∧
        r.ctxs = (u.trapRecorded (posOf x.braid k) y t).ctxs := by
  obtain ⟨u, hcur, hctxs, hmoves, hs, hu⟩ := State.pointwise_alone_trap h ((State.askLane_of_ask hask).trans hout)
  obtain ⟨hstrand, hraise⟩ := State.raise_one hcur k t
  obtain ⟨hleft, -, hrec⟩ := State.raiseOne_leaves hs x.here t
  refine ⟨u, hctxs, hmoves, _, exec_of_ask_lanes hask, ?_, ?_⟩
  · rw [hu, hstrand, hleft]
  · rw [hu, hraise, hrec hy]

/-! ## The three ways a translation fails (R176, 18 R325, R326) -/

section
variable {s : State} {x : Issue} {i : Instr} {k : Nat} {st : Strand} {a : Ask} {f : XFault} {c : Ctx} (h : s.Alone x i k st)
  (hask : ask i (s.lane x k st) st = some a) (hh : st.handler = false)
  (hreach : s.reach (posOf x.braid k) st (s.lane x k st) a.wants = .error (.inr f)) (hc : s.ctxs.get? (s.ctxNum st) = some c)
include h hask hh hreach hc

/-- An entry that is missing or malformed, or that denies the access: the trap is at the word, with its record. -/
theorem exec_traps_of_refused (hf : st.pastFence = false) (h0 : f.cause ≠ 0) (h2 : f.cause ≠ 2) (h7 : f.cause ≠ 7) :
    Completes i s fun t => t.strand? (posOf x.braid k) = some { st with
        run := .trapped, regs := { st.regs with pc := x.here }
        trap := ⟨x.clause, x.word, if f.cause = 1 ∨ f.cause = 6 then 5 else 6, f.cause,
          recordIn c (coreOf (posOf x.braid k)) st.index a.wants.src f⟩
        trapSet := s.moves, heldOn := none } ∧
      ∃ d, t.ctxs.get? (s.ctxNum st) = some d ∧ d.seq = c.seq + 1 := by
  obtain ⟨u, hctxs, hmoves, t, ht, hstrand, htc⟩ := exec_of_ask_trap h hask hh (State.accessLane_of_refused hreach h2)
  obtain ⟨hrec, d, hd, hseq, -⟩ := State.recordFault_new (s := u) (n := u.ctxNum st) (coreOf (posOf x.braid k)) st.index a.wants.src
    (hctxs ▸ hc) h0 fun e => absurd e h2
  refine ⟨t, ht, ?_, d, ?_, hseq⟩
  · rw [hstrand, State.afterTrap_of_open _ (by simp [TrapReq.upset, refusedTrap, h0, h7]) hh (Strand.fencedBefore_of_pastFence hf _),
      State.trapRecord, State.recordTrap_of_fault rfl, hrec, if_neg h2, hmoves]
    rfl
  · rw [htc]
    exact hd

/-- A page that is not there: the strand traps past the word, and its access is outstanding on the record (11 R230 for an acquire). -/
theorem exec_traps_of_absent (hf : st.pastFence = false) (h2 : f.cause = 2) (hpage : ∀ p ∈ c.inService, p.page ≠ f.page)
    (hnew : ∀ p ∈ c.inService, p.seq ≠ c.seq.toNat) :
    Completes i s fun t =>
      (∃ z, t.strand? (posOf x.braid k) = some z ∧ z.regs.pc = x.after i ∧ z.heldOn = some c.seq.toNat ∧
        (∃ o ∈ z.outs, o.id = st.nextId ∧ o.slot = a.long.slot ∧ o.svc = some c.seq.toNat) ∧ z.run = .trapped ∧
        z.trap = ⟨x.clause, x.word, 5, 18, recordIn c (coreOf (posOf x.braid k)) st.index a.wants.src f⟩ ∧ z.trapSet = s.moves ∧
        z.deferred = st.deferred) ∧
      ∃ d, t.ctxs.get? (s.ctxNum st) = some d ∧ d.seq = c.seq + 1 ∧ d.inService = c.inService ++
        [⟨f.page, f.size, c.seq.toNat, recordIn c (coreOf (posOf x.braid k)) st.index a.wants.src f, [.op st.nextId]⟩] := by
  obtain ⟨y, hy, hout⟩ := State.accessLane_of_absent (i := i) (l := a.long) (kind := a.kind) (o := a.order) (op := a.op) hreach h2
  have hhandler : y.handler = false := hy.handler.trans hh
  obtain ⟨u, hctxs, hmoves, t, ht, hstrand, htc⟩ := exec_of_ask_trap h hask hhandler hout
  obtain ⟨hrec, d, hd, hseq, hserv⟩ := State.recordFault_new (s := u) (n := u.ctxNum y) (coreOf (posOf x.braid k)) y.index a.wants.src
    (c := c) (by rw [hctxs, State.ctxNum, hy.ctx]; exact hc) (by rw [h2]; decide) fun _ => hpage
  rw [State.afterTrap_of_open (t := absentTrap a.wants.src f st.nextId (x.after i)) _ (by simp [TrapReq.upset, absentTrap, h2])
    hhandler (hy.fencedBefore hf), State.trapRecord, State.recordTrap_of_fault rfl, hrec, if_pos h2, hy.index, hmoves] at hstrand
  refine ⟨t, ht, ⟨_, hstrand, rfl, rfl, ?_, rfl, rfl, rfl, hy.deferred⟩, ?_⟩
  · obtain ⟨p, fs, houts, hid, hslot, -⟩ := hy.outs
    rw [← hslot]
    exact Strand.exists_heldBy (houts ▸ List.mem_append_right _ (List.mem_cons_self ..)) hid _
  · rw [htc, State.trapRecorded, State.recordTrap_of_fault rfl, hrec, if_pos h2]
    refine ⟨_, (congrArg _ hy.ctx.symm).trans (State.get?_holdPend hd ..), hseq, ?_⟩
    rw [hserv, servicesWith, if_pos h2, hy.index]
    exact map_holds_last (p := ⟨f.page, f.size, c.seq.toNat, _, []⟩) rfl hnew _

/-- An uncorrectable error of an active context: it faults, and the strand stays at its word, with no trap. -/
theorem exec_faults_of_upset (h7 : f.cause = 7) (ha : c.st = .active) :
    Completes i s fun t => t.strand? (posOf x.braid k) = some { st with run := .stalled (.ops []) } ∧
      ∃ d, t.ctxs.get? (s.ctxNum st) = some d ∧ d.st = .faulted ∧ d.seq = c.seq + 1 := by
  have h2 : f.cause ≠ 2 := by rw [h7]; decide
  obtain ⟨u, hctxs, hmoves, t, ht, hstrand, htc⟩ := exec_of_ask_trap h hask hh (State.accessLane_of_refused hreach h2)
  obtain ⟨d, hd, hst, hseq, -⟩ := State.recordFault_of_upset (s := u) (n := u.ctxNum st) (coreOf (posOf x.braid k)) st.index a.wants.src
    (hctxs ▸ hc) ha h7
  refine ⟨t, ht, ?_, d, ?_, hst, hseq⟩
  · rw [hstrand, State.afterTrap_of_upset _ (by simp [TrapReq.upset, refusedTrap, h7])]
    rfl
  · rw [htc]
    exact hd

end

/-- The record in its fields, held or not. -/
theorem recordIn_eq (c : Ctx) (core strand src : Nat) (f : XFault) (b : Bool) (hb : (f.cause == 2) = b) :
    recordIn c core strand src f = faultRecord f.va c.seq.toNat core strand (if f.link then 7 else src) f.cause f.level b := by
  rw [recordIn, hb]

end Sys2Proof.Machine

namespace Sys2Proof
open Sys2Proof.Machine Sys2Proof.Claims

theorem accessTranslationTraps : AccessTranslationTraps := by
  intro s x i k st a f c halone hask hh hf hreach hc pos record
  refine ⟨fun hcause => ?_, fun h2 hpage hnew _ => ?_, fun h7 ha => exec_faults_of_upset halone hask hh hreach hc h7 ha⟩
  · obtain ⟨h0, h2, h7⟩ : f.cause ≠ 0 ∧ f.cause ≠ 2 ∧ f.cause ≠ 7 := by
      simp only [List.mem_cons, List.not_mem_nil, or_false] at hcause
      omega
    have hrecord : record false = recordIn c (coreOf pos) st.index a.wants.src f := (recordIn_eq _ _ _ _ _ _ (beq_false_of_ne h2)).symm
    rw [hrecord]
    exact exec_traps_of_refused halone hask hh hreach hc hf h0 h2 h7
  · have hrecord : record true = recordIn c (coreOf pos) st.index a.wants.src f := (recordIn_eq _ _ _ _ _ _ (beq_of_eq h2)).symm
    rw [hrecord]
    exact exec_traps_of_absent halone hask hh hreach hc hf h2 hpage hnew

/-- Settles O54: each lane of a memory word makes its own access, and one that fails a check or its translation raises its one trap, which
leaves the strand as `State.afterTrap` says and the context as its fault record does. -/
theorem accessTraps : Obligations.AccessTraps := ⟨accessAddressTraps, accessTranslationTraps⟩

end Sys2Proof
end

section
/-! PROOFS. `brk` and `trap` (07 R135, 18 R335). -/

namespace Sys2Proof.Machine
open Sys2Proof.Claims

/-- A word whose every executing lane traps, and is else as before. -/
theorem State.pointwise_trapWord {s : State} {x : Issue} {i : Instr} {k : Nat} {st : Strand} {r : Issue → TrapReq}
    (hr : ∀ y, (r y).Plain) (h : s.Executes x i k st) (hd : OneDepth s x st.regs.depth) (hh : st.handler = false)
    (hf : st.pastFence = false) :
    Traps s (s.pointwise i fun y _ z => { st := z, trap := some (r y) }) x k st ((r x).record ⟨x.clause, x.word⟩)
      ((r x).resume.getD ⟨x.clause, x.word⟩) := by
  refine State.pointwise_traps h.cur h.legal hd (fun _ _ u hu => ?_)
    (List.mem_append_right _ (State.mem_outTraps.2 ⟨st, h.mem, rfl⟩)) h.strand hh hf
  obtain rfl := Option.some.inj hu
  exact ⟨hr x, rfl⟩

end Sys2Proof.Machine

namespace Sys2Proof
open Sys2Proof.Machine Sys2Proof.Claims

/-- Settles O25: each lane that executes `brk` raises the trap of its code, to resume at the next clause (`State.pointwise_trapWord`);
of `trap` that is `softwareTrapResumes`. -/
theorem breakAndTrapWords : Obligations.BreakAndTrapWords := by
  intro s x k st p code hh hf hd
  refine ⟨fun h => ⟨_, rfl, ?_⟩, fun h => ?_⟩
  · exact State.pointwise_trapWord (r := fun y => { cause := cBreak, detail := code, resume := some ⟨y.next, 0⟩ })
      (fun _ => ⟨rfl, rfl, rfl, rfl⟩) h hd hh hf
  · obtain ⟨t, ht, htraps⟩ := softwareTrapResumes s x k st p code hh hf hd h
    exact ⟨t, ht, _, htraps⟩

end Sys2Proof
end

section
/-! PROOFS. Branches, calls and returns (07 R123 to R132, R134): where a call or return comes to, and what its word leaves. -/

namespace Sys2Proof.Machine
open Sys2Proof.Claims

/-! ## Targets -/

theorem readInt_signed (c : Nat) : readInt true 32 c = (BitVec.ofNat 32 c).toInt := by
  rw [BitVec.toInt_eq_toNat_cond, BitVec.toNat_ofNat]
  unfold readInt
  simp only [true_and]
  split <;> split <;> omega

/-- A displacement counts in units of 8 bytes, as a signed number of 32 bits (02 R36). -/
theorem Issue.target_eq (x : Issue) (disp : Nat) :
    x.target disp = x.clause + ((BitVec.ofNat 32 disp).signExtend 64 <<< 3) := by
  rw [Issue.target, readInt_signed, BitVec.shiftLeft_eq_mul_twoPow, BitVec.signExtend, mul_comm, BitVec.ofInt_mul]
  rfl

/-! ## Where a call or return comes to -/

theorem State.setStrand_onlyStrand (s : State) (pos : Nat) (y : Strand) : s.OnlyStrand (s.setStrand pos y) pos y :=
  ⟨s.strand?_setStrand_self pos y, fun p hp => (s.strand?_setStrand pos p y).trans (if_neg (Ne.symm hp)), rfl⟩

/-- Where the stack region takes a call's frame and what it spills, a call within the hardware stack goes through. -/
theorem State.call_of_shallow {s : State} {pos : Nat} {x : Strand} {here : Point} {link target : DWord} {size : Nat}
    (hdepth : x.regs.depth < 32) (hfits : x.regs.fp.toNat + x.regs.size + size ≤ x.stackE.toNat) :
    s.call pos x here link target size = .ok (s.setStrand pos (x.called link target size)) := by
  unfold State.call
  rw [if_neg (by omega), if_pos (by omega)]

theorem State.call_of_overflow {s : State} {pos : Nat} {x : Strand} {here : Point} {link target : DWord} {size : Nat}
    (h : x.stackE.toNat < x.regs.fp.toNat + x.regs.size + size + 32 * (x.regs.depth - 31)) :
    s.call pos x here link target size = .error (.trap { cause := cOverflow }) := by
  unfold State.call
  rw [if_pos (by omega)]

/-- A call past it waits for its spill. -/
theorem State.call_of_deep {s : State} {pos : Nat} {x : Strand} {here : Point} {link target : DWord} {size : Nat}
    (hdepth : 32 ≤ x.regs.depth)
    (hfits : x.regs.fp.toNat + x.regs.size + size + 32 * (x.regs.depth - 31) ≤ x.stackE.toNat) :
    s.call pos x here link target size =
      (s.spillParts pos x .write (spillAddr x.stackE (x.regs.depth - 31)) here).map fun ps =>
        ((s.sendParts engineFlit 0 x.ctx (coreOf pos) ps).putParts (.strand pos) ((x.regs.calls.getLast?).getD ⟨0, 0, 0, 0⟩).image
          ps).setStrand pos (x.called link target size) := by
  unfold State.call
  rw [if_neg (by omega), if_neg (by omega), show x.regs.depth + 1 - 32 = x.regs.depth - 31 by omega]
  cases s.spillParts pos x .write (spillAddr x.stackE (x.regs.depth - 31)) here <;> rfl

theorem State.ret_of_empty {s : State} {pos : Nat} {x : Strand} {here : Point} (h : x.regs.depth = 0) :
    s.ret pos x here = .error (.trap { cause := cUnderflow }) := if_pos h

theorem State.ret_of_shallow {s : State} {pos : Nat} {x : Strand} {here : Point} (h : 0 < x.regs.depth) (h32 : x.regs.depth ≤ 32) :
    s.ret pos x here = .ok (s.setStrand pos (x.returned [])) := by
  unfold State.ret
  rw [if_neg (by omega), if_pos h32]

theorem State.ret_of_deep {s : State} {pos : Nat} {x : Strand} {here : Point} (h32 : 32 < x.regs.depth) :
    s.ret pos x here = (s.spillParts pos x .read (spillAddr x.stackE (x.regs.depth - 32)) here).map fun ps =>
      s.setStrand pos (x.returned [Call.ofImage (s.seenParts (strandAgent pos) ps)]) := by
  unfold State.ret
  rw [if_neg (by omega), if_neg (by omega)]
  cases s.spillParts pos x .read (spillAddr x.stackE (x.regs.depth - 32)) here <;> rfl

/-- Does an instruction touch a word of these parts with a piece of an access? -/
def Pend.touches (a : Pend) (ps : List Part) : Bool := ps.any fun q => a.pieces.any fun r => r.meets q

/-- The instructions of a strand that a spill or refill of these parts waits for. -/
def Strand.before (x : Strand) (ps : List Part) : List Nat := (x.outs.filter (·.touches ps)).map Pend.id

theorem Pend.touches_iff {a : Pend} {ps : List Part} : a.touches ps = true ↔ ∃ y ∈ a.pieces, ∃ z ∈ ps, y.meets z = true := by
  simp only [Pend.touches, List.any_eq_true]
  constructor
  · rintro ⟨z, hz, y, hy, h⟩
    exact ⟨y, hy, z, hz, h⟩
  · rintro ⟨y, hy, z, hz, h⟩
    exact ⟨z, hz, y, hy, h⟩

theorem Strand.mem_before {x : Strand} {ps : List Part} {n : Nat} : n ∈ x.before ps ↔ ∃ a ∈ x.outs, a.touches ps = true ∧ a.id = n := by
  simp [Strand.before, and_assoc]

section
variable {s : State} {pos : Nat} {x : Strand} {need : Need} {va : Nat} {here : Point} {ps : List Part}
  (hparts : s.parts (coreOf pos) x.ctx need va 32 = .ok ps) (hreach : s.reachFault (need == .write) ps = none)
include hparts hreach

theorem State.spillParts_of_reached :
    s.spillParts pos x need va here = if (x.before ps).isEmpty then .ok ps else .error (.wait (x.before ps)) := by
  unfold State.spillParts State.ctxNum
  rw [hparts]
  dsimp only
  rw [hreach]
  rfl

theorem State.spillParts_of_free (h : ∀ a ∈ x.outs, ∀ y ∈ a.pieces, ∀ z ∈ ps, y.meets z = false) :
    s.spillParts pos x need va here = .ok ps := by
  have hnone : x.before ps = [] := List.eq_nil_iff_forall_not_mem.2 fun n hn => by
    obtain ⟨a, ha, htouch, -⟩ := Strand.mem_before.1 hn
    obtain ⟨y, hy, z, hz, hmeet⟩ := Pend.touches_iff.1 htouch
    rw [h a ha y hy z hz] at hmeet
    cases hmeet
  rw [State.spillParts_of_reached hparts hreach, hnone]
  rfl

theorem State.spillParts_of_busy (h : ∃ a ∈ x.outs, ∃ y ∈ a.pieces, ∃ z ∈ ps, y.meets z = true) :
    s.spillParts pos x need va here = .error (.wait (x.before ps)) := by
  obtain ⟨a, ha, htouch⟩ := h
  have hsome := List.ne_nil_of_mem (Strand.mem_before.2 ⟨a, ha, Pend.touches_iff.2 htouch, rfl⟩)
  rw [State.spillParts_of_reached hparts hreach, List.isEmpty_eq_false_iff.2 hsome]
  rfl

end

/-! ## The words of a strand alone -/

section
variable {s : State} {x : Issue} {k : Nat} {st : Strand}

theorem State.callWord_of_ok {t : State} {i : Instr} {size : Nat} {target : Issue → Strand → DWord} (h : s.Alone x i k st)
    (hc : s.call (posOf x.braid k) st x.here x.next (target x st) (64 * size) = .ok t) : s.callWord i size target = .next t := by
  unfold State.callWord
  rw [State.inLaneOrder_alone (t := t) _ h]
  simp only [h.strand, hc]

theorem State.callWord_of_wait {i : Instr} {size : Nat} {target : Issue → Strand → DWord} {ids : List Nat} (h : s.Alone x i k st)
    (hc : s.call (posOf x.braid k) st x.here x.next (target x st) (64 * size) = .error (.wait ids)) :
    s.callWord i size target = .next (s.stallOn (posOf x.braid k) (.ops ids)) := by
  unfold State.callWord
  rw [State.inLaneOrder_alone (t := s.stallOn (posOf x.braid k) (.ops ids)) _ h]
  simp only [h.strand, hc, State.callStopped]

theorem State.callWord_of_trap {i : Instr} {size : Nat} {target : Issue → Strand → DWord} {r : TrapReq} (h : s.Alone x i k st)
    (hc : s.call (posOf x.braid k) st x.here x.next (target x st) (64 * size) = .error (.trap r)) :
    s.callWord i size target = .next (s.raise [(k, r)]) := by
  unfold State.callWord
  rw [State.inLaneOrder_trap (t := s) (r := r) _ h]
  simp only [h.strand, hc, State.callStopped]

theorem execRet_of_ok {t : State} {p : Pred} (h : s.Alone x (.ret p) k st) (hr : s.ret (posOf x.braid k) st x.here = .ok t) :
    execRet p s = .next t := by
  unfold execRet
  rw [State.inLaneOrder_alone (t := t) _ h]
  simp only [h.strand, hr]

theorem execRet_of_trap {p : Pred} {r : TrapReq} (h : s.Alone x (.ret p) k st)
    (hr : s.ret (posOf x.braid k) st x.here = .error (.trap r)) : execRet p s = .next (s.raise [(k, r)]) := by
  unfold execRet
  rw [State.inLaneOrder_trap (t := s) (r := r) _ h]
  simp only [h.strand, hr, State.callStopped]

theorem trapsAlone_of_raise {i : Instr} {c : Nat} (h : s.Alone x i k st) (he : exec i s = .next (s.raise [(k, { cause := c })])) :
    TrapsAlone s x i k st c 0 :=
  fun hh hf => ⟨_, he, State.raise_plain h.cur h.strand hh hf⟩

/-! ## Calls -/

variable {i : Instr} {size : Nat} {target : Issue → Strand → DWord} (hexec : exec i s = s.callWord i size target)
  (h : s.Alone x i k st)
include hexec h

theorem call_goes_of_shallow (hdepth : st.regs.depth < 32) (hfits : st.regs.fp.toNat + st.regs.size + 64 * size ≤ st.stackE.toNat) :
    Completes i s fun t => s.OnlyStrand t (posOf x.braid k) (st.called x.next (target x st) (64 * size)) :=
  ⟨_, hexec.trans (State.callWord_of_ok h (State.call_of_shallow hdepth hfits)), State.setStrand_onlyStrand ..⟩

theorem call_traps_of_overflow
    (hover : st.stackE.toNat < st.regs.fp.toNat + st.regs.size + 64 * size + 32 * (st.regs.depth - 31)) :
    TrapsAlone s x i k st 8 0 :=
  trapsAlone_of_raise h (hexec.trans (State.callWord_of_trap h (State.call_of_overflow hover)))

section
variable {ps : List Part} (hdepth : 32 ≤ st.regs.depth)
  (hfits : st.regs.fp.toNat + st.regs.size + 64 * size + 32 * (st.regs.depth - 31) ≤ st.stackE.toNat)
  (hparts : s.parts (coreOf (posOf x.braid k)) st.ctx .write (spillAddr st.stackE (st.regs.depth - 31)) 32 = .ok ps)
  (hreach : s.reachFault true ps = none)
include hdepth hfits hparts hreach

/-- A call past the hardware stack whose spill nothing holds back stores the oldest entry with the word (log 43). -/
theorem call_spills (hfree : ∀ q ∈ st.outs, ∀ y ∈ q.pieces, ∀ z ∈ ps, y.meets z = false) (hearly : s.early = [])
    (hnear : ∀ z ∈ ps, keyPackage z.key = none) {c : Call} (hc : st.regs.calls.getLast? = some c) :
    Completes i s fun t => t = { s with strands := t.strands, mem := t.mem, spoiled := t.spoiled } ∧
      (∀ p, p ≠ posOf x.braid k → t.strand? p = s.strand? p) ∧
      t.strand? (posOf x.braid k) = some (st.called x.next (target x st) (64 * size)) ∧
      t.mem = Memory.writeParts c.image ps s.mem := by
  have hcall := State.call_of_deep (s := s) (pos := posOf x.braid k) (here := x.here) (link := x.next) (target := target x st) hdepth hfits
  rw [State.spillParts_of_free hparts hreach hfree, hc] at hcall
  obtain ⟨sp, hput⟩ := State.putParts_of_early_nil hearly (.strand (posOf x.braid k)) c.image ps
  refine ⟨_, hexec.trans (State.callWord_of_ok h hcall), ?_⟩
  dsimp only
  rw [State.sendParts_of_local _ _ _ _ _ hnear, Option.getD_some, hput]
  obtain ⟨here, others, -⟩ := State.setStrand_onlyStrand ({ s with mem := s.mem.writeParts c.image ps, spoiled := sp }) (posOf x.braid k)
    (st.called x.next (target x st) (64 * size))
  exact ⟨rfl, others, here, rfl⟩

/-- One behind accesses of its strand to the place waits for them at the word. -/
theorem call_waits_to_spill (hbusy : ∃ q ∈ st.outs, ∃ y ∈ q.pieces, ∃ z ∈ ps, y.meets z = true) :
    Completes i s fun t => ∃ ids, (t = s.modStrand (posOf x.braid k) fun y => { y with run := .stalled (.ops ids) }) ∧
      ∀ n, n ∈ ids ↔ ∃ q ∈ st.outs, q.id = n ∧ ∃ y ∈ q.pieces, ∃ z ∈ ps, y.meets z = true := by
  have hcall := State.call_of_deep (s := s) (pos := posOf x.braid k) (here := x.here) (link := x.next) (target := target x st) hdepth hfits
  rw [State.spillParts_of_busy hparts hreach hbusy] at hcall
  refine ⟨_, hexec.trans (State.callWord_of_wait h hcall), st.before ps, rfl, fun n => ?_⟩
  simp only [Strand.mem_before, Pend.touches_iff, and_comm (b := _ = n)]

end
end

/-! ## Returns -/

section
variable {s : State} {x : Issue} {k : Nat} {st : Strand} {p : Pred} (h : s.Alone x (.ret p) k st)
include h

theorem ret_goes_of_shallow (hdepth : 0 < st.regs.depth) (h32 : st.regs.depth ≤ 32) :
    Completes (.ret p) s fun t => s.OnlyStrand t (posOf x.braid k) (st.returned []) :=
  ⟨_, execRet_of_ok h (State.ret_of_shallow hdepth h32), State.setStrand_onlyStrand ..⟩

/-- A return from past the hardware stack reads the newest spilled entry back with the word (log 43). -/
theorem ret_refills {q : Part} (h32 : 32 < st.regs.depth)
    (hparts : s.parts (coreOf (posOf x.braid k)) st.ctx .read (spillAddr st.stackE (st.regs.depth - 32)) 32 = .ok [q])
    (hlen : q.len = 32) (hreach : s.reachFault false [q] = none)
    (hfree : ∀ a ∈ st.outs, ∀ y ∈ a.pieces, y.meets q = false) (hearly : s.early = []) :
    Completes (.ret p) s fun t => s.OnlyStrand t (posOf x.braid k) (st.returned [Call.ofImage (s.mem.readN q.key 32)]) := by
  have hread : s.seenParts (strandAgent (posOf x.braid k)) [q] = s.mem.readN q.key 32 := by
    simp [State.seenParts, State.seenN_of_early_nil hearly, hlen]
  have hret := State.ret_of_deep (s := s) (pos := posOf x.braid k) (here := x.here) h32
  rw [State.spillParts_of_free hparts hreach fun a ha y hy z hz => List.mem_singleton.1 hz ▸ hfree a ha y hy] at hret
  refine ⟨_, execRet_of_ok h hret, ?_⟩
  dsimp only
  rw [hread]
  exact State.setStrand_onlyStrand ..

theorem ret_traps_of_empty (hdepth : st.regs.depth = 0) : TrapsAlone s x (.ret p) k st 7 0 :=
  trapsAlone_of_raise h (execRet_of_trap h (State.ret_of_empty hdepth))

end

/-- The strand after a return to the entry `c`. -/
theorem Strand.returned_of_cons {st : Strand} {c : Call} {rest : List Call} (h : st.regs.calls = c :: rest) (refill : List Call) :
    st.returned refill = { st with regs := { st.regs with
      calls := rest ++ refill, fp := c.fp, size := c.size, serial := c.serial, depth := st.regs.depth - 1, pc := ⟨c.link, 0⟩ } } := by
  simp only [Strand.returned, h, List.headD_cons, List.drop_succ_cons, List.drop_zero]

end Sys2Proof.Machine

namespace Sys2Proof
open Sys2Proof.Machine Sys2Proof.Claims

theorem branchResults : BranchResults := by
  intro s x k st p disp hint t0
  have hgoes : ∀ (i : Instr) (f : Issue → Nat → Strand → LaneOut) (run : Run) (a : DWord), (f x k st).trap = none →
      (f x k st).st = { st with run := run, regs := { st.regs with pc := ⟨a, 0⟩ } } → exec i s = .next (s.pointwise i f) →
      s.Executes x i k st → Completes i s fun t =>
        t.strand? (posOf x.braid k) = some { st with run := run, regs := { st.regs with pc := ⟨a, 0⟩ } } :=
    fun i f run a htrap hst hexec h => ⟨_, hexec, hst ▸ State.pointwise_lane f h htrap⟩
  rw [← Issue.target_eq]
  exact ⟨hgoes _ _ _ _ rfl rfl rfl, hgoes _ _ _ _ rfl rfl rfl, hgoes _ _ _ _ rfl rfl rfl, hgoes _ _ _ _ rfl rfl rfl⟩

theorem callsAndReturns : CallsAndReturns := by
  intro s x k st p size disp t0 r called pos slotAt spills target fits
  have hcalled : ∀ a, called a = st.called x.next a (64 * size) := fun _ => rfl
  have htarget : x.target disp = target := Issue.target_eq ..
  have hgoes : ∀ (i : Instr) (goal : Issue → Strand → DWord), exec i s = s.callWord i size goal → s.Alone x i k st →
      r.depth < 32 → fits → Completes i s fun t => s.OnlyStrand t (posOf x.braid k) (called (goal x st)) :=
    fun i goal hexec h hdepth hfits => hcalled _ ▸ call_goes_of_shallow hexec h hdepth hfits
  have hover : ∀ (i : Instr) (goal : Issue → Strand → DWord), exec i s = s.callWord i size goal → s.Alone x i k st →
      r.depth < 32 → ¬ fits → TrapsAlone s x i k st 8 0 :=
    fun i goal hexec h hdepth hfits => call_traps_of_overflow hexec h (lt_of_lt_of_le (not_le.1 hfits) (Nat.le_add_right ..))
  have hspills : ∀ (i : Instr) (goal : Issue → Strand → DWord) ps, exec i s = s.callWord i size goal → spills i (goal x st) ps :=
    fun i goal ps hexec h hdepth hfits hparts hreach =>
      ⟨fun hfree hearly hnear c hc => hcalled _ ▸ call_spills hexec h hdepth hfits hparts hreach hfree hearly hnear hc,
        call_waits_to_spill hexec h hdepth hfits hparts hreach⟩
  clear_value called
  rw [← htarget]
  refine ⟨hgoes _ (fun y _ => y.target disp) rfl, hgoes _ (fun _ z => z.regs.pair t0) rfl, fun c rest h hdepth h32 hcalls => ?_,
    fun ps => ⟨hspills _ (fun y _ => y.target disp) ps rfl, hspills _ (fun _ z => z.regs.pair t0) ps rfl⟩,
    fun c rest q v h h32 hcalls hparts hlen hreach hfree hearly hv => ?_,
    fun h _ hlarge => call_traps_of_overflow (target := fun y _ => y.target disp) rfl h hlarge,
    hover _ (fun y _ => y.target disp) rfl, hover _ (fun _ z => z.regs.pair t0) rfl, ret_traps_of_empty⟩
  · have hgo := ret_goes_of_shallow h hdepth h32
    rwa [Strand.returned_of_cons hcalls, List.append_nil] at hgo
  · have hgo := ret_refills h h32 hparts hlen hreach hfree hearly
    rwa [Strand.returned_of_cons hcalls, ← hv] at hgo

end Sys2Proof
end

section
/-! PROOFS. The exit of a strand (07 R133): its handles are released (17 R319), and it leaves its knots (12 R238, 14 R265). -/

namespace Sys2Proof.Machine
open Sys2Proof.Claims

/-! ## A drain leaves strands, environments and knots -/

/-- Strands, environments and knots are the same in both states. -/
structure SameHomes (s t : State) : Prop where
  strands : t.strands = s.strands
  envs : t.envs = s.envs
  knots : t.knots = s.knots

theorem SameHomes.refl (s : State) : SameHomes s s := ⟨rfl, rfl, rfl⟩

theorem SameHomes.trans {s t u : State} (h : SameHomes s t) (k : SameHomes t u) : SameHomes s u :=
  ⟨k.strands.trans h.strands, k.envs.trans h.envs, k.knots.trans h.knots⟩

theorem OnlyMemCtxs.sameHomes {s t : State} (h : OnlyMemCtxs s t) : SameHomes s t := by
  obtain ⟨m, e, x, c, p, w, rfl, -⟩ := h
  exact ⟨rfl, rfl, rfl⟩

theorem State.homeAcquire_sameHomes (s : State) (key : Nat) (x : Strand) : SameHomes s (s.homeAcquire key x) :=
  (State.widen_only ..).faults.sameHomes

theorem State.writeRow_sameHomes (s : State) (key : Nat) (x : Strand) (ps : List Part) (v : Nat) : SameHomes s (s.writeRow key x ps v) :=
  ((State.sendParts_only ..).trans (State.putFirst_only ..).faults).sameHomes

/-- Rows written in turn, and then observed where members resume. -/
theorem State.writeRows_sameHomes {α : Type} (s : State) (key : Nat) (x : Strand) (l : List α) (ps : α → List Part) (v : α → Nat) :
    SameHomes s ((l.foldl (fun u p => u.writeRow key x (ps p) (v p)) s).homeRelease key x) :=
  (foldl_keeps (P := SameHomes s) _ (fun u p h => h.trans (u.writeRow_sameHomes key x (ps p) (v p))) l (.refl s)).trans
    (State.bring_only ..).faults.sameHomes

theorem State.drain_sameHomes (s : State) (key : Nat) (f : DrainFmt) (rm : Rnd) (keep : Bool) (tslot : Nat) (x : Strand) (a : DrainArgs) :
    SameHomes s (s.drain key f rm keep tslot x a).1 := by
  have hrecord : ∀ {o : Option XFault} {core : Nat} {r : State × Nat × Option Nat}, (match o with
      | some e => s.recordFault (s.ctxNum x) core x.index srcDrain e
      | none => (s, 0, none)) = r → SameHomes s r.1 := by
    rintro (_ | e) core r rfl
    · exact .refl s
    · exact (State.recordFault_only ..).sameHomes
  unfold State.drain
  split
  · exact .refl s
  · split
    · exact .refl s
    · dsimp only
      split
      · exact hrecord rfl
      · split
        · have hrows := fun l => s.writeRows_sameHomes key x (α := List (Except XFault (List Part)) × Nat × FFlags) l
            (fun p => found p.1) fun p => p.2.1
          split
          · exact hrows _
          · exact (hrows _).trans ⟨rfl, rfl, rfl⟩
        · split
          · rename_i hr
            exact (hrecord hr).trans (State.modCtx_only ..).sameHomes
          · rename_i hr
            split
            · exact (hrecord hr).trans (State.awaitLink_only ..).sameHomes
            · exact hrecord hr

/-! ## A collective closes, and a member goes -/

/-- Of strands, environments and knots only the knot at `key` differs: it has no block that waits, and no new member. -/
structure OnlyKnot (s t : State) (key : Nat) : Prop where
  strands : t.strands = s.strands
  envs : t.envs = s.envs
  others : ∀ j, j ≠ key → t.knot j = s.knot j
  queue : (t.knot key).queue = []
  members : ∀ m ∈ (t.knot key).members, m ∈ (s.knot key).members

theorem OnlyKnot.trans {s t u : State} {key : Nat} (h : OnlyKnot s t key) (k : OnlyKnot t u key) : OnlyKnot s u key :=
  ⟨k.strands.trans h.strands, k.envs.trans h.envs, fun j hj => (k.others j hj).trans (h.others j hj), k.queue,
    fun m hm => h.members m (k.members m hm)⟩

theorem SameHomes.knot {s t : State} (h : SameHomes s t) (j : Nat) : t.knot j = s.knot j := by
  rw [State.knot, h.knots, State.knot]

theorem SameHomes.onlyKnot {s t : State} {key : Nat} (h : SameHomes s t) (hq : (s.knot key).queue = []) : OnlyKnot s t key :=
  ⟨h.strands, h.envs, fun j _ => h.knot j, h.knot key ▸ hq, fun _ hm => h.knot key ▸ hm⟩

theorem State.knot_setKnot_self (s : State) (key : Nat) (k : Knot) : (s.setKnot key k).knot key = k := by
  simp [State.knot, State.setKnot, AMap.getD]

theorem State.knot_setKnot_ne (s : State) {key j : Nat} (k : Knot) (h : j ≠ key) : (s.setKnot key k).knot j = s.knot j := by
  simp [State.knot, State.setKnot, AMap.getD, AMap.get?_set_ne _ _ h.symm]

theorem State.setKnot_onlyKnot (s : State) (key : Nat) {k : Knot} (hq : k.queue = []) (hm : ∀ m ∈ k.members, m ∈ (s.knot key).members) :
    OnlyKnot s (s.setKnot key k) key := by
  refine ⟨rfl, rfl, fun j hj => s.knot_setKnot_ne k hj, ?_, ?_⟩
  · rwa [State.knot_setKnot_self]
  · rwa [State.knot_setKnot_self]

section
variable {s : State} {key : Nat} (hq : (s.knot key).queue = [])
include hq

theorem State.giveOut_onlyKnot (f : Nat → Arrival → Given) : OnlyKnot s (s.giveOut key f) key := by
  unfold State.giveOut
  dsimp only
  rw [hq, List.foldl_nil]
  have hevents : ∀ l : List Nat, ∀ g : Nat → CoreEvent, SameHomes s (l.foldl (fun u c => u.pushEvent c (g c)) s) := fun l g =>
    foldl_keeps (P := SameHomes s) (fun u c => u.pushEvent c (g c)) (fun u c h => h.trans ⟨rfl, rfl, rfl⟩) l (.refl s)
  have hsame := hevents ((((s.knot key).byRank.map fun p =>
    (⟨p.2.pos, p.2.id, (f p.1 p.2).regs, (f p.1 p.2).fl, (f p.1 p.2).trap⟩ : KnotResult)).map fun r => coreOf r.pos).dedup)
  exact ((hsame _).onlyKnot hq).trans (State.setKnot_onlyKnot _ _ rfl fun m hm => by
    rwa [(hsame _).knot])

theorem State.close_onlyKnot : OnlyKnot s (s.close key) key := by
  unfold State.close
  dsimp only
  split
  · exact (SameHomes.refl s).onlyKnot hq
  · exact State.giveOut_onlyKnot hq _
  · exact State.giveOut_onlyKnot hq _
  · exact State.giveOut_onlyKnot hq _
  · split
    · exact (SameHomes.refl s).onlyKnot hq
    · split
      · exact (SameHomes.refl s).onlyKnot hq
      · rename_i x _
        have hdrain := fun f rm keep t args => (s.homeAcquire_sameHomes key x).trans (State.drain_sameHomes _ key f rm keep t x args)
        generalize hr : (s.homeAcquire key x).drain key _ _ _ _ x _ = r
        have hu : SameHomes s r.1 := hr ▸ hdrain ..
        have hstays : ∀ svc, OnlyKnot s (r.1.setKnot key { s.knot key with svc := svc }) key := fun svc =>
          (hu.onlyKnot hq).trans (State.setKnot_onlyKnot _ _ hq fun m hm => by rwa [hu.knot])
        have hends : ∀ f, OnlyKnot s (r.1.giveOut key f) key := fun f =>
          (hu.onlyKnot hq).trans (State.giveOut_onlyKnot (hu.knot key ▸ hq) f)
        obtain ⟨u, d⟩ := r
        cases d with
        | status => exact hends _
        | empty => exact hends _
        | held => exact hstays _
        | upset => exact hstays _

theorem State.testClosure_onlyKnot : OnlyKnot s (s.testClosure key) key := by
  unfold State.testClosure
  dsimp only
  split
  · exact State.close_onlyKnot hq
  · exact (SameHomes.refl s).onlyKnot hq

end

/-- A knot whose member at `pos` goes, with its arrival (12 R238). -/
def Knot.without (k : Knot) (pos : Nat) : Knot :=
  let k' := { k with members := k.members.filter (·.pos != pos), arrivals := k.arrivals.filter (·.pos != pos) }
  if k'.arrivals.isEmpty then { k' with kind := none } else k'

theorem Knot.queue_without (k : Knot) (pos : Nat) : (k.without pos).queue = k.queue := by
  unfold Knot.without
  dsimp only
  split <;> rfl

theorem Knot.mem_without {k : Knot} {pos : Nat} {m : Member} : m ∈ (k.without pos).members ↔ m ∈ k.members ∧ m.pos ≠ pos := by
  have h : (k.without pos).members = k.members.filter (·.pos != pos) := by
    unfold Knot.without
    dsimp only
    split <;> rfl
  simp [h]

theorem State.removeMember_eq (s : State) (key pos : Nat) : s.removeMember key pos =
    let k := (s.knot key).without pos
    if k.members.isEmpty then (s.freeTiles key).setKnot key (.free (s.knot key).serial)
    else if (s.knot key).svc.isSome && k.arrivals.isEmpty then (s.setKnot key k).giveOut key fun _ _ => {}
    else (s.setKnot key k).testClosure key := rfl

/-- A member goes: the knot, or what is left of its entry, has it as a member no more. -/
theorem State.removeMember_onlyKnot {s : State} {key : Nat} (hq : (s.knot key).queue = []) (pos : Nat) :
    OnlyKnot s (s.removeMember key pos) key ∧ ∀ m ∈ ((s.removeMember key pos).knot key).members, m.pos ≠ pos := by
  have hleaves : ∀ {u t : State} {k : Knot}, SameHomes s u → k.queue = [] → (∀ m ∈ k.members, m ∈ (s.knot key).members ∧ m.pos ≠ pos) →
      OnlyKnot (u.setKnot key k) t key →
      OnlyKnot s t key ∧ ∀ m ∈ (t.knot key).members, m.pos ≠ pos := by
    intro u t k hu hk hm ht
    refine ⟨((hu.onlyKnot hq).trans (State.setKnot_onlyKnot u key hk fun m h => ?_)).trans ht, fun m h => ?_⟩
    · rw [hu.knot]
      exact (hm m h).1
    · have h := ht.members m h
      rw [State.knot_setKnot_self] at h
      exact (hm m h).2
  have hqueue : (((s.knot key).without pos)).queue = [] := (Knot.queue_without ..).trans hq
  rw [State.removeMember_eq]
  dsimp only
  split
  · exact hleaves (u := s.freeTiles key) ⟨rfl, rfl, rfl⟩ rfl (fun _ h => (List.not_mem_nil h).elim)
      ((SameHomes.refl _).onlyKnot (by rw [State.knot_setKnot_self]; rfl))
  · split
    · exact hleaves (.refl s) hqueue (fun _ => Knot.mem_without.1) (State.giveOut_onlyKnot (by rwa [State.knot_setKnot_self]) _)
    · exact hleaves (.refl s) hqueue (fun _ => Knot.mem_without.1) (State.testClosure_onlyKnot (by rwa [State.knot_setKnot_self]))

/-! ## A strand leaves its knots -/

/-- An exited strand leaves the knot of an identifier. -/
def State.leaveKnot (pos : Nat) (s : State) (id : Nat) : State :=
  if (s.knot (knotKey id)).live then s.removeMember (knotKey id) pos else s

theorem State.leaveKnot_onlyKnot {s : State} {id : Nat} (hq : (s.knot (knotKey id)).queue = []) (pos : Nat) :
    OnlyKnot s (s.leaveKnot pos id) (knotKey id) ∧
      ((s.knot (knotKey id)).live = true → ∀ m ∈ ((s.leaveKnot pos id).knot (knotKey id)).members, m.pos ≠ pos) := by
  unfold State.leaveKnot
  split
  · obtain ⟨honly, hgone⟩ := State.removeMember_onlyKnot hq pos
    exact ⟨honly, fun _ => hgone⟩
  · rename_i hdead
    exact ⟨(SameHomes.refl s).onlyKnot hq, fun hlive => absurd hlive hdead⟩

/-- Knots left in turn, none of which holds a block: strands and environments stay, no knot has a new member, and the strand is a member
of none of those any more. -/
theorem State.foldl_leaveKnot {pos : Nat} {ids : List Nat} {s : State} (hq : ∀ id ∈ ids, (s.knot (knotKey id)).queue = []) :
    let t := ids.foldl (State.leaveKnot pos) s
    t.strands = s.strands ∧ t.envs = s.envs ∧ (∀ j, ∀ m ∈ (t.knot j).members, m ∈ (s.knot j).members) ∧
      ∀ id ∈ ids, (s.knot (knotKey id)).live = true → ∀ m ∈ (t.knot (knotKey id)).members, m.pos ≠ pos := by
  induction ids generalizing s with
  | nil => exact ⟨rfl, rfl, fun _ _ hm => hm, nofun⟩
  | cons id ids ih =>
    obtain ⟨hid, hids⟩ := List.forall_mem_cons.1 hq
    obtain ⟨honly, hgone⟩ := State.leaveKnot_onlyKnot hid pos
    have hqueue : ∀ j ∈ ids, ((s.leaveKnot pos id).knot (knotKey j)).queue = [] := by
      intro j hj
      by_cases he : knotKey j = knotKey id
      · rw [he]
        exact honly.queue
      · rw [honly.others _ he]
        exact hids j hj
    obtain ⟨hstrands, henvs, hmembers, hleft⟩ := ih hqueue
    rw [List.foldl_cons]
    refine ⟨hstrands.trans honly.strands, henvs.trans honly.envs, fun j m hm => ?_, fun j hj hlive m hm => ?_⟩
    · by_cases he : j = knotKey id
      · subst he
        exact honly.members m (hmembers _ m hm)
      · rw [← honly.others j he]
        exact hmembers j m hm
    · by_cases he : knotKey j = knotKey id
      · rw [he] at hm hlive
        exact hgone hlive m (hmembers _ m hm)
      · rcases List.mem_cons.1 hj with rfl | hj
        · exact absurd rfl he
        · exact hleft j hj (by rwa [honly.others _ he]) m hm

theorem State.depart_of_leaving_nil {s : State} {pos : Nat} {y : Strand} (hs : s.strand? pos = some y) (hl : y.leaving = []) :
    s.depart pos = s := by
  unfold State.depart
  rw [hs]
  simp [hl]

theorem State.modStrand_onlyStrand {s : State} {pos : Nat} {y : Strand} (hs : s.strand? pos = some y) (f : Strand → Strand) :
    s.OnlyStrand (s.modStrand pos f) pos (f y) :=
  ⟨(s.strand?_modStrand_self pos f).trans (congrArg _ hs), fun _ hp => s.strand?_modStrand_ne f hp.symm, rfl⟩

theorem State.OnlyStrand.refl {s : State} {pos : Nat} {y : Strand} (hs : s.strand? pos = some y) : s.OnlyStrand s pos y :=
  ⟨hs, fun _ _ => rfl, rfl⟩

theorem State.OnlyStrand.envs {s t : State} {pos : Nat} {y : Strand} (h : s.OnlyStrand t pos y) : t.envs = s.envs := by
  rw [h.rest]

theorem State.OnlyStrand.knot {s t : State} {pos : Nat} {y : Strand} (h : s.OnlyStrand t pos y) (j : Nat) : t.knot j = s.knot j := by
  rw [State.knot, h.rest, State.knot]

/-- A strand with no contribution under way leaves all its knots. -/
theorem State.depart_eq {s : State} {pos : Nat} {y : Strand} (hs : s.strand? pos = some y)
    (hnone : ∀ q ∈ y.outs, ∀ h, q.kind ≠ .contribution h) :
    ∃ u, s.OnlyStrand u pos { y with leaving := [] } ∧ s.depart pos = y.leaving.foldl (State.leaveKnot pos) u := by
  have hready : ∀ id, (y.outs.all fun p => !p.toHome (knotHome (knotKey id))) = true := fun id => List.all_eq_true.2 fun p hp => by
    simp [Pend.toHome, hnone p hp]
  unfold State.depart
  rw [hs]
  simp only [hready, List.filter_true, Bool.not_true, List.filter_false]
  split
  · rename_i he
    have hnil : y.leaving = [] := List.isEmpty_iff.1 he
    exact ⟨s, .refl (hs.trans (by rw [← hnil])), by rw [hnil]; rfl⟩
  · exact ⟨_, State.modStrand_onlyStrand hs fun x => { x with leaving := [] }, rfl⟩

/-! ## Its handles are released -/

theorem State.release_eq (s : State) (h : DWord) : ∃ e, s.release h = { s with envs := e } := by
  unfold State.release State.dropRef
  dsimp only
  split
  · exact ⟨s.envs, rfl⟩
  · split <;> exact ⟨_, rfl⟩

theorem State.envs_release_congr {s t : State} (h : s.envs = t.envs) (k : DWord) : (s.release k).envs = (t.release k).envs := by
  unfold State.release State.dropRef State.setEnv State.env
  rw [h]
  split
  · exact h
  · dsimp only
    split <;> rfl

/-- What releasing handles makes of the environments; nothing else of the package has a part in it, or changes. -/
theorem State.foldl_release_eq {ks : List DWord} {s t : State} (h : s.envs = t.envs) :
    ks.foldl State.release s = { s with envs := (ks.foldl State.release t).envs } := by
  induction ks generalizing s t with
  | nil => exact h ▸ rfl
  | cons k ks ih =>
    obtain ⟨e, he⟩ := s.release_eq k
    rw [List.foldl_cons, List.foldl_cons, ih (State.envs_release_congr h k), he]

/-- No handle of the strand is left. -/
def Strand.dropHandles (x : Strand) : Strand := { x with regs := { x.regs with k := x.regs.k.map fun _ => 0 } }

/-- A strand that holds none drops none. -/
theorem Strand.dropHandles_of_zero {x : Strand} (h : x.regs.k.all (· == 0) = true) :
    x.dropHandles = x ∧ ∀ s, x.regs.k.foldl State.release s = s := by
  have hzero : ∀ k ∈ x.regs.k, k = 0 := by simpa using h
  constructor
  · have hk : x.regs.k.map (fun _ => 0) = x.regs.k := (List.map_congr_left fun k hk => (hzero k hk).symm).trans (List.map_id' _)
    rw [Strand.dropHandles, hk]
  · intro s
    exact List.foldlRecOn _ _ (motive := (· = s)) rfl fun t ht k hk => by rw [hzero k hk, ht]; rfl

theorem State.envs_foldl_release {ks : List DWord} {s t : State} (h : s.envs = t.envs) :
    (ks.foldl State.release s).envs = (ks.foldl State.release t).envs := by
  rw [State.foldl_release_eq h]

/-- The handles of an exited strand behind no closure word are released. -/
theorem State.releaseHandles_eq {s : State} {pos : Nat} {y : Strand} (hs : s.strand? pos = some y) (hrun : y.run = .exited)
    (hidle : ∀ q ∈ y.outs, q.kind ≠ .closure) :
    ∃ u, s.OnlyStrand u pos y.dropHandles ∧ s.releaseHandles pos = { u with envs := (y.regs.k.foldl State.release s).envs } := by
  have hpend : ¬ y.closPending y.nextId = true := by
    rw [Bool.not_eq_true]
    exact List.any_eq_false.2 fun q hq => by simp [hidle q hq]
  unfold State.releaseHandles
  rw [hs]
  dsimp only
  by_cases hz : y.regs.k.all (· == 0) = true
  · obtain ⟨hdrop, hnone⟩ := Strand.dropHandles_of_zero hz
    rw [if_pos (.inr (.inr hz)), hdrop, hnone]
    exact ⟨s, .refl hs, rfl⟩
  · rw [if_neg (by rintro (h | h | h) <;> contradiction),
      State.foldl_release_eq (s := s) (t := s) rfl]
    exact ⟨_, State.modStrand_onlyStrand hs Strand.dropHandles, rfl⟩

/-- They stay where a closure word of it is to be performed yet. -/
theorem State.releaseHandles_of_pending {s : State} {pos : Nat} {y : Strand} (hs : s.strand? pos = some y)
    (hpend : y.closPending y.nextId = true) : s.releaseHandles pos = s := by
  unfold State.releaseHandles
  rw [hs]
  exact if_pos (.inr (.inl hpend))

/-! ## exit (07 R133) -/

/-- The strand once it has exited, with the handles `ks` in its registers. -/
def Strand.gone (x : Strand) (ks : List DWord) : Strand :=
  { x with
    run := .exited, held := false, handler := false, frame := none, deferred := none, past := some x.regs
    regs := { x.regs with n := x.regs.n.map fun _ => none, a := x.regs.a.map fun _ => .point0, calls := [], k := ks } }

/-- The strand as it exits, its handles still held and its knots still to leave. -/
def Strand.exits (x : Strand) : Strand := { x.gone x.regs.k with leaving := x.leaving ++ x.regs.n.filterMap id }

theorem Strand.gone_of_leaving_nil {x : Strand} (h : x.leaving = []) (ks : List DWord) : { x.gone ks with leaving := [] } = x.gone ks := by
  rw [← h]
  rfl

/-- A strand in its place is not put aside as it winds up. -/
theorem State.windUp_eq (s : State) {pos : Nat} (hp : pos < 384 * 2048) : s.windUp pos = (s.releaseHandles pos).depart pos :=
  if_neg fun h => absurd h.1 (Nat.not_le.2 hp)

section
variable {s : State} {x : Issue} {k : Nat} {st : Strand} {p : Pred} (h : s.Alone x (.exit p) k st) (hruns : Runs (posOf x.braid k) st)
include h hruns

theorem exec_exit_alone : ∃ u, s.OnlyStrand u (posOf x.braid k) st.exits ∧
    exec (.exit p) s = .next ((u.releaseHandles (posOf x.braid k)).depart (posOf x.braid k)) := by
  obtain ⟨-, -, -, hpos⟩ := hruns
  refine ⟨_, State.modStrand_onlyStrand h.strand Strand.exits, ?_⟩
  rw [← State.windUp_eq _ hpos]
  exact congrArg Host.Outcome.next (State.inLaneOrder_alone _ h rfl)

/-- Behind a closure word to come, a strand without knots exits and keeps its handles. -/
theorem exit_keeps_handles (hn : st.regs.n.filterMap id = []) (hpend : st.closPending st.nextId = true) :
    Completes (.exit p) s fun t => s.OnlyStrand t (posOf x.braid k) (st.gone st.regs.k) := by
  obtain ⟨u, hu, hexec⟩ := exec_exit_alone h hruns
  obtain ⟨-, hleave, -, -⟩ := hruns
  have hnil : st.exits.leaving = [] := (congrArg₂ (· ++ ·) hleave hn)
  have hgone : st.exits = st.gone st.regs.k := by
    rw [Strand.exits, hleave, hn]
    exact Strand.gone_of_leaving_nil hleave _
  refine ⟨_, hexec, ?_⟩
  rw [State.releaseHandles_of_pending hu.here hpend, State.depart_of_leaving_nil hu.here hnil, ← hgone]
  exact hu

/-- Behind none, it releases them; what is left is to leave its knots. -/
theorem exec_exit_of_idle (hidle : ∀ q ∈ st.outs, q.kind ≠ .closure) : ∃ u, s.OnlyStrand u (posOf x.braid k) st.exits.dropHandles ∧
    exec (.exit p) s = .next (({ u with envs := (st.regs.k.foldl State.release s).envs } : State).depart (posOf x.braid k)) := by
  obtain ⟨u, hu, hexec⟩ := exec_exit_alone h hruns
  obtain ⟨v, hv, hrel⟩ := State.releaseHandles_eq hu.here rfl hidle
  have henvs : (st.exits.regs.k.foldl State.release u).envs = (st.regs.k.foldl State.release s).envs :=
    State.envs_foldl_release hu.envs
  rw [hrel, henvs] at hexec
  exact ⟨v, ⟨hv.here, fun q hq => (hv.others q hq).trans (hu.others q hq), by rw [hv.rest, hu.rest]⟩, hexec⟩

end

end Sys2Proof.Machine

namespace Sys2Proof
open Sys2Proof.Machine Sys2Proof.Claims

theorem exitResults : ExitResults := by
  intro s x k st p h hruns pos gone idle released
  have hleave := hruns.2.1
  have hdropped : { st.exits.dropHandles with leaving := [] } = gone (st.regs.k.map fun _ => 0) :=
    Strand.gone_of_leaving_nil hleave (st.regs.k.map fun _ => 0)
  refine ⟨fun hn hidle => ?_, fun hn hpend => ?_, fun hidle hfree hqueues => ?_⟩
  · obtain ⟨u, hu, hexec⟩ := exec_exit_of_idle h hruns hidle
    have hnil : st.exits.dropHandles.leaving = [] := by
      show st.leaving ++ st.regs.n.filterMap id = []
      rw [hleave, hn]
      rfl
    refine ⟨_, hexec, ?_⟩
    rw [State.depart_of_leaving_nil (s := { u with envs := released }) hu.here hnil]
    refine ⟨congrArg (fun v : State => { v with envs := released }) hu.rest, hu.others, hu.here.trans ?_⟩
    rw [← hdropped, ← hnil]
  · exact exit_keeps_handles h hruns (by rw [hn]; rfl) (List.any_eq_true.2 (by simpa using hpend))
  · obtain ⟨u, hu, hexec⟩ := exec_exit_of_idle h hruns hidle
    obtain ⟨v, hv, hdepart⟩ := State.depart_eq (s := { u with envs := released }) hu.here hfree
    have hknot : ∀ j, v.knot j = s.knot j := fun j => (hv.knot j).trans (hu.knot j)
    have hheld : ∀ j, j ∈ st.exits.dropHandles.leaving ↔ some j ∈ st.regs.n := fun j => by
      show j ∈ st.leaving ++ st.regs.n.filterMap (fun o => o) ↔ _
      simp [hleave]
    obtain ⟨hstrands, henvs, -, hleft⟩ := State.foldl_leaveKnot (pos := pos) (ids := st.exits.dropHandles.leaving) (s := v)
      fun j hj => by rw [hknot]; exact hqueues j ((hheld j).1 hj)
    refine ⟨_, hexec.trans (congrArg _ hdepart), henvs.trans hv.envs, ?_, fun j hj hlive =>
      hleft j ((hheld j).2 hj) (by rwa [hknot])⟩
    rw [State.strand?, hstrands]
    exact hv.here.trans (congrArg some hdropped)

/-- Settles O27: branches put each lane at its target (`branchResults`); a call or return of a strand alone changes that strand and the
place of its spill (`callsAndReturns`); and an exit releases handles and leaves knots one by one (`exitResults`). -/
theorem controlTransfers : Obligations.ControlTransfers := ⟨branchResults, callsAndReturns, exitResults⟩

end Sys2Proof
end

section
/-! PROOFS. The braid words (07 R136 to R140): what each leaves in a lane that executes it. O7 fails for what a lane receives besides its
result: the handoffs of a lane that stands behind a release fence (11 R219). -/

namespace Sys2Proof.Machine
open Sys2Proof.Claims

/-! ## What a braid word leaves -/

/-- The word writes `w` in lane l and sets its flags; its strand has besides received what the other lanes of the active set hand over, or
some of it (11 R219). -/
def State.Gives (s : State) (x : Issue) (l : Nat) (st : Strand) (i : Instr) (d : Nat) (w : Reg) (fl : FFlags) : Prop :=
  s.Executes x i l st → Completes i s fun t => ∃ hs, (∀ h ∈ hs, h ∈ s.handoffs x i l fun _ => true) ∧
    t.strand? (posOf x.braid l) = some { written st i.info.cap [(d, w)] fl with handed := st.handed ++ hs }

theorem Strand.put_one (st : Strand) (cap : Option Nat) (d : Nat) (w : Reg) (fl : FFlags) :
    st.put cap (.one d w fl) = written st cap [(d, w)] fl := by
  cases cap <;> rfl

theorem Strand.receive_eq (st : Strand) (hs : List (Nat × Nat)) : st.receive hs = { st with handed := st.handed ++ hs } := by
  unfold Strand.receive
  split
  · rename_i h
    rw [List.isEmpty_iff.1 h, List.append_nil]
  · rfl

theorem State.mem_handoffs_of_gives {s : State} {x : Issue} {i : Instr} {l : Nat} {gives : Nat → Bool} {h : Nat × Nat}
    (hh : h ∈ s.handoffs x i l gives) : h ∈ s.handoffs x i l fun _ => true := by
  unfold State.handoffs at hh ⊢
  obtain ⟨p, hp, hq⟩ := List.mem_flatMap.1 hh
  obtain ⟨hp, hcond⟩ := List.mem_filter.1 hp
  refine List.mem_flatMap.2 ⟨p, List.mem_filter.2 ⟨hp, ?_⟩, hq⟩
  simp only [Bool.and_eq_true] at hcond ⊢
  exact ⟨hcond.1, trivial⟩

section
variable {s : State} {x : Issue} {l : Nat} {st : Strand}

theorem State.braidWord_gives {i : Instr} {u : Use} {a : Src} {f : List (Nat × Reg) → Nat → Lane → Writes}
    {gives : Nat → Lane → Nat → Bool} {d : Nat} {w : Reg} {fl : FFlags} (he : exec i s = s.braidWord i u a f gives)
    (hw : f (s.gathered x i u a) l (s.lane x l st) = .one d w fl) : s.Gives x l st i d w fl := by
  intro h
  refine ⟨_, he, s.handoffs x i l (gives l (s.lane x l st)), fun _ => State.mem_handoffs_of_gives, ?_⟩
  rw [State.pointwise_lane _ h rfl]
  dsimp only
  rw [hw, Strand.put_one, Strand.receive_eq]
  rfl

/-! ## shfl (07 R138) -/

/-- The lane that `shfl` reads from, where there is one of that number. -/
def shflSource (m : ShflMode) (l b : Nat) : Int :=
  match m with
  | .idx => (b % 32 : Nat)
  | .up => (l : Int) - b
  | .down => (l : Int) + b
  | .xor => (l ^^^ (b % 32) : Nat)

theorem shflLane_eq (m : ShflMode) (l b : Nat) :
    shflLane m l b = if 0 ≤ shflSource m l b ∧ shflSource m l b ≤ 31 then some (shflSource m l b).toNat else none := by
  cases m <;> rfl

theorem State.gathered_lt {i : Instr} {u : Use} {a : Src} {p : Nat × Reg} (h : p ∈ s.gathered x i u a) : p.1 < 32 := by
  obtain ⟨q, hq, rfl⟩ := List.mem_map.1 h
  exact (State.mem_active.1 (State.mem_passing.1 hq).1).1.1

/-- Among values of lanes, that of the source lane. -/
theorem find_shflLane {vals : List (Nat × Reg)} (hv : ∀ p ∈ vals, p.1 < 32) (m : ShflMode) (l b : Nat) :
    ((shflLane m l b).bind fun j => vals.find? (·.1 == j)) = vals.find? fun p => decide ((p.1 : Int) = shflSource m l b) := by
  rw [shflLane_eq]
  split
  · rename_i hj
    exact List.find?_congr fun p _ => by
      rw [Bool.eq_iff_iff]
      simp only [beq_iff_eq, decide_eq_true_eq]
      omega
  · rename_i hj
    refine (List.find?_eq_none.2 fun p hp => ?_).symm
    have := hv p hp
    simp only [decide_eq_true_eq]
    omega

/-- `shfl` gives the value of the source lane, and c where that lane is not active. -/
theorem shfl_gives (m : ShflMode) (d : DstA) (a b c : Src) :
    let e := s.lane x l st
    let found := (s.gathered x (.shfl m d a b c) .any a).find? fun p => decide ((p.1 : Int) = shflSource m l (e.nat .i32 b))
    s.Gives x l st (.shfl m d a b c) d.d ((found.map Prod.snd).getD (e.src .any c)) 0 := by
  refine State.braidWord_gives (exec_shfl ..) ?_
  rw [find_shflLane (fun _ => State.gathered_lt)]
  split
  · rename_i hp
    rw [hp]
    rfl
  · rename_i hp
    rw [hp]
    rfl

/-! ## vote and ballot (07 R139) -/

theorem all_beq_headD (vs : List Word) : vs.all (· == vs.headD 0) = vs.all fun v => vs.all fun w => v == w := by
  cases vs with
  | nil => rfl
  | cons v vs =>
    rw [List.headD_cons, Bool.eq_iff_iff]
    simp only [List.all_eq_true, beq_iff_eq]
    exact ⟨fun h w hw u hu => (h w hw).trans (h u hu).symm, fun h w hw => h w hw v (List.mem_cons_self ..)⟩

/-- The condition of a vote on the values of the active set. -/
def voteHolds (m : VoteMode) (vs : List Word) : Bool :=
  match m with
  | .all => vs.all fun v => v != 0
  | .any => vs.any fun v => v != 0
  | .uni => vs.all fun v => vs.all fun w => v == w

theorem vote_gives (m : VoteMode) (d : DstA) (a : Src) :
    s.Gives x l st (.vote m d a) d.d (truth (voteHolds m ((s.gathered x (.vote m d a) .any a).map fun p => p.2.val))) 0 := by
  cases m with
  | all => exact State.braidWord_gives (exec_vote ..) rfl
  | any => exact State.braidWord_gives (exec_vote ..) rfl
  | uni =>
    refine State.braidWord_gives (exec_vote ..) ?_
    dsimp only
    rw [all_beq_headD]
    rfl

theorem ballot_gives (d : DstA) (a : Src) {r : Word}
    (hr : ∀ k, r.getLsbD k = (s.gathered x (.ballot d a) .any a).any fun p => p.1 == k && p.2.val != 0) :
    s.Gives x l st (.ballot d a) d.d ⟨r, .i32⟩ 0 := by
  have hmask : r = maskOf (((s.gathered x (.ballot d a) .any a).filter fun p => p.2.val != 0).map Prod.fst) :=
    BitVec.eq_of_getLsbD_eq fun k hk => by
      rw [hr, maskOf, getLsbD_foldl_twoPow, Bool.eq_iff_iff]
      simp [hk, and_comm]
  exact hmask ▸ State.braidWord_gives (exec_ballot ..) rfl

/-! ## scan and red (07 R140) -/

/-- Does a fold of this kind take in lane j, for the result in lane l? -/
def FoldKind.takes (k : FoldKind) (l j : Nat) : Bool :=
  match k with
  | .incl => decide (j ≤ l)
  | .excl => decide (j < l)
  | .all => true

theorem foldAt_of_regs (op : FoldOp) (k : FoldKind) (vals : List (Nat × Reg)) (l : Nat) :
    foldAt op k (vals.map fun p => (p.1, p.2.val)) l = foldVals op ((vals.filter fun p => k.takes l p.1).map fun p => p.2.val) := by
  cases k <;> simp [foldAt, FoldKind.takes, List.filter_map, Function.comp_def]

theorem foldWrite_eq (d : Nat) (op : FoldOp) (k : FoldKind) (vals : List (Nat × Reg)) (l : Nat) :
    let r := foldVals op ((vals.filter fun p => k.takes l p.1).map fun p => p.2.val)
    foldWrite d op k vals l = .one d ⟨r.1, foldTag op⟩ r.2 := by
  rw [foldWrite, foldAt_of_regs]

theorem scan_gives (op : FoldOp) (ex : Bool) (d : DstA) (a : Src) :
    let r := foldVals op (((s.gathered x (.scan op ex d a) op.use a).filter fun p =>
      (if ex then FoldKind.excl else .incl).takes l p.1).map fun p => p.2.val)
    s.Gives x l st (.scan op ex d a) d.d ⟨r.1, foldTag op⟩ r.2 := State.braidWord_gives (exec_scan ..) (foldWrite_eq ..)

theorem red_gives (op : FoldOp) (d : DstA) (a : Src) :
    let r := foldVals op ((s.gathered x (.red op d a) op.use a).map fun p => p.2.val)
    s.Gives x l st (.red op d a) d.d ⟨r.1, foldTag op⟩ r.2 := by
  refine State.braidWord_gives (exec_red ..) ((foldWrite_eq ..).trans ?_)
  simp [FoldKind.takes]

end

/-! ## A lane that hands over -/

/-- Two strands at a vote on their v0; that of lane 1 is behind a release fence. -/
def behindRelease : State :=
  let y : Strand := { (default : Strand) with regs := { (default : Regs) with v := [.zero] } }
  let f : Pend := { (default : Pend) with act := .fence .rel .d none default none [] [] }
  { State.reset with
    strands := [(0, y), (1, { y with outs := [f] })]
    quarters := [(0, { Quarter.idle with cur := some ⟨0, 3, 0, [0], 1⟩ })] }

theorem behindRelease_hands : ∀ t, exec (.vote .all ⟨⟨false, 0⟩, 0, none⟩ (.v 0)) behindRelease = .next t →
    (t.strand? 0).map Strand.handed = some [(1, 0)] := by
  intro t ht
  obtain rfl := Host.Outcome.next.inj ht
  decide +kernel

end Sys2Proof.Machine

namespace Sys2Proof
open Sys2Proof.Machine Sys2Proof.Claims

/-- Refutes O7: in `behindRelease` the vote of lane 0 reads lane 1, whose release fence is incomplete, so lane 0 receives that handoff
(11 R219); the statement has its strand keep `handed` as it was. But for what it receives, each word gives what the statement says in
every lane that executes it: `shfl_gives`, `vote_gives`, `ballot_gives`, `scan_gives` and `red_gives`. -/
theorem not_braidWordsResults : ¬ Obligations.BraidWordsResults := by
  intro h
  obtain ⟨-, -, hvote, -⟩ := h behindRelease ⟨0, 3, 0, [0], 1⟩ 0
    { (default : Strand) with regs := { (default : Regs) with v := [.zero] } }
    ⟨⟨false, 0⟩, 0, none⟩ (.v 0) (.v 0) (.v 0)
  obtain ⟨t, ht, hstrand⟩ := hvote ⟨rfl, by decide +kernel, by decide, rfl, rfl, rfl⟩
  have hhanded := behindRelease_hands t ht
  rw [show t.strand? 0 = _ from hstrand] at hhanded
  exact absurd hhanded (by decide)

end Sys2Proof
end

section
/-! PROOFS. Scheduler rounds (07 R116 to R121) and gather points (R137). O37 fails for a strand gathered at a point to which the issue
set has come. -/

namespace Sys2Proof.Machine
open Sys2Proof.Claims

/-! ## The slack set (07 R121) -/

theorem State.candMask_mapStrands (s : State) (b : Nat) {f : Nat → Strand → Strand} (hf : ∀ p y, (f p y).isCand = y.isCand) :
    ({ s with strands := s.strands.mapVals f } : State).candMask b = s.candMask b := by
  unfold State.candMask State.braidStrands AMap.mapVals
  simp only [List.filter_map, List.map_map, Function.comp_def, hf]

theorem State.candMask_pruneWatch (s : State) (b : Nat) : (s.pruneWatch b).candMask b = s.candMask b := by
  refine s.candMask_mapStrands b fun p y => ?_
  split
  · split
    · rename_i hrun
      rw [Strand.isCand, Strand.isCand, hrun]
      rfl
    · rfl
  · rfl

section
variable {s : State} {pos : Nat} {x : Strand} (hs : s.strand? pos = some x)
include hs

/-- A parked strand of the braid: once no candidate is left that it watches it returns, and else it watches those that are left. -/
theorem State.strand?_slackReturn_of_parked {w : BitVec 32} (hx : x.run = .parked w) :
    (s.slackReturn (braidOf pos)).strand? pos = some { x with
      run := if w &&& s.candMask (braidOf pos) = 0 ∨ s.candMask (braidOf pos) = 0 then .candidate
        else .parked (w &&& s.candMask (braidOf pos)) } := by
  have hs : AMap.get? s.strands pos = some x := hs
  unfold State.slackReturn
  dsimp only
  rw [State.candMask_pruneWatch]
  simp only [State.strand?, State.pruneWatch, AMap.get?_mapVals, hs, Option.map_some, hx, if_true, beq_iff_eq]
  split <;> rfl

theorem State.strand?_slackReturn_of_candidate (b : Nat) (hx : x.run = .candidate) : (s.slackReturn b).strand? pos = some x := by
  have hs : AMap.get? s.strands pos = some x := hs
  simp [State.slackReturn, State.pruneWatch, State.strand?, AMap.get?_mapVals, hs, hx]

/-! ## Gather points (07 R137) -/

theorem State.strand?_releaseGather_of_candidate (b : Nat) (hx : x.run = .candidate) : (s.releaseGather b).strand? pos = some x := by
  have hs : AMap.get? s.strands pos = some x := hs
  simp [State.releaseGather, State.strand?, AMap.get?_mapVals, hs, hx]

/-- A strand at a gather point that none stands before is a candidate again, unless the issue set has come there: that one it joins. -/
theorem State.strand?_releaseGather_of_gathered (hx : x.run = .stalled .gather)
    (hfree : s.gatherBlocked (braidOf pos) 0 x x.regs.pc.clause x.regs.pc.word = false)
    (hset : s.setAt (braidOf pos) x.regs.pc = false) :
    (s.releaseGather (braidOf pos)).strand? pos = some { x with run := .candidate } := by
  have hs : AMap.get? s.strands pos = some x := hs
  simp only [State.releaseGather, State.strand?, AMap.get?_mapVals, hs, Option.map_some]
  rw [if_pos ⟨trivial, hx, hfree, hset⟩]

end

/-! ## Ageing (07 R118) -/

theorem mem_quarterBraids {q d : Nat} : d ∈ quarterBraids q ↔ d / 16 = q := by
  simp only [quarterBraids, List.mem_map, List.mem_range]
  constructor
  · rintro ⟨i, hi, rfl⟩
    omega
  · rintro rfl
    exact ⟨d % 16, by omega, by omega⟩

theorem State.mem_aged_ageBraids {s : State} {b : Nat} {br : Braid} (hb : s.braids.get? b = some br) (hage : 48 ≤ br.unchosen)
    (hset : (s.issueSet b).isSome = true) : b ∈ ((s.ageBraids (b / 16)).quarter (b / 16)).aged := by
  unfold State.ageBraids
  dsimp only
  rw [State.quarter_setQuarter, List.mem_append, List.mem_filter, List.mem_filter]
  by_cases hold : b ∈ (s.quarter (b / 16)).aged
  · exact .inl ⟨hold, hset⟩
  · refine .inr ⟨mem_quarterBraids.2 rfl, ?_⟩
    simp [hold, hset, hb, ageLimit, hage]

/-! ## A fetch looks at the tables alone (02 R25) -/

section
variable {s t : State} (h : SameTables s t)
include h

theorem SameTables.fetch8_eq (core ctx : Nat) (a : DWord) : t.fetch8 core ctx a = s.fetch8 core ctx a := by
  unfold State.fetch8
  simp only [h.parts_eq, h.reachFault_eq, h.seenParts_eq]

theorem SameTables.fetchWords_eq (core ctx n : Nat) (a : DWord) : t.fetchWords core ctx a n = s.fetchWords core ctx a n := by
  induction n generalizing a with
  | zero => rfl
  | succ n ih =>
    unfold State.fetchWords
    simp only [h.fetch8_eq, ih]

theorem SameTables.fetchClause_eq (core ctx : Nat) (a : DWord) : t.fetchClause core ctx a = s.fetchClause core ctx a := by
  unfold State.fetchClause
  simp only [h.fetch8_eq, h.fetchWords_eq]

theorem SameTables.waitMask_eq (core ctx : Nat) (a : DWord) : t.waitMask core ctx a = s.waitMask core ctx a := by
  unfold State.waitMask
  simp only [h.fetch8_eq]

end

theorem State.sameTables_setQuarter (s : State) (q : Nat) (x : Quarter) : SameTables s (s.setQuarter q x) :=
  ⟨rfl, rfl, rfl, rfl, rfl, rfl, rfl, rfl, rfl, rfl, rfl, fun _ => rfl, fun _ => rfl⟩

theorem State.issueSet_setQuarter (s : State) (q : Nat) (x : Quarter) (b : Nat) : (s.setQuarter q x).issueSet b = s.issueSet b := by
  unfold State.issueSet State.mustWait
  simp only [(s.sameTables_setQuarter q x).waitMask_eq]
  rfl

/-! ## The braid chosen (07 R118) -/

/-- Wherever the pointer stands, a list of one braid's number gives that braid. -/
theorem roundRobin_of_only {l : List Nat} {b : Nat} (hb : b ∈ l) (honly : ∀ d ∈ l, d = b) (ptr : Nat) : roundRobin ptr l = some b := by
  unfold roundRobin
  cases hfound : (List.range 16).findSome? fun i => l.find? fun d => d % 16 == (ptr + i) % 16 with
  | none =>
    have hnone := List.findSome?_eq_none_iff.1 hfound ((b + 16 - ptr % 16) % 16) (List.mem_range.2 (Nat.mod_lt _ (by decide)))
    have := List.find?_eq_none.1 hnone b hb
    simp only [beq_iff_eq] at this
    omega
  | some d =>
    obtain ⟨i, -, hd⟩ := List.exists_of_findSome?_eq_some hfound
    exact congrArg some (honly d (List.mem_of_find?_eq_some hd))

theorem roundRobin_nil (ptr : Nat) : roundRobin ptr [] = none := by
  simp [roundRobin]

/-- Of four classes tried from the highest down, the first that gives anything. -/
theorem findSome?_classes {α : Type} {f : Nat → Option α} {n : Nat} {a : α} (hn : n < 4) (habove : ∀ c, n < c → f c = none)
    (hf : f n = some a) : [3, 2, 1, 0].findSome? f = some a := by
  interval_cases n <;> simp [habove, hf]

/-- Among eligible braids none of which is in a handler, with no braid aged, that of the highest class is chosen. -/
theorem State.choose_highest {s : State} {q b : Nat} {br : Braid} {el : List (Nat × Strand)} (haged : (s.quarter q).aged = [])
    (hcalm : ∀ p ∈ el, p.2.handler = false) (hmem : ∃ p ∈ el, p.1 = b) (hb : s.braids.get? b = some br) (hprio : br.prio < 4)
    (hlow : ∀ p ∈ el, p.1 ≠ b → ∃ z, s.braids.get? p.1 = some z ∧ z.prio < br.prio) : ∃ x, s.choose q el = some (b, x) := by
  have hhandlers : el.filter (fun p => p.2.handler) = [] := List.filter_eq_nil_iff.2 fun p hp => by simp [hcalm p hp]
  have hclass : ∀ p ∈ el, ∀ c, ((s.braids.get? p.1).map Braid.prio == some c) = true → c ≤ br.prio ∧ (c = br.prio → p.1 = b) := by
    intro p hp c hc
    rw [beq_iff_eq] at hc
    by_cases hpb : p.1 = b
    · rw [hpb, hb] at hc
      exact ⟨(Option.some.inj hc).ge, fun _ => hpb⟩
    · obtain ⟨z, hz, hlt⟩ := hlow p hp hpb
      rw [hz] at hc
      have := Option.some.inj hc
      exact ⟨by omega, by omega⟩
  have hfind : ∀ ptr, roundRobin ptr ((el.filter fun p => (s.braids.get? p.1).map Braid.prio == some br.prio).map Prod.fst) = some b := by
    refine roundRobin_of_only ?_ fun d hd => ?_
    · obtain ⟨p, hp, rfl⟩ := hmem
      exact List.mem_map_of_mem (List.mem_filter.2 ⟨hp, by rw [hb]; exact beq_self_eq_true _⟩)
    · obtain ⟨p, hp, rfl⟩ := List.mem_map.1 hd
      obtain ⟨hp, hpc⟩ := List.mem_filter.1 hp
      exact (hclass p hp _ hpc).2 rfl
  unfold State.choose
  simp only [haged, hhandlers, List.map_nil, roundRobin_nil]
  refine ⟨_, findSome?_classes hprio (fun c hc => ?_) (congrArg (Option.map _) (hfind _))⟩
  rw [List.filter_eq_nil_iff.2 fun p hp hpc => Nat.not_le.2 hc (hclass p hp c hpc).1, List.map_nil, roundRobin_nil,
    Option.map_none]

/-! ## The issue set that begins (07 R118, 02 R25) -/

/-- With no braid of the quarter unchosen for 48 rounds, and none aged, ageing changes nothing. -/
theorem State.ageBraids_of_young {s : State} {q : Nat} (haged : (s.quarter q).aged = [])
    (hyoung : ∀ d y, d ∈ quarterBraids q → s.braids.get? d = some y → y.unchosen < 48) :
    s.ageBraids q = s.setQuarter q (s.quarter q) := by
  have hnew : ∀ old : List Nat, ((quarterBraids q).filter fun d =>
      !old.contains d && (s.issueSet d).isSome && ((s.braids.get? d).any fun br => decide (ageLimit ≤ br.unchosen))) = [] := by
    refine fun old => List.filter_eq_nil_iff.2 fun d hd hold => ?_
    simp only [Bool.and_eq_true, Option.any_eq_true, decide_eq_true_eq] at hold
    obtain ⟨-, y, hy, hlimit⟩ := hold
    exact Nat.not_le.2 (hyoung d y hd hy) hlimit
  unfold State.ageBraids
  dsimp only
  rw [hnew, List.append_nil, show (s.quarter q).aged.filter (fun d => (s.issueSet d).isSome) = (s.quarter q).aged by rw [haged]; rfl]

/-- The eligible braids of a quarter, each with a strand of its issue set. -/
def State.eligibles (s : State) (q : Nat) : List (Nat × Strand) :=
  (quarterBraids q).filterMap fun d => (s.issueSet d).map fun p => (d, p.2)

theorem State.mem_eligibles {s : State} {q d : Nat} {y : Strand} :
    (d, y) ∈ s.eligibles q ↔ d ∈ quarterBraids q ∧ ∃ n, s.issueSet d = some (n, y) := by
  simp only [State.eligibles, List.mem_filterMap, Option.map_eq_some_iff, Prod.mk.injEq, Prod.exists]
  constructor
  · rintro ⟨d', hd, n, y', hset, rfl, rfl⟩
    exact ⟨hd, n, hset⟩
  · rintro ⟨hd, n, hset⟩
    exact ⟨d, hd, n, y, hset, rfl, rfl⟩

/-- A round in which braid b is chosen, and the quarter's pointers go to x: each braid's count of rounds. -/
def State.counted (s : State) (q b : Nat) (x : Quarter) : State :=
  { s.setQuarter q x with
    focus := q, stepping := false
    braids := s.braids.mapVals fun c br =>
      if c / 16 ≠ q then br
      else if c = b ∨ ((s.eligibles q).all fun p => p.1 != c) then { br with unchosen := 0 }
      else { br with unchosen := br.unchosen + 1 } }

theorem State.round_of_chosen {s : State} {q b : Nat} {x : Quarter} {m : BitVec 32} {st : Strand} (hq : q < 1536)
    (hclocks : s.clocksStopped = false) (hcur : (s.quarter q).cur = none) (haged : (s.quarter q).aged = [])
    (hsettled : (quarterBraids q).foldl State.settleBraid s = s)
    (hyoung : ∀ d y, d ∈ quarterBraids q → s.braids.get? d = some y → y.unchosen < 48)
    (hchoose : (s.setQuarter q (s.quarter q)).choose q (s.eligibles q) = some (b, x)) (hset : s.issueSet b = some (m, st)) :
    s.round q = ((s.setQuarter q (s.quarter q)).counted q b x).startIssue b m st := by
  have heligible : (s.setQuarter q (s.quarter q)).eligibles q = s.eligibles q := by
    simp only [State.eligibles, State.issueSet_setQuarter]
  rw [State.round, if_neg (by simp [hcur, hclocks, hq]), hsettled]
  dsimp only
  rw [State.ageBraids_of_young haged hyoung]
  rw [← heligible] at hchoose
  unfold State.eligibles at hchoose
  rw [hchoose]
  dsimp only
  rw [State.issueSet_setQuarter, hset]
  rfl

/-- A strand of the braid when the lanes of m begin the clause at a: those stand at word 1, and no parked one watches them. -/
def Strand.atBegin (m : BitVec 32) (a : DWord) (pos : Nat) (y : Strand) : Strand :=
  if m.getLsbD (laneOf pos) then { y with regs := { y.regs with pc := ⟨a, 1⟩ } }
  else match y.run with
    | .parked w => { y with run := .parked (w &&& ~~~m) }
    | _ => y

theorem State.startIssue_of_fetched {s : State} {b : Nat} {m : BitVec 32} {st : Strand} {c : Clause}
    (hfetch : s.fetchClause (b / 64) (s.ctxNum st) st.regs.pc.clause = .ok c) (hword : st.regs.pc.word = 0) :
    s.startIssue b m st = ((s.mapBraid b (Strand.atBegin m st.regs.pc.clause)).slackReturn b).setCur
      ⟨b, m, st.regs.pc.clause, c.words, 1⟩ := by
  unfold State.startIssue
  dsimp only
  rw [hfetch]
  dsimp only
  rw [if_neg (by simp [resumable, hword]), if_pos hword]
  rfl

theorem State.cur_quarter_setCur {s : State} {q : Nat} (hfocus : s.focus = q) (h : s.stepping = false) (x : Issue) :
    ((s.setCur x).quarter q).cur = some x := by
  rw [State.setCur, hfocus, State.quarter_setQuarter, if_neg (by simp [h])]

/-- A set at the start of a clause that can be fetched begins at word 1. -/
theorem State.startIssue_gives {s : State} {q b : Nat} {m : BitVec 32} {st : Strand} {c : Clause} (hfocus : s.focus = q)
    (hstep : s.stepping = false) (hfetch : s.fetchClause (b / 64) (s.ctxNum st) st.regs.pc.clause = .ok c)
    (hword : st.regs.pc.word = 0) :
    ((s.startIssue b m st).quarter q).cur = some ⟨b, m, st.regs.pc.clause, c.words, 1⟩ ∧ (s.startIssue b m st).mem = s.mem ∧
      (s.startIssue b m st).braids = s.braids ∧
      ∀ l y, l < 32 → m.getLsbD l = true → s.strand? (posOf b l) = some y → y.run = .candidate →
        (s.startIssue b m st).strand? (posOf b l) = some { y with regs := { y.regs with pc := ⟨st.regs.pc.clause, 1⟩ } } := by
  rw [State.startIssue_of_fetched hfetch hword]
  refine ⟨State.cur_quarter_setCur hfocus hstep _, rfl, rfl, fun l y hl hm hy hrun => ?_⟩
  refine State.strand?_slackReturn_of_candidate ?_ b hrun
  rw [State.strand?_mapBraid, hy, Option.map_some, if_pos (braidOf_posOf hl), Strand.atBegin, laneOf_posOf hl, if_pos hm]

theorem State.get?_braids_counted_self {s : State} {q b : Nat} {x : Quarter} {br : Braid} (hb : s.braids.get? b = some br)
    (hbq : b / 16 = q) :
    (s.counted q b x).braids.get? b = some { br with unchosen := 0 } := by
  rw [State.counted, AMap.get?_mapVals, hb, Option.map_some, if_neg (not_not_intro hbq), if_pos (.inl rfl)]

theorem State.get?_braids_counted_other {s : State} {q b d : Nat} {x : Quarter} {z : Braid} {n : BitVec 32} {y : Strand}
    (hz : s.braids.get? d = some z) (hd : d ∈ quarterBraids q) (hdb : d ≠ b) (hn : s.issueSet d = some (n, y)) :
    (s.counted q b x).braids.get? d = some { z with unchosen := z.unchosen + 1 } := by
  have hcandidate : ¬ (d = b ∨ ((s.eligibles q).all fun p => p.1 != d) = true) := by
    rintro (h | h)
    · exact hdb h
    · exact absurd (List.all_eq_true.1 h (d, y) (State.mem_eligibles.2 ⟨hd, n, hn⟩)) (by simp)
  rw [State.counted, AMap.get?_mapVals, hz, Option.map_some, if_neg (not_not_intro (mem_quarterBraids.1 hd)), if_neg hcandidate]

theorem State.sameTables_counted (s : State) (q b : Nat) (x : Quarter) : SameTables s (s.counted q b x) :=
  ⟨rfl, rfl, rfl, rfl, rfl, rfl, rfl, rfl, rfl, rfl, rfl, fun _ => rfl, fun _ => rfl⟩

/-! ## A gathered strand where the issue set stands -/

/-- Lane 0 is stalled at the gather point at which an issue set of its braid stands. -/
def gatheredAtSet : State :=
  { State.reset with
    strands := [(0, { (default : Strand) with run := .stalled .gather, regs := { (default : Regs) with pc := ⟨0, 1⟩ } })]
    quarters := [(0, { Quarter.idle with cur := some ⟨0, 1, 0, [0], 1⟩ })] }

theorem gatheredAtSet_stays : ∀ t, exec (.gatherPointRelease 0) gatheredAtSet = .next t →
    (t.strand? 0).map Strand.run = some (.stalled .gather) := by
  intro t ht
  obtain rfl := Host.Outcome.next.inj ht
  decide +kernel

end Sys2Proof.Machine

namespace Sys2Proof
open Sys2Proof.Machine Sys2Proof.Claims

theorem roundChoosesHighestClass : RoundChoosesHighestClass := by
  refine ⟨fun s q hcur => ?_, ?_⟩
  · refine (exec_schedulerRound ..).trans (congrArg Host.Outcome.next ?_)
    rw [State.round, if_pos (by simp [hcur])]
  intro s q b br m st c hq hclocks hcur haged hsettled hbq hb hprio hset hcalm hyoung hlow hfetch hword
  have hbmem : b ∈ quarterBraids q := mem_quarterBraids.2 hbq
  have hel : ∀ p ∈ s.eligibles q, p.2.handler = false ∧ (p.1 ≠ b → ∃ z, s.braids.get? p.1 = some z ∧ z.prio < br.prio) := by
    rintro ⟨d, y⟩ hp
    obtain ⟨hd, n, hn⟩ := State.mem_eligibles.1 hp
    by_cases hdb : d = b
    · subst hdb
      rw [hset] at hn
      obtain ⟨-, rfl⟩ := Prod.mk.inj (Option.some.inj hn)
      exact ⟨hcalm, fun h => absurd rfl h⟩
    · obtain ⟨hy, hz⟩ := hlow d n y hd hdb hn
      exact ⟨hy, fun _ => hz⟩
  obtain ⟨x, hchoose⟩ := State.choose_highest (s := s.setQuarter q (s.quarter q)) (q := q) (by rw [State.quarter_setQuarter]; exact haged)
    (fun p hp => (hel p hp).1) ⟨(b, st), State.mem_eligibles.2 ⟨hbmem, m, hset⟩, rfl⟩ hb hprio fun p hp => (hel p hp).2
  have htables := (s.sameTables_setQuarter q (s.quarter q)).trans (State.sameTables_counted _ q b x)
  have hround := State.round_of_chosen hq hclocks hcur haged hsettled hyoung hchoose hset
  obtain ⟨hcur', hmem, hbraids, hstrands⟩ := State.startIssue_gives (m := m) (s := (s.setQuarter q (s.quarter q)).counted q b x) rfl rfl
    ((htables.fetchClause_eq ..).trans hfetch) hword
  rw [← hround] at hcur' hmem hbraids hstrands
  refine ⟨_, exec_schedulerRound .., hcur', hmem.trans htables.mem, ?_, ?_, hstrands⟩
  · rw [hbraids]
    exact State.get?_braids_counted_self hb hbq
  · intro d n y z hd hdb hn hz
    rw [hbraids]
    exact State.get?_braids_counted_other hz hd hdb ((State.issueSet_setQuarter ..).trans hn)

theorem braidsAge : BraidsAge := by
  intro s b br hb
  refine ⟨fun hage hset => ?_, fun hyoung => ?_⟩
  · have hold : ((s.braids.get? b).any fun br => decide (ageLimit ≤ br.unchosen)) = true := by simp [hb, ageLimit, hage]
    refine ⟨_, (exec_braidAged ..).trans (congrArg Host.Outcome.next (if_pos hold)), State.mem_aged_ageBraids hb hage hset, rfl⟩
  · have hnot : ¬ ((s.braids.get? b).any fun br => decide (ageLimit ≤ br.unchosen)) = true := by
      rw [hb, Option.any_some, decide_eq_true_eq]
      exact Nat.not_le.2 hyoung
    exact (exec_braidAged ..).trans (congrArg Host.Outcome.next (if_neg hnot))

/-- Refutes O37: in `gatheredAtSet` nothing stands before the point, but the issue set has come there, so the gathered strand waits to
join that set (07 R137) where the statement has it a candidate. The rest holds: `roundChoosesHighestClass`, `braidsAge`, parked strands
by `State.strand?_slackReturn_of_parked`, gathered ones where no set stands by `State.strand?_releaseGather_of_gathered`, and candidates
by `State.strand?_releaseGather_of_candidate`. -/
theorem not_schedulerRounds : ¬ Obligations.SchedulerRounds := by
  rintro ⟨-, -, h⟩
  obtain ⟨-, -, hgather, -⟩ := h gatheredAtSet 0 0
    { (default : Strand) with run := .stalled .gather, regs := { (default : Regs) with pc := ⟨0, 1⟩ } } rfl (by decide)
  obtain ⟨t, ht, hstrand, -⟩ := hgather rfl (by decide +kernel)
  have hrun := gatheredAtSet_stays t ht
  rw [show t.strand? 0 = _ from hstrand] at hrun
  exact absurd hrun (by decide)

end Sys2Proof
end
